-- ==== Sys2Proof/Word.lean ====
section
/-! DEFINITION. The word types of the DX-F9 (R1, R2): bytes, instruction words, 32-bit lane
registers and 64-bit uniform registers. Numbers that the manual never shifts or masks are `Nat`. -/

namespace Sys2Proof

/-- One byte. -/
abbrev Byte := BitVec 8
/-- A 32-bit word: an instruction word, or a lane register (R123, R185). -/
abbrev Word := BitVec 32
/-- A 64-bit word: a uniform register, an address, a state register (R127, R419). -/
abbrev DWord := BitVec 64

/-- One bit as a Bool, `w[i]`. -/
def bitAt {n : Nat} (w : BitVec n) (i : Nat) : Bool := w.getLsbD i

/-- A bit field `w[lo + len - 1 : lo]` of a 64-bit word as a number. -/
def fieldOf {n : Nat} (w : BitVec n) (lo len : Nat) : Nat := (w.extractLsb' lo len).toNat

/-- A word assembled from little-endian bytes (R2). -/
def leWord : List Byte → Nat
  | [] => 0
  | b :: bs => b.toNat + 256 * leWord bs

/-- The `n` little-endian bytes of a number (R2). -/
def leBytes : Nat → Nat → List Byte
  | 0, _ => []
  | n + 1, v => BitVec.ofNat 8 v :: leBytes n (v / 256)

end Sys2Proof
end

