-- ==== Sys2Proof/Config.lean ====
section
/-! DEFINITION. The values that the manual leaves open. Each is an opaque constant, so that nothing
proved about the machine can rest on a value of it. -/

namespace Sys2Proof.Config

/-- The result of a special function on an input, within the bounds of R240: the manual fixes no
value between them. The first argument names the function (0 FRCP, 1 FRSQ, 2 FEXP2, 3 FLOG2, 4 FSIN,
5 FCOS, 6 FTANH). DEDUCED, log entry 11. -/
opaque special : Nat → Word → Word

/-- The set of an L2 in which a line stands, by its physical address / 128 (R153): the manual does not
say how lines are spread over the 65,536 sets. DESIGN CHOICE, log entry 15. -/
opaque l2Set : Nat → BitVec 16

/-- The window base of a window of a team, by its instance, its team index and the window (R124, R125): the
manual does not say where a team's windows stand in the register file. DESIGN CHOICE, log entry 14. -/
opaque windowBase : Nat → Nat → Nat → BitVec 12

/-- Which row of a WPST is the last at a byte that several rows reach, by a fresh number and the element
(R393): the manual gives no order among the rows of one copy. DESIGN CHOICE, log entry 12. -/
opaque lastRow : Nat → Nat → BitVec 4

/-- The fibre id in the record of a trap whose mask names no lane that holds a fibre of the group, by a fresh
number (R104, R252): the manual gives the field the fibre of the lowest lane in the mask. DESIGN CHOICE, log entry 13. -/
opaque vacantFid : Nat → Word

/-- The set of a core's L1 in which a line stands, by its physical address / 128 (R151): the manual does not say
how lines are spread over the 256 sets. DESIGN CHOICE, log entry 15. -/
opaque l1Set : Nat → BitVec 8

/-- The public key fused at manufacture, by its two coordinates (R59): the manual does not give the key. DESIGN CHOICE, log entry 16. -/
opaque fusedKey : Nat × Nat

/-- The measurement of the security controller's ROM (R60, index 1). DESIGN CHOICE, log entry 16. -/
opaque romMeasurement : BitVec 384

/-- The certificate chain of the device (R60), whose content the manual does not give. DESIGN CHOICE, log entry 16. -/
opaque certChain : List Byte

/-- The signature of a CHALLENGE response, by a fresh number (R60). DESIGN CHOICE, log entry 16. -/
opaque proof : Nat → BitVec 768

/-- Dexotte's PCI vendor identifier (R62), which the manual does not give. DESIGN CHOICE, log entry 88. -/
opaque vendorId : BitVec 16

/-- A byte of the Hamper that a context does not hold, as it stands when its team is put back (R98, R102): by the free value
taken and the place. DESIGN CHOICE, log entry 91. -/
opaque lostHamper : Nat → Nat → BitVec 8

/-- What a read of the error log gives once its function has failed (R18), by the offset: poisoned data, which a reader of
state words carries no mark for. DESIGN CHOICE, log entry 97. -/
opaque failedLog : Nat → BitVec 64

end Sys2Proof.Config
end

