-- ==== Sys2Proof/Syntax.lean ====
section
/-! DEFINITION. The syntax of the DX-F9: the instruction words of R187 to R199 as structures of
their fields, and the one inductive `Instr` with a
constructor for each row of the opcode table. A row without an encoding is an event that the device
or another agent performs; its operands are an input to the machine and stand in State (`Request`). -/

namespace Sys2Proof

/-- MODA, the arithmetic prefix (R196). -/
structure ModA where
  na : Bool
  nb : Bool
  nc : Bool
  aa : Bool
  ab : Bool
  sat : Bool
  clamp : BitVec 2
  scale : BitVec 6
  rnd : BitVec 3
  deriving DecidableEq, Repr

/-- MODX, the prefix of a third source, a full guard and the .U form (R197). -/
structure ModX where
  hc : Bool
  c : BitVec 6
  hg : Bool
  gn : Bool
  gs : Bool
  gi : BitVec 6
  ub : Bool
  deriving DecidableEq, Repr

/-- MODM, the memory prefix (R198). -/
structure ModM where
  w : BitVec 3
  scope : BitVec 2
  ord : BitVec 2
  hint : BitVec 2
  aop : BitVec 4
  disp : BitVec 11
  deriving DecidableEq, Repr

/-- The prefixes that stand before an instruction word and the literal that follows it (R185). -/
structure Mods where
  a : Option ModA := none
  x : Option ModX := none
  m : Option ModM := none
  lit : Option Word := none
  deriving DecidableEq, Repr

/-- Three-operand words, L3 and Y3 (R187, R192): `f` is the field [5:3] (guard, selector or
function) and `s` the stall count. -/
structure W3 where
  d : BitVec 6
  a : BitVec 6
  b : BitVec 6
  f : BitVec 3
  s : BitVec 3
  m : Mods := {}
  deriving DecidableEq, Repr

/-- Immediate words, LI and YI (R187, R192). -/
structure WI where
  d : BitVec 6
  a : BitVec 6
  imm : BitVec 9
  s : BitVec 3
  m : Mods := {}
  deriving DecidableEq, Repr

/-- Compare words, LC and YC (R187, R192); in YC the upper three bits of `d` are the reserved
field [23:21]. -/
structure WC where
  d : BitVec 6
  a : BitVec 6
  b : BitVec 6
  cond : BitVec 3
  s : BitVec 3
  m : Mods := {}
  deriving DecidableEq, Repr

/-- Branch words, YB (R192, R193). -/
structure WB where
  n : Bool
  pred : BitVec 6
  off : BitVec 17
  m : Mods := {}
  deriving DecidableEq, Repr

/-- Engine words, YE (R192, R194). -/
structure WE where
  d : BitVec 6
  a : BitVec 6
  b : BitVec 6
  sub : BitVec 6
  m : Mods := {}
  deriving DecidableEq, Repr

/-- The END trailer (R199): bits [23:21] and three 7-bit names. -/
structure WEnd where
  z : BitVec 3
  n0 : BitVec 7
  n1 : BitVec 7
  n2 : BitVec 7
  m : Mods := {}
  deriving DecidableEq, Repr


/-- The instructions of the DX-F9: one constructor per row of the opcode table. DESIGN CHOICE, log entry 71. -/
inductive Instr where
  /-- NOP (R214). -/
  | nop (w : W3)
  /-- IADD_I32 (R230). -/
  | iaddI32 (w : W3)
  /-- IADD_I32_LI (R230). -/
  | iaddI32Li (w : WI)
  /-- ISUB_I32 (R230). -/
  | isubI32 (w : W3)
  /-- IMUL_I32 (R230). -/
  | imulI32 (w : W3)
  /-- IMUL_I32_LI (R230). -/
  | imulI32Li (w : WI)
  /-- IMULH_I32 (R230). -/
  | imulhI32 (w : W3)
  /-- IMULH_N32 (R230). -/
  | imulhN32 (w : W3)
  /-- IMAD_I32 (R230). -/
  | imadI32 (w : W3)
  /-- IABS_I32 (R230). -/
  | iabsI32 (w : W3)
  /-- IDIV_I32 (R231). -/
  | idivI32 (w : W3)
  /-- IDIV_N32 (R231). -/
  | idivN32 (w : W3)
  /-- IREM_I32 (R231). -/
  | iremI32 (w : W3)
  /-- IREM_N32 (R231). -/
  | iremN32 (w : W3)
  /-- IMIN_I32 (R230). -/
  | iminI32 (w : W3)
  /-- IMIN_N32 (R230). -/
  | iminN32 (w : W3)
  /-- IMAX_I32 (R230). -/
  | imaxI32 (w : W3)
  /-- IMAX_N32 (R230). -/
  | imaxN32 (w : W3)
  /-- AND (R232). -/
  | andL (w : W3)
  /-- AND_LI (R232). -/
  | andLi (w : WI)
  /-- OR (R232). -/
  | orL (w : W3)
  /-- OR_LI (R232). -/
  | orLi (w : WI)
  /-- XOR (R232). -/
  | xorL (w : W3)
  /-- XOR_LI (R232). -/
  | xorLi (w : WI)
  /-- SHL (R232). -/
  | shl (w : W3)
  /-- SHL_LI (R232). -/
  | shlLi (w : WI)
  /-- SHR (R232). -/
  | shr (w : W3)
  /-- SHR_LI (R232). -/
  | shrLi (w : WI)
  /-- SAR (R232). -/
  | sar (w : W3)
  /-- SAR_LI (R232). -/
  | sarLi (w : WI)
  /-- ROTL (R232). -/
  | rotl (w : W3)
  /-- ROTL_LI (R232). -/
  | rotlLi (w : WI)
  /-- POPC (R232). -/
  | popc (w : W3)
  /-- CLZ (R232). -/
  | clz (w : W3)
  /-- BREV (R232). -/
  | brev (w : W3)
  /-- BFX_I32 (R233). -/
  | bfxI32 (w : W3)
  /-- BFX_N32 (R233). -/
  | bfxN32 (w : W3)
  /-- BFI (R233). -/
  | bfi (w : W3)
  /-- PERM (R233). -/
  | perm (w : W3)
  /-- SEL (R234). -/
  | sel (w : W3)
  /-- MOV (R234). -/
  | mov (w : W3)
  /-- MOV_LI (R234). -/
  | movLi (w : WI)
  /-- MOV_U (R234). -/
  | movU (w : W3)
  /-- ICMP_I32 (R234). -/
  | icmpI32 (w : WC)
  /-- ICMP_N32 (R234). -/
  | icmpN32 (w : WC)
  /-- FADD_F32 (R237). -/
  | faddF32 (w : W3)
  /-- FSUB_F32 (R237). -/
  | fsubF32 (w : W3)
  /-- FMUL_F32 (R237). -/
  | fmulF32 (w : W3)
  /-- FMULZ_F32 (R238). -/
  | fmulzF32 (w : W3)
  /-- FFMA_F32 (R237). -/
  | ffmaF32 (w : W3)
  /-- FMIN_F32 (R239). -/
  | fminF32 (w : W3)
  /-- FMAX_F32 (R239). -/
  | fmaxF32 (w : W3)
  /-- FCMP_F32 (R239). -/
  | fcmpF32 (w : WC)
  /-- FCLASS_F32 (R239). -/
  | fclassF32 (w : W3)
  /-- FDIV_F32 (R237). -/
  | fdivF32 (w : W3)
  /-- FRCP_F32 (R240). -/
  | frcpF32 (w : W3)
  /-- FRSQ_F32 (R240). -/
  | frsqF32 (w : W3)
  /-- FSQRT_F32 (R237). -/
  | fsqrtF32 (w : W3)
  /-- FEXP2_F32 (R240). -/
  | fexp2F32 (w : W3)
  /-- FLOG2_F32 (R240). -/
  | flog2F32 (w : W3)
  /-- FSIN_F32 (R240). -/
  | fsinF32 (w : W3)
  /-- FCOS_F32 (R240). -/
  | fcosF32 (w : W3)
  /-- FTANH_F32 (R240). -/
  | ftanhF32 (w : W3)
  /-- DADD_F64 (R241). -/
  | daddF64 (w : W3)
  /-- DMUL_F64 (R241). -/
  | dmulF64 (w : W3)
  /-- DFMA_F64 (R241). -/
  | dfmaF64 (w : W3)
  /-- HADD2_F16 (R242). -/
  | hadd2F16 (w : W3)
  /-- HADD2_BF16 (R242). -/
  | hadd2BF16 (w : W3)
  /-- HMUL2_F16 (R242). -/
  | hmul2F16 (w : W3)
  /-- HMUL2_BF16 (R242). -/
  | hmul2BF16 (w : W3)
  /-- HFMA2_F16 (R242). -/
  | hfma2F16 (w : W3)
  /-- HFMA2_BF16 (R242). -/
  | hfma2BF16 (w : W3)
  /-- CFMA (R243). -/
  | cfma (w : W3)
  /-- CVT (R244). -/
  | cvt (w : W3)
  /-- RNDP (R245). -/
  | rndp (w : W3)
  /-- PAND (R246). -/
  | pand (w : W3)
  /-- POR (R246). -/
  | por (w : W3)
  /-- PXOR (R246). -/
  | pxor (w : W3)
  /-- PNOT (R246). -/
  | pnot (w : W3)
  /-- PMOVW (R246). -/
  | pmovw (w : W3)
  /-- PLDW (R246). -/
  | pldw (w : W3)
  /-- SHFL (R256). -/
  | shfl (w : W3)
  /-- VOTE (R257). -/
  | vote (w : W3)
  /-- MATCH (R258). -/
  | matchx (w : W3)
  /-- REDX (R259). -/
  | redx (w : W3)
  /-- FREDX (R260). -/
  | fredx (w : W3)
  /-- SCANX (R259). -/
  | scanx (w : W3)
  /-- BCAST (R261). -/
  | bcast (w : W3)
  /-- ELECT (R261). -/
  | elect (w : W3)
  /-- QSCALE (R313). -/
  | qscale (w : W3)
  /-- CVTN_PACK (R314). -/
  | cvtnPack (w : W3)
  /-- CVTN_EXP (R315). -/
  | cvtnExp (w : W3)
  /-- LD (R267). -/
  | ld (w : W3)
  /-- ST (R267). -/
  | st (w : W3)
  /-- LDS (R267). -/
  | lds (w : W3)
  /-- STS (R267). -/
  | sts (w : W3)
  /-- ATOM (R269). -/
  | atom (w : W3)
  /-- ATOMS (R269). -/
  | atoms (w : W3)
  /-- RED (R269). -/
  | red (w : W3)
  /-- CAS (R269). -/
  | cas (w : W3)
  /-- FENCE_T (R271). -/
  | fenceT (w : W3)
  /-- FENCE_D (R271). -/
  | fenceD (w : W3)
  /-- FENCE_S (R271). -/
  | fenceS (w : W3)
  /-- LCPY (R272). -/
  | lcpy (w : W3)
  /-- OPTAW (R397). -/
  | optaw (w : W3)
  /-- SHARD (R398). -/
  | shard (w : W3)
  /-- JMPI (R209). -/
  | jmpi (w : W3)
  /-- CALLI (R209). -/
  | calli (w : W3)
  /-- FORK (R211). -/
  | fork (w : W3)
  /-- FEND (R212). -/
  | fend (w : W3)
  /-- SADD (R247). -/
  | sadd (w : W3)
  /-- SADD_YI (R247). -/
  | saddYi (w : WI)
  /-- SSUB (R247). -/
  | ssub (w : W3)
  /-- SMUL (R247). -/
  | smul (w : W3)
  /-- SMAD (R247). -/
  | smad (w : W3)
  /-- SAND (R247). -/
  | sand (w : W3)
  /-- SAND_YI (R247). -/
  | sandYi (w : WI)
  /-- SOR (R247). -/
  | sor (w : W3)
  /-- SOR_YI (R247). -/
  | sorYi (w : WI)
  /-- SXOR (R247). -/
  | sxor (w : W3)
  /-- SXOR_YI (R247). -/
  | sxorYi (w : WI)
  /-- SSHL (R247). -/
  | sshl (w : W3)
  /-- SSHL_YI (R247). -/
  | sshlYi (w : WI)
  /-- SSHR (R247). -/
  | sshr (w : W3)
  /-- SSHR_YI (R247). -/
  | sshrYi (w : WI)
  /-- SSAR (R247). -/
  | ssar (w : W3)
  /-- SSAR_YI (R247). -/
  | ssarYi (w : WI)
  /-- SMIN_I64 (R247). -/
  | sminI64 (w : W3)
  /-- SMIN_N64 (R247). -/
  | sminN64 (w : W3)
  /-- SMAX_I64 (R247). -/
  | smaxI64 (w : W3)
  /-- SMAX_N64 (R247). -/
  | smaxN64 (w : W3)
  /-- SSEL (R247). -/
  | ssel (w : W3)
  /-- SCMP_I64 (R247). -/
  | scmpI64 (w : WC)
  /-- SCMP_N64 (R247). -/
  | scmpN64 (w : WC)
  /-- SMOV (R247). -/
  | smov (w : W3)
  /-- SMOV_YI (R247). -/
  | smovYi (w : WI)
  /-- SPOPC (R247). -/
  | spopc (w : W3)
  /-- SCLZ (R247). -/
  | sclz (w : W3)
  /-- SLANE (R248). -/
  | slane (w : W3)
  /-- BRA (R207). -/
  | bra (w : WB)
  /-- BR (R207). -/
  | br (w : WB)
  /-- BRG (R207). -/
  | brg (w : WB)
  /-- CALL (R210). -/
  | call (w : WB)
  /-- RET (R210). -/
  | ret (w : W3)
  /-- RJOIN (R213). -/
  | rjoin (w : W3)
  /-- YIELD (R214). -/
  | yield (w : W3)
  /-- END (R199). -/
  | endRun (w : WEnd)
  /-- SEGSET (R215). -/
  | segset (w : W3)
  /-- SEGGET (R215). -/
  | segget (w : W3)
  /-- BAR_INIT (R217). -/
  | barInit (w : WE)
  /-- BAR_ARV (R218). -/
  | barArv (w : WE)
  /-- BAR_WT (R219). -/
  | barWt (w : WE)
  /-- BAR_SYNC (R219). -/
  | barSync (w : WE)
  /-- QPUSH_RES (R220). -/
  | qpushRes (w : WE)
  /-- QPUSH_PUB (R220). -/
  | qpushPub (w : WE)
  /-- QPOP_TAKE (R220). -/
  | qpopTake (w : WE)
  /-- QPOP_REL (R220). -/
  | qpopRel (w : WE)
  /-- QPEEK (R222). -/
  | qpeek (w : WE)
  /-- LAUNCH (R224). -/
  | launch (w : WE)
  /-- LDU (R267). -/
  | ldu (w : W3)
  /-- STU (R267). -/
  | stu (w : W3)
  /-- BCPY (R278). -/
  | bcpy (w : WE)
  /-- GATH (R288). -/
  | gath (w : WE)
  /-- LAYX (R291). -/
  | layx (w : WE)
  /-- WMRD (R294). -/
  | wmrd (w : WE)
  /-- WMWAIT (R295). -/
  | wmwait (w : WE)
  /-- CPYCAN (R296). -/
  | cpycan (w : WE)
  /-- PIN (R292). -/
  | pin (w : WE)
  /-- UNPIN (R293). -/
  | unpin (w : WE)
  /-- HRES (R309). -/
  | hres (w : WE)
  /-- HREL (R310). -/
  | hrel (w : WE)
  /-- HSTAT (R311). -/
  | hstat (w : WE)
  /-- MMA (R321). -/
  | mma (w : WE)
  /-- MMAK (R324). -/
  | mmak (w : WE)
  /-- ACLR (R329). -/
  | aclr (w : WE)
  /-- ALD (R330). -/
  | ald (w : WE)
  /-- AST (R330). -/
  | ast (w : WE)
  /-- ACHK (R331). -/
  | achk (w : WE)
  /-- PAIR (R338). -/
  | pair (w : WE)
  /-- UNPAIR (R344). -/
  | unpair (w : WE)
  /-- MMAP (R340). -/
  | mmap (w : WE)
  /-- GUIDE (R343). -/
  | guide (w : WE)
  /-- MASKP (R350). -/
  | maskp (w : WE)
  /-- MMAM (R351). -/
  | mmam (w : WE)
  /-- TOKPUB (R355). -/
  | tokpub (w : WE)
  /-- TKISSUE (R368). -/
  | tkissue (w : WE)
  /-- TKSTAT (R371). -/
  | tkstat (w : WE)
  /-- TKDROP (R372). -/
  | tkdrop (w : WE)
  /-- TKFEED (R374). -/
  | tkfeed (w : WE)
  /-- TKREDEEM (R383). -/
  | tkredeem (w : WE)
  /-- TKBIND_VER (R388). -/
  | tkbindVer (w : WE)
  /-- TKBIND_OUT (R387). -/
  | tkbindOut (w : WE)
  /-- WPST (R393). -/
  | wpst (w : WE)
  /-- COLL (R401). -/
  | coll (w : WE)
  /-- PUBLISH (R405). -/
  | publish (w : WE)
  /-- PUBLISH_SKIP (R405). -/
  | publishSkip (w : WE)
  /-- STEPRD (R407). -/
  | steprd (w : W3)
  /-- TRAP (R410). -/
  | trap (w : WI)
  /-- ERET (R411). -/
  | eret (w : W3)
  /-- SRD (R412). -/
  | srd (w : W3)
  /-- SWR (R413). -/
  | swr (w : W3)
  /-- ICINV (R414). -/
  | icinv (w : W3)
  /-- COMMIT (R416). -/
  | commit (w : W3)
  /-- TEXIT (R417). -/
  | texit (w : W3)
  /-- BKPT (R410). -/
  | bkpt (w : WI)
  /-- CLK (R418). -/
  | clk (w : W3)
  /-- COLD_RESET (R21). -/
  | coldReset
  /-- PERST_WARM_RESET (R21). -/
  | perstWarmReset
  /-- FUNCTION_LEVEL_RESET (R21). -/
  | functionLevelReset
  /-- TIMESTAMP_TICK (R10). -/
  | timestampTick
  /-- CURRENT_LIMITER_HOLD (R12). -/
  | currentLimiterHold
  /-- GOVERNOR_STEP_DOWN (R13). -/
  | governorStepDown
  /-- GOVERNOR_STEP_UP (R13). -/
  | governorStepUp
  /-- FUNCTION_INIT_COMPLETE (R16). -/
  | functionInitComplete
  /-- TRAIN_TIMEOUT (R17). -/
  | trainTimeout
  /-- LINK_DOWN (R17). -/
  | linkDown
  /-- LINK_RETRAIN_COMPLETE (R17). -/
  | linkRetrainComplete
  /-- LATE_TRAINING (R17). -/
  | lateTraining
  /-- HOST_MEM_ACCESS (R24). -/
  | hostMemAccess
  /-- INTEN_WRITE (R26). -/
  | intenWrite
  /-- INTPEND_CLEAR (R26). -/
  | intpendClear
  /-- MSC_FLUSH (R27). -/
  | mscFlush
  /-- MSC_RESIZE (R31). -/
  | mscResize
  /-- MSC_FLUSH_COMPLETE (R27). -/
  | mscFlushComplete
  /-- MSC_MISS_FILL (R29). -/
  | mscMissFill
  /-- FILL_LINE_SNOOP (R33). -/
  | fillLineSnoop
  /-- FILL_LINE_REREAD (R33). -/
  | fillLineReread
  /-- RING_ENABLE (R354). -/
  | ringEnable
  /-- RING_ENGINE_PUBLISH (R355). -/
  | ringEnginePublish
  /-- RING_TAIL_POLL (R357). -/
  | ringTailPoll
  /-- FLIT_CRC_FAIL (R43). -/
  | flitCrcFail
  /-- KORBEN_PACKET_RECEIVE (R41). -/
  | korbenPacketReceive
  /-- TOPO_WRITE (R45). -/
  | topoWrite
  /-- OWNER_WRITE (R45). -/
  | ownerWrite
  /-- KEY_EVICT (R58). -/
  | keyEvict
  /-- KEY_EVICT_COMPLETE (R58). -/
  | keyEvictComplete
  /-- GET_VERSION (R60). -/
  | getVersion
  /-- GET_CAPABILITIES (R60). -/
  | getCapabilities
  /-- NEGOTIATE_ALGORITHMS (R60). -/
  | negotiateAlgorithms
  /-- GET_DIGESTS (R60). -/
  | getDigests
  /-- GET_CERTIFICATE (R60). -/
  | getCertificate
  /-- CHALLENGE (R60). -/
  | challenge
  /-- GET_MEASUREMENTS (R60). -/
  | getMeasurements
  /-- KEY_EXCHANGE (R60). -/
  | keyExchange
  /-- FINISH (R60). -/
  | finish
  /-- STATE_READ (R62). -/
  | stateRead
  /-- STATE_WRITE (R62). -/
  | stateWrite
  /-- LOG_READ (R62). -/
  | logRead
  /-- LOG_ACK (R68). -/
  | logAck
  /-- KEY_LOAD (R63). -/
  | keyLoad
  /-- WARM_RESET (R64). -/
  | warmReset
  /-- FLOOR_RAISE (R64). -/
  | floorRaise
  /-- GRAPH_BIND (R76). -/
  | graphBind
  /-- GRAPH_BIND_COMPLETE (R76). -/
  | graphBindComplete
  /-- GRAPH_UNBIND (R76). -/
  | graphUnbind
  /-- AGING_INTERVAL (R82). -/
  | agingInterval
  /-- INSTANCE_DISPATCH (R83). -/
  | instanceDispatch
  /-- TEAM_PLACE (R85). -/
  | teamPlace
  /-- INSTANCE_COMPLETE (R79). -/
  | instanceComplete
  /-- PCTL_EN_WRITE (R96). -/
  | pctlEnWrite
  /-- PREEMPT (R95). -/
  | preempt
  /-- RESUME (R95). -/
  | resume
  /-- RESET (R95). -/
  | reset
  /-- PARTITION_HALTED (R97). -/
  | partitionHalted
  /-- CONTEXT_SAVE_COMPLETE (R95). -/
  | contextSaveComplete
  /-- RESTORE_START (R95). -/
  | restoreStart
  /-- CONTEXT_RESTORE_COMPLETE (R95). -/
  | contextRestoreComplete
  /-- PARTITION_RESET_COMPLETE (R95). -/
  | partitionResetComplete
  /-- FAULT_RESOLVE (R108). -/
  | faultResolve
  /-- FAULT_ENTRY_WRITE (R107). -/
  | faultEntryWrite
  /-- STORE_BUFFER_DRAIN (R114). -/
  | storeBufferDrain
  /-- TEAM_RELAUNCH (R116). -/
  | teamRelaunch
  /-- RUN_FETCH (R131). -/
  | runFetch
  /-- FORM_GROUP (R137). -/
  | formGroup
  /-- PARK_PARTIAL_GROUP (R138). -/
  | parkPartialGroup
  /-- PAGE_WALK (R163). -/
  | pageWalk
  /-- TLB_INVALIDATE (R164). -/
  | tlbInvalidate
  /-- TLB_INVALIDATE_COMPLETE (R164). -/
  | tlbInvalidateComplete
  /-- COPY_UNIT_LAND (R280). -/
  | copyUnitLand
  /-- MATRIX_K_STEP (R325). -/
  | matrixKStep
  /-- COLLECTIVE_COMPLETE (R402). -/
  | collectiveComplete
  /-- STEP_WRITE (R403). -/
  | stepWrite
  /-- REGISTER_WRITE (R413). -/
  | registerWrite
  /-- SOFT_ERROR (R121). -/
  | softError
  /-- RESULT_WRITE (R133). -/
  | resultWrite
  /-- ACCESS_PERFORMED (R170). -/
  | accessPerformed
  /-- CXL_CACHE_SNOOP (R149). -/
  | cxlCacheSnoop
  /-- CONFIGURATION_SPACE_WRITE (R23). -/
  | configurationSpaceWrite
  /-- DYNAMIC_CAPACITY_EVENT (R23). -/
  | dynamicCapacityEvent
  deriving DecidableEq, Repr

end Sys2Proof
end

