-- ==== Sys2Proof/Machine/State.lean ====
section
/-! DEFINITION. The state of a DX-F9 as plain data: its memories and caches, its state registers,
its partitions, instances and resident teams with their groups, fibres and engines, the host side of
its ports, and the inputs that say which agent acts next. -/

namespace Sys2Proof.Machine

/-- A sparse map from numbers, in one canonical form: keys strictly rising, and no entry equal to
what an unlisted key reads as. -/
abbrev Sparse (α : Type) := List (Nat × α)

/-- Memory by physical address: an unlisted byte reads 0 (R17 for HBM; a log entry for the rest). DESIGN CHOICE, log entry 4. -/
abbrev Memory := List Host.Cell

/-- Who writes a state register (R61, R75, R413): the secure world, the non-secure world of one
partition, or a non-secure command on the management path. -/
inductive Writer where
  | secure
  | part (k : Nat)
  | mgmt
  deriving DecidableEq, Repr

/-- A host CXL.mem access (R24): the host physical address, the bytes written or the count read,
and the poison indication that a write may carry. -/
structure HostReq where
  write : Bool
  hpa : Nat
  len : Nat
  data : List Byte
  poison : Bool
  deriving DecidableEq, Repr

/-- A Korben packet as it arrives (R40, R41, R48): the destination device, the virtual address and
partition the remote store names, the bytes with their enables, the poison mask, and for a RED its
operation code, whether it is 64 bits wide and whether its launch has FTZ. -/
structure Packet where
  link : Nat
  dest : Nat
  part : Nat
  addr : Nat
  data : List (Option Byte)
  poison : BitVec 8
  red : Option (Nat × Bool × Bool)
  deriving DecidableEq, Repr

/-- What another ring position contributes to a collective of this device (R50, R398 to R404): what it
agrees on, and the bytes that it sends here with a poison mark for each; the link over which they arrive, and a link
elsewhere whose failure poisoned them (R43). `kind` is 0 for COLL and 1 for
PUBLISH, `form` the form of a COLL or the SKIP bit, `shape` the shape fields or NBLK. -/
structure Contribution where
  pos : Nat
  kind : Nat
  form : Nat
  shape : List Nat
  step : DWord := 0
  ver : Word := 0
  hash : DWord := 0
  index : Nat
  data : List Byte := []
  poison : List Bool := []
  via : Option Nat := none
  failed : Option Nat := none
  deriving DecidableEq, Repr

/-- Where a soft error strikes (R119, R121). The flag says that the word can be corrected. A word of the
accumulator is numbered tile × 288 + word, the 32 checksum words after the 256 elements. DEDUCED, log entry 22. -/
inductive ErrorSite where
  | memory (pa : Nat) (dirty : Bool) (correctable : Bool)
  | register (core slot wid reg : Nat) (flip : Word) (detected : Bool)
  | predicate (core slot wid : Nat) (flip : DWord)
  | scratch (core slot off : Nat) (correctable : Bool)
  | tile (core slot : Nat) (word : Nat) (correctable : Bool)
  | hamper (core slot off : Nat) (correctable : Bool)
  | attic (core slot fid : Nat) (correctable : Bool)
  | storeBuffer (core slot entry : Nat) (correctable : Bool)
  | uniform (core slot group : Nat)   -- the two executions of a group's next uniform instruction differ (R109)
  deriving DecidableEq, Repr

/-- A write to a port's configuration space (R23): a decoder of port 0, an option enable of a port, a vector
mask of port 0 or another register. -/
inductive ConfigWrite where
  | decoder (i : Nat) (base size dpa : Nat) (en : Bool)
  | option (port i : Nat) (en : Bool)
  | vectorMask (v : Nat) (mask : Bool)
  | other (off : Nat) (v : Word)
  deriving DecidableEq, Repr

/-- The operands of an event that another agent performs: the input to a row without an encoding.
An event reads the fields it needs. DESIGN CHOICE, log entry 18. DESIGN CHOICE, log entry 71. -/
structure Request where
  k : Nat := 0            -- partition, ring, link, port, slot or function
  e : Nat := 0            -- edge, node, register index, count
  core : Nat := 0
  slot : Nat := 0
  num : Nat := 0
  writer : Writer := .secure
  addr : DWord := 0
  value : DWord := 0
  ok : Bool := false      -- the outcome of a training or a check; a command inside a session
  bytes : List Byte := []
  host : Option HostReq := none
  packet : Option Packet := none
  contribs : List Contribution := []
  site : Option ErrorSite := none
  config : Option ConfigWrite := none
  header : Option Word := none   -- a vendor command's 4-byte MCTP header (R62); none on the mailbox
  deriving DecidableEq, Repr

/-- What acts next: time passes, a group issues, an event happens, or a cache gives up an entry that
it may keep no longer. The agenda of the state is a list of these. DESIGN CHOICE, log entry 1. -/
inductive Turn where
  | clocks (n : Nat)
  | group (core slot num : Nat)
  | half (core slot num : Nat)                                 -- the first halves of a 16-byte load are read (R169)
  | late (core slot num : Nat)                                 -- a plain load passes and may be performed again (R174)
  | again (core slot num n : Nat)                              -- and is, as long as nothing has used its value (R174)
  | event (i : Instr) (r : Request)
  | evictL1 (core line : Nat)
  | evictCode (core line : Nat)
  | evictTlb (n : Nat)
  | evictPool (line : Nat)
  | evictL2 (line : Nat)                                       -- a dirty line is written back (R153)
  | pool (write : Bool) (pa n : Nat) (data : List Byte)        -- another agent on the pool (R168)
  deriving DecidableEq, Repr

/-- A launch record as checked (R69). -/
structure Launch where
  entry : DWord := 0
  handler : DWord := 0
  args : DWord := 0
  image : DWord := 0
  teams : Nat := 1
  fpt : Nat := 1
  width : Nat := 8        -- W, 8, 16, 32 or 64
  window : Nat := 16      -- 16, 32 or 48 registers
  scratch : Nat := 0      -- KiB
  acc : Nat := 0
  hamper : Nat := 0       -- KiB
  prot : Bool := false
  contain : Bool := false
  chk : Bool := false
  det : Bool := false
  ftz : Bool := false
  dztrap : Bool := false
  paircore : Bool := false
  prio : Nat := 0
  part : Nat := 0
  ins : List Nat := [0xFFFF, 0xFFFF, 0xFFFF, 0xFFFF]
  outs : List Nat := [0xFFFF, 0xFFFF, 0xFFFF]
  deriving DecidableEq, Repr

/-- A register that a fixed-latency instruction writes (R133). -/
inductive Loc where
  | v (wid r : Nat)
  | q (wid i : Nat)
  | last (wid : Nat)
  | p (wid i : Nat)
  | s (i : Nat)
  | g (i : Nat)
  deriving DecidableEq, Repr

/-- A result in flight: the register's contents before the write, and the clock from which a reader
sees the write. `named` marks a result that END names (R135). DESIGN CHOICE, log entry 7. -/
structure Early where
  loc : Loc
  old : DWord
  due : Nat
  named : Bool := false
  deriving DecidableEq, Repr

/-- Why a group's next instruction does not go on. DESIGN CHOICE, log entry 8. -/
inductive Wait where
  | none
  | barrier      -- BAR.WT, BAR.SYNC
  | queue        -- QPUSH.RES
  | pop          -- QPOP.TAKE
  | watermark    -- WMWAIT, or an access behind a watermark
  | pair         -- a guided pair (R339)
  | ring         -- TOKPUB
  | held         -- a function that is not ready, a busy key slot or a busy register
  | collective   -- the group's own collective (R399)
  | engine       -- the collective engine, which serves an earlier one (R399)
  | drain
  deriving DecidableEq, Repr

/-- What a group waits for in its issue slot, or the uniform issue that the slot has granted it (R130). -/
inductive Seek where
  | none | positions | uniform | granted
  deriving DecidableEq, Repr

/-- The progress of a matrix instruction (R326): the K steps done of the one at a program counter, and
whether the group issued it inside its handler. While it is under way it holds words 0 to 2 of the records with
which it began (R310, R312), and its place among the products of its core (R325). -/
structure Progress where
  inHandler : Bool
  pc : DWord
  steps : Nat
  recs : List (Nat × DWord × DWord × DWord) := []
  turn : Nat := 0
  deriving DecidableEq, Repr

/-- The arrival of a group at a meeting of a pair entry (R334, R339): the slot, the instruction (0 PAIR,
1 MMAP, 2 GUIDE), its length in words and its operands. DEDUCED, log entry 51. -/
structure Arrival where
  slot : Nat
  kind : Nat
  words : Nat
  ops : List DWord
  deriving DecidableEq, Repr

/-- A plain load that has passed and whose value nothing has used: it may still be performed after the accesses that
followed it (R174). It holds the load's word, the fibre and address of each lane, and whether `last` is its result.
DEDUCED, log entry 6. -/
structure LateLoad where
  w : W3
  lanes : List (Nat × DWord)
  isLast : Bool := true
  deriving DecidableEq, Repr

/-- A group record (R127). -/
structure Group where
  num : Nat
  core : Nat
  sregs : Sparse DWord := []
  gpred : BitVec 8 := 1
  seg : Nat := 0
  pc : DWord
  lanes : List (Option Nat)       -- the fibre at each visible lane
  formed : DWord := 0             -- the formation mask F (R252)
  inHandler : Bool := false
  progress : Option Progress := none
  buf : List Word := []           -- the loop buffer: the words of the run
  bufPc : DWord := 0
  issued : Nat := 0               -- instructions issued in the run
  nextIssue : Nat := 0
  hist : List Early := []
  last : Sparse (Option DWord) := []   -- `last` by window
  temps : Sparse (Option Word) := []   -- q0 to q7 at window × 8 + i
  wait : Wait := .none
  synced : List Nat := []         -- fibres that have arrived at the BAR.SYNC where the group stands (R219)
  barAt : Option (Nat × Nat) := none   -- the barrier and the token register on which it waits
  barPass : Bool := false         -- a judgement of that barrier let it pass (R217, R218)
  arrival : Option Arrival := none
  swr : Bool := false             -- its SWR is held at the register (R413)
  faulted : List Nat := []        -- fibres that left it parked on a page fault (R97)
  abort : List Nat := []          -- fibres whose fault was resolved with ABORT (R141)
  abortVa : Sparse DWord := []    -- and the addresses they faulted on
  half : List (Nat × DWord × List Byte) := []   -- the first halves read of a 16-byte load: fibre, address, bytes (R169)
  late : List LateLoad := []      -- plain loads of the run that may still be performed later (R174)
  islot : Nat := 0                -- the issue slot in which it was placed or formed, 0 or 1 (R130)
  positions : Option Nat := none  -- the first of the lane positions that it holds there (R130)
  seeks : Seek := .none           -- what it waits for there (R130)
  runStart : Nat := 0             -- the clock at which its last run started (R130)
  deriving DecidableEq, Repr

/-- Where a parked fibre stands (R125). -/
inductive ParkState where
  | formable | rejoin | fault | rejoinHeld
  deriving DecidableEq, Repr

/-- A parked fibre: its Attic record (R125). -/
structure Parked where
  fid : Nat
  core : Nat
  slot : Nat                      -- Attic slot; the shadow's is the next (R126)
  pc : DWord
  st : ParkState := .formable
  tag : BitVec 16 := 0
  parked : Nat := 0               -- the clock when it parked
  count : Nat := 0                -- its core's count of arithmetic clocks then (R125, R418)
  released : Bool := false        -- its rejoin entry has completed (R140)
  base : Nat := 0                 -- RJOIN operands of a held fibre
  mask : DWord := 0
  fault : DWord := 0              -- the faulting address
  fkind : Nat := 0                -- the fault's kind (R107)
  abort : Bool := false
  synced : Bool := false          -- it has arrived at the BAR.SYNC where it parked (R219)
  hist : List Early := []         -- its results in flight when it parked (R133, R135)
  deriving DecidableEq, Repr

/-- A rejoin entry (R140). -/
structure Rejoin where
  tag : BitVec 16
  base : Nat
  mask : DWord
  arrived : List Nat := []
  complete : Bool := false
  deriving DecidableEq, Repr

/-- The state of a watermark register (R276). -/
inductive CopyState where
  | idle | landing | frozen | failed
  deriving DecidableEq, Repr

/-- The space of a range (R101). -/
inductive Space where
  | global | scratch | hamper
  deriving DecidableEq, Repr

/-- A range of bytes with its space; a Hamper range names its record and the place where that begins. -/
structure Range where
  space : Space
  first : Nat
  last : Nat
  hrec : Nat := 0
  base : Nat := 0                 -- the first byte of the record's range, half × 2^20 + offset
  deriving DecidableEq, Repr

/-- The kind of a copy (R277). -/
inductive CopyKind where
  | bcpy | gath | layx | lcpyGS | lcpySG
  deriving DecidableEq, Repr

/-- A watermark register with its copy and its range-lock entry (R181, R276). -/
structure Copy where
  st : CopyState := .idle
  count : Nat := 0
  total : Nat := 0
  kind : CopyKind := .bcpy
  status : Nat := 0
  faddr : DWord := 0
  desc : List DWord := []
  width : Nat := 0                        -- element bytes of an LCPY
  lanes : List (Nat × Nat) := []          -- LCPY: scratchpad offset and global address, by lane
  src : Option Range := none
  dst : Option Range := none
  idx : Option Range := none
  strided : Bool := false                 -- compared by bounding range
  core : Nat := 0                         -- the core that issued it
  fibres : List Nat := []                 -- fibres of the issuing group
  faultVa : Option DWord := none          -- a recoverable fault that freezes it
  fkind : Nat := 3                        -- and its kind (R107)
  reserved : Nat := 0                     -- store-buffer entries reserved (R112)
  buffered : Bool := false                -- lands into the store buffer
  seq : Nat := 0                          -- issue order within the team (R183, R281)
  cover : Sparse Nat := []                -- the bytes landed of each incomplete destination sector, as a mask
  bad : List Nat := []                    -- incomplete destination sectors that took poison (R285)
  pages : List (Nat × DWord × Nat) := []  -- pages in use: page number, leaf, log2 of the size (R164)
  index : Option (Nat × Bool) := none     -- the index word read for row COUNT, and its poison (R288)
  part : Nat := 0                         -- what has landed of row COUNT in bytes, or of an LCPY in lanes
  deriving DecidableEq, Repr

/-- A Hamper reservation record, words 0 to 3 (R302), with the copy descriptor kept for R102, whether it
is a gather's, and the address on which a refill is frozen. -/
structure HRecord where
  w0 : DWord := 0
  w1 : DWord := 0
  w2 : DWord := 0
  w3 : DWord := 0
  desc : List DWord := []
  gath : Bool := false
  faultVa : Option DWord := none
  cover : Sparse Nat := []                -- of its refill, as of a copy
  rbad : List Nat := []
  index : Option (Nat × Bool) := none
  part : Nat := 0
  deriving DecidableEq, Repr

/-- A slot of the pair engine (R335). -/
structure PairEntry where
  w0 : DWord := 0
  w1 : DWord := 0
  w2 : DWord := 0
  w3 : DWord := 0
  deriving DecidableEq, Repr

/-- An outstanding queue range (R220). -/
structure QRange where
  edge : Nat                      -- edge code 0 to 6
  first : Nat
  count : Nat
  taken : Bool                    -- by QPOP.TAKE
  replay : Bool := false          -- to be handed out again after a relaunch (R221)
  deriving DecidableEq, Repr

/-- A pin slot (R292). -/
structure PinSlot where
  addr : DWord
  len : Nat
  lines : List Nat := []          -- physical lines pinned
  deriving DecidableEq, Repr

/-- One entry of a CONTAIN team's store buffer (R112). A sector is a 32-byte sector of this device's
memory by physical address, or of a remote block by its owner and virtual address; `poison` says that it leaves
the sector poisoned or clean, where a landing or a whole write decides that (R113, R285). `key` is the key id of
the page. -/
inductive SbEntry where
  | sector (owner : Option Nat) (n : Nat) (bytes : List (Nat × Byte)) (isOpen : Bool) (poison : Option Bool) (key : Nat)
  | red (owner : Option Nat) (pa : Nat) (va : DWord) (aop : Nat) (wide : Bool) (operand : DWord) (core fid key : Nat)
  | push (edge : Nat) (n : Nat)
  | token (ring : Nat) (entries : List (List Byte))
  | launch (bytes : List Byte)
  | drop (handle : DWord)
  | fed (handle : DWord)
  | redeem (handle arg : DWord) (mode : Nat) (words : List DWord)
  | bindVer (bytes : List Byte) (version : Word)
  | bindOut (drift : Bool)
  | order                         -- a release at SYSTEM scope: what follows waits for the remote entries before it (R49, R174)
  deriving DecidableEq, Repr

/-- A resident team (R144). Windows, predicate words and sticky words are keyed by window: fibre f
without PROT, and 2f and 2f + 1 (the shadow) under PROT. -/
structure Team where
  core : Nat
  slot : Nat
  part : Nat
  inst : Nat                      -- the instance
  index : Nat                     -- team index
  launch : Launch
  sargs : List DWord := []        -- s0 to s15
  groups : List Group := []
  attic : List Parked := []
  live : List Nat := []           -- fibre ids held
  win : Sparse Word := []         -- window × 64 + register
  preds : Sparse DWord := []      -- predicate words, default 1
  sticky : Sparse (BitVec 7) := []
  scratch : Sparse Byte := []
  scratchPoison : Sparse Bool := []    -- by 32-byte sector
  barriers : Sparse DWord := []
  copies : Sparse Copy := []
  rejoins : List Rejoin := []
  hrecs : Sparse HRecord := []         -- core half × 32 + record
  hbytes : Sparse Byte := []           -- Hamper bytes, half × 2^20 + offset
  hpoison : Sparse Bool := []          -- by sector of the same
  tiles : Sparse Word := []            -- (half × 256 + tile) × 256 + element
  sums : Sparse Word := []             -- (half × 256 + tile) × 32: CR then CC
  pairs : Sparse PairEntry := []       -- half × 8 + slot
  ranges : List QRange := []
  relLater : Sparse Nat := []          -- QPOP.REL counts deferred to the drain, by edge code (R221)
  pins : Sparse (Option PinSlot) := []
  sb : List SbEntry := []
  copySeq : Nat := 0                   -- copies issued
  restartable : Bool := false
  relaunches : Nat := 0
  cores : List Nat := []               -- cores used in this instance
  exiting : Bool := false
  exitHeld : Bool := false
  drained : Bool := false              -- the buffer of an exiting CONTAIN team has drained
  cut : Bool := false                  -- a team that TEXIT ends: its groups stop at run boundaries
  errors : List ErrorSite := []        -- uncorrectable errors not yet read (R121)
  pending : List Nat := []             -- Larder slots made PENDING by the present buffer (R369)
  draining : Bool := false             -- a drain of the buffer has begun and is not complete (R114)
  hkeys : Sparse Nat := []             -- the key id of the bytes in each Hamper sector (R56)
  deriving DecidableEq, Repr

/-- An edge of a bound graph with the scheduler's counters (R77). -/
structure Edge where
  desc : DWord := 0               -- descriptor address
  base : DWord := 0
  slotsz : Nat := 64
  slotcnt : Nat := 1
  fill : Nat := 0
  free : Nat := 0
  head : DWord := 0
  tail : DWord := 0
  needFill : Nat := 0
  needFree : Nat := 0
  source : Bool := false
  fillLine : DWord := 0
  retLine : DWord := 0
  produced : DWord := 0           -- as last read (R33)
  consumed : DWord := 0
  beyond : Bool := false            -- an EDGE_OVER episode
  snooped : Bool := false         -- the fill line has been snooped away
  wbFailed : Bool := false        -- a failed write-back episode (R79)
  outSet : List Nat := []         -- absolute indices published above an unpublished slot
  inSet : List Nat := []          -- absolute indices released above an unreleased slot
  pubIdx : Nat := 0               -- the lowest unpublished index
  relIdx : Nat := 0               -- the lowest unreleased index
  retDue : Bool := false          -- a CONSUMED write that port 0 or a remote store holds (R18, R35)
  retWait : List Nat := []        -- the instances whose remote stores a CONSUMED write follows (R35, R49)
  wbDue : Bool := false           -- a write-back that is held, before which nothing more is granted (R18, R79)
  deriving DecidableEq, Repr

/-- How long a node or child has been ready, and its effective priority (R82). -/
structure Ready where
  since : Nat := 0
  prio : Nat := 0
  ready : Bool := false
  deriving DecidableEq, Repr

/-- A graph as bound (R76). -/
structure Graph where
  nodes : List Launch := []
  edges : List Edge := []
  ready : List Ready := []
  halted : Bool := false
  dispatching : Bool := true
  deriving DecidableEq, Repr

/-- A pending child launch (R84). -/
structure Child where
  index : Nat
  bytes : List Byte
  since : Nat
  prio : Nat                      -- the effective priority (R82)
  redeem : Option (List DWord) := none   -- a redeem's s-register values s3 to s15 (R385)
  version : Option Word := none          -- the version that the child is bound to (R388)
  node : Option Launch := none           -- a redeem's record, as bound (R385)
  deriving DecidableEq, Repr

/-- A kernel image bound in a partition (R87): its code section, or the RELOC_RANGE detail. -/
structure Image where
  va : DWord
  code : Nat
  size : Nat
  reloc : Option DWord := none
  deriving DecidableEq, Repr

/-- Slots granted to an instance on one firing edge (R78). -/
structure Grant where
  edge : Nat
  first : Nat
  count : Nat
  output : Bool
  deriving DecidableEq, Repr

/-- A running instance of a node or child. -/
structure Inst where
  id : Nat
  part : Nat
  index : Nat                     -- launch index
  launch : Launch
  args : List DWord := []         -- s4 to s15
  grants : List Grant := []
  placed : Nat := 0               -- teams placed so far
  exited : Nat := 0
  relaunch : List Team := []      -- killed teams that wait to be placed again (R116)
  failed : Bool := false
  version : Option Word := none   -- the bound weight version (R166)
  holds : Bool := false           -- a hold of the Cellar entry
  redeem : Option (List DWord) := none   -- a redeem's s-register values s3 to s15 (R385)
  vcur : Word := 0                -- VCUR.VER as read at dispatch (R368)
  matched : Bool := false         -- some TKBIND.OUT recorded a match (R386)
  drifted : Bool := false         -- some TKBIND.OUT recorded DRIFT
  isChild : Bool := false
  deriving DecidableEq, Repr

/-- A recoverable fault that waits (R106): its 64 KiB block, whether its entry has been written, and
the entry's fields. -/
structure FaultWait where
  block : Nat
  va : DWord
  written : Bool := false
  core : Nat := 0
  kind : Nat := 0
  reason : Nat := 0
  team : Nat := 0
  launch : Nat := 0
  who : Nat := 0
  deriving DecidableEq, Repr

/-- A piece of a translated range: its place, its length, whether accesses to it are lost, and the key id of its
page. -/
structure Piece where
  pa : Nat
  n : Nat
  lost : Bool
  key : Nat := 0
  deriving DecidableEq, Repr

/-- A write of a state register that arrived while collectives were in progress: those it waits for, by partition and
index (R45, R403). -/
structure HeldWrite where
  reg : Nat
  value : DWord
  waits : List (Nat × Nat) := []
  deriving DecidableEq, Repr

/-- What the Larder engine still owes a slot whose access is held (R18): the slot goes back to FREE if it is
PENDING (R369), a redeem's end status stands to be written (R386), or a REDEEMING slot becomes FAILED (R379). -/
inductive SlotAct where
  | free
  | status (n : Nat)
  | fail
  deriving DecidableEq, Repr

/-- A write of the Larder engine that is due: the slot, the version of its pages, the core whose group it serves,
and what it does. -/
structure SlotDue where
  slot : Nat
  ver : Option Word := none
  core : Option Nat := none
  act : SlotAct
  deriving DecidableEq, Repr

/-- A collective of a partition in progress (R399 to R405): the group that waits on it, what it agrees
on, the physical pieces of its source and destination, the words of its instruction and its status register. -/
structure Collective where
  core : Nat
  inst : Nat
  team : Nat
  num : Nat
  dest : Nat
  words : Nat
  kind : Nat
  form : Nat
  shape : List Nat
  stage : DWord := 0
  index : Nat
  src : List Piece := []
  dst : List Piece := []
  agreed : Bool := false          -- the devices have agreed on it (R404, R406)
  deriving DecidableEq, Repr

/-- A partition's own state beside its registers. -/
structure Part where
  graph : Option Graph := none
  pendingBind : Option (DWord × DWord × DWord) := none   -- a bind that is checking
  heldBind : Option Bool := none
  children : List Child := []
  childCount : Nat := 0
  images : List Image := []
  faults : List FaultWait := []
  room : Nat := 0                 -- context bytes reserved (R100)
  spill : Nat := 0                -- of these, bytes that the spill region holds
  spillAt : Nat := 0              -- and where in it they begin
  fqFull : Bool := false
  saved : List Team := []         -- the saved context (R98)
  savedAt : Nat := 0
  saveNs : Nat := 0
  recorded : List (Nat × Bool) := []   -- resolutions recorded while saved (R108)
  resuming : Bool := false
  heldTlb : List DWord := []      -- TLBINV writes that arrived while BUSY, oldest first (R164)
  badSlots : List Nat := []       -- Larder slots whose unusable word 0 has been logged (R361)
  coll : Option Collective := none
  collIndex : Nat := 0            -- collectives of the partition completed (R399, R407)
  collQueue : List (Nat × Nat × Nat) := []   -- groups that have reached the collective engine, by instance, team and record (R399)
  slotsDue : List SlotDue := []   -- writes that the Larder engine owes held slots (R18)
  deriving DecidableEq, Repr

/-- A line of a core's L1 (R151), as its fill data with the core's own stores. DEDUCED, log entry 6. -/
structure L1Line where
  core : Nat
  part : Nat
  key : Nat := 0                  -- the key id of the page it was filled through
  line : Nat                      -- physical address / 128
  cells : Memory
  poison : List Nat := []         -- poisoned sectors of the line
  deriving DecidableEq, Repr

/-- A line of a core's instruction cache (R414). DEDUCED, log entry 19. -/
structure CodeLine where
  core : Nat
  part : Nat
  key : Nat := 0                  -- the key id of its page
  vline : Nat                     -- virtual address / 128
  pline : Nat := 0                -- physical address / 128
  leaf : DWord := 0               -- the leaf through which it was filled
  cells : Memory                  -- by virtual address
  poison : List Nat := []
  deriving DecidableEq, Repr

/-- A cached translation (R162): of one core, or of a die's shared TLB. -/
structure TlbEntry where
  core : Option Nat
  die : Nat
  part : Nat
  vpn : Nat                       -- virtual address / page size
  bits : Nat                      -- log2 of the page size
  ver : Option Word
  leaf : DWord
  deriving DecidableEq, Repr

/-- A non-leaf entry in the cache that the walkers of a base die share (R162), tagged with the partition and
the part of the virtual address above the bits that the entry's table resolves. -/
structure WalkEntry where
  die : Nat                       -- the stack whose base die walks
  part : Nat
  vpn : Nat
  bits : Nat
  entry : DWord
  deriving DecidableEq, Repr

/-- A store, or a landing of a copy, that has been issued and not yet performed at its home L2 (R169, R170,
R184): one single-copy atomic piece. Its core sees it at once, and under PAIRCORE both cores of the pair.
DEDUCED, log entry 6. -/
structure Posted where
  core : Nat
  pair : Bool := false            -- the team has PAIRCORE
  team : Nat                      -- the issuing team, instance × 2^32 + team index
  fid : Nat                       -- the fibre; 2^32 for an engine
  pa : Nat
  data : List Byte
  key : Nat := 0                  -- the key id of the page
  rel : Bool := false             -- a release at DEVICE or SYSTEM scope
  landing : Bool := false         -- single-copy atomic per byte only
  seen : List (Nat × Nat) := []   -- the other fibres that have observed it, by team and fibre
  clears : List Nat := []         -- sectors that its instruction writes whole
  poisons : List Nat := []        -- sectors that take poison with it
  deriving DecidableEq, Repr

/-- A remote store or RED on its way to its owner (R48, R49). DEDUCED, log entry 67. -/
structure Remote where
  owner : Nat
  part : Nat
  inst : Nat := 0                 -- the issuing team
  team : Nat := 0
  fid : Nat
  va : Nat
  data : List Byte
  red : Option (Nat × Bool × DWord) := none
  link : Nat := 12                -- the first-hop link it was issued toward; 12 and above for none (R44, R46)
  deriving DecidableEq, Repr

/-- A line of pool memory in an L2 or in the memory-side cache (R28 to R30). -/
structure PoolLine where
  line : Nat                      -- L2: pool address / 128; memory-side cache: index
  tag : Nat := 0
  key : Nat := 0                  -- the key id of the page through which it was filled (R56)
  cells : Memory                  -- by device physical address
  poison : List Nat := []
  dirty : List Nat := []          -- dirty sectors
  deriving DecidableEq, Repr

/-- An entry of the device error log (R67). DEDUCED, log entry 58. -/
structure LogEntry where
  time : Nat
  seq : Nat
  cause : Nat
  cls : Nat
  die : Nat := 0x20
  unit : Nat := 0xFFFF
  byCore : Bool := false          -- the model's own: `unit` names a core for an entry that a base die makes (R66)
  part : Nat := 0xFF
  launch : Nat := 0xFFFFFFFF
  team : Nat := 0xFFFFFFFF
  fid : Nat := 0xFFFFFFFF
  folded : Nat := 0
  pc : DWord := 0
  addr : DWord := 0
  detail : DWord := 0
  deriving DecidableEq, Repr

/-- The loaded keys of a slot and its empty episode (R57, R58). DESIGN CHOICE, log entry 5. -/
structure KeySlot where
  dataKey : BitVec 256 := 0
  tweakKey : BitVec 256 := 0
  logged : Bool := false          -- KEY_EMPTY has been logged in this episode
  deriving DecidableEq, Repr

/-- An HDM decoder of port 0 (R24). -/
structure Decoder where
  base : Nat := 0
  size : Nat := 0
  dpa : Nat := 0
  en : Bool := false
  deriving DecidableEq, Repr

/-- The SPDM responder of port 0 (R60). PRESUMED, log entry 66. -/
structure Spdm where
  version : Bool := false
  caps : Bool := false
  algs : Bool := false
  exchanged : Bool := false       -- KEY_EXCHANGE done, FINISH awaited
  session : Bool := false
  answer : Option (Nat × List DWord) := none   -- the last response: its code and payload words
  deriving DecidableEq, Repr

/-- The response to the last management command (R62): whether the mailbox found the payload's length
invalid, the status and the data. -/
structure Response where
  opcode : Nat := 0
  header : Option Word := none    -- the MCTP header of its request; none on the mailbox
  invalid : Bool := false
  failed : Bool := false          -- the function that serves it has failed (R18)
  status : Nat := 0
  data : List DWord := []
  deriving DecidableEq, Repr

/-- The engine of a token ring (R354). -/
structure Ring where
  next : Nat := 0
  tseen : Nat := 0
  deriving DecidableEq, Repr

/-- The position of a group. -/
structure Pos where
  core : Nat
  slot : Nat
  num : Nat
  deriving DecidableEq, Repr

/-- The state of the device. -/
structure State where
  agenda : List Turn := []               -- the model's own: who acts next (DESIGN CHOICE, log entry 1)
  request : Request := {}                -- the model's own: an event's operands (DESIGN CHOICE, log entry 18)
  cur : Option Pos := none               -- the model's own: the group that issues (DESIGN CHOICE, log entry 1)
  free : Nat := 0                        -- the model's own: the counter of free values (DESIGN CHOICE, log entry 12)
  beat : Nat := 0                        -- the model's own: which agent the default order serves next (DESIGN CHOICE, log entry 1)
  clk : Nat := 0                         -- arithmetic clocks
  time : Nat := 0                        -- the device timestamp in ns
  formClk : Sparse Nat := []             -- the clock up to which a core's former has acted
  dieClk : Sparse Nat := []              -- the clock at which a die set CDIE
  uniClk : Sparse Nat := []              -- by core × 2 + issue slot: one more than the clock of its last uniform issue (R130)
  holdClk : Option Nat := none           -- the clock the current limiter held last, and the dies
  holdDies : BitVec 8 := 0
  holdUs : Option Nat := none
  regs : Sparse DWord := []              -- state registers by index; the default is the reset value
  mem : Memory := []
  poison : Sparse Bool := []             -- by 32-byte sector of the same
  pool : Memory := []                    -- the pooled memory behind the ports
  poolPoison : Sparse Bool := []
  poolL2 : List PoolLine := []
  l2Dirty : List PoolLine := []          -- what memory holds under each dirty line of an L2 (R153)
  seals : Sparse (Option (BitVec 512)) := []   -- the keys under which an HBM sector was last written (R56)
  poolReply : Option (List Byte × Bool) := none   -- the last read of another agent on the pool (R168)
  msc : List PoolLine := []
  mscSize : Nat := 0                     -- the size a resize will apply
  l1 : List L1Line := []
  code : List CodeLine := []
  tlb : List TlbEntry := []
  walks : List WalkEntry := []
  posted : List Posted := []
  remotes : List Remote := []
  relays : List (Nat × Packet) := []     -- packets for other devices that a down link holds (R44)
  pinned : List Nat := []                -- pinned physical lines, with repeats
  log : List LogEntry := []
  logHead : Nat := 0
  logTail : Nat := 0
  logDropped : Nat := 0
  logLost : Bool := false                -- an entry was dropped since the last LOG_LOST (R68)
  relaunchLog : List (Nat × Nat × LogEntry) := []   -- entries of relaunches not yet placed (R116)
  teams : List Team := []
  orphans : List Team := []              -- exited teams whose global copies still land (R297)
  insts : List Inst := []
  nextInst : Nat := 0
  parts : Sparse Part := []
  keys : Sparse KeySlot := []
  otpFloor : Sparse Nat := []            -- SVN floors (R64)
  otpRaises : Sparse Nat := []
  svn : Sparse Nat := []                 -- the SVN of the running images
  images : Sparse (Option (BitVec 384)) := []  -- their SHA-384 digests (R60)
  rings : Sparse Ring := []
  heldWrites : List HeldWrite := []      -- register writes held by a collective (R45, R403)
  decoders : Sparse Decoder := []
  options : List (Nat × Nat) := []       -- port options enabled, by port and row of R23
  masks : BitVec 16 := 0                 -- MSI-X vector masks
  config : Sparse Word := []             -- other configuration registers of port 0
  pba : BitVec 16 := 0                   -- messages that a vector's mask holds back
  messages : List Nat := []              -- MSI-X messages sent
  spdm : Spdm := {}
  response : Option Response := none
  hostEpisode : Sparse Nat := []         -- the log entry, plus 1, that refused host reads (0) or writes (1) fold into (R435)
  hostReply : Option (List Byte × Bool) := none   -- data of the last host read and its poison mark
  capacityEvents : List (Nat × List Byte) := []
  resetDiscards : Option (Nat × Nat) := none   -- a warm reset in progress: the first host write it discarded, and how many (R22)
  flitReplays : Sparse Nat := []         -- replays in a row of a link's flit (R43)
  devidLocked : Bool := false
  deriving DecidableEq, Repr

/-- The reasons for which the machine stops. -/
inductive Fault where
  /-- Raised by an instruction's meaning when no group stands at `cur`, so that nothing issues it.
  Safe: a step runs an instruction only for the group it has selected. -/
  | noGroup
  deriving DecidableEq, Repr

/-- The reasons for which an instruction has no meaning in the model. -/
inductive Refusal where
  /-- Raised by an arm of `exec` whose instruction has not been modelled. Safe. -/
  | notModelled (mnemonic : String)
  deriving DecidableEq, Repr

/-- The outcome of a step. -/
abbrev Res := Host.Outcome State Fault Refusal

/-- The machine right after a cold reset (R21): every register at its reset value, memory zero, no
launch, no partition running, every cache empty. DESIGN CHOICE, log entry 3. The vector masks of the MSI-X table
are clear. DESIGN CHOICE, log entry 81. -/
def State.reset : State := {}

end Sys2Proof.Machine
end

