-- ==== Sys2Proof/Machine/Sparse.lean ====
section
/-! DEFINITION. Reading and writing a sparse map, and its canonical form. -/

namespace Sys2Proof.Machine

/-- The value at a key; an unlisted key reads as `d`. -/
def sget {α : Type} (d : α) : Sparse α → Nat → α
  | [], _ => d
  | (i, v) :: r, k => if i = k then v else sget d r k

/-- Inserts or replaces an entry, keeping the keys in order. -/
def sinsert {α : Type} (k : Nat) (v : α) : Sparse α → Sparse α
  | [] => [(k, v)]
  | (i, w) :: r =>
    if k < i then (k, v) :: (i, w) :: r
    else if k = i then (k, v) :: r
    else (i, w) :: sinsert k v r

/-- Writes a value; the value that an unlisted key reads as removes the entry. -/
def sset {α : Type} [DecidableEq α] (d : α) (m : Sparse α) (k : Nat) (v : α) : Sparse α :=
  if v = d then m.filter (fun e => decide (e.1 ≠ k)) else sinsert k v m

/-- Changes the value at a key. -/
def smod {α : Type} [DecidableEq α] (d : α) (m : Sparse α) (k : Nat) (f : α → α) : Sparse α :=
  sset d m k (f (sget d m k))

/-- Writes consecutive keys. -/
def ssetList {α : Type} [DecidableEq α] (d : α) (m : Sparse α) (k : Nat) : List α → Sparse α
  | [] => m
  | v :: vs => ssetList d (sset d m k v) (k + 1) vs

/-- Reads `n` consecutive keys. -/
def sgetList {α : Type} (d : α) (m : Sparse α) (k : Nat) : Nat → List α
  | 0 => []
  | n + 1 => sget d m k :: sgetList d m (k + 1) n

/-- Drops every entry with `lo ≤ key < hi`. -/
def sclear {α : Type} (m : Sparse α) (lo hi : Nat) : Sparse α :=
  m.filter fun e => !(decide (lo ≤ e.1) && decide (e.1 < hi))

/-- The entries with `lo ≤ key < hi`. -/
def sslice {α : Type} (m : Sparse α) (lo hi : Nat) : Sparse α :=
  m.filter fun e => decide (lo ≤ e.1) && decide (e.1 < hi)

/-- The canonical form: keys strictly rising, no entry that reads as an unlisted key does. -/
abbrev swf {α : Type} (d : α) (m : Sparse α) : Prop :=
  m.Pairwise (fun a b => a.1 < b.1) ∧ ∀ e ∈ m, e.2 ≠ d

/-- The canonical form of memory. DESIGN CHOICE, log entry 4. -/
abbrev Memory.wf (m : Memory) : Prop := swf (0 : Byte) m

end Sys2Proof.Machine
end

