-- ==== Sys2Proof/Machine/Crypto.lean ====
section
/-! DEFINITION. The cryptographic functions that the manual takes from their standards: AES-256 and its XTS
mode over one 32-byte sector (R56, R63: IEEE 1619, FIPS 197), SHA-384 (R59, R60: FIPS 180-4), and the
verification of an ECDSA signature on brainpoolP384r1 (R59: RFC 5639). -/

namespace Sys2Proof.Machine

/-! ### AES-256 (FIPS 197) -/

/-- The substitution box, byte x at bits 8x. -/
def aesBox : Nat := 0x16bb54b00f2d99416842e6bf0d89a18cdf2855cee9871e9b948ed9691198f8e19e1dc186b95735610ef6034866b53e708a8bbd4b1f74dde8c6b4a61c2e2578ba08ae7a65eaf4566ca94ed58d6d37c8e779e4959162acd3c25c2406490a3a32e0db0b5ede14b8ee4688902a22dc4f816073195d643d7ea7c41744975fec130ccdd2f3ff1021dab6bcf5389d928f40a351a89f3c507f02f94585334d43fbaaefd0cf584c4a39becb6a5bb1fc20ed00d153842fe329b3d63b52a05a6e1b1a2c830975b227ebe28012079a059618c323c7041531d871f1e5a534ccf73f362693fdb7c072a49cafa2d4adf04759fa7dc982ca76abd7fe2b670130c56f6bf27b777c63

/-- The inverse of the substitution box. -/
def aesInvBox : Nat := 0x7d0c2155631469e126d677ba7e042b17619953833cbbebc8b0f52aae4d3be0a0ef9cc9939f7ae52d0d4ab519a97f51605fec8027591012b131c7078833a8dd1ff45acd78fec0db9a2079d2c64b3e56fc1bbe18aa0e62b76f89c5291d711af1476edf751ce837f9e28535ade72274ac9673e6b4f0cecff297eadc674f4111913a6b8a130103bdafc1020f3fca8f1e2cd00645b3b80558e4f70ad3bc8c00abd890849d8da75746155edab9edfd5048706c92b6655dcc5ca4d41698688664f6f87225d18b6d49a25b76b224d92866a12e084ec3fa420b954cee3d23c2a632947b54cbe9dec444438e3487ff2f9b8239e37cfbd7f3819ea340bf38a53630d56a0952

/-- A byte of a box. -/
def boxAt (box : Nat) (b : Byte) : Byte := BitVec.ofNat 8 (box / 2 ^ (8 * b.toNat))

/-- Multiplication by x in the field of 256 elements. -/
def xtime (b : Byte) : Byte := (b <<< 1) ^^^ (if b.getLsbD 7 then 0x1B else 0)

/-- Multiplication in the field of 256 elements by a factor below 16. -/
def gfMul (k : Nat) (b : Byte) : Byte :=
  let b2 := xtime b
  let b4 := xtime b2
  (if k % 2 = 1 then b else 0) ^^^ (if k / 2 % 2 = 1 then b2 else 0) ^^^ (if k / 4 % 2 = 1 then b4 else 0)
    ^^^ (if k / 8 % 2 = 1 then xtime b4 else 0)

/-- The bytes of two lists added in the field. -/
def xorBytes (a b : List Byte) : List Byte := List.zipWith (· ^^^ ·) a b

/-- The next word of the key schedule, from the word before and the word eight before. -/
def keyWord (i : Nat) (rcon : Byte) (prev old : List Byte) : List Byte :=
  if i % 8 = 0 then xorBytes old (xorBytes (((prev.drop 1) ++ prev.take 1).map (boxAt aesBox)) [rcon, 0, 0, 0])
  else if i % 8 = 4 then xorBytes old (prev.map (boxAt aesBox))
  else xorBytes old prev

/-- The key schedule from word i on; the words so far stand newest first. -/
def keyWords (i : Nat) (rcon : Byte) (ws : List (List Byte)) : Nat → List (List Byte)
  | 0 => ws.reverse
  | n + 1 =>
    keyWords (i + 1) (if i % 8 = 0 then xtime rcon else rcon)
      (keyWord i rcon (ws.getD 0 []) (ws.getD 7 []) :: ws) n

/-- The fifteen round keys of a 256-bit key. -/
def roundKeys (key : List Byte) : List (List Byte) :=
  let ws := keyWords 8 1 ((List.range 8).map fun i => (key.drop (4 * (7 - i))).take 4) 52
  (List.range 15).map fun r => ((ws.drop (4 * r)).take 4).flatten

/-- The rows of a block shifted: byte r of column c comes from column c + k r. -/
def shiftRows (k : Nat) (b : List Byte) : List Byte :=
  (List.range 16).map fun i => b.getD ((i + 4 * k * (i % 4)) % 16) 0

/-- The columns of a block multiplied by a circulant matrix, given by its first row. -/
def mixColumns (a0 a1 a2 a3 : Nat) (b : List Byte) : List Byte :=
  (List.range 16).map fun i =>
    let x := fun j => b.getD (i / 4 * 4 + (i + j) % 4) 0
    gfMul a0 (x 0) ^^^ gfMul a1 (x 1) ^^^ gfMul a2 (x 2) ^^^ gfMul a3 (x 3)

/-- One block encrypted. -/
def aesEncrypt (key block : List Byte) : List Byte :=
  let ks := roundKeys key
  let b := ((ks.drop 1).take 13).foldl
    (fun b k => xorBytes (mixColumns 2 3 1 1 (shiftRows 1 (b.map (boxAt aesBox)))) k) (xorBytes block (ks.getD 0 []))
  xorBytes (shiftRows 1 (b.map (boxAt aesBox))) (ks.getD 14 [])

/-- One block decrypted. -/
def aesDecrypt (key block : List Byte) : List Byte :=
  let ks := roundKeys key
  let b := (((ks.drop 1).take 13).reverse).foldl
    (fun b k => mixColumns 14 11 13 9 (xorBytes ((shiftRows 3 b).map (boxAt aesInvBox)) k)) (xorBytes block (ks.getD 14 []))
  xorBytes ((shiftRows 3 b).map (boxAt aesInvBox)) (ks.getD 0 [])

/-! ### XTS over one sector (R56) -/

/-- The tweaks of the two blocks of a sector: its number encrypted under the tweak key, and that value times
the generator of the field of 2^128 elements. -/
def xtsTweaks (tweakKey : List Byte) (sec : Nat) : List Byte × List Byte :=
  let t := aesEncrypt tweakKey (leBytes 16 sec)
  let x := 2 * leWord t
  (t, leBytes 16 (if 2 ^ 128 ≤ x then (x - 2 ^ 128) ^^^ 0x87 else x))

/-- A sector of 32 bytes through a block cipher under its tweaks. -/
def xtsWith (cipher : List Byte → List Byte) (t : List Byte × List Byte) (bs : List Byte) : List Byte :=
  xorBytes t.1 (cipher (xorBytes t.1 (bs.take 16))) ++ xorBytes t.2 (cipher (xorBytes t.2 (bs.drop 16)))

/-- A sector encrypted under a data key and a tweak key. -/
def xtsEncrypt (dataKey tweakKey : BitVec 256) (sec : Nat) (bs : List Byte) : List Byte :=
  xtsWith (aesEncrypt (leBytes 32 dataKey.toNat)) (xtsTweaks (leBytes 32 tweakKey.toNat) sec) bs

/-- A sector decrypted under a data key and a tweak key. -/
def xtsDecrypt (dataKey tweakKey : BitVec 256) (sec : Nat) (bs : List Byte) : List Byte :=
  xtsWith (aesDecrypt (leBytes 32 dataKey.toNat)) (xtsTweaks (leBytes 32 tweakKey.toNat) sec) bs

/-! ### SHA-384 (FIPS 180-4) -/

/-- The round constants of SHA-384 (FIPS 180-4), part 0. -/
def shaK0 : List DWord :=
  [0x428A2F98D728AE22, 0x7137449123EF65CD, 0xB5C0FBCFEC4D3B2F, 0xE9B5DBA58189DBBC,
   0x3956C25BF348B538, 0x59F111F1B605D019, 0x923F82A4AF194F9B, 0xAB1C5ED5DA6D8118,
   0xD807AA98A3030242, 0x12835B0145706FBE, 0x243185BE4EE4B28C, 0x550C7DC3D5FFB4E2,
   0x72BE5D74F27B896F, 0x80DEB1FE3B1696B1, 0x9BDC06A725C71235, 0xC19BF174CF692694]

/-- The round constants of SHA-384 (FIPS 180-4), part 1. -/
def shaK1 : List DWord :=
  [0xE49B69C19EF14AD2, 0xEFBE4786384F25E3, 0x0FC19DC68B8CD5B5, 0x240CA1CC77AC9C65,
   0x2DE92C6F592B0275, 0x4A7484AA6EA6E483, 0x5CB0A9DCBD41FBD4, 0x76F988DA831153B5,
   0x983E5152EE66DFAB, 0xA831C66D2DB43210, 0xB00327C898FB213F, 0xBF597FC7BEEF0EE4,
   0xC6E00BF33DA88FC2, 0xD5A79147930AA725, 0x06CA6351E003826F, 0x142929670A0E6E70]

/-- The round constants of SHA-384 (FIPS 180-4), part 2. -/
def shaK2 : List DWord :=
  [0x27B70A8546D22FFC, 0x2E1B21385C26C926, 0x4D2C6DFC5AC42AED, 0x53380D139D95B3DF,
   0x650A73548BAF63DE, 0x766A0ABB3C77B2A8, 0x81C2C92E47EDAEE6, 0x92722C851482353B,
   0xA2BFE8A14CF10364, 0xA81A664BBC423001, 0xC24B8B70D0F89791, 0xC76C51A30654BE30,
   0xD192E819D6EF5218, 0xD69906245565A910, 0xF40E35855771202A, 0x106AA07032BBD1B8]

/-- The round constants of SHA-384 (FIPS 180-4), part 3. -/
def shaK3 : List DWord :=
  [0x19A4C116B8D2D0C8, 0x1E376C085141AB53, 0x2748774CDF8EEB99, 0x34B0BCB5E19B48A8,
   0x391C0CB3C5C95A63, 0x4ED8AA4AE3418ACB, 0x5B9CCA4F7763E373, 0x682E6FF3D6B2B8A3,
   0x748F82EE5DEFB2FC, 0x78A5636F43172F60, 0x84C87814A1F0AB72, 0x8CC702081A6439EC,
   0x90BEFFFA23631E28, 0xA4506CEBDE82BDE9, 0xBEF9A3F7B2C67915, 0xC67178F2E372532B]

/-- The round constants of SHA-384 (FIPS 180-4), part 4. -/
def shaK4 : List DWord :=
  [0xCA273ECEEA26619C, 0xD186B8C721C0C207, 0xEADA7DD6CDE0EB1E, 0xF57D4F7FEE6ED178,
   0x06F067AA72176FBA, 0x0A637DC5A2C898A6, 0x113F9804BEF90DAE, 0x1B710B35131C471B,
   0x28DB77F523047D84, 0x32CAAB7B40C72493, 0x3C9EBE0A15C9BEBC, 0x431D67C49C100D4C,
   0x4CC5D4BECB3E42B6, 0x597F299CFC657E2A, 0x5FCB6FAB3AD6FAEC, 0x6C44198C4A475817]

/-- The round constants of SHA-384. -/
def shaK : List DWord := shaK0 ++ shaK1 ++ shaK2 ++ shaK3 ++ shaK4

/-- The initial hash value of SHA-384. -/
def shaInit : List DWord :=
  [0xCBBB9D5DC1059ED8, 0x629A292A367CD507, 0x9159015A3070DD17, 0x152FECD8F70E5939,
   0x67332667FFC00B31, 0x8EB44A8768581511, 0xDB0C2E0D64F98FA7, 0x47B5481DBEFA4FA4]

/-- A number from bytes, the first most significant. -/
def beWord (bs : List Byte) : Nat := leWord bs.reverse

/-- The next word of the message schedule; the words so far stand newest first. -/
def shaNext (ws : List DWord) : DWord :=
  let a := ws.getD 14 0
  let b := ws.getD 1 0
  (b.rotateRight 19 ^^^ b.rotateRight 61 ^^^ (b >>> 6)) + ws.getD 6 0
    + (a.rotateRight 1 ^^^ a.rotateRight 8 ^^^ (a >>> 7)) + ws.getD 15 0

/-- The message schedule of a block. -/
def shaSchedule (ws : List DWord) : Nat → List DWord
  | 0 => ws.reverse
  | n + 1 => shaSchedule (shaNext ws :: ws) n

/-- One round on the eight working words. -/
def shaRound (v : List DWord) (k w : DWord) : List DWord :=
  match v with
  | [a, b, c, d, e, f, g, h] =>
    let t1 := h + (e.rotateRight 14 ^^^ e.rotateRight 18 ^^^ e.rotateRight 41) + ((e &&& f) ^^^ (~~~e &&& g)) + k + w
    let t2 := (a.rotateRight 28 ^^^ a.rotateRight 34 ^^^ a.rotateRight 39) + ((a &&& b) ^^^ (a &&& c) ^^^ (b &&& c))
    [t1 + t2, a, b, c, d + t1, e, f, g]
  | _ => v

/-- The hash value after one block of 128 bytes. -/
def shaBlock (h : List DWord) (block : List Byte) : List DWord :=
  let ws := (List.range 16).map fun i => BitVec.ofNat 64 (beWord ((block.drop (8 * i)).take 8))
  List.zipWith (· + ·) h ((shaK.zip (shaSchedule ws.reverse 64)).foldl (fun v x => shaRound v x.1 x.2) h)

/-- The blocks of a padded message. -/
def shaBlocks (h : List DWord) (bs : List Byte) : Nat → List DWord
  | 0 => h
  | n + 1 => shaBlocks (shaBlock h (bs.take 128)) (bs.drop 128) n

/-- A message padded to whole blocks. -/
def shaPad (bs : List Byte) : List Byte :=
  bs ++ [0x80] ++ List.replicate ((239 - bs.length % 128) % 128) 0 ++ (leBytes 16 (8 * bs.length)).reverse

/-- The 48 bytes of the SHA-384 digest of some bytes (R59, R60). -/
def sha384Bytes (bs : List Byte) : List Byte :=
  let p := shaPad bs
  ((shaBlocks shaInit p (p.length / 128)).take 6).flatMap fun w => (leBytes 8 w.toNat).reverse

/-- The digest as the number that its bytes make in memory order (R2). -/
def sha384 (bs : List Byte) : BitVec 384 := BitVec.ofNat 384 (leWord (sha384Bytes bs))

/-! ### ECDSA on brainpoolP384r1 (RFC 5639) -/

/-- The prime of the field. -/
def bpP : Nat := 0x8CB91E82A3386D280F5D6F7E50E641DF152F7109ED5456B412B1DA197FB71123ACD3A729901D1A71874700133107EC53

/-- The coefficient a of the curve. -/
def bpA : Nat := 0x7BC382C63D8C150C3C72080ACE05AFA0C2BEA28E4FB22787139165EFBA91F90F8AA5814A503AD4EB04A8C7DD22CE2826

/-- The base point. -/
def bpG : Nat × Nat :=
  (0x1D1C64F068CF45FFA2A63A81B7C13F6B8847A3E77EF14FE3DB7FCAFE0CBD10E8E826E03436D646AAEF87B2E247D4AF1E,
   0x8ABE1D7520F9C2A45CB1EB8E95CFD55262B70B29FEEC5864E19C054FF99129280E4646217791811142820341263C5315)

/-- The order of the base point. -/
def bpN : Nat := 0x8CB91E82A3386D280F5D6F7E50E641DF152F7109ED5456B31F166E6CAC0425A7CF3AB6AF6B7FC3103B883202E9046565

/-- A power modulo m, with fuel for the bits of the exponent. -/
def powMod (m : Nat) : Nat → Nat → Nat → Nat
  | 0, _, _ => 1 % m
  | n + 1, b, e =>
    if e = 0 then 1 % m
    else
      let r := powMod m n (b * b % m) (e / 2)
      if e % 2 = 1 then b * r % m else r

/-- The inverse modulo a prime of 384 bits. -/
def invMod (m a : Nat) : Nat := powMod m 384 (a % m) (m - 2)

/-- The sum of two points of the curve; none is the point at infinity. -/
def bpAdd : Option (Nat × Nat) → Option (Nat × Nat) → Option (Nat × Nat)
  | none, q => q
  | p, none => p
  | some (x1, y1), some (x2, y2) =>
    if x1 = x2 ∧ (y1 + y2) % bpP = 0 then none
    else
      let l := if x1 = x2 then (3 * x1 * x1 + bpA) * invMod bpP (2 * y1) % bpP
        else (y2 + bpP - y1) * invMod bpP (x2 + bpP - x1) % bpP
      let x := (l * l + 2 * bpP - x1 - x2) % bpP
      some (x, (l * (x1 + bpP - x) + bpP - y1) % bpP)

/-- A multiple of a point, with fuel for the bits of the factor. -/
def bpMul : Nat → Nat → Option (Nat × Nat) → Option (Nat × Nat)
  | 0, _, _ => none
  | n + 1, k, p =>
    if k = 0 then none
    else
      let r := bpMul n (k / 2) (bpAdd p p)
      if k % 2 = 1 then bpAdd p r else r

/-- Whether a signature of a digest verifies under a public key. -/
def ecdsaVerify (key : Nat × Nat) (digest r s : Nat) : Bool :=
  decide (1 ≤ r) && decide (r < bpN) && decide (1 ≤ s) && decide (s < bpN) &&
    (let w := invMod bpN s
     match bpAdd (bpMul 384 (digest * w % bpN) (some bpG)) (bpMul 384 (r * w % bpN) (some key)) with
     | some (x, _) => decide (x % bpN = r)
     | none => false)

/-- Whether the signature r ‖ s of 96 bytes over some bytes verifies under a public key (R59). Both numbers are
little-endian (R2), and r stands at the lower address. DESIGN CHOICE, log entry 16. -/
def signatureHolds (key : Nat × Nat) (msg sig : List Byte) : Bool :=
  ecdsaVerify key (beWord (sha384Bytes msg)) (leWord (sig.take 48)) (leWord ((sig.drop 48).take 48))

end Sys2Proof.Machine
end

