-- ==== Sys2Proof/Machine/Regs.lean ====
section
/-! DEFINITION. The state registers of R419 and their fields, the device error log (R67, R68) and the
interrupt bits (R26). A register is stored as its difference from the reset value, so that the empty
file is the reset state. -/

namespace Sys2Proof.Machine

/-- The index of register j of partition k (R419). -/
def pidx (k j : Nat) : Nat := 0x100 + 16 * k + j

/-- The reset value of a state register (R419 and the rules it names). DESIGN CHOICE, log entry 3. -/
def regDefault (i : Nat) : DWord :=
  if i = 0x002 then 10000
  else if i = 0x003 then 2100
  else if i = 0x009 then 1
  else if i = 0x00A then 0x100
  else if i = 0x00B then 0xFFFF
  else if i = 0x00C then 65536
  else if i = 0x00D then 64
  else if 0x014 ≤ i ∧ i ≤ 0x01B then 0x0484210
  else if 0x01C ≤ i ∧ i ≤ 0x027 then 0xC00
  else if 0x028 ≤ i ∧ i ≤ 0x037 then 0xFFFFFFFFFFFFFFFF
  else if 0x058 ≤ i ∧ i ≤ 0x067 then 4
  else if 0x100 ≤ i ∧ i < 0x200 ∧ i % 16 = 0 then 0x40000000
  else if 0x100 ≤ i ∧ i < 0x200 ∧ i % 16 = 4 then 4
  else if 0x200 ≤ i ∧ i ≤ 0x2FF then 0xF00
  else 0

/-- A state register's stored value. -/
def State.reg (s : State) (i : Nat) : DWord := sget 0 s.regs i ^^^ regDefault i

/-- Stores a state register. -/
def State.setReg (s : State) (i : Nat) (v : DWord) : State :=
  { s with regs := sset 0 s.regs i (v ^^^ regDefault i) }

/-- A field of a state register as a number. -/
def State.rfield (s : State) (i lo n : Nat) : Nat := fieldOf (s.reg i) lo n

/-- A word with the field `[lo + n - 1 : lo]` replaced. -/
def setField (w : DWord) (lo n : Nat) (v : Nat) : DWord :=
  let mask : DWord := BitVec.ofNat 64 ((2 ^ n - 1) * 2 ^ lo)
  (w &&& ~~~mask) ||| (BitVec.ofNat 64 (v % 2 ^ n * 2 ^ lo))

/-- Stores a field of a state register. -/
def State.setRfield (s : State) (i lo n v : Nat) : State := s.setReg i (setField (s.reg i) lo n v)

/-- One bit of READY and of BUFAIL (R16). -/
def State.ready (s : State) (fn : Nat) : Bool := bitAt (s.reg 0x000) fn

/-- The BUFAIL bit of a function (R16). -/
def State.bufail (s : State) (fn : Nat) : Bool := bitAt (s.reg 0x001) fn

/-- Sends the message of a vector, or holds it back while the vector is masked (R26). PRESUMED, log entry 63. -/
def State.sendMessage (s : State) (e : Nat) : State :=
  if bitAt s.masks e then { s with pba := s.pba ||| BitVec.ofNat 16 (2 ^ e) }
  else { s with messages := s.messages ++ [e] }

/-- A port 0 event with number e (R26): the pending bit sets, and when it was clear and is enabled
and its vector is not masked the message is sent. -/
def State.raise (s : State) (e : Nat) : State :=
  if bitAt (s.reg 0x0E9) e then s
  else
    let s1 := s.setReg 0x0E9 (s.reg 0x0E9 ||| BitVec.ofNat 64 (2 ^ e))
    if bitAt (s.reg 0x0E8) e then s1.sendMessage e else s1

/-- Appends one entry to the log and advances HEAD (R68). -/
def State.appendLog (s : State) (e : LogEntry) : State :=
  State.raise { s with log := s.log ++ [{ e with time := s.time, seq := s.logHead }], logHead := s.logHead + 1 } 0

/-- Makes one error-log entry (R68): none while the log is full, and LOG_LOST first when space has
returned. DEDUCED, log entry 68. -/
def State.addLog (s : State) (e : LogEntry) : State :=
  if s.bufail 43 then s
  else if s.logHead - s.logTail = 65535 then { s with logDropped := s.logDropped + 1, logLost := true }
  else if s.logLost then
    let s1 := State.appendLog { s with logLost := false }
      { time := 0, seq := 0, cause := 0x0400, cls := 3, die := 0x10, detail := BitVec.ofNat 64 s.logDropped }
    if s1.logHead - s1.logTail = 65535 then { s1 with logDropped := s1.logDropped + 1, logLost := true }
    else s1.appendLog e
  else s.appendLog e

/-- Folds a further event into the newest entry that a test admits; the list is newest first. -/
def foldInto (f : LogEntry → Bool) : List LogEntry → List LogEntry
  | [] => []
  | e :: r => if f e then { e with folded := e.folded + 1 } :: r else e :: foldInto f r

/-- Counts a request to a failed function in the log entry of its failure (R18). DEDUCED, log entry 60. -/
def State.foldBufail (s : State) (fn : Nat) : State :=
  { s with log := (foldInto (fun e => decide (e.cause = 0x0403) && decide (e.detail = BitVec.ofNat 64 fn))
      s.log.reverse).reverse }

/-- The compute die of a core (R6, R52). -/
def dieOf (core : Nat) : Nat := core / 128

/-- A core's count of arithmetic clocks, from the moment its die set CDIE (R418). -/
def State.coreCount (s : State) (core : Nat) : Nat := s.clk - sget 0 s.dieClk (dieOf core)

/-- A platform-event entry (R435). -/
def platformEntry (cause part : Nat) (addr detail : DWord) : LogEntry :=
  { time := 0, seq := 0, cause := cause, cls := 3, part := part, addr := addr, detail := detail }

/-- The state of partition k. -/
def State.part (s : State) (k : Nat) : Part := sget {} s.parts k

/-- Stores the state of partition k. -/
def State.setPart (s : State) (k : Nat) (p : Part) : State := { s with parts := sset {} s.parts k p }

/-- PCTL.STATE of partition k (R89). -/
def State.pstate (s : State) (k : Nat) : Nat := s.rfield (pidx k 0) 27 3

/-- Whether partition k is secure (R89). -/
def State.psec (s : State) (k : Nat) : Bool := bitAt (s.reg (pidx k 0)) 30

end Sys2Proof.Machine
end

