-- ==== Sys2Proof/Machine/Memory.lean ====
section
/-! DEFINITION. Device physical memory as each party sees it, the pool caches, the L1, and address
translation (R148 to R167, R24 to R31, R47 to R58). -/

namespace Sys2Proof.Machine

/-! ### The layout of device physical space (R149) -/

/-- The windows of ports 1 to 3 as base and length (R27). -/
def State.window (s : State) (port : Nat) : Nat × Nat :=
  (2 ^ 30 * s.rfield (0x004 + port) 30 26, 2 ^ 30 * s.rfield (0x004 + port) 0 14)

/-- Whether an address lies in a port's window; bytes from 2^55 on are host addresses. -/
def State.inWindow (s : State) (port pa : Nat) : Bool :=
  let w := s.window port
  decide (2 ^ 40 ≤ pa) && decide (pa < 2 ^ 55) && decide (w.1 ≤ pa) && decide (pa < w.1 + w.2)

/-- The port of a pool address. -/
def State.poolPort (s : State) (pa : Nat) : Option Nat :=
  if s.inWindow 1 pa then some 1 else if s.inWindow 2 pa then some 2
  else if s.inWindow 3 pa then some 3 else none

/-- The offset of a pool address in the concatenated windows (R28). -/
def State.poolOffset (s : State) (pa : Nat) : Nat :=
  match s.poolPort pa with
  | some 1 => pa - (s.window 1).1
  | some 2 => (s.window 1).2 + (pa - (s.window 2).1)
  | some 3 => (s.window 1).2 + (s.window 2).2 + (pa - (s.window 3).1)
  | _ => 0

/-- The first byte of the carve-out (R27). -/
def State.carve (s : State) : Nat := 2 ^ 40 - 2 ^ 34 * s.rfield 0x004 0 6

/-- Whether a translation may reach the address (R149, R160). -/
def State.hasTarget (s : State) (pa : Nat) : Bool :=
  if pa < 2 ^ 40 then decide (pa < s.carve)
  else if pa < 2 ^ 55 then (s.poolPort pa).isSome
  else decide (pa < 2 ^ 56)

/-- The HBM stack of an address (R149). -/
def stackOf (pa : Nat) : Nat :=
  (pa / 2 ^ 12 % 16) ^^^ (pa / 2 ^ 16 % 16) ^^^ (pa / 2 ^ 20 % 16) ^^^ (pa / 2 ^ 24 % 16)
    ^^^ (pa / 2 ^ 28 % 16) ^^^ (pa / 2 ^ 32 % 16) ^^^ (pa / 2 ^ 36 % 16)

/-- The offset within the stack (R149). -/
def stackOffset (pa : Nat) : Nat := pa / 2 ^ 16 % 2 ^ 24 * 2 ^ 12 + pa % 2 ^ 12

/-- The home die of an address (R149). -/
def homeDie (pa : Nat) : Nat := if pa < 2 ^ 40 then stackOf pa / 2 else pa / 2 ^ 7 % 8

/-! ### Bytes at the point of coherence -/

/-- The L2 line of a pool address. -/
def State.poolL2Line (s : State) (pa : Nat) : Option PoolLine :=
  s.poolL2.find? fun l => decide (l.line = pa / 128)

/-- The index and the tag of a pool address in the memory-side cache (R28). -/
def State.mscPlace (s : State) (pa : Nat) : Nat × Nat :=
  let n := 2 ^ 26 * s.rfield 0x004 0 6
  let l := s.poolOffset pa / 256
  if n = 0 then (0, 0x3FFF) else (l % n, l / n)

/-- The line of the memory-side cache that holds a pool address (R28). -/
def State.mscLine (s : State) (pa : Nat) : Option PoolLine :=
  let p := s.mscPlace pa
  if 0x3FFE < p.2 ∨ s.rfield 0x004 0 6 = 0 then none
  else s.msc.find? fun l => decide (l.line = p.1) && decide (l.tag = p.2)

/-- The functions that an access to the address reaches (R16, R18, R153): the home die with its L2, and the
stack or the port behind it; a pool line that the L2 or the memory-side cache holds reaches no port. -/
def State.functionsOf (s : State) (pa : Nat) : List Nat :=
  if pa < 2 ^ 40 then [homeDie pa, 8 + stackOf pa]
  else if pa < 2 ^ 55 then
    if (s.poolL2Line pa).isSome || (s.mscLine pa).isSome then [homeDie pa] else [homeDie pa, 24 + (s.poolPort pa).getD 1]
  else [homeDie pa, 24]

/-- Whether a function holds the requests that reach it (R18). -/
def State.down (s : State) (fn : Nat) : Bool := !s.ready fn && !s.bufail fn

/-- Whether an access to the address completes as failed: a read gives poison and a write is discarded (R18). -/
def State.targetFailed (s : State) (pa : Nat) : Bool := (s.functionsOf pa).any s.bufail

/-- A byte of the pool as the memory-side cache or the pool gives it. -/
def State.behindL2 (s : State) (pa : Nat) : Byte :=
  match s.mscLine pa with
  | some l => sget 0 l.cells pa
  | none => sget 0 s.pool pa

/-- The poison that a sector of the pool arrives with: that of its 64-byte unit (R25). -/
def State.poolUnitPoison (s : State) (sec : Nat) : Bool :=
  sget false s.poolPoison (sec / 2 * 2) || sget false s.poolPoison (sec / 2 * 2 + 1)

/-- The poison of a pool sector behind the L2. -/
def State.behindL2Poison (s : State) (sec : Nat) : Bool :=
  match s.mscLine (sec * 32) with
  | some l => l.poison.contains sec
  | none => s.poolUnitPoison sec

/-- A byte at its home L2, the point of coherence (R153). DESIGN CHOICE, log entry 3. DEDUCED, log entry 34. -/
def State.homeByte (s : State) (pa : Nat) : Byte :=
  if 2 ^ 40 ≤ pa ∧ pa < 2 ^ 55 then
    match s.poolL2Line pa with
    | some l => sget 0 l.cells pa
    | none => s.behindL2 pa
  else sget 0 s.mem pa

/-- The poison bit of a 32-byte sector at its home. A unit of host memory arrives with both sectors poisoned
(R25); once its line is dirty each sector has its own bit. -/
def State.homePoison (s : State) (sec : Nat) : Bool :=
  if 2 ^ 40 ≤ sec * 32 ∧ sec * 32 < 2 ^ 55 then
    match s.poolL2Line (sec * 32) with
    | some l => l.poison.contains sec
    | none => s.behindL2Poison sec
  else if 2 ^ 55 ≤ sec * 32 ∧ (s.l2Dirty.any fun l => decide (l.line = sec / 4)) = false then
    sget false s.poison (sec / 2 * 2) || sget false s.poison (sec / 2 * 2 + 1)
  else sget false s.poison sec

/-- `n` bytes at their home. -/
def State.homeBytes (s : State) (pa : Nat) : Nat → List Byte
  | 0 => []
  | n + 1 => s.homeByte pa :: s.homeBytes (pa + 1) n

/-- Numbers `lo`, `lo + 1`, … below `hi`, at most `fuel` of them. -/
def numsFrom (lo hi : Nat) : List Nat := (List.range (hi - lo)).map (lo + ·)

/-- The sectors that a range touches. -/
def sectorsOf (pa n : Nat) : List Nat := if n = 0 then [] else numsFrom (pa / 32) ((pa + n - 1) / 32 + 1)

/-- Whether a range touches a poisoned sector at its home. -/
def State.homePoisoned (s : State) (pa n : Nat) : Bool := (sectorsOf pa n).any s.homePoison

/-- The cells of a range of a memory view, nonzero bytes only. -/
def cellsOf (f : Nat → Byte) (pa : Nat) : Nat → Memory
  | 0 => []
  | n + 1 => if f pa = 0 then cellsOf f (pa + 1) n else (pa, f pa) :: cellsOf f (pa + 1) n

/-- The port behind a pool address, as a function number (R16). -/
def State.portOf (s : State) (pa : Nat) : Nat := 24 + (s.poolPort pa).getD 1

/-- The memory-side cache writes back a line (R29): each 64-byte unit that holds a dirty sector, with
its clean companion; poison crosses the port by 64-byte units (R25). A port whose BUFAIL bit is set discards
the write (R18). -/
def State.mscWriteBack (s : State) (l : PoolLine) (base : Nat) : State :=
  let units := (numsFrom (base / 64) (base / 64 + 4)).filter fun u =>
    l.dirty.any fun d => decide (d / 2 = u)
  if s.bufail (s.portOf base) then s
  else
    units.foldl (fun s u =>
      let bad := l.poison.any fun p => decide (p / 2 = u)
      { s with
        pool := ssetList 0 s.pool (u * 64) ((List.range 64).map fun i => sget 0 l.cells (u * 64 + i))
        poolPoison := sset false (sset false s.poolPoison (u * 2) bad) (u * 2 + 1) bad }) s

/-- The device physical address of a pool offset (R28). -/
def State.poolAddr (s : State) (x : Nat) : Nat :=
  if x < (s.window 1).2 then (s.window 1).1 + x
  else if x < (s.window 1).2 + (s.window 2).2 then (s.window 2).1 + (x - (s.window 1).2)
  else (s.window 3).1 + (x - (s.window 1).2 - (s.window 2).2)

/-- The address of a memory-side cache line (R28). -/
def State.mscBase (s : State) (l : PoolLine) : Nat :=
  s.poolAddr (256 * (2 ^ 26 * (l.tag * s.rfield 0x004 0 6) + l.line))

/-- The resident line that a fill of the memory-side cache at the address would evict. -/
def State.mscVictim (s : State) (pa : Nat) : Option PoolLine :=
  let p := s.mscPlace pa
  if 0x3FFE < p.2 ∨ s.rfield 0x004 0 6 = 0 ∨ (s.mscLine pa).isSome = true then none
  else s.msc.find? fun l => decide (l.line = p.1)

/-- Whether bringing a pool line into the memory-side cache waits on the write-back of a dirty line toward a
port that is down (R18, R29). -/
def State.mscBlocked (s : State) (pa : Nat) : Bool :=
  match s.mscVictim pa with
  | some l => !l.dirty.isEmpty && s.down (s.portOf (s.mscBase l))
  | none => false

/-- A memory-side cache miss (R29): the resident line of the index is evicted and the 256 bytes are
filled from the port, under the key id of the page (R56). -/
def State.mscFill (s : State) (pa : Nat) (key : Nat := 0) : State :=
  let p := s.mscPlace pa
  if 0x3FFE < p.2 ∨ s.rfield 0x004 0 6 = 0 ∨ s.mscBlocked pa = true then s
  else if (s.mscLine pa).isSome then s
  else
    let s1 := match s.mscVictim pa with
      | some l => s.mscWriteBack l (s.mscBase l)
      | none => s
    let base := s.poolAddr (s.poolOffset pa / 256 * 256)
    let line : PoolLine :=
      { line := p.1, tag := p.2, key := key, cells := cellsOf (sget 0 s1.pool) base 256
        poison := (numsFrom (base / 32) (base / 32 + 8)).filter s1.poolUnitPoison }
    { s1 with msc := (s1.msc.filter fun l => decide (l.line ≠ p.1)) ++ [line] }

/-- Whether the write-back of a dirty L2 line of the pool waits: on the port of the line, unless the
memory-side cache holds it, or on that of the line it displaces there (R18, R29, R30). -/
def State.poolHeld (s : State) (pa : Nat) : Bool :=
  (s.mscLine pa).isNone && (s.down (s.portOf pa) || s.mscBlocked pa)

/-- A dirty L2 pool line is written back (R29, R30): to the memory-side cache, or to the pool when the cache
does not hold pool lines; a failed port discards it (R18). -/
def State.cleanPoolLine (s : State) (l : PoolLine) : State :=
  let s0 := { s with poolL2 := s.poolL2.map fun x => if x.line = l.line then { x with dirty := [] } else x }
  if (s.mscLine (l.line * 128)).isNone && s.bufail (s.portOf (l.line * 128)) then s0
  else
    let s1 := s0.mscFill (l.line * 128) l.key
    match s1.mscLine (l.line * 128) with
    | some m =>
      let m' : PoolLine := { m with
        cells := l.dirty.foldl (fun c d =>
          ssetList 0 c (d * 32) ((List.range 32).map fun i => sget 0 l.cells (d * 32 + i))) m.cells
        poison := (m.poison.filter fun p => !l.dirty.contains p) ++ l.poison.filter l.dirty.contains
        dirty := m.dirty.filter (fun d => !l.dirty.contains d) ++ l.dirty }
      { s1 with msc := s1.msc.map fun x => if x.line = m.line then m' else x }
    | none => s1.mscWriteBack { l with dirty := l.dirty } (l.line * 128 / 256 * 256)

/-- Whether a posted store, or a part of one, stands on a line: such a pool line has been brought into the L2 for
it and stays until it is performed. -/
def State.postedOn (s : State) (line : Nat) : Bool :=
  s.posted.any fun p => decide (p.pa < line * 128 + 128) && decide (line * 128 < p.pa + p.data.length)

/-- An L2 pool line leaves the L2 (R30, R156): a dirty one is written back first, which a down port holds; a
pinned line is written back and stays. -/
def State.evictPoolLine (s : State) (l : PoolLine) : State :=
  if s.postedOn l.line || (!l.dirty.isEmpty && s.poolHeld (l.line * 128)) then s
  else
    let s1 := if l.dirty.isEmpty then s else s.cleanPoolLine l
    if s.pinned.contains l.line then s1
    else { s1 with poolL2 := s1.poolL2.filter fun x => decide (x.line ≠ l.line) }

/-- A dirty line of an L2 is written back (R153). Port 0 holds a line of host memory while it is down, and
discards it when it has failed (R18). -/
def State.writeBackLine (s : State) (line : Nat) : State :=
  match s.l2Dirty.find? fun l => decide (l.line = line) with
  | none => s
  | some old =>
    let s0 := { s with l2Dirty := s.l2Dirty.filter fun l => decide (l.line ≠ line) }
    if line * 128 < 2 ^ 55 then s0
    else if s.down 24 then s
    else if s.bufail 24 then
      { s0 with
        mem := ssetList 0 s0.mem (line * 128) ((List.range 128).map fun i => sget 0 old.cells (line * 128 + i))
        poison := (numsFrom (line * 4) (line * 4 + 4)).foldl (fun m n => sset false m n (old.poison.contains n)) s0.poison }
    else s0

/-! ### The sets of the L2s (R153, R155, R156)

An L2 has 65,536 sets of 16 ways. The model names the lines whose place in a set can be seen: pool lines, dirty
lines and pinned ones; a clean line of HBM or of host memory reads as its memory does. -/

/-- Whether two lines stand in one set of one L2 (R149, R153). -/
def l2Same (a b : Nat) : Bool := decide (homeDie (a * 128) = homeDie (b * 128)) && decide (Config.l2Set a = Config.l2Set b)

/-- The lines that stand in the set of a line. -/
def State.l2Set (s : State) (line : Nat) : List Nat :=
  ((s.poolL2.map (·.line) ++ s.l2Dirty.map (·.line) ++ s.pinned).eraseDups).filter (l2Same line)

/-- Whether the set of a line that does not stand in it holds 16 lines. -/
def State.l2Full (s : State) (line : Nat) : Bool :=
  decide (16 ≤ s.poolL2.length + s.l2Dirty.length + s.pinned.length) && !s.pinned.contains line
    && decide (16 ≤ (s.l2Set line).length)

/-- Whether a line may be the victim of a fill (R18, R156): a pinned line may not, nor one whose write-back a port
holds. -/
def State.l2Leaves (s : State) (line : Nat) : Bool :=
  !s.pinned.contains line &&
    match s.poolL2.find? fun l => decide (l.line = line) with
    | some l => !s.postedOn line && (l.dirty.isEmpty || !s.poolHeld (line * 128))
    | none => decide (line * 128 < 2 ^ 55) || !s.down 24

/-- A line makes room in the set of another: the oldest that may leave. DESIGN CHOICE, log entry 15. -/
def State.l2Room (s : State) (line : Nat) : State :=
  if s.l2Full line then
    match (s.l2Set line).find? s.l2Leaves with
    | some x =>
      (match s.poolL2.find? fun l => decide (l.line = x) with
      | some l => s.evictPoolLine l
      | none => s.writeBackLine x)
    | none => s
  else s

/-- Whether a fill of the L2 with a pool line waits: no line of its set can leave, or, where the memory-side cache
holds no line of it, the port is down or has failed, or the cache's own fill waits (R18, R29). -/
def State.fillHeld (s : State) (pa : Nat) : Bool :=
  (s.l2Full (pa / 128) && ((s.l2Set (pa / 128)).find? s.l2Leaves).isNone)
    || ((s.mscLine pa).isNone && (s.down (s.portOf pa) || s.bufail (s.portOf pa) || s.mscBlocked pa))

/-- Brings a pool line into the L2 under the key id of a page (R29, R56, R153): the L2 fills it through the
memory-side cache. -/
def State.poolFill (s : State) (pa : Nat) (key : Nat := 0) : State :=
  if (s.poolL2Line pa).isSome || s.fillHeld pa then s
  else
    let s0 := s.l2Room (pa / 128)
    if s0.fillHeld pa then s0
    else
      let s1 := s0.mscFill pa key
      let base := pa / 128 * 128
      let line : PoolLine :=
        { line := pa / 128, key := key, cells := cellsOf s1.behindL2 base 128
          poison := (numsFrom (base / 32) (base / 32 + 4)).filter s1.behindL2Poison }
      { s1 with poolL2 := s1.poolL2 ++ [line] }

/-- Fills the L2 lines that a read or write of a range touches, when they are pool lines. -/
def State.touch (s : State) (pa n : Nat) (key : Nat := 0) : State :=
  if 2 ^ 40 ≤ pa ∧ pa < 2 ^ 55 ∧ 0 < n then
    (numsFrom (pa / 128) ((pa + n - 1) / 128 + 1)).foldl (fun s l => s.poolFill (l * 128) key) s
  else s

/-- The dirty line that makes room for another in a full set without a byte changing: of HBM, or of host memory
whose port is ready. -/
def State.l2Spare (s : State) (line : Nat) : Option Nat :=
  (s.l2Set line).find? fun x => !s.pinned.contains x && s.l2Dirty.any (fun l => decide (l.line = x))
    && (decide (x * 128 < 2 ^ 55) || (!s.down 24 && !s.bufail 24))

/-- A line of an L2 turns dirty (R153): what memory holds under it stands aside until the line is written back.
A unit of host memory that was poisoned has arrived with both sectors poisoned (R25). In a set that holds 16 lines a
dirty line is written back first; where none can be, the store is written through. DESIGN CHOICE, log entry 15. -/
def State.dirtyLine (s : State) (line : Nat) : State :=
  if s.l2Dirty.any fun l => decide (l.line = line) then s
  else
    let full := s.l2Full line
    let keep := match (if full then s.l2Spare line else none) with
      | some x => s.l2Dirty.filter fun l => decide (l.line ≠ x)
      | none => s.l2Dirty
    if full && decide (keep.length = s.l2Dirty.length) then s
    else
      let secs := numsFrom (line * 4) (line * 4 + 4)
      { s with
        l2Dirty := keep ++ [{ line := line, cells := cellsOf (sget 0 s.mem) (line * 128) 128, poison := secs.filter s.homePoison }]
        poison := if line * 128 < 2 ^ 55 then s.poison else secs.foldl (fun m n => sset false m n (s.homePoison n)) s.poison }

/-- Every dirty line of the L2s is discarded (R21): memory reads as it did beneath them. -/
def State.discardDirty (s : State) : State :=
  s.l2Dirty.foldl (fun s l =>
    { s with
      mem := ssetList 0 s.mem (l.line * 128) ((List.range 128).map fun i => sget 0 l.cells (l.line * 128 + i))
      poison := (numsFrom (l.line * 4) (l.line * 4 + 4)).foldl (fun m n => sset false m n (l.poison.contains n)) s.poison })
    { s with l2Dirty := [] }

/-- Writes one byte at its home. -/
def State.putByte (s : State) (pa : Nat) (b : Byte) : State :=
  if 2 ^ 40 ≤ pa ∧ pa < 2 ^ 55 then
    { s with poolL2 := s.poolL2.map fun l =>
        if l.line = pa / 128 then
          { l with cells := sset 0 l.cells pa b
                   dirty := if l.dirty.contains (pa / 32) then l.dirty else l.dirty ++ [pa / 32] }
        else l }
  else { (s.dirtyLine (pa / 128)) with mem := sset 0 s.mem pa b }

/-- Sets or clears the poison bit of a sector at its home. -/
def State.setPoison (s : State) (sec : Nat) (p : Bool) : State :=
  if 2 ^ 40 ≤ sec * 32 ∧ sec * 32 < 2 ^ 55 then
    let s1 := s.poolFill (sec * 32)
    { s1 with poolL2 := s1.poolL2.map fun l =>
        if l.line = sec / 4 then
          { l with poison := l.poison.filter (fun x => decide (x ≠ sec)) ++ (if p then [sec] else [])
                   dirty := if l.dirty.contains sec then l.dirty else l.dirty ++ [sec] }
        else l }
  else
    let s1 := s.dirtyLine (sec / 4)
    { s1 with poison := sset false s1.poison sec p }

/-- Writes consecutive bytes at their home, in ascending order. -/
def State.putBytes (s : State) (pa : Nat) : List Byte → State
  | [] => s
  | b :: bs => (s.putByte pa b).putBytes (pa + 1) bs

/-- The sectors that a range covers whole. -/
def wholeSectors (pa n : Nat) : List Nat := numsFrom ((pa + 31) / 32) ((pa + n) / 32)

/-- A store performed at its home L2: the bytes are written, and a sector that is written whole loses
its poison (R119). -/
def State.writeHome (s : State) (pa : Nat) (bs : List Byte) : State :=
  (wholeSectors pa bs.length).foldl (fun s n => s.setPoison n false)
    ((s.touch pa bs.length).putBytes pa bs)

/-! ### Keys (R56 to R63) -/

/-- Whether the slot of a key id holds a key (R57). DESIGN CHOICE, log entry 5. -/
def State.keyLoaded (s : State) (key : Nat) : Bool := bitAt (s.reg (0x0A8 + key)) 7

/-- The key id of a leaf (R159). -/
def keyOf (leaf : DWord) : Nat := fieldOf leaf 10 6

/-- The two keys of a slot. -/
def KeySlot.pair (k : KeySlot) : BitVec 512 := k.dataKey ++ k.tweakKey

/-- The bytes of a sector that old keys encrypted, as the keys of a slot decrypt them (R56, R63). -/
def KeySlot.misread (k : KeySlot) (old : BitVec 512) (sec : Nat) (plain : List Byte) : List Byte :=
  xtsDecrypt k.dataKey k.tweakKey sec (xtsEncrypt (old.extractLsb' 256 256) (old.extractLsb' 0 256) sec plain)

/-- A sector of HBM before an access under a loaded key (R56, R63). One that other keys encrypted reads as
their ciphertext decrypted; a write encrypts it under this key. A sector that no key has encrypted reads as it
stands. DESIGN CHOICE, log entry 5. -/
def State.rekeySector (s : State) (key : Nat) (write : Bool) (sec : Nat) : State :=
  let k : KeySlot := sget {} s.keys key
  match sget none s.seals sec with
  | none => if write then { s with seals := sset none s.seals sec (some k.pair) } else s
  | some old =>
    if old = k.pair then s
    else
      let s1 := s.writeBackLine (sec / 4)
      let plain := (List.range 32).map fun i => sget 0 s1.mem (sec * 32 + i)
      { s1 with mem := ssetList 0 s1.mem (sec * 32) (k.misread old sec plain), seals := sset none s1.seals sec (some k.pair) }

/-- The bytes of an access come under the key id of its page (R56): the sectors of HBM under its keys, and the
pool lines into the L2 with its tag. -/
def State.rekey (s : State) (key : Nat) (write : Bool) (pa n : Nat) : State :=
  if pa < 2 ^ 40 ∧ s.keyLoaded key = true then (sectorsOf pa n).foldl (fun s x => s.rekeySector key write x) s
  else s.touch pa n key

/-! ### The L1 and posted stores -/

/-- A team as the posted stores name it. -/
def Team.uid (t : Team) : Nat := t.inst * 2 ^ 32 + t.index

/-- Whether two ranges of physical bytes meet. -/
def overlaps (a n b m : Nat) : Bool := decide (a < b + m) && decide (b < a + n)

/-- The bytes of a posted store laid over a byte. -/
def Posted.beyond (p : Posted) (pa : Nat) (b : Byte) : Byte :=
  if p.pa ≤ pa ∧ pa < p.pa + p.data.length then p.data.getD (pa - p.pa) b else b

/-- Whether a core sees a posted store: its own, and those of its pair under PAIRCORE (R151, R170). -/
def Posted.on (p : Posted) (core : Nat) : Bool :=
  decide (p.core = core) || (p.pair && decide (p.core / 2 = core / 2))

/-- Whether a posted store meets a range as a core sees it. -/
def Posted.meets (p : Posted) (core pa n : Nat) : Bool := p.on core && overlaps p.pa p.data.length pa n

/-- A byte as the posted stores of one core leave it over its home (R171). -/
def State.coreHomeByte (s : State) (core pa : Nat) : Byte :=
  s.posted.foldl (fun b p => if p.on core then p.beyond pa b else b) (s.homeByte pa)

/-- The L1 line of an address in a core, by its tag of key id and partition (R151). -/
def State.l1Line (s : State) (core part key pa : Nat) : Option L1Line :=
  s.l1.find? fun l => decide (l.core = core) && decide (l.part = part) && decide (l.key = key) && decide (l.line = pa / 128)

/-- A byte as a plain load of a core reads it (R172): from its L1 line, else from the home L2 under
the core's own stores. DEDUCED, log entry 6. -/
def State.coreByte (s : State) (core part key pa : Nat) : Byte :=
  match s.l1Line core part key pa with
  | some l => sget 0 l.cells pa
  | none => s.coreHomeByte core pa

/-- The bytes of a plain load. -/
def State.coreBytes (s : State) (core part key pa : Nat) : Nat → List Byte
  | 0 => []
  | n + 1 => s.coreByte core part key pa :: s.coreBytes core part key (pa + 1) n

/-- The poison of a sector as the posted stores of one core leave it (R119): the stores that write the whole
sector clear it, and a landing from a poisoned source sets it. -/
def State.coreHomePoison (s : State) (core sec : Nat) : Bool :=
  s.posted.foldl (fun b p =>
    if !p.on core then b else if p.poisons.contains sec then true else if p.clears.contains sec then false else b)
    (s.homePoison sec)

/-- Whether a plain load of a core reads poison (R151). -/
def State.corePoison (s : State) (core part key sec : Nat) : Bool :=
  match s.l1Line core part key (sec * 32) with
  | some l => l.poison.contains sec
  | none => s.coreHomePoison core sec

/-- A list without the first element of a kind. -/
def dropFirst {α : Type} (f : α → Bool) : List α → List α
  | [] => []
  | x :: r => if f x then r else x :: dropFirst f r

/-- A list with one more element, of which it holds at most n of a kind: the oldest makes room. -/
def pushBounded {α : Type} (n : Nat) (f : α → Bool) (l : List α) (x : α) : List α :=
  (if n ≤ (l.filter f).length then dropFirst f l else l) ++ [x]

/-- The lines of the L1s with one more: a core has 256 sets of 4 ways, and the oldest line of a full set makes
room (R151). DESIGN CHOICE, log entry 15. -/
def l1Push (ls : List L1Line) (x : L1Line) : List L1Line :=
  if (ls.filter fun l => decide (l.core = x.core)).length < 4 then ls ++ [x]
  else pushBounded 4 (fun l => decide (l.core = x.core) && decide (Config.l1Set l.line = Config.l1Set x.line)) ls x

/-- Fills the L1 line of an address (R151, R172). Host lines are cached in the home L2 alone (R149). -/
def State.l1Fill (s : State) (core part key pa : Nat) : State :=
  if 2 ^ 55 ≤ pa ∨ (s.l1Line core part key pa).isSome = true then s
  else
    let base := pa / 128 * 128
    let line : L1Line :=
      { core := core, part := part, key := key, line := pa / 128, cells := cellsOf (s.coreHomeByte core) base 128
        poison := (numsFrom (base / 32) (base / 32 + 4)).filter (s.coreHomePoison core) }
    { s with l1 := l1Push s.l1 line }

/-- Removes a partition's lines from the L1 of a core, and of its pair under PAIRCORE (R172). -/
def State.l1Drop (s : State) (core part : Nat) (pair : Bool) : State :=
  { s with l1 := s.l1.filter fun l =>
      !(decide (l.part = part) && (decide (l.core = core) || (pair && decide (l.core / 2 = core / 2)))) }

/-- Removes the lines of a range from the L1 of a core or pair (R182). -/
def State.l1DropRange (s : State) (core : Nat) (pair : Bool) (pa n : Nat) : State :=
  { s with l1 := s.l1.filter fun l =>
      !((decide (l.core = core) || (pair && decide (l.core / 2 = core / 2)))
        && overlaps (l.line * 128) 128 pa n) }

/-- A store of a partition through a key id updates the line of that tag that its core's L1 holds (R151). -/
def State.l1Update (s : State) (core part key : Nat) (pa : Nat) (bs : List Byte) : State :=
  { s with l1 := s.l1.map fun l =>
      if l.core = core ∧ l.part = part ∧ l.key = key ∧ overlaps (l.line * 128) 128 pa bs.length = true then
        { l with
          cells := (List.range bs.length).foldl (fun c i =>
            if (pa + i) / 128 = l.line then sset 0 c (pa + i) (bs.getD i 0) else c) l.cells }
      else l }

/-- The sectors that an instruction's stores write whole lose their poison in the lines of its tag (R119). -/
def State.l1Clean (s : State) (core part key : Nat) (secs : List Nat) : State :=
  { s with l1 := s.l1.map fun l =>
      if l.core = core ∧ l.part = part ∧ l.key = key then { l with poison := l.poison.filter fun x => !secs.contains x }
      else l }

/-- Whether a later posted store needs an earlier one performed first (R171, R174, R176): they overlap on one
core, or the later is a release and its fibre has made or observed the earlier. -/
def Posted.needs (p q : Posted) : Bool :=
  (q.on p.core && overlaps p.pa p.data.length q.pa q.data.length)
    || (p.rel && ((decide (q.team = p.team) && decide (q.fid = p.fid)) || q.seen.contains (p.team, p.fid)))

/-- Takes from some posted stores, newest first, those that `f` names and all that a taken one needs; both
halves come out oldest first. -/
def takePosted (f : Posted → Bool) : List Posted → List Posted → List Posted → List Posted × List Posted
  | [], acc, rest => (acc, rest)
  | q :: qs, acc, rest =>
    if f q || acc.any (·.needs q) then takePosted f qs (q :: acc) rest else takePosted f qs acc (q :: rest)

/-- Performs one posted store at its home L2 (R119, R153): a sector that its instruction writes whole is clean
once no piece of it is left. -/
def State.performOne (s : State) (p : Posted) (left : List Posted) : State :=
  let s1 := (s.rekey p.key true p.pa p.data.length).writeHome p.pa p.data
  let clean := p.clears.filter fun n => !left.any fun q => q.clears.contains n
  p.poisons.foldl (fun s n => s.setPoison n true) (clean.foldl (fun s n => s.setPoison n false) s1)

/-- Performs posted stores in order. -/
def State.performAll (s : State) : List Posted → State
  | [] => s
  | p :: ps => (s.performOne p (ps ++ s.posted)).performAll ps

/-- Performs the n-th posted store at its home L2, after every earlier one that it needs. DEDUCED, log entry 6. -/
def State.performPosted (s : State) (n : Nat) : State :=
  match s.posted[n]? with
  | none => s
  | some p =>
    let r := takePosted (fun _ => false) (s.posted.take n).reverse [p] []
    ({ s with posted := r.2 ++ s.posted.drop (n + 1) }).performAll r.1

/-- Performs the posted stores that `f` names and all that they need, in order. DEDUCED, log entry 35. -/
def State.performWhere (s : State) (f : Posted → Bool) : State :=
  let r := takePosted f s.posted.reverse [] []
  ({ s with posted := r.2 }).performAll r.1

/-- One byte of a landing stands posted alone, so that it can be performed before the others (R169, R184). -/
def Posted.split (p : Posted) (i : Nat) : List Posted :=
  if !p.landing || p.data.length ≤ i then [p]
  else
    [{ p with data := p.data.take i }, { p with pa := p.pa + i, data := (p.data.drop i).take 1 },
     { p with pa := p.pa + i + 1, data := p.data.drop (i + 1) }].filter fun q => !q.data.isEmpty

/-- Performs one byte of the n-th posted landing. DEDUCED, log entry 6. -/
def State.performByte (s : State) (n i : Nat) : State :=
  match s.posted[n]? with
  | none => s
  | some p =>
    if p.landing && decide (i < p.data.length) then
      ({ s with posted := s.posted.take n ++ p.split i ++ s.posted.drop (n + 1) }).performPosted (n + (if i = 0 then 0 else 1))
    else s.performPosted n

/-- Fibres of a team observe the posted stores that `f` names (R176). -/
def State.observe (s : State) (uid : Nat) (fids : List Nat) (f : Posted → Bool) : State :=
  let new := fun (p : Posted) => fids.filter fun x =>
    !(decide (p.team = uid) && decide (p.fid = x)) && !p.seen.contains (uid, x)
  { s with posted := s.posted.map fun p => if f p then { p with seen := p.seen ++ (new p).map fun x => (uid, x) } else p }

/-- An acquire at TEAM scope or wider or a completed barrier wait: the fibres observe every store of their team, and
every store that a fibre of it has observed; a landing only once a fibre has read it or has waited for it with WMWAIT (R174,
R175, R176, R184). DEDUCED, log entry 6. -/
def State.observeTeam (s : State) (uid : Nat) (fids : List Nat) : State :=
  s.observe uid fids fun p => (decide (p.team = uid) && !p.landing) || p.seen.any fun x => decide (x.1 = uid)

/-- A release of some fibres (R174, R176, R178): their own posted stores, and those they have observed, are
performed with all that they need. DEDUCED, log entry 6. -/
def State.performFor (s : State) (uid : Nat) (fids : List Nat) : State :=
  s.performWhere fun p => fids.any fun x => (decide (p.team = uid) && decide (p.fid = x)) || p.seen.contains (uid, x)

/-- A release of a whole team with its engines, such as its end (R79, R114). DEDUCED, log entry 6. -/
def State.performTeam (s : State) (uid : Nat) : State :=
  s.performWhere fun p => decide (p.team = uid) || p.seen.any fun x => decide (x.1 = uid)

/-- A release of every team of an instance (R35, R79). -/
def State.performInst (s : State) (inst : Nat) : State :=
  s.performWhere fun p => decide (p.team / 2 ^ 32 = inst) || p.seen.any fun x => decide (x.1 / 2 ^ 32 = inst)

/-! ### Translation -/

/-- The kind of an access (R106, R158). -/
inductive Access where
  | read | write | exec
  deriving DecidableEq, Repr

/-- The outcome of translating one access (R55, R106, R160, R161, R48). -/
inductive Xlat where
  | ok (pa : Nat) (leaf : DWord) (lost : Bool)   -- `lost`: a read gives poison, a write is discarded
  | remote (owner : Nat)
  | held
  | recoverable (reason : Nat)
  | page (detail : Nat) (pa : Option Nat)
  | world
  | shardRemote
  | shardNodev
  deriving DecidableEq, Repr

/-- What a walk finds: a leaf and the log2 of its page size, or a fault (R160). -/
inductive Walk where
  | leaf (e : DWord) (bits : Nat)
  | notPresent
  | malformed (pa : Nat)
  | held
  deriving DecidableEq, Repr

/-- The levels of a walk: index position, index width, level (R158). -/
def walkLevels : List (Nat × Nat × Nat) := [(48, 8, 0), (39, 9, 1), (30, 9, 2), (21, 9, 3), (16, 5, 4)]

/-- Whether an entry is malformed at its level, poison apart (R160). -/
def malformedEntry (e : DWord) (level : Nat) : Bool :=
  if bitAt e 62 then
    decide (fieldOf e 0 8 ≠ 0) || decide (level ≤ 1)
      || (decide (level = 3) && decide (fieldOf e 16 5 ≠ 0))
      || (decide (level = 2) && decide (fieldOf e 16 14 ≠ 0))
      || (bitAt e 58 && decide (fieldOf e 60 2 ≠ 0))
  else decide (fieldOf e 0 8 ≠ 0) || decide (fieldOf e 56 6 ≠ 0) || decide (level = 4)

/-- Whether an access to the address must be held (R18, R29, R31). -/
def State.targetHeld (s : State) (pa : Nat) : Bool :=
  (s.functionsOf pa).any s.down
    || (decide (2 ^ 40 ≤ pa) && decide (pa < 2 ^ 55)
      && (bitAt (s.reg 0x004) 30 || ((s.poolL2Line pa).isNone && !s.targetFailed pa && s.fillHeld pa)))

/-- A non-leaf entry that the walkers of a base die have cached (R162). -/
def State.walkHit (s : State) (die k : Nat) (va : DWord) (pos : Nat) : Option DWord :=
  (s.walks.find? fun e => decide (e.die = die) && decide (e.part = k) && decide (e.bits = pos)
    && decide (e.vpn = va.toNat / 2 ^ pos)).map (·.entry)

/-- A page-table entry as the L2 holds it (R163). -/
def State.tableEntry (s : State) (pa : Nat) : DWord := BitVec.ofNat 64 (leWord (s.homeBytes pa 8))

/-- Walks partition k's page table from a table address (R158, R160, R162). A table has no page and so no key
id: a walk needs no key slot. DESIGN CHOICE, log entry 74. -/
def State.walkFrom (s : State) (die k : Nat) (va : DWord) (table : Nat) : List (Nat × Nat × Nat) → Walk
  | [] => .notPresent
  | (pos, width, level) :: rest =>
    match s.walkHit die k va pos with
    | some e => s.walkFrom die k va (fieldOf e 8 48 * 256) rest
    | none =>
      let pa := table + 8 * fieldOf va pos width
      if s.targetHeld pa then .held
      else if s.homePoison (pa / 32) || s.targetFailed pa then .malformed pa
      else
        let e := s.tableEntry pa
        if !bitAt e 63 then .notPresent
        else if malformedEntry e level then .malformed pa
        else if bitAt e 62 then .leaf e pos
        else s.walkFrom die k va (fieldOf e 8 48 * 256) rest

/-- Partition k's root table. -/
def State.rootTable (s : State) (k : Nat) : Nat := fieldOf (s.reg (pidx k 10)) 8 48 * 256

/-- Walks partition k's table (R157, R158): a walker of the base die whose stack holds the root (R163). -/
def State.walk (s : State) (k : Nat) (va : DWord) : Walk :=
  if bitAt (s.reg (pidx k 10)) 0 then s.walkFrom (stackOf (s.rootTable k)) k va (s.rootTable k) walkLevels
  else .notPresent

/-- The non-leaf entries that a walk passes. -/
def State.walkTrail (s : State) (die k : Nat) (va : DWord) (table : Nat) : List (Nat × Nat × Nat) → List WalkEntry
  | [] => []
  | (pos, width, _) :: rest =>
    let e := (s.walkHit die k va pos).getD (s.tableEntry (table + 8 * fieldOf va pos width))
    if bitAt e 62 then []
    else { die := die, part := k, vpn := va.toNat / 2 ^ pos, bits := pos, entry := e }
      :: s.walkTrail die k va (fieldOf e 8 48 * 256) rest

/-- A cached translation of an address (R162). -/
def State.tlbHit (s : State) (core k : Nat) (ver : Option Word) (va : DWord) : Option TlbEntry :=
  s.tlb.find? fun e =>
    decide (e.part = k) && decide (e.vpn = va.toNat / 2 ^ e.bits)
      && (e.core == some core || (e.core.isNone && decide (e.die = dieOf core)))
      && (if bitAt e.leaf 58 then e.ver == ver else true)

/-- The world of a core: secure until the security controller is ready (R20, R52). -/
def State.coreSec (s : State) (core : Nat) : Bool :=
  !s.ready 40 || bitAt (s.reg (0x028 + core / 64)) (core % 64)

/-- The world of a port (R20, R52). -/
def State.portSec (s : State) (n : Nat) : Bool := !s.ready 40 || bitAt (s.reg 0x00B) n

/-- The world of a Korben link (R20, R52). -/
def State.linkSec (s : State) (j : Nat) : Bool := !s.ready 40 || bitAt (s.reg 0x00B) (4 + j)

/-- The world of an address under the region registers (R20, R53). -/
def State.regionSec (s : State) (pa : Nat) : Bool :=
  if !s.ready 40 then true
  else
    match (List.range 64).find? (fun i =>
      let w := s.reg (0x068 + i)
      bitAt w 63 && decide (2 ^ 21 * fieldOf w 29 29 ≤ pa)
        && decide (pa < 2 ^ 21 * (fieldOf w 29 29 + fieldOf w 0 29))) with
    | some i => bitAt (s.reg (0x068 + i)) 62
    | none => false

/-- R55, R92: whether an access of a block of world `sec` in partition k is cross-world. -/
def State.crossWorld (s : State) (sec : Bool) (k pa : Nat) (leaf : DWord) : Bool :=
  let key := fieldOf leaf 10 6
  let region := s.regionSec pa
  (sec != region) || (bitAt leaf 59 != region)
    || (decide (pa < 2 ^ 40) && s.keyLoaded key && (bitAt (s.reg (0x0A8 + key)) 6 != sec))
    || !bitAt (s.reg (pidx k 2)) key

/-- The address of a versioned page for a bound launch (R166): the address and whether it lies in a
Cellar copy, or the detail of the fault. -/
def State.versioned (s : State) (ver : Option Word) (pa : Nat) : (Nat × Bool) ⊕ Nat :=
  match ver with
  | none => .inl (pa, false)
  | some v =>
    let c := s.reg (0x038 + v.toNat % 16)
    if bitAt c 31 && decide (fieldOf c 32 32 = v.toNat) then
      let base := 2 ^ 26 * s.rfield 0x00F 16 24
      if pa < base ∨ 2 ^ 26 * s.rfield 0x00F 40 24 ≤ pa - base then .inr 3
      else .inl (2 ^ 26 * fieldOf c 0 24 + (pa - base), true)
    else if v.toNat = s.rfield 0x010 0 32 then .inl (pa, false)
    else .inr 2

/-- The owner of a sharded address (R47). -/
def State.ownerOf (s : State) (va : DWord) : Nat :=
  let h := fieldOf va 16 8 ^^^ fieldOf va 24 8 ^^^ fieldOf va 32 8 ^^^ fieldOf va 40 8 ^^^ fieldOf va 48 8
  s.rfield (0x300 + h) 0 8

/-- Whether a device is the DEV of a valid TOPO entry (R48). -/
def State.inTopo (s : State) (dev : Nat) : Bool :=
  (List.range 256).any fun j => bitAt (s.reg (0x200 + j)) 15 && decide (s.rfield (0x200 + j) 0 8 = dev)

/-- R106: a fault that may be recoverable. -/
def State.softFault (s : State) (k reason : Nat) : Xlat :=
  if bitAt (s.reg (pidx k 4)) 5 then .recoverable reason else .page 0 none

/-- The physical address that a leaf gives. -/
def leafAddr (e : DWord) (bits : Nat) (va : DWord) : Nat := 2 ^ 16 * fieldOf e 16 40 + va.toNat % 2 ^ bits

/-- Whether a leaf has no physical target, as the walk finds it (R160). -/
def State.noTarget (s : State) (e : DWord) (bits : Nat) (va : DWord) : Bool :=
  let p0 := leafAddr e bits va
  !s.hasTarget p0 || (bitAt e 56 != (decide (2 ^ 40 ≤ p0) && decide (p0 < 2 ^ 55)))

/-- What an access to a page comes to once its judgement is made: a function that is down, a key slot that is BUSY or
a security controller that is not ready holds it, and a failed function or an empty slot loses it (R18, R20, R58). -/
def State.reach (s : State) (key pa : Nat) : Option Bool :=
  let hbm := decide (pa < 2 ^ 40)
  if s.targetHeld pa || (hbm && bitAt (s.reg (0x0A8 + key)) 5) || (hbm && s.down 40) then none
  else some (s.targetFailed pa || (hbm && !s.keyLoaded key))

/-- The same as an outcome. -/
def State.reachLeaf (s : State) (pa : Nat) (e : DWord) : Xlat :=
  match s.reach (keyOf e) pa with
  | none => .held
  | some lost => .ok pa e lost

/-- The judgement at a leaf that has a target, in the order of R160 and R266: version, world, permission, then
the owner of a sharded block. `remoteOk` says that the access is a store or a RED (R48). A block whose owner is
DEVID is local, whether or not a TOPO entry names DEVID. DESIGN CHOICE, log entry 79. A key slot holds or loses
accesses to HBM alone: whether one to a pool or host page waits for BUSY, or is lost by an empty slot, the manual leaves
open, and here it does not. DESIGN CHOICE, log entry 5. -/
def State.judgeLeaf (s : State) (sec : Bool) (k : Nat) (ver : Option Word) (va : DWord) (acc : Access)
    (remoteOk : Bool) (e : DWord) (bits : Nat) : Xlat :=
  let p0 := leafAddr e bits va
  match (if bitAt e 58 then s.versioned ver p0 else .inl (p0, false)) with
  | .inr d => .page d (if d = 3 then some p0 else none)
  | .inl (pa, copied) =>
    if s.crossWorld sec k pa e then .world
    else if acc = .write ∧ (bitAt e 9 = false ∨ copied = true) then s.softFault k 1
    else if acc = .exec ∧ bitAt e 8 = false then s.softFault k 1
    else
      let owner := s.ownerOf va
      let self := s.rfield 0x008 0 8
      if bitAt e 57 && decide (owner ≠ self) then
        if !s.inTopo owner then .shardNodev
        else if remoteOk then .remote owner else .shardRemote
      else s.reachLeaf pa e

/-- An access of a unit that is under way, through the page that it has translated: its judgement is made (R54,
R164, R284). -/
def State.underWay (s : State) (ver : Option Word) (va : DWord) (e : DWord) (bits : Nat) : Xlat :=
  let p0 := leafAddr e bits va
  s.reachLeaf (match (if bitAt e 58 then s.versioned ver p0 else .inl (p0, false)) with | .inl x => x.1 | .inr _ => p0) e

/-- Translates one access by a walk of partition k's table (R158 to R161). -/
def State.xlateWalk (s : State) (sec : Bool) (k : Nat) (ver : Option Word) (va : DWord) (acc : Access)
    (remoteOk : Bool) : Xlat :=
  if fieldOf va 56 8 ≠ 0 then .page 4 none
  else
    match s.walk k va with
    | .held => .held
    | .notPresent => s.softFault k 0
    | .malformed pa => .page 6 (some pa)
    | .leaf e bits =>
      if s.noTarget e bits va then .page 3 (some (leafAddr e bits va)) else s.judgeLeaf sec k ver va acc remoteOk e bits

/-- Translates one access of a block of world `sec`, issued from a core for partition k (R148 to
R166). With EN = 0 nothing is present, cached or not (R157). A cached translation has its target already. -/
def State.xlate (s : State) (sec : Bool) (core k : Nat) (ver : Option Word) (va : DWord) (acc : Access)
    (remoteOk : Bool) : Xlat :=
  if fieldOf va 56 8 ≠ 0 then .page 4 none
  else if bitAt (s.reg (pidx k 10)) 0 = false then s.softFault k 0
  else
    match s.tlbHit core k ver va with
    | some t => s.judgeLeaf sec k ver va acc remoteOk t.leaf t.bits
    | none => s.xlateWalk sec k ver va acc remoteOk

/-- The walkers of a base die cache a non-leaf entry, at most 4,096 of them (R162). -/
def State.walkFill (s : State) (e : WalkEntry) : State :=
  if (s.walks.any fun x => decide (x.die = e.die) && decide (x.part = e.part) && decide (x.bits = e.bits)
    && decide (x.vpn = e.vpn)) then s
  else { s with walks := pushBounded 4096 (fun x => decide (x.die = e.die)) s.walks e }

/-- A translation enters the TLB of its core, of 512 entries, and that of its die, of 16,384 (R162). -/
def State.tlbPush (s : State) (t : TlbEntry) : State :=
  let mine := pushBounded 512 (fun x => decide (x.core = t.core)) s.tlb t
  { s with tlb := pushBounded 16384 (fun x => x.core.isNone && decide (x.die = t.die)) mine { t with core := none } }

/-- Caches the translation of an access that a walk has completed; a walk that ends in a fault caches nothing
(R162, R163). -/
def State.tlbFill (s : State) (core k : Nat) (ver : Option Word) (va : DWord) : State :=
  match s.tlbHit core k ver va with
  | some _ => s
  | none =>
    match s.walk k va with
    | .leaf e bits =>
      let p0 := leafAddr e bits va
      let bad := match (if bitAt e 58 then s.versioned ver p0 else .inl (p0, false)) with
        | .inr _ => true
        | .inl _ => false
      if s.noTarget e bits va || bad then s
      else
        ((s.walkTrail (stackOf (s.rootTable k)) k va (s.rootTable k) walkLevels).foldl State.walkFill s).tlbPush
          { core := some core, die := dieOf core, part := k, vpn := va.toNat / 2 ^ bits
            bits := bits, ver := if bitAt e 58 then ver else none, leaf := e }
    | _ => s

/-- Removes from every TLB and walker cache the entries of partition k that cover a 64 KiB block, or all of
them (R164). -/
def State.dropTranslations (s : State) (k : Nat) (block : Option Nat) : State :=
  let hit := fun (vpn bits : Nat) => match block with
    | some b => decide (vpn = b / 2 ^ (bits - 16))
    | none => true
  { s with tlb := s.tlb.filter fun e => !(decide (e.part = k) && hit e.vpn e.bits)
           walks := s.walks.filter fun e => !(decide (e.part = k) && hit e.vpn e.bits) }

/-- What an access leaves in the log: an entry for the first one in an empty episode of its key slot (R58),
and its count in the entry of a failed function (R18). DEDUCED, log entry 60. DEDUCED, log entry 68. -/
def State.noteAccess (s0 : State) (pa key k unit : Nat) (byCore : Bool := true) : State :=
  let s := ((s0.functionsOf pa ++ (if pa < 2 ^ 40 then [40] else [])).filter s0.bufail).foldl State.foldBufail s0
  let slot : KeySlot := sget {} s.keys key
  if pa < 2 ^ 40 ∧ s.keyLoaded key = false ∧ slot.logged = false then
    ({ s with keys := sset {} s.keys key { slot with logged := true } }).addLog
      { platformEntry 0x0406 k (BitVec.ofNat 64 pa) (BitVec.ofNat 64 key) with
        unit := unit, byCore := byCore, die := 0x10 + stackOf pa }
  else s

/-- The same for an access through a leaf. -/
def State.noteKeyEmpty (s : State) (pa : Nat) (leaf : DWord) (k unit : Nat) (byCore : Bool := true) : State :=
  s.noteAccess pa (keyOf leaf) k unit byCore

end Sys2Proof.Machine
end

