-- ==== Sys2Proof/Machine/Larder.lean ====
section
/-! DEFINITION. Accesses that the scheduler and the engines make for a partition, the Cellar's holds
(R166, R377, R378), and word 0 of a Larder slot (R358 to R362, R372, R386). -/

namespace Sys2Proof.Machine

/-! ### Accesses of the scheduler and the engines -/

/-- The world in which an access of partition k is judged: that of the core whose group it serves (R358), or the
partition's own for the scheduler. -/
def State.servedSec (s : State) (core : Option Nat) (k : Nat) : Bool :=
  match core with
  | some c => s.coreSec c
  | none => s.psec k

/-- An access of an engine at the home L2 for a group of a core, as an atomic is (R171, R359): the core's own stores to
the bytes are performed, and its L1 gives up their lines. -/
def State.atHome (s : State) (core : Option Nat) (pa n : Nat) : State :=
  match core with
  | some c => (s.performWhere fun p => p.meets c pa n).l1DropRange c true pa n
  | none => s

/-- Writes bytes of one line for partition k, by a walk of its table. -/
def State.enginePut (s : State) (core : Option Nat) (k : Nat) (ver : Option Word) (va : DWord) (bs : List Byte) : State × Xlat :=
  match s.xlateWalk (s.servedSec core k) k ver va .write false with
  | .ok pa leaf lost =>
    let s1 := s.noteKeyEmpty pa leaf k 0xFFFF
    (if lost then s1 else ((s1.atHome core pa bs.length).rekey (keyOf leaf) true pa bs.length).writeHome pa bs, .ok pa leaf lost)
  | x => (s, x)

/-- Writes bytes of one line for the scheduler of partition k, in its own world. -/
def State.schedPut (s : State) (k : Nat) (ver : Option Word) (va : DWord) (bs : List Byte) : State × Xlat :=
  s.enginePut none k ver va bs

/-- What a read of the scheduler or of an engine gives: the bytes, with the offset of the first poisoned
one. -/
inductive Got where
  | ok (bs : List Byte) (poison : Option Nat) (s : State)
  | fault (x : Xlat) (va : DWord)

/-- The offset of the first poisoned byte of a range at its home. -/
def State.firstPoison (s : State) (pa n : Nat) : Option Nat :=
  ((sectorsOf pa n).find? s.homePoison).map fun sec => sec * 32 - pa

/-- Splits a range at its 4 KiB borders, as addresses with lengths: each part lies in one page and in one HBM stack
(R149). -/
def blocksOf (va n : Nat) : Nat → List (Nat × Nat)
  | 0 => []
  | fuel + 1 =>
    if n = 0 then []
    else
      let m := Nat.min n (2 ^ 12 - va % 2 ^ 12)
      (va, m) :: blocksOf (va + m) (n - m) fuel

/-- Reads the parts of a range in order. -/
def State.schedParts (s : State) (sec : Bool) (core : Option Nat) (k : Nat) (ver : Option Word) (acc : List Byte)
    (poison : Option Nat) : List (Nat × Nat) → Got
  | [] => .ok acc poison s
  | (va, n) :: rest =>
    let a : DWord := BitVec.ofNat 64 va
    match s.xlateWalk sec k ver a .read false with
    | .ok pa leaf lost =>
      let s1 := ((s.noteKeyEmpty pa leaf k 0xFFFF).atHome core pa n).rekey (keyOf leaf) false pa n
      let bs := if lost then List.replicate n 0 else s1.homeBytes pa n
      let p := if lost then some 0 else s1.firstPoison pa n
      let poison' := match poison with
        | some x => some x
        | none => p.map (acc.length + ·)
      s1.schedParts sec core k ver (acc ++ bs) poison' rest
    | x => .fault x a

/-- Reads a range for partition k, by a walk of its table. -/
def State.engineGet (s : State) (core : Option Nat) (k : Nat) (ver : Option Word) (va : DWord) (n : Nat) : Got :=
  s.schedParts (s.servedSec core k) core k ver [] none (blocksOf va.toNat n (n / 2 ^ 12 + 2))

/-- Reads a range for the scheduler of partition k, in its own world. -/
def State.schedGet (s : State) (k : Nat) (ver : Option Word) (va : DWord) (n : Nat) : Got :=
  s.engineGet none k ver va n

/-- The log entry of a fault that an access meets where no group takes it: cross-world, no target and a malformed
table entry are always logged (R55, R161). `e` carries the launch and the team. -/
def State.logXlat (s : State) (k : Nat) (x : Xlat) (va : DWord) (e : LogEntry → LogEntry := id) : State :=
  match x with
  | .world => s.addLog (e { platformEntry 0x0201 k va 0 with cls := 1 })
  | .page d pa => if d = 3 ∨ d = 6 then s.addLog (e { platformEntry 0x0200 k va (BitVec.ofNat 64 (d + pa.getD 0 * 256)) with cls := 1 }) else s
  | _ => s

/-- The 64-bit word at a byte offset of a list of bytes. -/
def dwordAt (bs : List Byte) (off : Nat) : DWord := BitVec.ofNat 64 (leWord ((bs.drop off).take 8))

/-- The 32-bit word at a byte offset of a list of bytes. -/
def wordAt (bs : List Byte) (off : Nat) : Word := BitVec.ofNat 32 (leWord ((bs.drop off).take 4))

/-- The bytes of a 64-bit word. -/
def bytes64 (w : DWord) : List Byte := leBytes 8 w.toNat

/-- The bytes of a 32-bit word. -/
def bytes32 (w : Word) : List Byte := leBytes 4 w.toNat

/-- Writes host memory through port 0; the port of a failed function discards the write (R18). -/
def State.hostPut (s : State) (pa : Nat) (bs : List Byte) : State :=
  if s.bufail 24 then s.foldBufail 24 else s.writeHome pa bs

/-- Whether port 0 takes accesses, be it to fail them (R16, R18). -/
def State.port0 (s : State) : Bool := s.ready 24 || s.bufail 24

/-! ### The Cellar -/

/-- Whether the Cellar entry of a version holds it (R376). -/
def State.cellarHas (s : State) (v : Word) : Bool :=
  let c := s.reg (0x038 + v.toNat % 16)
  bitAt c 31 && decide (fieldOf c 32 32 = v.toNat)

/-- The distance of a version below VCUR.VER, modulo 2^32. -/
def State.verAge (s : State) (v : Word) : Nat := (BitVec.ofNat 32 (s.rfield 0x010 0 32) - v).toNat

/-- Whether a version is retained (R376). -/
def State.retained (s : State) (v : Word) : Bool :=
  decide (v.toNat = s.rfield 0x010 0 32) || (decide (s.verAge v ≤ s.rfield 0x011 0 5) && s.cellarHas v)

/-- Binds an instance to a version (R378); none when the count stands at 127 (HOLDFULL). -/
def State.bindHold (s : State) (v : Word) : Option State :=
  let i := 0x038 + v.toNat % 16
  if s.cellarHas v then
    if s.rfield i 24 7 = 127 then none else some (s.setRfield i 24 7 (s.rfield i 24 7 + 1))
  else if s.rfield 0x010 32 7 = 127 then none
  else some (s.setRfield 0x010 32 7 (s.rfield 0x010 32 7 + 1))

/-- Releases a hold from the count that holds the version now; an entry beyond DEPTH gives up its version
when its last hold goes (R377, R378). -/
def State.releaseHold (s : State) (v : Word) : State :=
  let i := 0x038 + v.toNat % 16
  if s.cellarHas v then
    let s1 := s.setRfield i 24 7 (s.rfield i 24 7 - 1)
    if s1.rfield i 24 7 = 0 ∧ s1.rfield 0x011 0 5 < s1.verAge v then s1.setRfield i 31 1 0 else s1
  else s.setRfield 0x010 32 7 (s.rfield 0x010 32 7 - 1)

/-! ### The Larder -/

/-- Whether partition k's Larder is disabled (R358). -/
def State.larderOff (s : State) (k : Nat) : Bool :=
  !bitAt (s.reg (pidx k 12)) 0 || decide (s.rfield (pidx k 13) 0 25 = 0)

/-- The address of slot i (R358). -/
def State.slotAddr (s : State) (k i : Nat) : DWord :=
  BitVec.ofNat 64 (s.rfield (pidx k 12) 7 49 * 128 + 128 * i)

/-- The fields of word 0 (R360). -/
def w0Gen (w : DWord) : Nat := fieldOf w 32 16
/-- STATUS of word 0. -/
def w0Status (w : DWord) : Nat := fieldOf w 48 8

/-- Word 0 as the engine reads it. -/
inductive Word0 where
  | ok (w : DWord)
  | unusable (w : DWord)
  | fault (x : Xlat) (va : DWord)

/-- The engine reads word 0 of a slot (R359, R361) for a group of a core: an unusable one is logged once. DEDUCED, log entry 53. DEDUCED, log entry 68. -/
def State.word0 (s : State) (core : Option Nat) (k : Nat) (ver : Option Word) (i : Nat) : Word0 × State :=
  let va := s.slotAddr k i
  match s.engineGet core k ver va 8 with
  | .fault x a => (.fault x a, s)
  | .ok bs poison s1 =>
    let w := dwordAt bs 0
    let p := s1.part k
    if poison.isSome || decide (8 ≤ w0Status w) then
      if p.badSlots.contains i then (.unusable w, s1)
      else
        let e := if poison.isSome then { platformEntry 0x0300 k va 0 with cls := 2 }
          else platformEntry 0x0405 k va w
        (.unusable w, (s1.setPart k { p with badSlots := p.badSlots ++ [i] }).addLog e)
    else (.ok w, s1)

/-- The engine writes word 0 of a slot for a group of a core (R359). -/
def State.setWord0 (s : State) (core : Option Nat) (k : Nat) (ver : Option Word) (i : Nat) (w : DWord) : State × Xlat :=
  s.enginePut core k ver (s.slotAddr k i) (bytes64 w)

/-- Word 0 of a slot returned to FREE: GEN advances and the flags clear (R369, R372). -/
def freedWord0 (w : DWord) (i : Nat) : DWord :=
  BitVec.ofNat 64 (i % 2 ^ 32 + 2 ^ 32 * ((w0Gen w + 1) % 2 ^ 16))

/-- Word 0 as the engine leaves it under an act: a PENDING slot goes back to FREE, a redeem ends with its status, GEN
and FED unchanged, and a REDEEMING slot becomes FAILED (R369, R379, R386). -/
def SlotAct.apply (a : SlotAct) (w : DWord) (i : Nat) : Option DWord :=
  match a with
  | .free => if w0Status w = 1 then some (freedWord0 w i) else none
  | .status n => some (setField w 48 8 n)
  | .fail => if w0Status w = 3 then some (setField w 48 8 6) else none

/-- Whether an act is the end of a redeem, which event 6 reports (R26). -/
def SlotAct.ends : SlotAct → Bool
  | .status _ => true
  | _ => false

/-- The engine performs a write that it owes a slot; none while its page holds the access (R18). A redeem's end raises
event 6 once its status is written (R26, R386). A fault of the page is logged (R55, R161). -/
def State.slotStep (s : State) (k : Nat) (d : SlotDue) : Option State :=
  match s.word0 d.core k d.ver d.slot with
  | (.fault .held _, _) => none
  | (.fault x va, s1) => some (s1.logXlat k x va)
  | (.unusable _, s1) => some s1
  | (.ok w, s1) =>
    match d.act.apply w d.slot with
    | none => some s1
    | some w' =>
      match s1.setWord0 d.core k d.ver d.slot w' with
      | (_, .held) => none
      | (s2, .ok _ _ lost) => some (if d.act.ends && !lost then s2.raise 6 else s2)
      | (s2, x) => some (s2.logXlat k x (s1.slotAddr k d.slot))

/-- The engine performs what it owes a slot, or keeps it due. -/
def State.slotWrite (s : State) (k : Nat) (d : SlotDue) : State :=
  match s.slotStep k d with
  | some s1 => s1
  | none => let p := s.part k; s.setPart k { p with slotsDue := p.slotsDue ++ [d] }

/-- Tries again every write that the Larder engine owes. -/
def State.retrySlots (s : State) : State :=
  (s.parts.filter fun p => !p.2.slotsDue.isEmpty).foldl (fun s p =>
    p.2.slotsDue.foldl (fun s d => s.slotWrite p.1 d) (s.setPart p.1 { s.part p.1 with slotsDue := [] })) s

/-- Slots made PENDING by a discarded buffer return to FREE (R369). -/
def State.freePending (s : State) (core k : Nat) (ver : Option Word) (slots : List Nat) : State :=
  slots.foldl (fun s i => s.slotWrite k { slot := i, ver := ver, core := some core, act := .free }) s

/-- The Larder engine ends a redeem with a status (R386). -/
def State.endRedeem (s : State) (k : Nat) (ver : Option Word) (handle : DWord) (status : Nat) : State :=
  s.slotWrite k { slot := fieldOf handle 0 32, ver := ver, act := .status status }

end Sys2Proof.Machine
end

