-- ==== Sys2Proof/Machine/Ops.lean ====
section
/-! DEFINITION. Teams, groups and lanes; parking; the runs of a group; failing an instance; and
TAKING A TRAP as one operation, with the return from one beside it (R103 to R105, R116 to R122,
R127 to R136). -/

namespace Sys2Proof.Machine

/-! ### Teams and groups -/

/-- The team at a slot of a core. -/
def State.team? (s : State) (core slot : Nat) : Option Team :=
  s.teams.find? fun t => decide (t.core = core) && decide (t.slot = slot)

/-- Puts a team back in its place. -/
def State.putTeam (s : State) (t : Team) : State :=
  { s with teams := s.teams.map fun u => if u.core = t.core ∧ u.slot = t.slot then t else u }

/-- Takes a team out of its core. -/
def State.dropTeam (s : State) (t : Team) : State :=
  { s with teams := s.teams.filter fun u => !(decide (u.core = t.core) && decide (u.slot = t.slot)) }

/-- A group record of a team. -/
def Team.group? (t : Team) (num : Nat) : Option Group := t.groups.find? fun g => decide (g.num = num)

/-- Puts a group record back in its place. -/
def Team.putGroup (t : Team) (g : Group) : Team :=
  { t with groups := t.groups.map fun u => if u.num = g.num then g else u }

/-- The group that issues. -/
def State.curGroup? (s : State) : Option (Team × Group) :=
  match s.cur with
  | none => none
  | some p =>
    match s.team? p.core p.slot with
    | none => none
    | some t => (t.group? p.num).map fun g => (t, g)

/-- Puts the issuing group and its team back. -/
def State.put (s : State) (t : Team) (g : Group) : State := s.putTeam (t.putGroup g)

/-- Runs a meaning for the issuing group. DESIGN CHOICE, log entry 17. -/
def withGroup (s : State) (k : Team → Group → Res) : Res :=
  match s.curGroup? with
  | none => .fault .noGroup
  | some (t, g) => k t g

/-- The instance of a number. -/
def State.inst? (s : State) (id : Nat) : Option Inst := s.insts.find? fun i => decide (i.id = id)

/-- Puts an instance back. -/
def State.putInst (s : State) (i : Inst) : State :=
  { s with insts := s.insts.map fun j => if j.id = i.id then i else j }

/-- The visible width Wv (R71). -/
def Launch.wv (l : Launch) : Nat := if l.prot then l.width / 2 else l.width

/-- The group records of a team, G (R71). -/
def Launch.groups (l : Launch) : Nat := (l.fpt + l.wv - 1) / l.wv

/-- The bound version of a team's instance (R166). -/
def State.version (s : State) (t : Team) : Option Word :=
  match s.inst? t.inst with
  | some i => i.version
  | none => none

/-- The launch index of a team's instance. -/
def State.launchIndex (s : State) (t : Team) : Nat :=
  match s.inst? t.inst with
  | some i => i.index
  | none => 0

/-! ### Lanes -/

/-- A lane of a group that holds a fibre: its visible position, the fibre, the window it reaches, and
its side of a protected pair (R109, R124). -/
structure Lane where
  pos : Nat
  fid : Nat
  wid : Nat
  side : Nat
  deriving DecidableEq, Repr

/-- The window of a fibre on a side. -/
def Team.wid (t : Team) (fid side : Nat) : Nat := if t.launch.prot then 2 * fid + side else fid

/-- The sides of a launch: the shadow stands beside the visible fibre under PROT (R109). -/
def Team.sides (t : Team) : List Nat := if t.launch.prot then [0, 1] else [0]

/-- The occupied positions from a position upward. -/
def activeFrom (pos : Nat) : List (Option Nat) → List (Nat × Nat)
  | [] => []
  | none :: r => activeFrom (pos + 1) r
  | some f :: r => (pos, f) :: activeFrom (pos + 1) r

/-- The active visible lanes with their fibres, ascending (R128). -/
def Group.active (g : Group) : List (Nat × Nat) := activeFrom 0 g.lanes

/-- The active lanes of one side. -/
def lanesOn (t : Team) (g : Group) (side : Nat) : List Lane :=
  g.active.map fun p => { pos := p.1, fid := p.2, wid := t.wid p.2 side, side := side }

/-- A mask of positions. -/
def maskOf (ps : List Nat) : DWord := ps.foldl (fun m p => m ||| BitVec.ofNat 64 (2 ^ p)) 0

/-- The mask of every active visible lane. -/
def Group.activeMask (g : Group) : DWord := maskOf (g.active.map (·.1))

/-- Whether the group holds fewer than Wv fibres (R128, R138). -/
def Group.underfull (g : Group) (t : Team) : Bool := decide (g.active.length < t.launch.wv)

/-! ### Runs -/

/-- The matrix progress that a group keeps past another instruction: only inside its handler, and only
that of an instruction outside it (R326). -/
def Group.keptProgress (g : Group) : Option Progress :=
  match g.progress with
  | some p => if g.inHandler && !p.inHandler then some p else none
  | none => none

/-- The next instruction of the run: the program counter passes the instruction's words, the
instruction counts, and the next one issues no earlier than stall + 1 clocks later (R131, R132). -/
def Group.retire (g : Group) (clk stall words : Nat) : Group :=
  { g with pc := g.pc + BitVec.ofNat 64 (4 * words), issued := g.issued + 1
           nextIssue := clk + stall + 1, wait := .none, synced := [], barAt := none, barPass := false
           progress := g.keptProgress, arrival := none, half := [] }

/-- The words of the loop buffer at the program counter. DEDUCED, log entry 19. -/
def Group.wordsAt (g : Group) : List Word :=
  if g.bufPc.toNat ≤ g.pc.toNat then g.buf.drop ((g.pc.toNat - g.bufPc.toNat) / 4) else []

/-- Whether a location lives only within a run (R134). -/
def Loc.runLocal : Loc → Bool
  | .q _ _ | .last _ => true
  | _ => false

/-- Ends the run: the loop buffer, the run's own values and its lane positions go (R130, R131, R134), and its loads are
performed. -/
def Group.endRun (g : Group) : Group :=
  { g with buf := [], issued := 0, last := [], temps := [], late := [], positions := none, seeks := .none
           hist := g.hist.filter fun e => !e.loc.runLocal }

/-- A control transfer: the run ends and the next one starts at the target. -/
def Group.jump (g : Group) (clk stall : Nat) (target : DWord) : Group :=
  { g.endRun with pc := target, nextIssue := clk + stall + 1, wait := .none, synced := [], barAt := none, barPass := false
                  progress := g.keptProgress, arrival := none, half := [] }

/-- The group stands at its instruction and tries it again at a later clock. DESIGN CHOICE, log entry 8. -/
def Group.waitFor (g : Group) (clk : Nat) (w : Wait) : Group :=
  { g with nextIssue := clk + 1, wait := w }

/-! ### Parking -/

/-- The Attic slots of a core that hold a record (R125). -/
def State.atticUsed (s : State) (core : Nat) : List Nat :=
  s.teams.flatMap fun t =>
    (t.attic.filter fun p => decide (p.core = core)).flatMap fun p =>
      if t.launch.prot then [p.slot, p.slot + 1] else [p.slot]

/-- The lowest free Attic slot that is not in a list; under PROT an even one with its neighbour. DEDUCED, log entry 27. -/
def freeSlot (used : List Nat) (prot : Bool) : Nat :=
  ((List.range 8192).find? fun i =>
    if prot then i % 2 = 0 && !used.contains i && !used.contains (i + 1) else !used.contains i).getD 0

/-- Parks one fibre in a team's Attic (R136). DEDUCED, log entry 27. -/
def Team.park (t : Team) (used : List Nat) (p : Parked) : Team :=
  let mine := (t.attic.filter fun q => decide (q.core = p.core)).flatMap fun q => if t.launch.prot then [q.slot, q.slot + 1] else [q.slot]
  { t with attic := t.attic ++ [{ p with slot := freeSlot (used ++ mine) t.launch.prot }] }

/-- Whether a location is a register or a predicate of a fibre or of its shadow. -/
def Loc.ofFibre (l : Loc) (t : Team) (fid : Nat) : Bool :=
  match l with
  | .v wid _ | .p wid _ => t.sides.any fun side => decide (wid = t.wid fid side)
  | _ => false

/-- Empties the lanes of a group that hold one of the fibres. -/
def Group.removeFibres (g : Group) (fids : List Nat) : Group :=
  { g with lanes := g.lanes.map fun l =>
      match l with
      | some f => if fids.contains f then none else some f
      | none => none }

/-- The results still in flight at a clock, newest first: one that a later write of its register precedes is not
performed any more (R133). -/
def landDue (due : Nat) (gone : List Loc) : List Early → List Early
  | [] => []
  | e :: r =>
    if gone.contains e.loc then landDue due gone r
    else if due < e.due then e :: landDue due gone r
    else landDue due (e.loc :: gone) r

/-- Parks fibres of a group with a state, each at its own address (R136, R140, R141). DEDUCED, log entry 27. -/
def State.parkFibres (s : State) (t : Team) (g : Group) (ps : List Parked) : Team × Group :=
  let used := s.atticUsed g.core
  let due := fun (p : Parked) => (landDue s.clk [] g.hist).filter fun e => e.loc.ofFibre t p.fid
  (ps.foldl (fun t p => t.park used { p with core := g.core, parked := s.clk, count := s.coreCount g.core, hist := due p }) t,
   g.removeFibres (ps.map (·.fid)))

/-- Puts a group back; a group with no fibre frees its record (R129). -/
def State.settle (s : State) (t : Team) (g : Group) : State :=
  if g.active.isEmpty then
    s.putTeam { t with groups := t.groups.filter fun u => decide (u.num ≠ g.num) }
  else s.put t g

/-! ### Failing an instance (R74, R81) -/

/-- The log entry of a launch status (R435). -/
def statusEntry (status part index : Nat) (addr detail : DWord) : LogEntry :=
  { platformEntry status part addr detail with launch := index }

/-- Halts partition k's graph with a status (R81). -/
def State.haltGraph (s : State) (k status index : Nat) : State :=
  let g := s.reg (pidx k 9)
  if bitAt g 29 then s
  else
    let g1 := if fieldOf g 0 8 = 0 then setField (setField g 0 8 status) 32 32 index else g
    let s1 := s.setReg (pidx k 9) (g1 ||| 0x20000000)
    let p := s1.part k
    let s2 := s1.setPart k { p with graph := p.graph.map fun gr => { gr with halted := true, dispatching := false } }
    s2.raise 2

/-- A bind starts to check (R76): BIND and BUSY set, HALT, STATUS and INDEX clear, and the tables' bases
and counts are taken. -/
def State.startBind (s : State) (k : Nat) : State :=
  let s1 := s.setReg (pidx k 9) 0xC0000000
  let p := s1.part k
  s1.setPart k { p with heldBind := none, graph := none
                        pendingBind := some (s.reg (pidx k 6), s.reg (pidx k 7), s.reg (pidx k 8)) }

/-- Whether a write of the scheduler for an edge is held (R18). -/
def Edge.due (x : Edge) : Bool := x.wbDue || x.retDue

/-- GCTL.BUSY of partition k as its graph stands: it is 1 while a bind is checking, or while instances of
an unbound or halted graph still run or counters of it have yet to be written (R18, R79). When it falls an unbound graph
goes, and a held bind starts (R75, R76, R81). -/
def State.settleBusy (s : State) (k : Nat) : State :=
  let g := s.reg (pidx k 9)
  let p := s.part k
  let running := s.insts.any fun i => decide (i.part = k) && !i.isChild
  let due := match p.graph with
    | some gr => gr.edges.any Edge.due
    | none => false
  let busy := p.pendingBind.isSome || ((!bitAt g 31 || bitAt g 29) && (running || due))
  let s1 := s.setReg (pidx k 9) (setField g 30 1 (if busy then 1 else 0))
  if busy || bitAt g 31 then s1
  else
    let s2 := s1.setPart k { p with graph := none, heldBind := none }
    if p.heldBind = some true then s2.startBind k else s2

/-- Removes one occurrence of each pinned line. -/
def unpinLines (pinned lines : List Nat) : List Nat := lines.foldl (fun p l => p.erase l) pinned

/-- Releases every pin of a team (R293). -/
def State.unpinTeam (s : State) (t : Team) : State :=
  { s with pinned := unpinLines s.pinned (t.pins.flatMap fun p =>
      match p.2 with
      | some x => x.lines
      | none => []) }

/-- Whether a fibre, a copy or a refill of partition k waits on a 64 KiB block (R102, R106). -/
def State.waitsOn (s : State) (k block : Nat) : Bool :=
  (s.teams ++ s.orphans ++ (s.part k).saved).any fun t => decide (t.part = k) &&
    (t.attic.any (fun p => decide (p.st = .fault) && decide (p.fault.toNat / 2 ^ 16 = block))
      || t.copies.any (fun c => match c.2.faultVa with
        | some v => decide (c.2.st = .frozen) && decide (v.toNat / 2 ^ 16 = block)
        | none => false)
      || t.hrecs.any fun r => match r.2.faultVa with
        | some v => decide (v.toNat / 2 ^ 16 = block)
        | none => false)

/-- Forgets the faults of partition k on which nothing waits any more. -/
def State.settleFaults (s : State) (k : Nat) : State :=
  let p := s.part k
  s.setPart k { p with faults := p.faults.filter fun f => s.waitsOn k f.block }

/-- What the end of a killed team leaves: its pins are released and the Larder slots that its discarded
buffer had made PENDING return to FREE (R293, R369). -/
def State.killTeam (s : State) (t : Team) : State :=
  ((s.dropTeam t).unpinTeam t).freePending t.core t.part (s.version t) t.pending

/-- Writes the log entries of an instance's teams that wait to be placed again and never will be (R116). DEDUCED, log entry 24. -/
def State.flushRelaunchLog (s : State) (id : Nat) : State :=
  (s.relaunchLog.filter fun e => decide (e.1 = id)).foldl (fun s e => s.addLog e.2.2)
    { s with relaunchLog := s.relaunchLog.filter fun e => decide (e.1 ≠ id) }

/-- Ends the hold and the redeem of an instance with a slot status (R378, R386). -/
def State.endBinding (s : State) (i : Inst) (status : Nat) : State :=
  let s1 := match i.redeem with
    | some ws => s.endRedeem i.part i.version (ws.getD 1 0) status
    | none => s
  match i.version with
  | some v => if i.holds then s1.releaseHold v else s1
  | none => s1

/-- An instance fails: every team of it is killed with its store buffer, the failure is logged, and
unless it is a child the graph halts (R74, R81, R84, R104). -/
def State.failInstance (s : State) (id status : Nat) (addr detail : DWord) (team : Nat := 0xFFFFFFFF) : State :=
  match s.inst? id with
  | none => s
  | some i =>
    let s0 := (s.teams.filter fun t => decide (t.inst = id)).foldl (fun s t => s.killTeam t) s
    let s1 := s0.flushRelaunchLog id
    let s2 := ({ s1 with insts := s1.insts.filter fun j => decide (j.id ≠ id) }).endBinding i 6
    let s3 := s2.addLog { statusEntry status i.part i.index addr detail with team := team }
    let s4 := if i.isChild then s3 else s3.haltGraph i.part status i.index
    (s4.settleFaults i.part).settleBusy i.part

/-! ### Taking a trap -/

/-- What a cause gives the trap record (R104): `kind` is the code in [55:48] of a class 2 detail
(R122), `next` the resume address when the instruction completed. DEDUCED, log entry 20. -/
structure Trap where
  cause : Nat
  mask : DWord
  addr : DWord := 0
  detail : DWord := 0
  completed : Bool := false
  next : DWord := 0
  kind : Nat := 0
  deriving DecidableEq, Repr

/-- The class of a cause code (R103). -/
def causeClass (cause : Nat) : Nat := cause / 256 - 1

/-- The fibre of the lowest lane in a mask, or none. -/
def Group.lowestOf (g : Group) (mask : DWord) : Option (Nat × Nat) :=
  g.active.find? fun p => bitAt mask p.1

/-- The detail of a class 2 trap (R122). -/
def class2Detail (t : Team) (g : Group) (tr : Trap) (uncontained : Bool) (core : Nat) : DWord :=
  let lane := match g.lowestOf tr.mask with | some p => p.1 | none => 0xFFFF
  BitVec.ofNat 64 ((if uncontained then 2 ^ 63 else 0) + 2 ^ 61 * (t.relaunches % 4) + 2 ^ 48 * (tr.kind % 256)
    + 2 ^ 32 * lane + core % 2 ^ 32)

/-- The log entry of a trap (R435). -/
def State.trapEntry (s : State) (t : Team) (g : Group) (tr : Trap) (detail : DWord) (pc : DWord) : LogEntry :=
  { time := 0, seq := 0, cause := tr.cause, cls := causeClass tr.cause, die := dieOf g.core, unit := g.core
    part := t.part, launch := s.launchIndex t, team := t.index
    fid := match g.lowestOf tr.mask with | some p => p.2 | none => 0xFFFFFFFF
    pc := pc, addr := tr.addr, detail := detail }

/-- The fibre id of a trap record (R104): that of the lowest lane in the mask, or a free value where that lane
holds no fibre of the group. DESIGN CHOICE, log entry 13. -/
def Group.trapFid (g : Group) (free : Nat) (tr : Trap) : Word :=
  match g.lowestOf tr.mask with
  | some p => BitVec.ofNat 32 p.2
  | none => Config.vacantFid free

/-- A group enters its handler: the record of R104 in s56 to s61, at a run boundary. -/
def Group.enterHandler (g : Group) (t : Team) (clk free : Nat) (tr : Trap) (detail : DWord) : Group :=
  let s56 : DWord := BitVec.ofNat 64 (2 ^ 32 * ((g.trapFid free tr).toNat) + (if tr.completed then 2 ^ 24 else 0)
    + 2 ^ 16 * (causeClass tr.cause) + tr.cause % 2 ^ 16)
  let regs := ssetList 0 g.sregs 56
    [s56, g.pc, tr.mask, tr.addr, detail, if tr.completed then tr.next else g.pc]
  { g.endRun with
      sregs := regs, inHandler := true, pc := t.launch.handler, nextIssue := clk + 1, wait := .none
      progress := (g.progress.filter fun p => decide (p.pc = g.pc)).map fun p => { p with recs := [] }
      arrival := none, barAt := none, barPass := false, half := []
      hist := g.endRun.hist.filter fun e =>
        match e.loc with
        | .s i => decide (i < 56) || decide (61 < i)
        | _ => true }

/-- The causes of class 2 that start a relaunch (R116). -/
def startsRelaunch (cause : Nat) : Bool :=
  cause == 0x0300 || cause == 0x0301 || cause == 0x0302 || cause == 0x0304

/-- A relaunch begins: the team is killed, its buffer discarded and its storage freed, and it waits to
be placed again (R116). The third such trap of a team fails the instance (R117). DEDUCED, log entry 24. -/
def State.startRelaunch (s : State) (t : Team) (g : Group) (tr : Trap) : State :=
  if t.relaunches = 2 then
    let s1 := s.addLog (s.trapEntry t g tr (class2Detail t g tr false 0xFFFFFFFF) g.pc)
    s1.failInstance t.inst 0x0C 0 (BitVec.ofNat 64 t.index) t.index
  else
    match s.inst? t.inst with
    | none => s.dropTeam t
    | some i =>
      let ghost : Team :=
        { t with groups := [], attic := [], live := [], win := [], preds := [], sticky := [], scratch := []
                 scratchPoison := [], barriers := [], copies := [], rejoins := [], hrecs := [], hbytes := []
                 hpoison := [], tiles := [], sums := [], pairs := [], pins := [], sb := [], errors := []
                 relaunches := t.relaunches + 1, relLater := [], pending := [], draining := false, hkeys := []
                 ranges := t.ranges.map fun r => { r with replay := true } }
      let entry := { s.trapEntry t g tr (class2Detail t g tr false 0xFFFFFFFF) g.pc with time := s.time }
      let i' := { i with relaunch := i.relaunch ++ [ghost] }
      let s1 := ((s.killTeam t).putInst i').settleFaults t.part
      { s1 with relaunchLog := s1.relaunchLog ++ [(t.inst, t.index, entry)] }

/-- The detail of a trap that is not delivered since its group is in the handler: the outer cause stands in [15:0]
(R105). -/
def outerDetail (g : Group) (detail : DWord) : DWord := setField detail 0 16 (fieldOf (sget 0 g.sregs 56) 0 16)

/-- TAKES A TRAP in the issuing group (R104, R105, R116 to R118): the group stands at the trapping
instruction. A restartable CONTAIN team is relaunched by a class 2 cause; a trap in the handler, or
without a handler, ends the instance with TRAP_KILL; every other trap enters the handler. A WORLD_FAULT that enters the
handler is logged too: R55 gives each cross-world access an entry, where R104 names none for a delivered trap of
class 1. DESIGN CHOICE, log entry 89. -/
def State.takeTrap (s : State) (t : Team) (g : Group) (tr : Trap) : State :=
  let cls := causeClass tr.cause
  if cls = 2 ∧ startsRelaunch tr.cause = true ∧ t.launch.contain = true ∧ t.restartable = true then
    s.startRelaunch t g tr
  else
    let detail := if cls = 2 then class2Detail t g tr true 0xFFFFFFFF else tr.detail
    if g.inHandler then
      ((s.put t g).addLog (s.trapEntry t g tr (outerDetail g detail) g.pc)).failInstance t.inst 0x0D 0 0
    else if t.launch.handler = 0 then
      ((s.put t g).addLog (s.trapEntry t g tr detail g.pc)).failInstance t.inst 0x0D 0 0
    else
      let always := decide (cls = 2) || decide (tr.cause = 0x0201) || (decide (tr.cause = 0x0200)
        && (decide (fieldOf detail 0 8 = 3) || decide (fieldOf detail 0 8 = 6)))
      let s1 := if always then s.addLog (s.trapEntry t g tr detail g.pc) else s
      { s1 with free := if (g.lowestOf tr.mask).isSome then s1.free else s1.free + 1 }.put t
        (g.enterHandler t s.clk s1.free tr detail)

/-- The return from a trap (R411): in the handler the flag clears and the group moves to s61; outside
it only the run ends. -/
def Group.returnFromTrap (g : Group) (clk stall words : Nat) : Group :=
  if g.inHandler then { g.jump clk stall (sget 0 g.sregs 61) with inHandler := false }
  else g.jump clk stall (g.pc + BitVec.ofNat 64 (4 * words))

/-- A trap as an outcome. -/
def trapRes (s : State) (t : Team) (g : Group) (tr : Trap) : Res := .next (s.takeTrap t g tr)

end Sys2Proof.Machine
end

