-- ==== Sys2Proof/Machine/Rows.lean ====
section
/-! DEFINITION. The encoding tables of the manual as data: one `Row` for each encoded row of the
opcode table (R202, R203), with the operand kinds, function codes and prefixes its chapter's
encoding table gives it (R205, R225, R226, R228, R250, R263, R264, R274, R307, R308, R316, R336,
R347, R365, R380, R391, R408), and the ILLEGAL reasons of R201 that a set of fields meets. -/

namespace Sys2Proof

/-- What an operand field may hold (R189, R190, R192). -/
inductive Kind where
  | null              -- operand code 57
  | zero              -- 0
  | src (n : Nat)     -- a lane source of n words
  | dst (n : Nat)     -- a lane destination of n words
  | srcW | dstW       -- a lane source or destination as wide as MODM.W
  | any               -- every code, no operand: a predicate index, a type field, record numbers
  | us                -- a uniform source
  | ud (top : Nat)    -- a uniform destination s16 to s(top)
  | ub (top : Nat)    -- the base of several s-registers, s0 to s(top)
  | g3                -- a g index under the reserved field [23:21] (YC)
  | tok               -- a token register v0 to v47 (R206)
  | ctl (mask : Nat)  -- a control field: bits outside the mask are reserved
  | vote              -- VOTE's destination: a pair for MASK (R250)
  | lane64 (bit : Nat) (dest : Bool)  -- a pair when bit `bit` of the function is set, else 32 (R250)
  | pmov              -- PMOVW's selector (R246)
  | cvtD | cvtA       -- CVT's operands, as wide as its types (R244)
  | qpk               -- QPEEK's b: an index for .ADDR, otherwise null (R205)
  deriving DecidableEq, Repr

/-- What the field [5:3], cond or sub may hold. -/
inductive Func where
  | guard             -- a guard field
  | zero              -- must be zero
  | sel               -- a selector predicate
  | code (mask : Nat) -- a function or condition code; the mask names the codes that are not ILLEGAL
  | sub (mask : Nat)  -- YE: bits outside the mask are reserved
  | sub7 (mask : Nat) -- YE of R205: bits outside the mask are fields that must hold zero
  | none
  deriving DecidableEq, Repr

/-- The MODM values an instruction takes (R264). -/
inductive MemClass where
  | ld | st | ldu | stu | atom | red | cas | lcpy
  deriving DecidableEq, Repr

/-- How the fields of an instruction word become an instruction. -/
inductive Build where
  | w3 (mk : W3 → Instr)
  | wi (mk : WI → Instr)
  | wc (mk : WC → Instr)
  | wb (mk : WB → Instr)
  | we (mk : WE → Instr)
  | wend (mk : WEnd → Instr)

/-- One row of the encoding tables. `op` is the top byte; a YE row that shares its opcode is chosen
by the bits `subMask` of sub, which hold `subVal`. `moda` names the accepted MODA fields (NA, NB,
NC, AA, AB, SAT, CLAMP, SCALE, RND from bit 0 upward), `guardX` that MODX may give a guard. -/
structure Row where
  op : Nat
  d : Kind := .any
  a : Kind := .any
  b : Kind := .any
  c : Option Kind := none
  f : Func := .none
  moda : Nat := 0
  guardX : Bool := false
  ub : Bool := false
  modm : Option MemClass := none
  subMask : Nat := 0
  subVal : Nat := 0
  build : Build

/-- The fields of an instruction word, in its format. -/
inductive Fields where
  | w3 (w : W3)
  | wi (w : WI)
  | wc (w : WC)
  | wb (w : WB)
  | we (w : WE)
  | wend (w : WEnd)
  deriving DecidableEq, Repr

/-- Rows of the opcode maps (R202, R203), part 1. -/
def rows0 : List Row := [
  { op := 0x0, d := .zero, a := .zero, b := .zero, f := .zero, guardX := true, build := .w3 .nop },
  { op := 0x1, d := .dst 1, a := .src 1, b := .src 1, f := .guard, moda := 32, guardX := true, ub := true, build := .w3 .iaddI32 },
  { op := 0x23, d := .dst 1, a := .src 1, moda := 32, guardX := true, build := .wi .iaddI32Li },
  { op := 0x2, d := .dst 1, a := .src 1, b := .src 1, f := .guard, moda := 32, guardX := true, ub := true, build := .w3 .isubI32 },
  { op := 0x3, d := .dst 1, a := .src 1, b := .src 1, f := .guard, moda := 32, guardX := true, ub := true, build := .w3 .imulI32 },
  { op := 0x24, d := .dst 1, a := .src 1, moda := 32, guardX := true, build := .wi .imulI32Li },
  { op := 0x4, d := .dst 1, a := .src 1, b := .src 1, f := .guard, guardX := true, ub := true, build := .w3 .imulhI32 },
  { op := 0x5, d := .dst 1, a := .src 1, b := .src 1, f := .guard, guardX := true, ub := true, build := .w3 .imulhN32 },
  { op := 0x6, d := .dst 1, a := .src 1, b := .src 1, c := some (.src 1), f := .guard, moda := 32, guardX := true, ub := true, build := .w3 .imadI32 },
  { op := 0x7, d := .dst 1, a := .src 1, b := .null, f := .guard, moda := 32, guardX := true, ub := true, build := .w3 .iabsI32 },
  { op := 0x8, d := .dst 1, a := .src 1, b := .src 1, f := .guard, guardX := true, ub := true, build := .w3 .idivI32 },
  { op := 0x9, d := .dst 1, a := .src 1, b := .src 1, f := .guard, guardX := true, ub := true, build := .w3 .idivN32 },
  { op := 0xa, d := .dst 1, a := .src 1, b := .src 1, f := .guard, guardX := true, ub := true, build := .w3 .iremI32 },
  { op := 0xb, d := .dst 1, a := .src 1, b := .src 1, f := .guard, guardX := true, ub := true, build := .w3 .iremN32 },
  { op := 0xc, d := .dst 1, a := .src 1, b := .src 1, f := .guard, guardX := true, ub := true, build := .w3 .iminI32 },
  { op := 0xd, d := .dst 1, a := .src 1, b := .src 1, f := .guard, guardX := true, ub := true, build := .w3 .iminN32 },
  { op := 0xe, d := .dst 1, a := .src 1, b := .src 1, f := .guard, guardX := true, ub := true, build := .w3 .imaxI32 },
  { op := 0xf, d := .dst 1, a := .src 1, b := .src 1, f := .guard, guardX := true, ub := true, build := .w3 .imaxN32 },
  { op := 0x10, d := .dst 1, a := .src 1, b := .src 1, f := .guard, guardX := true, ub := true, build := .w3 .andL },
  { op := 0x25, d := .dst 1, a := .src 1, guardX := true, build := .wi .andLi }]

/-- Rows of the opcode maps (R202, R203), part 2. -/
def rows1 : List Row := [
  { op := 0x11, d := .dst 1, a := .src 1, b := .src 1, f := .guard, guardX := true, ub := true, build := .w3 .orL },
  { op := 0x26, d := .dst 1, a := .src 1, guardX := true, build := .wi .orLi },
  { op := 0x12, d := .dst 1, a := .src 1, b := .src 1, f := .guard, guardX := true, ub := true, build := .w3 .xorL },
  { op := 0x27, d := .dst 1, a := .src 1, guardX := true, build := .wi .xorLi },
  { op := 0x13, d := .dst 1, a := .src 1, b := .src 1, f := .guard, guardX := true, ub := true, build := .w3 .shl },
  { op := 0x28, d := .dst 1, a := .src 1, guardX := true, build := .wi .shlLi },
  { op := 0x14, d := .dst 1, a := .src 1, b := .src 1, f := .guard, guardX := true, ub := true, build := .w3 .shr },
  { op := 0x29, d := .dst 1, a := .src 1, guardX := true, build := .wi .shrLi },
  { op := 0x15, d := .dst 1, a := .src 1, b := .src 1, f := .guard, guardX := true, ub := true, build := .w3 .sar },
  { op := 0x2a, d := .dst 1, a := .src 1, guardX := true, build := .wi .sarLi },
  { op := 0x16, d := .dst 1, a := .src 1, b := .src 1, f := .guard, guardX := true, ub := true, build := .w3 .rotl },
  { op := 0x2b, d := .dst 1, a := .src 1, guardX := true, build := .wi .rotlLi },
  { op := 0x17, d := .dst 1, a := .src 1, b := .null, f := .guard, guardX := true, ub := true, build := .w3 .popc },
  { op := 0x18, d := .dst 1, a := .src 1, b := .null, f := .guard, guardX := true, ub := true, build := .w3 .clz },
  { op := 0x19, d := .dst 1, a := .src 1, b := .null, f := .guard, guardX := true, ub := true, build := .w3 .brev },
  { op := 0x1a, d := .dst 1, a := .src 1, b := .src 1, f := .guard, guardX := true, ub := true, build := .w3 .bfxI32 },
  { op := 0x1b, d := .dst 1, a := .src 1, b := .src 1, f := .guard, guardX := true, ub := true, build := .w3 .bfxN32 },
  { op := 0x1c, d := .dst 1, a := .src 1, b := .src 1, c := some (.src 1), f := .guard, guardX := true, ub := true, build := .w3 .bfi },
  { op := 0x1d, d := .dst 1, a := .src 1, b := .src 1, c := some (.src 1), f := .guard, guardX := true, ub := true, build := .w3 .perm },
  { op := 0x1e, d := .dst 1, a := .src 1, b := .src 1, f := .sel, guardX := true, ub := true, build := .w3 .sel }]

/-- Rows of the opcode maps (R202, R203), part 3. -/
def rows2 : List Row := [
  { op := 0x1f, d := .dst 1, a := .src 1, b := .null, f := .guard, guardX := true, ub := true, build := .w3 .mov },
  { op := 0x2c, d := .dst 1, a := .null, guardX := true, build := .wi .movLi },
  { op := 0x22, d := .dst 1, a := .null, b := .us, f := .guard, guardX := true, build := .w3 .movU },
  { op := 0x20, a := .src 1, b := .src 1, f := .code 63, guardX := true, ub := true, build := .wc .icmpI32 },
  { op := 0x21, a := .src 1, b := .src 1, f := .code 63, guardX := true, ub := true, build := .wc .icmpN32 },
  { op := 0x30, d := .dst 1, a := .src 1, b := .src 1, f := .guard, moda := 475, guardX := true, ub := true, build := .w3 .faddF32 },
  { op := 0x31, d := .dst 1, a := .src 1, b := .src 1, f := .guard, moda := 475, guardX := true, ub := true, build := .w3 .fsubF32 },
  { op := 0x32, d := .dst 1, a := .src 1, b := .src 1, f := .guard, moda := 475, guardX := true, ub := true, build := .w3 .fmulF32 },
  { op := 0x33, d := .dst 1, a := .src 1, b := .src 1, f := .guard, moda := 475, guardX := true, ub := true, build := .w3 .fmulzF32 },
  { op := 0x34, d := .dst 1, a := .src 1, b := .src 1, c := some (.src 1), f := .guard, moda := 479, guardX := true, ub := true, build := .w3 .ffmaF32 },
  { op := 0x35, d := .dst 1, a := .src 1, b := .src 1, f := .guard, moda := 91, guardX := true, ub := true, build := .w3 .fminF32 },
  { op := 0x36, d := .dst 1, a := .src 1, b := .src 1, f := .guard, moda := 91, guardX := true, ub := true, build := .w3 .fmaxF32 },
  { op := 0x37, a := .src 1, b := .src 1, f := .code 255, moda := 27, guardX := true, ub := true, build := .wc .fcmpF32 },
  { op := 0x38, d := .dst 1, a := .src 1, b := .null, f := .guard, guardX := true, ub := true, build := .w3 .fclassF32 },
  { op := 0x39, d := .dst 1, a := .src 1, b := .src 1, f := .guard, moda := 475, guardX := true, ub := true, build := .w3 .fdivF32 },
  { op := 0x3a, d := .dst 1, a := .src 1, b := .null, f := .guard, moda := 73, guardX := true, ub := true, build := .w3 .frcpF32 },
  { op := 0x3b, d := .dst 1, a := .src 1, b := .null, f := .guard, moda := 73, guardX := true, ub := true, build := .w3 .frsqF32 },
  { op := 0x3c, d := .dst 1, a := .src 1, b := .null, f := .guard, moda := 457, guardX := true, ub := true, build := .w3 .fsqrtF32 },
  { op := 0x3d, d := .dst 1, a := .src 1, b := .null, f := .guard, moda := 73, guardX := true, ub := true, build := .w3 .fexp2F32 },
  { op := 0x3e, d := .dst 1, a := .src 1, b := .null, f := .guard, moda := 73, guardX := true, ub := true, build := .w3 .flog2F32 }]

/-- Rows of the opcode maps (R202, R203), part 4. -/
def rows3 : List Row := [
  { op := 0x3f, d := .dst 1, a := .src 1, b := .null, f := .guard, moda := 73, guardX := true, ub := true, build := .w3 .fsinF32 },
  { op := 0x40, d := .dst 1, a := .src 1, b := .null, f := .guard, moda := 73, guardX := true, ub := true, build := .w3 .fcosF32 },
  { op := 0x41, d := .dst 1, a := .src 1, b := .null, f := .guard, moda := 73, guardX := true, ub := true, build := .w3 .ftanhF32 },
  { op := 0x42, d := .dst 2, a := .src 2, b := .src 2, f := .guard, moda := 475, guardX := true, ub := true, build := .w3 .daddF64 },
  { op := 0x43, d := .dst 2, a := .src 2, b := .src 2, f := .guard, moda := 475, guardX := true, ub := true, build := .w3 .dmulF64 },
  { op := 0x44, d := .dst 2, a := .src 2, b := .src 2, c := some (.src 2), f := .guard, moda := 479, guardX := true, ub := true, build := .w3 .dfmaF64 },
  { op := 0x45, d := .dst 1, a := .src 1, b := .src 1, f := .guard, moda := 475, guardX := true, ub := true, build := .w3 .hadd2F16 },
  { op := 0x46, d := .dst 1, a := .src 1, b := .src 1, f := .guard, moda := 475, guardX := true, ub := true, build := .w3 .hadd2BF16 },
  { op := 0x47, d := .dst 1, a := .src 1, b := .src 1, f := .guard, moda := 475, guardX := true, ub := true, build := .w3 .hmul2F16 },
  { op := 0x48, d := .dst 1, a := .src 1, b := .src 1, f := .guard, moda := 475, guardX := true, ub := true, build := .w3 .hmul2BF16 },
  { op := 0x49, d := .dst 1, a := .src 1, b := .src 1, c := some (.src 1), f := .guard, moda := 479, guardX := true, ub := true, build := .w3 .hfma2F16 },
  { op := 0x4a, d := .dst 1, a := .src 1, b := .src 1, c := some (.src 1), f := .guard, moda := 479, guardX := true, ub := true, build := .w3 .hfma2BF16 },
  { op := 0x4b, d := .dst 2, a := .src 2, b := .src 2, c := some (.src 2), f := .guard, moda := 455, guardX := true, ub := true, build := .w3 .cfma },
  { op := 0x4c, d := .cvtD, a := .cvtA, f := .guard, moda := 393, guardX := true, build := .w3 .cvt },
  { op := 0x4d, d := .dst 4, a := .src 4, b := .ub 61, f := .guard, guardX := true, build := .w3 .rndp },
  { op := 0x50, f := .guard, guardX := true, build := .w3 .pand },
  { op := 0x51, f := .guard, guardX := true, build := .w3 .por },
  { op := 0x52, f := .guard, guardX := true, build := .w3 .pxor },
  { op := 0x53, b := .null, f := .guard, guardX := true, build := .w3 .pnot },
  { op := 0x54, d := .dst 2, a := .null, b := .pmov, f := .guard, guardX := true, build := .w3 .pmovw }]

/-- Rows of the opcode maps (R202, R203), part 5. -/
def rows4 : List Row := [
  { op := 0x55, d := .null, a := .src 2, b := .src 2, f := .guard, guardX := true, ub := true, build := .w3 .pldw },
  { op := 0x56, d := .dst 1, a := .src 1, b := .us, c := some (.src 1), f := .code 15, guardX := true, build := .w3 .shfl },
  { op := 0x57, d := .vote, a := .src 1, b := .us, f := .code 31, guardX := true, build := .w3 .vote },
  { op := 0x58, d := .dst 2, a := .lane64 0 false, b := .us, f := .code 3, guardX := true, build := .w3 .matchx },
  { op := 0x59, d := .dst 1, a := .src 1, b := .us, f := .code 255, guardX := true, build := .w3 .redx },
  { op := 0x5a, d := .dst 1, a := .src 1, b := .us, f := .code 7, guardX := true, build := .w3 .fredx },
  { op := 0x5b, d := .dst 1, a := .src 1, b := .us, f := .code 255, guardX := true, build := .w3 .scanx },
  { op := 0x5c, d := .lane64 1 true, a := .lane64 1 false, b := .us, f := .code 15, guardX := true, build := .w3 .bcast },
  { op := 0x5d, d := .dst 1, a := .null, b := .us, f := .code 3, guardX := true, build := .w3 .elect },
  { op := 0x5e, d := .dst 1, a := .src 1, b := .src 1, f := .guard, guardX := true, ub := true, build := .w3 .qscale },
  { op := 0x5f, d := .dst 1, a := .src 1, b := .src 1, c := some (.src 1), f := .code 63, moda := 425, guardX := true, ub := true, build := .w3 .cvtnPack },
  { op := 0x60, d := .dst 1, a := .src 1, b := .src 1, f := .code 127, guardX := true, ub := true, build := .w3 .cvtnExp },
  { op := 0x61, d := .dstW, a := .src 1, b := .src 2, f := .guard, guardX := true, ub := true, modm := some .ld, build := .w3 .ld },
  { op := 0x62, d := .srcW, a := .src 1, b := .src 2, f := .guard, guardX := true, ub := true, modm := some .st, build := .w3 .st },
  { op := 0x63, d := .dstW, a := .src 1, b := .src 1, f := .guard, guardX := true, ub := true, modm := some .ld, build := .w3 .lds },
  { op := 0x64, d := .srcW, a := .src 1, b := .src 1, f := .guard, guardX := true, ub := true, modm := some .st, build := .w3 .sts },
  { op := 0x65, d := .dstW, a := .src 1, b := .src 2, c := some (.srcW), f := .guard, guardX := true, ub := true, modm := some .atom, build := .w3 .atom },
  { op := 0x66, d := .dstW, a := .src 1, b := .src 1, c := some (.srcW), f := .guard, guardX := true, ub := true, modm := some .atom, build := .w3 .atoms },
  { op := 0x67, d := .srcW, a := .src 1, b := .src 2, f := .guard, guardX := true, ub := true, modm := some .red, build := .w3 .red },
  { op := 0x68, d := .dstW, a := .src 1, b := .src 2, c := some (.srcW), f := .guard, guardX := true, ub := true, modm := some .cas, build := .w3 .cas }]

/-- Rows of the opcode maps (R202, R203), part 6. -/
def rows5 : List Row := [
  { op := 0x69, d := .null, a := .null, b := .null, f := .guard, guardX := true, build := .w3 .fenceT },
  { op := 0x6a, d := .null, a := .null, b := .null, f := .guard, guardX := true, build := .w3 .fenceD },
  { op := 0x6b, d := .null, a := .null, b := .null, f := .guard, guardX := true, build := .w3 .fenceS },
  { op := 0x6c, d := .ctl 31, a := .src 1, b := .src 2, c := some (.src 1), f := .guard, guardX := true, ub := true, modm := some .lcpy, build := .w3 .lcpy },
  { op := 0x6d, d := .dst 4, a := .src 4, b := .ub 59, f := .guard, guardX := true, build := .w3 .optaw },
  { op := 0x6e, d := .dst 1, a := .src 2, b := .null, f := .guard, guardX := true, build := .w3 .shard },
  { op := 0x6f, d := .null, a := .src 2, b := .null, f := .guard, guardX := true, build := .w3 .jmpi },
  { op := 0x70, d := .null, a := .src 2, b := .null, f := .guard, guardX := true, build := .w3 .calli },
  { op := 0x71, d := .dst 1, a := .src 2, b := .src 1, f := .guard, guardX := true, build := .w3 .fork },
  { op := 0x72, d := .null, a := .null, b := .null, f := .guard, guardX := true, build := .w3 .fend },
  { op := 0x81, d := .ud 62, a := .us, b := .us, f := .guard, guardX := true, build := .w3 .sadd },
  { op := 0x96, d := .ud 62, a := .us, guardX := true, build := .wi .saddYi },
  { op := 0x82, d := .ud 62, a := .us, b := .us, f := .guard, guardX := true, build := .w3 .ssub },
  { op := 0x83, d := .ud 62, a := .us, b := .us, f := .guard, guardX := true, build := .w3 .smul },
  { op := 0x84, d := .ud 62, a := .us, b := .us, c := some (.us), f := .guard, guardX := true, build := .w3 .smad },
  { op := 0x85, d := .ud 62, a := .us, b := .us, f := .guard, guardX := true, build := .w3 .sand },
  { op := 0x97, d := .ud 62, a := .us, guardX := true, build := .wi .sandYi },
  { op := 0x86, d := .ud 62, a := .us, b := .us, f := .guard, guardX := true, build := .w3 .sor },
  { op := 0x98, d := .ud 62, a := .us, guardX := true, build := .wi .sorYi },
  { op := 0x87, d := .ud 62, a := .us, b := .us, f := .guard, guardX := true, build := .w3 .sxor }]

/-- Rows of the opcode maps (R202, R203), part 7. -/
def rows6 : List Row := [
  { op := 0x99, d := .ud 62, a := .us, guardX := true, build := .wi .sxorYi },
  { op := 0x88, d := .ud 62, a := .us, b := .us, f := .guard, guardX := true, build := .w3 .sshl },
  { op := 0x9a, d := .ud 62, a := .us, guardX := true, build := .wi .sshlYi },
  { op := 0x89, d := .ud 62, a := .us, b := .us, f := .guard, guardX := true, build := .w3 .sshr },
  { op := 0x9b, d := .ud 62, a := .us, guardX := true, build := .wi .sshrYi },
  { op := 0x8a, d := .ud 62, a := .us, b := .us, f := .guard, guardX := true, build := .w3 .ssar },
  { op := 0x9c, d := .ud 62, a := .us, guardX := true, build := .wi .ssarYi },
  { op := 0x8b, d := .ud 62, a := .us, b := .us, f := .guard, guardX := true, build := .w3 .sminI64 },
  { op := 0x8c, d := .ud 62, a := .us, b := .us, f := .guard, guardX := true, build := .w3 .sminN64 },
  { op := 0x8d, d := .ud 62, a := .us, b := .us, f := .guard, guardX := true, build := .w3 .smaxI64 },
  { op := 0x8e, d := .ud 62, a := .us, b := .us, f := .guard, guardX := true, build := .w3 .smaxN64 },
  { op := 0x8f, d := .ud 62, a := .us, b := .us, f := .sel, guardX := true, build := .w3 .ssel },
  { op := 0x90, d := .g3, a := .us, b := .us, f := .code 63, guardX := true, build := .wc .scmpI64 },
  { op := 0x91, d := .g3, a := .us, b := .us, f := .code 63, guardX := true, build := .wc .scmpN64 },
  { op := 0x92, d := .ud 62, a := .us, b := .null, f := .guard, guardX := true, build := .w3 .smov },
  { op := 0x9d, d := .ud 62, a := .null, guardX := true, build := .wi .smovYi },
  { op := 0x93, d := .ud 62, a := .us, b := .null, f := .guard, guardX := true, build := .w3 .spopc },
  { op := 0x94, d := .ud 62, a := .us, b := .null, f := .guard, guardX := true, build := .w3 .sclz },
  { op := 0x95, d := .ud 62, a := .src 1, b := .us, f := .guard, guardX := true, build := .w3 .slane },
  { op := 0xa0, build := .wb .bra }]

/-- Rows of the opcode maps (R202, R203), part 8. -/
def rows7 : List Row := [
  { op := 0xa1, build := .wb .br },
  { op := 0xa2, build := .wb .brg },
  { op := 0xa3, build := .wb .call },
  { op := 0xa4, d := .null, a := .null, b := .null, f := .guard, guardX := true, build := .w3 .ret },
  { op := 0xa5, d := .us, a := .us, b := .us, f := .guard, guardX := true, build := .w3 .rjoin },
  { op := 0xa6, d := .null, a := .null, b := .null, f := .guard, guardX := true, build := .w3 .yield },
  { op := 0xa7, build := .wend .endRun },
  { op := 0xa8, d := .null, a := .us, b := .null, f := .guard, guardX := true, build := .w3 .segset },
  { op := 0xa9, d := .ud 62, a := .null, b := .null, f := .guard, guardX := true, build := .w3 .segget },
  { op := 0xaa, d := .null, a := .us, b := .null, f := .sub7 15, guardX := true, build := .we .barInit },
  { op := 0xab, d := .tok, a := .null, b := .null, f := .sub7 31, guardX := true, build := .we .barArv },
  { op := 0xac, d := .tok, a := .null, b := .null, f := .sub7 15, guardX := true, build := .we .barWt },
  { op := 0xad, d := .tok, a := .null, b := .null, f := .sub7 15, guardX := true, build := .we .barSync },
  { op := 0xae, d := .ud 62, a := .us, b := .null, f := .sub7 7, guardX := true, subMask := 8, subVal := 0, build := .we .qpushRes },
  { op := 0xae, d := .null, a := .us, b := .null, f := .sub7 7, guardX := true, subMask := 8, subVal := 8, build := .we .qpushPub },
  { op := 0xaf, d := .ud 62, a := .us, b := .null, f := .sub7 7, guardX := true, subMask := 8, subVal := 0, build := .we .qpopTake },
  { op := 0xaf, d := .null, a := .us, b := .null, f := .sub7 7, guardX := true, subMask := 8, subVal := 8, build := .we .qpopRel },
  { op := 0xb0, d := .ud 62, a := .null, b := .qpk, f := .sub 63, guardX := true, build := .we .qpeek },
  { op := 0xb1, d := .ud 62, a := .us, b := .null, f := .sub7 0, guardX := true, build := .we .launch },
  { op := 0xb2, d := .ud 62, a := .us, b := .us, f := .guard, guardX := true, modm := some .ldu, build := .w3 .ldu }]

/-- Rows of the opcode maps (R202, R203), part 9. -/
def rows8 : List Row := [
  { op := 0xb3, d := .us, a := .us, b := .us, f := .guard, guardX := true, modm := some .stu, build := .w3 .stu },
  { op := 0xb4, d := .null, a := .ub 55, b := .null, f := .sub 15, guardX := true, build := .we .bcpy },
  { op := 0xb5, d := .null, a := .ub 55, b := .null, f := .sub 15, guardX := true, build := .we .gath },
  { op := 0xb6, d := .null, a := .ub 55, b := .null, f := .sub 15, guardX := true, build := .we .layx },
  { op := 0xb7, d := .ud 62, a := .null, b := .null, f := .sub 63, guardX := true, build := .we .wmrd },
  { op := 0xb8, d := .null, a := .null, b := .null, f := .sub 15, guardX := true, build := .we .wmwait },
  { op := 0xb9, d := .null, a := .null, b := .null, f := .sub 15, guardX := true, build := .we .cpycan },
  { op := 0xba, d := .ud 62, a := .us, b := .us, f := .sub 0, guardX := true, build := .we .pin },
  { op := 0xbb, d := .null, a := .us, b := .null, f := .sub 0, guardX := true, build := .we .unpin },
  { op := 0xbc, d := .null, a := .ub 60, b := .null, f := .sub 31, guardX := true, build := .we .hres },
  { op := 0xbd, d := .null, a := .null, b := .null, f := .sub 31, guardX := true, build := .we .hrel },
  { op := 0xbe, d := .ud 62, a := .us, b := .null, f := .sub 31, guardX := true, build := .we .hstat },
  { op := 0xc0, d := .us, a := .us, f := .sub 63, guardX := true, build := .we .mma },
  { op := 0xc1, d := .us, a := .us, f := .sub 63, guardX := true, build := .we .mmak },
  { op := 0xc2, d := .us, a := .null, b := .null, f := .sub 0, guardX := true, build := .we .aclr },
  { op := 0xc3, d := .us, a := .us, b := .null, f := .sub 3, guardX := true, build := .we .ald },
  { op := 0xc4, d := .us, a := .us, b := .null, f := .sub 2, guardX := true, build := .we .ast },
  { op := 0xc5, d := .ud 61, a := .us, b := .us, f := .sub 0, guardX := true, build := .we .achk },
  { op := 0xc6, d := .ud 62, a := .null, b := .null, f := .sub 15, guardX := true, build := .we .pair },
  { op := 0xc7, d := .null, a := .null, b := .null, f := .sub 7, guardX := true, build := .we .unpair }]

/-- Rows of the opcode maps (R202, R203), part 10. -/
def rows9 : List Row := [
  { op := 0xc8, d := .us, a := .us, f := .sub 63, guardX := true, build := .we .mmap },
  { op := 0xc9, d := .us, a := .us, b := .us, f := .sub 7, guardX := true, build := .we .guide },
  { op := 0xca, d := .us, a := .us, b := .null, f := .sub 0, guardX := true, build := .we .maskp },
  { op := 0xcb, d := .us, a := .us, f := .sub 63, guardX := true, build := .we .mmam },
  { op := 0xcc, d := .ud 62, a := .us, b := .us, f := .sub 15, guardX := true, build := .we .tokpub },
  { op := 0xd0, d := .ud 62, a := .ub 57, b := .null, f := .sub 0, guardX := true, build := .we .tkissue },
  { op := 0xd1, d := .ud 62, a := .us, b := .us, f := .sub 0, guardX := true, build := .we .tkstat },
  { op := 0xd2, d := .ud 62, a := .us, b := .null, f := .sub 0, guardX := true, build := .we .tkdrop },
  { op := 0xd3, d := .ud 59, a := .us, b := .null, f := .sub 0, guardX := true, build := .we .tkfeed },
  { op := 0xd4, d := .ud 62, a := .us, b := .us, f := .sub 3, guardX := true, build := .we .tkredeem },
  { op := 0xd5, d := .ud 62, a := .us, b := .us, f := .sub 0, guardX := true, subMask := 1, subVal := 0, build := .we .tkbindVer },
  { op := 0xd5, d := .ud 62, a := .us, b := .us, f := .sub 0, guardX := true, subMask := 1, subVal := 1, build := .we .tkbindOut },
  { op := 0xd6, d := .null, a := .ub 59, b := .null, f := .sub 3, guardX := true, build := .we .wpst },
  { op := 0xd7, d := .ud 62, a := .ub 58, b := .null, f := .sub 3, guardX := true, build := .we .coll },
  { op := 0xd8, d := .ud 62, a := .ub 61, b := .null, f := .sub 0, guardX := true, subMask := 1, subVal := 0, build := .we .publish },
  { op := 0xd8, d := .ud 62, a := .ub 61, b := .null, f := .sub 0, guardX := true, subMask := 1, subVal := 1, build := .we .publishSkip },
  { op := 0xd9, d := .ud 62, a := .us, b := .null, f := .guard, guardX := true, build := .w3 .steprd },
  { op := 0xe0, d := .null, a := .null, guardX := true, build := .wi .trap },
  { op := 0xe1, d := .null, a := .null, b := .null, f := .guard, guardX := true, build := .w3 .eret },
  { op := 0xe2, d := .ud 62, a := .us, b := .null, f := .guard, guardX := true, build := .w3 .srd }]

/-- Rows of the opcode maps (R202, R203), part 11. -/
def rows10 : List Row := [
  { op := 0xe3, d := .null, a := .us, b := .us, f := .guard, guardX := true, build := .w3 .swr },
  { op := 0xe4, d := .null, a := .us, b := .us, f := .guard, guardX := true, build := .w3 .icinv },
  { op := 0xe5, d := .null, a := .null, b := .null, f := .guard, guardX := true, build := .w3 .commit },
  { op := 0xe6, d := .null, a := .null, b := .null, f := .guard, guardX := true, build := .w3 .texit },
  { op := 0xe7, d := .null, a := .null, guardX := true, build := .wi .bkpt },
  { op := 0xe8, d := .ud 62, a := .us, b := .null, f := .guard, guardX := true, build := .w3 .clk }]

/-- Every encoded row. -/
def rows : List Row :=
  rows0 ++ rows1 ++ rows2 ++ rows3 ++ rows4 ++ rows5 ++ rows6 ++ rows7 ++ rows8 ++ rows9 ++ rows10

/-- The row of a top byte, and of the sub field where two rows share an opcode. -/
def rowOf (op sub : Nat) : Option Row :=
  rows.find? fun r => r.op == op && (sub &&& r.subMask) == r.subVal

/-- The reason list of a condition that traps ILLEGAL with `n`. -/
def reasonIf (c : Bool) (n : Nat) : List Nat := if c then [n] else []

/-- R190, R201: a lane source of `n` words under a window of `win` registers. -/
def laneSrcReasons (win n : Nat) (c : BitVec 6) : List Nat :=
  let k := c.toNat
  if k < 48 then reasonIf (decide (win < k + n) || decide (k % n ≠ 0)) 5
  else if k < 56 then reasonIf (decide (k % n ≠ 0)) 5
  else reasonIf (decide (60 ≤ k) && decide (k ≤ 62)) 3

/-- R189, R201: a lane destination. -/
def laneDstReasons (win n : Nat) (c : BitVec 6) : List Nat :=
  laneSrcReasons win n c ++ reasonIf (decide (58 ≤ c.toNat)) 4

/-- The words of an operand of width code W (R265). -/
def wordsOfW (w : Nat) : Nat := if w = 5 then 2 else if w = 6 then 4 else 1

/-- The words of a CVT type code (R244). -/
def wordsOfType (t : Nat) : Nat := if t = 3 ∨ t = 6 ∨ t = 7 then 2 else 1

/-- What the checks of one operand field need beside its code. -/
structure FieldEnv where
  win : Nat
  w : Nat          -- MODM.W, 4 when absent
  f : Nat          -- the function field or sub
  b : BitVec 6     -- the b field (CVT's types)
  lit : Option Word

/-- The ILLEGAL reasons of one operand field (R201). -/
def Kind.reasons (e : FieldEnv) (c : BitVec 6) : Kind → List Nat
  | .null => reasonIf (c != 57) 7
  | .zero => reasonIf (c != 0) 7
  | .src n => laneSrcReasons e.win n c
  | .dst n => laneDstReasons e.win n c
  | .srcW => laneSrcReasons e.win (wordsOfW e.w) c
  | .dstW => laneDstReasons e.win (wordsOfW e.w) c
  | .any => []
  | .us => []
  | .ud top => reasonIf (decide (c.toNat < 16) || decide (top < c.toNat)) 4
  | .ub top => reasonIf (decide (top < c.toNat)) 2
  | .g3 => reasonIf (decide (8 ≤ c.toNat)) 2
  | .tok => reasonIf (decide (48 ≤ c.toNat)) 2 ++ reasonIf (decide (e.win ≤ c.toNat) && decide (c.toNat < 48)) 5
  | .ctl m => reasonIf (decide (c.toNat ≠ c.toNat &&& m)) 2
  | .vote => laneDstReasons e.win (if e.f = 2 then 2 else 1) c
  | .lane64 i true => laneDstReasons e.win (if e.f.testBit i then 2 else 1) c
  | .lane64 i false => laneSrcReasons e.win (if e.f.testBit i then 2 else 1) c
  | .pmov => reasonIf (!(c == 57 || (c == 63 && (e.lit == some 1 || e.lit == some 2)))) 2
  | .cvtD => laneDstReasons e.win (wordsOfType (e.b.toNat / 8)) c
  | .cvtA => laneSrcReasons e.win (wordsOfType (e.b.toNat % 8)) c
  | .qpk => reasonIf (decide (e.f / 8 ≠ 1) && c != 57) 7

/-- The ILLEGAL reasons of the function field or cond. -/
def Func.reasons (f : Nat) : Func → List Nat
  | .guard => []
  | .zero => reasonIf (decide (f ≠ 0)) 7
  | .sel => []
  | .code m => reasonIf (!m.testBit f) 2
  | .sub m => reasonIf (decide (f ≠ f &&& m)) 2
  | .sub7 m => reasonIf (decide (f ≠ f &&& m)) 7
  | .none => []

/-- Sub values marked ILLEGAL beyond their reserved bits: an edge code 7 (R206), the QPEEK selector
7 (R222), ALD with SUM and CK (R316), a mode or width 3 (R380, R391). -/
def subReasons (op sub : Nat) : List Nat :=
  if op = 0xAE ∨ op = 0xAF then reasonIf (decide (sub % 8 = 7)) 2
  else if op = 0xB0 then reasonIf (decide (sub % 8 = 7) || decide (sub / 8 = 7)) 2
  else if op = 0xC3 ∨ op = 0xD4 ∨ op = 0xD6 then reasonIf (decide (sub % 4 = 3)) 2
  else []

/-- A MODA's fields as the mask of R228, a nonzero field counting. -/
def ModA.mask (m : ModA) : Nat :=
  (if m.na then 1 else 0) + (if m.nb then 2 else 0) + (if m.nc then 4 else 0) + (if m.aa then 8 else 0)
    + (if m.ab then 16 else 0) + (if m.sat then 32 else 0) + (if m.clamp ≠ 0 then 64 else 0)
    + (if m.scale ≠ 0 then 128 else 0) + (if m.rnd ≠ 0 then 256 else 0)

/-- R196: the reasons of a MODA's codes, whatever it precedes. -/
def ModA.codeReasons (m : ModA) : List Nat := reasonIf (m.clamp == 3 || decide (6 ≤ m.rnd.toNat)) 2

/-- R198: the reasons of a MODM's codes, whatever it precedes. -/
def ModM.codeReasons (m : ModM) : List Nat :=
  reasonIf ((m.ord == 0) != (m.scope == 0)) 2 ++ reasonIf (m.w == 7 || decide (12 ≤ m.aop.toNat)) 2

/-- The reasons of the codes of the prefixes scanned so far (R196, R198). -/
def Mods.codeReasons (m : Mods) : List Nat :=
  (match m.a with | some x => x.codeReasons | none => [])
    ++ (match m.m with | some x => x.codeReasons | none => [])

/-- The MODA fields that an instruction accepts (R228): CVT takes CLAMP only with a floating destination, and NC must be
zero where MODX gives no third source. -/
def Row.accepts (r : Row) (b : BitVec 6) (x : Option ModX) : Nat :=
  let m := if r.op = 0x4C ∧ b.toNat / 8 < 4 then r.moda ||| 64 else r.moda
  match x with
  | some x => if x.hc then m else m &&& 507
  | none => m &&& 507

/-- R195, R196, R228: the reasons of a MODA. -/
def modaReasons (r : Row) (b : BitVec 6) (x : Option ModX) : Option ModA → List Nat
  | none => []
  | some m =>
    let accepted := r.accepts b x
    reasonIf (decide (r.moda = 0) || decide (m.mask &&& accepted ≠ m.mask)) 6
      ++ m.codeReasons

/-- Whether a MODX before this row must give a guard or a third source: the chapters of these instructions accept
it with HG = 1, and HC = 1 where they name a c (R206, R226, R251, R264, R275, R308, R317, R337, R348, R366, R381, R392,
R409). The lane arithmetic of R225 names no such limit, and a row that takes UB may use the prefix for that. -/
def Row.needsFlag (r : Row) : Bool := !r.ub && !(decide (0x20 ≤ r.op) && decide (r.op < 0x55))

/-- Whether the b field names an s-register: MODX.UB before a row that has a b operand (R197, R225). -/
def Row.ubOf (r : Row) (x : Option ModX) : Bool :=
  match x with
  | some x => x.ub && r.ub && !(r.b == .null)
  | none => false

/-- R195, R197: the reasons of a MODX before a lane (`lane`) or uniform instruction. -/
def modxReasons (r : Row) (lane : Bool) (f : Nat) (e : FieldEnv) : Option ModX → List Nat
  | none => []
  | some x =>
    reasonIf (!r.guardX && !r.ub && r.c.isNone) 6
      ++ reasonIf (r.needsFlag && !x.hg && !x.hc) 6
      ++ reasonIf (x.hg && !r.guardX) 6
      ++ reasonIf (x.hg && x.gs && decide (8 ≤ x.gi.toNat)) 6
      ++ reasonIf (x.hg && !x.gs && !lane) 6
      ++ reasonIf (x.hg && (r.f == .guard) && decide (f ≠ 0)) 6
      ++ reasonIf (!x.hg && (x.gn || x.gs || x.gi != 0)) 6
      ++ reasonIf (x.ub && !r.ub) 6
      ++ reasonIf (x.hc && r.c.isNone) 6
      ++ reasonIf (!x.hc && x.c != 0) 6
      ++ (match r.c with
          | some k => if x.hc then k.reasons e x.c else []
          | none => [])

/-- Whether a MODM value lies in its row of R264. -/
def MemClass.accepts (m : ModM) : MemClass → Bool
  | .ld => decide (m.w.toNat ≤ 6) && decide (m.ord.toNat ≤ 1) && m.aop == 0
  | .st => decide (m.w.toNat ≤ 6) && (m.ord == 0 || m.ord == 2) && m.aop == 0
  | .ldu => decide (m.w.toNat ≤ 5) && decide (m.ord.toNat ≤ 1) && m.aop == 0
  | .stu => decide (m.w.toNat ≤ 5) && (m.ord == 0 || m.ord == 2) && m.aop == 0
  | .atom => (m.w == 4 || m.w == 5 && decide (m.aop.toNat < 9)) && decide (m.aop.toNat ≤ 11)
  | .red => (m.w == 4 || m.w == 5 && decide (m.aop.toNat < 9)) && decide (m.aop.toNat ≤ 11)
      && (m.ord == 0 || m.ord == 2)
  | .cas => (m.w == 4 || m.w == 5) && m.aop == 0
  | .lcpy => decide (4 ≤ m.w.toNat) && decide (m.w.toNat ≤ 6) && m.ord == 0 && m.aop == 0

/-- R195, R198, R264: the reasons of a MODM. -/
def modmReasons (r : Row) : Option ModM → List Nat
  | none => []
  | some m =>
    m.codeReasons
      ++ (match r.modm with
          | none => 6 :: reasonIf (m.aop != 0) 2
          | some c => reasonIf (!c.accepts m) 2)

/-- The value that names the width of a W-wide operand (R198: 4 without MODM). -/
def Mods.width (m : Mods) : Nat := match m.m with | some x => x.w.toNat | none => 4

/-- The common checks of an instruction: its operand fields, its function field and its prefixes. -/
def Row.reasons (r : Row) (win : Nat) (d a b : BitVec 6) (f : Nat) (m : Mods) : List Nat :=
  let e : FieldEnv := { win := win, w := m.width, f := f, b := b, lit := m.lit }
  let bk := if r.ubOf m.x then Kind.us else r.b
  r.d.reasons e d ++ r.a.reasons e a ++ bk.reasons e b ++ r.f.reasons f
    ++ modaReasons r b m.x m.a ++ modxReasons r (decide (r.op < 0x80)) f e m.x ++ modmReasons r m.m

/-- Whether a field's kind reads operands, so that code 63 names the literal (R189, R191). -/
def Kind.isSource : Kind → Bool
  | .src _ | .srcW | .us | .lane64 _ false | .pmov | .cvtA => true
  | .qpk => true
  | _ => false

/-- Whether an instruction of this row has a literal word (R191). -/
def Row.usesLit (r : Row) (d a b : BitVec 6) (x : Option ModX) : Bool :=
  (r.d.isSource && d == 63) || (r.a.isSource && a == 63)
    || ((r.b.isSource || r.ubOf x) && b == 63)
    || (match r.c, x with
        | some k, some x => k.isSource && x.hc && x.c == 63
        | _, _ => false)

/-- Whether the instruction of these fields has a literal word. -/
def Fields.usesLit (r : Row) : Fields → Bool
  | .w3 w => r.usesLit w.d w.a w.b w.m.x
  | .wi w => r.usesLit w.d w.a 0 w.m.x
  | .wc w => r.usesLit w.d w.a w.b w.m.x
  | .we w => r.usesLit w.d w.a w.b w.m.x
  | .wb _ => false
  | .wend _ => false

/-- The ILLEGAL reasons of an END name (R199). -/
def endNameReasons (win : Nat) (n : BitVec 7) : List Nat :=
  let i := n.toNat % 64
  if n.toNat < 64 then reasonIf (decide (win ≤ i)) 5
  else if n = 0x7F then [] else reasonIf (decide (i < 16)) 4

/-- The instruction that a row makes of its fields. -/
def Row.make (r : Row) : Fields → Option Instr
  | .w3 w => match r.build with | .w3 k => some (k w) | _ => none
  | .wi w => match r.build with | .wi k => some (k w) | _ => none
  | .wc w => match r.build with | .wc k => some (k w) | _ => none
  | .wb w => match r.build with | .wb k => some (k w) | _ => none
  | .we w => match r.build with | .we k => some (k w) | _ => none
  | .wend w => match r.build with | .wend k => some (k w) | _ => none

/-- The prefixes and the literal of the fields. -/
def Fields.mods : Fields → Mods
  | .w3 w => w.m
  | .wi w => w.m
  | .wc w => w.m
  | .wb w => w.m
  | .we w => w.m
  | .wend w => w.m

/-- The sub field, or 0. -/
def Fields.sub : Fields → Nat
  | .we w => w.sub.toNat
  | _ => 0

/-- The negative immediates that R408 forbids. -/
def immReasons (op : Nat) (imm : BitVec 9) : List Nat :=
  reasonIf ((op == 0xE0 || op == 0xE7) && bitAt imm 8) 2

/-- R193: the fields of a branch. -/
def branchReasons (op : Nat) (w : WB) : List Nat :=
  if op = 0xA0 ∨ op = 0xA3 then reasonIf (w.n || w.pred != 0) 7
  else if op = 0xA2 then reasonIf (decide (8 ≤ w.pred.toNat)) 2
  else []

/-- Every ILLEGAL reason that a set of fields meets under a window (R201). -/
def Fields.reasons (r : Row) (win : Nat) : Fields → List Nat
  | .w3 w => r.reasons win w.d w.a w.b w.f.toNat w.m
      ++ (if r.op = 0x4C then
            reasonIf (decide (w.b.toNat / 8 = w.b.toNat % 8) && decide (4 ≤ w.b.toNat % 8)) 2 else [])
  | .wi w => r.reasons win w.d w.a 0 0 w.m ++ immReasons r.op w.imm
  | .wc w => r.reasons win w.d w.a w.b w.cond.toNat w.m
  | .we w => r.reasons win w.d w.a w.b (w.sub.toNat &&& (63 - r.subMask)) w.m ++ subReasons r.op w.sub.toNat
  | .wb w => r.reasons win 0 0 0 0 w.m ++ branchReasons r.op w
  | .wend w => r.reasons win 0 0 0 0 w.m ++ reasonIf (w.z != 0) 2
      ++ endNameReasons win w.n0 ++ endNameReasons win w.n1 ++ endNameReasons win w.n2

/-- How many words an instruction occupies: its prefixes, its word and its literal (R185). -/
def Mods.words (m : Mods) : Nat :=
  1 + (if m.a.isSome then 1 else 0) + (if m.x.isSome then 1 else 0) + (if m.m.isSome then 1 else 0)
    + (if m.lit.isSome then 1 else 0)

/-- The top byte and the fields of an encoded instruction; the events of other agents have no word. -/
def Instr.fields? : Instr → Option (Nat × Fields)
  | .nop w => some (0x0, .w3 w)
  | .iaddI32 w => some (0x1, .w3 w)
  | .iaddI32Li w => some (0x23, .wi w)
  | .isubI32 w => some (0x2, .w3 w)
  | .imulI32 w => some (0x3, .w3 w)
  | .imulI32Li w => some (0x24, .wi w)
  | .imulhI32 w => some (0x4, .w3 w)
  | .imulhN32 w => some (0x5, .w3 w)
  | .imadI32 w => some (0x6, .w3 w)
  | .iabsI32 w => some (0x7, .w3 w)
  | .idivI32 w => some (0x8, .w3 w)
  | .idivN32 w => some (0x9, .w3 w)
  | .iremI32 w => some (0xa, .w3 w)
  | .iremN32 w => some (0xb, .w3 w)
  | .iminI32 w => some (0xc, .w3 w)
  | .iminN32 w => some (0xd, .w3 w)
  | .imaxI32 w => some (0xe, .w3 w)
  | .imaxN32 w => some (0xf, .w3 w)
  | .andL w => some (0x10, .w3 w)
  | .andLi w => some (0x25, .wi w)
  | .orL w => some (0x11, .w3 w)
  | .orLi w => some (0x26, .wi w)
  | .xorL w => some (0x12, .w3 w)
  | .xorLi w => some (0x27, .wi w)
  | .shl w => some (0x13, .w3 w)
  | .shlLi w => some (0x28, .wi w)
  | .shr w => some (0x14, .w3 w)
  | .shrLi w => some (0x29, .wi w)
  | .sar w => some (0x15, .w3 w)
  | .sarLi w => some (0x2a, .wi w)
  | .rotl w => some (0x16, .w3 w)
  | .rotlLi w => some (0x2b, .wi w)
  | .popc w => some (0x17, .w3 w)
  | .clz w => some (0x18, .w3 w)
  | .brev w => some (0x19, .w3 w)
  | .bfxI32 w => some (0x1a, .w3 w)
  | .bfxN32 w => some (0x1b, .w3 w)
  | .bfi w => some (0x1c, .w3 w)
  | .perm w => some (0x1d, .w3 w)
  | .sel w => some (0x1e, .w3 w)
  | .mov w => some (0x1f, .w3 w)
  | .movLi w => some (0x2c, .wi w)
  | .movU w => some (0x22, .w3 w)
  | .icmpI32 w => some (0x20, .wc w)
  | .icmpN32 w => some (0x21, .wc w)
  | .faddF32 w => some (0x30, .w3 w)
  | .fsubF32 w => some (0x31, .w3 w)
  | .fmulF32 w => some (0x32, .w3 w)
  | .fmulzF32 w => some (0x33, .w3 w)
  | .ffmaF32 w => some (0x34, .w3 w)
  | .fminF32 w => some (0x35, .w3 w)
  | .fmaxF32 w => some (0x36, .w3 w)
  | .fcmpF32 w => some (0x37, .wc w)
  | .fclassF32 w => some (0x38, .w3 w)
  | .fdivF32 w => some (0x39, .w3 w)
  | .frcpF32 w => some (0x3a, .w3 w)
  | .frsqF32 w => some (0x3b, .w3 w)
  | .fsqrtF32 w => some (0x3c, .w3 w)
  | .fexp2F32 w => some (0x3d, .w3 w)
  | .flog2F32 w => some (0x3e, .w3 w)
  | .fsinF32 w => some (0x3f, .w3 w)
  | .fcosF32 w => some (0x40, .w3 w)
  | .ftanhF32 w => some (0x41, .w3 w)
  | .daddF64 w => some (0x42, .w3 w)
  | .dmulF64 w => some (0x43, .w3 w)
  | .dfmaF64 w => some (0x44, .w3 w)
  | .hadd2F16 w => some (0x45, .w3 w)
  | .hadd2BF16 w => some (0x46, .w3 w)
  | .hmul2F16 w => some (0x47, .w3 w)
  | .hmul2BF16 w => some (0x48, .w3 w)
  | .hfma2F16 w => some (0x49, .w3 w)
  | .hfma2BF16 w => some (0x4a, .w3 w)
  | .cfma w => some (0x4b, .w3 w)
  | .cvt w => some (0x4c, .w3 w)
  | .rndp w => some (0x4d, .w3 w)
  | .pand w => some (0x50, .w3 w)
  | .por w => some (0x51, .w3 w)
  | .pxor w => some (0x52, .w3 w)
  | .pnot w => some (0x53, .w3 w)
  | .pmovw w => some (0x54, .w3 w)
  | .pldw w => some (0x55, .w3 w)
  | .shfl w => some (0x56, .w3 w)
  | .vote w => some (0x57, .w3 w)
  | .matchx w => some (0x58, .w3 w)
  | .redx w => some (0x59, .w3 w)
  | .fredx w => some (0x5a, .w3 w)
  | .scanx w => some (0x5b, .w3 w)
  | .bcast w => some (0x5c, .w3 w)
  | .elect w => some (0x5d, .w3 w)
  | .qscale w => some (0x5e, .w3 w)
  | .cvtnPack w => some (0x5f, .w3 w)
  | .cvtnExp w => some (0x60, .w3 w)
  | .ld w => some (0x61, .w3 w)
  | .st w => some (0x62, .w3 w)
  | .lds w => some (0x63, .w3 w)
  | .sts w => some (0x64, .w3 w)
  | .atom w => some (0x65, .w3 w)
  | .atoms w => some (0x66, .w3 w)
  | .red w => some (0x67, .w3 w)
  | .cas w => some (0x68, .w3 w)
  | .fenceT w => some (0x69, .w3 w)
  | .fenceD w => some (0x6a, .w3 w)
  | .fenceS w => some (0x6b, .w3 w)
  | .lcpy w => some (0x6c, .w3 w)
  | .optaw w => some (0x6d, .w3 w)
  | .shard w => some (0x6e, .w3 w)
  | .jmpi w => some (0x6f, .w3 w)
  | .calli w => some (0x70, .w3 w)
  | .fork w => some (0x71, .w3 w)
  | .fend w => some (0x72, .w3 w)
  | .sadd w => some (0x81, .w3 w)
  | .saddYi w => some (0x96, .wi w)
  | .ssub w => some (0x82, .w3 w)
  | .smul w => some (0x83, .w3 w)
  | .smad w => some (0x84, .w3 w)
  | .sand w => some (0x85, .w3 w)
  | .sandYi w => some (0x97, .wi w)
  | .sor w => some (0x86, .w3 w)
  | .sorYi w => some (0x98, .wi w)
  | .sxor w => some (0x87, .w3 w)
  | .sxorYi w => some (0x99, .wi w)
  | .sshl w => some (0x88, .w3 w)
  | .sshlYi w => some (0x9a, .wi w)
  | .sshr w => some (0x89, .w3 w)
  | .sshrYi w => some (0x9b, .wi w)
  | .ssar w => some (0x8a, .w3 w)
  | .ssarYi w => some (0x9c, .wi w)
  | .sminI64 w => some (0x8b, .w3 w)
  | .sminN64 w => some (0x8c, .w3 w)
  | .smaxI64 w => some (0x8d, .w3 w)
  | .smaxN64 w => some (0x8e, .w3 w)
  | .ssel w => some (0x8f, .w3 w)
  | .scmpI64 w => some (0x90, .wc w)
  | .scmpN64 w => some (0x91, .wc w)
  | .smov w => some (0x92, .w3 w)
  | .smovYi w => some (0x9d, .wi w)
  | .spopc w => some (0x93, .w3 w)
  | .sclz w => some (0x94, .w3 w)
  | .slane w => some (0x95, .w3 w)
  | .bra w => some (0xa0, .wb w)
  | .br w => some (0xa1, .wb w)
  | .brg w => some (0xa2, .wb w)
  | .call w => some (0xa3, .wb w)
  | .ret w => some (0xa4, .w3 w)
  | .rjoin w => some (0xa5, .w3 w)
  | .yield w => some (0xa6, .w3 w)
  | .endRun w => some (0xa7, .wend w)
  | .segset w => some (0xa8, .w3 w)
  | .segget w => some (0xa9, .w3 w)
  | .barInit w => some (0xaa, .we w)
  | .barArv w => some (0xab, .we w)
  | .barWt w => some (0xac, .we w)
  | .barSync w => some (0xad, .we w)
  | .qpushRes w => some (0xae, .we w)
  | .qpushPub w => some (0xae, .we w)
  | .qpopTake w => some (0xaf, .we w)
  | .qpopRel w => some (0xaf, .we w)
  | .qpeek w => some (0xb0, .we w)
  | .launch w => some (0xb1, .we w)
  | .ldu w => some (0xb2, .w3 w)
  | .stu w => some (0xb3, .w3 w)
  | .bcpy w => some (0xb4, .we w)
  | .gath w => some (0xb5, .we w)
  | .layx w => some (0xb6, .we w)
  | .wmrd w => some (0xb7, .we w)
  | .wmwait w => some (0xb8, .we w)
  | .cpycan w => some (0xb9, .we w)
  | .pin w => some (0xba, .we w)
  | .unpin w => some (0xbb, .we w)
  | .hres w => some (0xbc, .we w)
  | .hrel w => some (0xbd, .we w)
  | .hstat w => some (0xbe, .we w)
  | .mma w => some (0xc0, .we w)
  | .mmak w => some (0xc1, .we w)
  | .aclr w => some (0xc2, .we w)
  | .ald w => some (0xc3, .we w)
  | .ast w => some (0xc4, .we w)
  | .achk w => some (0xc5, .we w)
  | .pair w => some (0xc6, .we w)
  | .unpair w => some (0xc7, .we w)
  | .mmap w => some (0xc8, .we w)
  | .guide w => some (0xc9, .we w)
  | .maskp w => some (0xca, .we w)
  | .mmam w => some (0xcb, .we w)
  | .tokpub w => some (0xcc, .we w)
  | .tkissue w => some (0xd0, .we w)
  | .tkstat w => some (0xd1, .we w)
  | .tkdrop w => some (0xd2, .we w)
  | .tkfeed w => some (0xd3, .we w)
  | .tkredeem w => some (0xd4, .we w)
  | .tkbindVer w => some (0xd5, .we w)
  | .tkbindOut w => some (0xd5, .we w)
  | .wpst w => some (0xd6, .we w)
  | .coll w => some (0xd7, .we w)
  | .publish w => some (0xd8, .we w)
  | .publishSkip w => some (0xd8, .we w)
  | .steprd w => some (0xd9, .w3 w)
  | .trap w => some (0xe0, .wi w)
  | .eret w => some (0xe1, .w3 w)
  | .srd w => some (0xe2, .w3 w)
  | .swr w => some (0xe3, .w3 w)
  | .icinv w => some (0xe4, .w3 w)
  | .commit w => some (0xe5, .w3 w)
  | .texit w => some (0xe6, .w3 w)
  | .bkpt w => some (0xe7, .wi w)
  | .clk w => some (0xe8, .w3 w)
  | .coldReset => none
  | .perstWarmReset => none
  | .functionLevelReset => none
  | .timestampTick => none
  | .currentLimiterHold => none
  | .governorStepDown => none
  | .governorStepUp => none
  | .functionInitComplete => none
  | .trainTimeout => none
  | .linkDown => none
  | .linkRetrainComplete => none
  | .lateTraining => none
  | .hostMemAccess => none
  | .intenWrite => none
  | .intpendClear => none
  | .mscFlush => none
  | .mscResize => none
  | .mscFlushComplete => none
  | .mscMissFill => none
  | .fillLineSnoop => none
  | .fillLineReread => none
  | .ringEnable => none
  | .ringEnginePublish => none
  | .ringTailPoll => none
  | .flitCrcFail => none
  | .korbenPacketReceive => none
  | .topoWrite => none
  | .ownerWrite => none
  | .keyEvict => none
  | .keyEvictComplete => none
  | .getVersion => none
  | .getCapabilities => none
  | .negotiateAlgorithms => none
  | .getDigests => none
  | .getCertificate => none
  | .challenge => none
  | .getMeasurements => none
  | .keyExchange => none
  | .finish => none
  | .stateRead => none
  | .stateWrite => none
  | .logRead => none
  | .logAck => none
  | .keyLoad => none
  | .warmReset => none
  | .floorRaise => none
  | .graphBind => none
  | .graphBindComplete => none
  | .graphUnbind => none
  | .agingInterval => none
  | .instanceDispatch => none
  | .teamPlace => none
  | .instanceComplete => none
  | .pctlEnWrite => none
  | .preempt => none
  | .resume => none
  | .reset => none
  | .partitionHalted => none
  | .contextSaveComplete => none
  | .restoreStart => none
  | .contextRestoreComplete => none
  | .partitionResetComplete => none
  | .faultResolve => none
  | .faultEntryWrite => none
  | .storeBufferDrain => none
  | .teamRelaunch => none
  | .runFetch => none
  | .formGroup => none
  | .parkPartialGroup => none
  | .pageWalk => none
  | .tlbInvalidate => none
  | .tlbInvalidateComplete => none
  | .copyUnitLand => none
  | .matrixKStep => none
  | .collectiveComplete => none
  | .stepWrite => none
  | .registerWrite => none
  | .softError => none
  | .resultWrite => none
  | .accessPerformed => none
  | .cxlCacheSnoop => none
  | .configurationSpaceWrite => none
  | .dynamicCapacityEvent => none

end Sys2Proof
end

