-- ==== Sys2Proof/Machine/Operands.lean ====
section
/-! DEFINITION. Operand forms: reading and writing lane, uniform and predicate registers under the
latencies of R132 to R135 (R189 to R192), guards (R187, R197), the checks that come before an
instruction's effect (R110, R133), and the shapes that instructions share. -/

namespace Sys2Proof.Machine

/-- What an instruction of the issuing group acts on. -/
structure Ctx where
  t : Team
  g : Group
  clk : Nat
  lit : Word := 0

/-! ### Results in flight -/

/-- The value of a location at a clock, from its newest writer back (R133). DESIGN CHOICE, log entry 7. -/
def seenAt (clk : Nat) (loc : Loc) : List Early → DWord → DWord
  | [], v => v
  | e :: r, v => if e.loc = loc then (if e.due ≤ clk then v else seenAt clk loc r e.old) else seenAt clk loc r v

/-- Whether the newest write of a location is unnamed and still in flight (R133, R135). -/
def inFlight (clk : Nat) (loc : Loc) (h : List Early) : Bool :=
  match h.find? fun e => decide (e.loc = loc) with
  | some e => decide (clk < e.due) && !e.named
  | none => false

/-- The clock from which a reader may issue, for results that END named (R135). DESIGN CHOICE, log entry 7. -/
def namedDue (locs : List Loc) (h : List Early) (clk : Nat) : Nat :=
  h.foldl (fun c e => if e.named && locs.contains e.loc then Nat.max c e.due else c) clk

/-- Records a write with latency L of a location that held `old` (R132, R133). DESIGN CHOICE, log entry 7. -/
def noteWrite (h : List Early) (clk lat : Nat) (loc : Loc) (old : DWord) : List Early :=
  if lat ≤ 1 then h.filter fun e => decide (e.loc ≠ loc)
  else { loc := loc, old := old, due := clk + lat } :: h

/-! ### Reading -/

/-- A v-register of a window, as a reader at the present clock sees it. -/
def Ctx.v (c : Ctx) (wid r : Nat) : Word :=
  (seenAt c.clk (.v wid r) c.g.hist ((sget 0 c.t.win (wid * 64 + r)).setWidth 64)).setWidth 32

/-- A run temporary; one that nothing has written reads 0 (R134). -/
def Ctx.q (c : Ctx) (wid i : Nat) : Word :=
  (seenAt c.clk (.q wid i) c.g.hist (((sget none c.g.temps (wid * 8 + i)).getD 0).setWidth 64)).setWidth 32

/-- `last` (R134, R189). -/
def Ctx.last (c : Ctx) (wid : Nat) : DWord := seenAt c.clk (.last wid) c.g.hist ((sget none c.g.last wid).getD 0)

/-- An s-register (R127). -/
def Ctx.s (c : Ctx) (i : Nat) : DWord := seenAt c.clk (.s i) c.g.hist (sget 0 c.g.sregs i)

/-- A predicate word as stored; p0 reads 1 (R123). -/
def Team.predWord (t : Team) (wid : Nat) : DWord := sget 1 t.preds wid ||| 1

/-- A predicate (R123). -/
def Ctx.p (c : Ctx) (wid i : Nat) : Bool :=
  if i = 0 then true
  else bitAt (seenAt c.clk (.p wid i) c.g.hist (if bitAt (c.t.predWord wid) i then 1 else 0)) 0

/-- A group predicate; g0 reads 1 (R127). -/
def Ctx.gp (c : Ctx) (i : Nat) : Bool :=
  if i = 0 then true else bitAt (seenAt c.clk (.g i) c.g.hist (if bitAt c.g.gpred i then 1 else 0)) 0

/-- The predicate word as a reader sees it. -/
def Ctx.predWord (c : Ctx) (wid : Nat) : DWord :=
  (List.range 64).foldl (fun w i => if c.p wid i then w ||| BitVec.ofNat 64 (2 ^ i) else w) 0

/-- Word i of a lane operand (R189, R190). -/
def Ctx.laneWord (c : Ctx) (ln : Lane) (code : BitVec 6) (i : Nat) : Word :=
  let k := code.toNat
  if k < 48 then c.v ln.wid (k + i)
  else if k < 56 then c.q ln.wid (k - 48 + i)
  else if k = 56 then (if i < 2 then (c.last ln.wid >>> (32 * i)).setWidth 32 else 0)
  else if k = 57 then 0
  else if k = 58 then (if i = 0 then BitVec.ofNat 32 ln.pos else 0)
  else if k = 59 then (if i = 0 then BitVec.ofNat 32 ln.fid else 0)
  else if k = 63 then (if i = 0 then c.lit else if c.lit.msb then 0xFFFFFFFF else 0)
  else 0

/-- A 32-bit lane operand. -/
def Ctx.l32 (c : Ctx) (ln : Lane) (code : BitVec 6) : Word := c.laneWord ln code 0

/-- A 64-bit lane operand, the literal sign-extended (R190). -/
def Ctx.l64 (c : Ctx) (ln : Lane) (code : BitVec 6) : DWord := c.laneWord ln code 1 ++ c.laneWord ln code 0

/-- A uniform operand, the literal sign-extended (R191, R192). -/
def Ctx.u (c : Ctx) (code : BitVec 6) : DWord :=
  if code = 63 then c.lit.signExtend 64 else c.s code.toNat

/-- Whether the b field of a lane instruction names an s-register (R197). -/
def isUb (m : Mods) : Bool := match m.x with | some x => x.ub | none => false

/-- The 32-bit b operand of a lane instruction, lane or uniform (R189, R197). -/
def Ctx.b32 (c : Ctx) (ln : Lane) (w : W3) : Word :=
  if isUb w.m then (c.u w.b).setWidth 32 else c.l32 ln w.b

/-- The 64-bit b operand of a lane instruction. -/
def Ctx.b64 (c : Ctx) (ln : Lane) (w : W3) : DWord := if isUb w.m then c.u w.b else c.l64 ln w.b

/-- The third source of a lane instruction, 32 bits; `d` when MODX supplies none (R197, R225). -/
def Ctx.c32 (c : Ctx) (ln : Lane) (m : Mods) (d : Word) : Word :=
  match m.x with
  | some x => if x.hc then c.l32 ln x.c else d
  | none => d

/-- The third source of a lane instruction, 64 bits. -/
def Ctx.c64 (c : Ctx) (ln : Lane) (m : Mods) (d : DWord) : DWord :=
  match m.x with
  | some x => if x.hc then c.l64 ln x.c else d
  | none => d

/-- The third source of a uniform instruction. -/
def Ctx.cU (c : Ctx) (m : Mods) : DWord :=
  match m.x with
  | some x => if x.hc then c.u x.c else 0
  | none => 0

/-! ### Writing -/

/-- Whether an error site is a register word of a window. -/
def ErrorSite.isReg (e : ErrorSite) (wid r : Nat) : Bool :=
  match e with
  | .register _ _ w i _ _ => decide (w = wid) && decide (i = r)
  | _ => false

/-- Writes a v-register with a latency; a write of the whole word clears an error of it (R121). -/
def Ctx.setV (c : Ctx) (lat wid r : Nat) (v : Word) : Ctx :=
  { c with
    t := { c.t with win := sset 0 c.t.win (wid * 64 + r) v
                    errors := c.t.errors.filter fun e => !e.isReg wid r }
    g := { c.g with hist := noteWrite c.g.hist c.clk lat (.v wid r) ((sget 0 c.t.win (wid * 64 + r)).setWidth 64) } }

/-- Writes a run temporary. -/
def Ctx.setQ (c : Ctx) (lat wid i : Nat) (v : Word) : Ctx :=
  let old := sget none c.g.temps (wid * 8 + i)
  { c with g := { c.g with
      temps := sset none c.g.temps (wid * 8 + i) (some v)
      hist := noteWrite c.g.hist c.clk lat (.q wid i) ((old.getD 0).setWidth 64) } }

/-- Writes `last`. -/
def Ctx.setLast (c : Ctx) (lat wid : Nat) (v : DWord) : Ctx :=
  let old := sget none c.g.last wid
  { c with g := { c.g with
      last := sset none c.g.last wid (some v)
      hist := noteWrite c.g.hist c.clk lat (.last wid) (old.getD 0) } }

/-- Writes an s-register. -/
def Ctx.setS (c : Ctx) (lat i : Nat) (v : DWord) : Ctx :=
  { c with g := { c.g with
      sregs := sset 0 c.g.sregs i v
      hist := noteWrite c.g.hist c.clk lat (.s i) (sget 0 c.g.sregs i) } }

/-- Writes a predicate; a write of p0 is discarded (R123). -/
def Ctx.setP (c : Ctx) (lat wid i : Nat) (b : Bool) : Ctx :=
  if i = 0 then c
  else
    let old := c.t.predWord wid
    { c with
      t := { c.t with preds := sset 1 c.t.preds wid (setField old i 1 (if b then 1 else 0) ||| 1) }
      g := { c.g with hist := noteWrite c.g.hist c.clk lat (.p wid i) (if bitAt old i then 1 else 0) } }

/-- Writes a group predicate; a write of g0 is discarded (R127, R192). -/
def Ctx.setG (c : Ctx) (lat i : Nat) (b : Bool) : Ctx :=
  if i = 0 then c
  else
    { c with g := { c.g with
        gpred := (c.g.gpred &&& ~~~(BitVec.ofNat 8 (2 ^ i))) ||| (if b then BitVec.ofNat 8 (2 ^ i) else 0)
        hist := noteWrite c.g.hist c.clk lat (.g i) (if bitAt c.g.gpred i then 1 else 0) } }

/-- Writes consecutive words of a lane destination; codes 56 and 57 keep none (R189). -/
def Ctx.setWords (c : Ctx) (lat : Nat) (ln : Lane) (k : Nat) : List Word → Ctx
  | [] => c
  | v :: vs =>
    let c1 := if k < 48 then c.setV lat ln.wid k v else if k < 56 then c.setQ lat ln.wid (k - 48) v else c
    c1.setWords lat ln (if k < 56 then k + 1 else k) vs

/-- The low 64 bits of a result of several words, as `last` holds it. -/
def lastOf : List Word → DWord
  | [] => 0
  | [v] => v.setWidth 64
  | v :: w :: _ => w ++ v

/-- Writes a lane result: the destination and `last` (R189). -/
def Ctx.result (c : Ctx) (lat : Nat) (ln : Lane) (code : BitVec 6) (vs : List Word) : Ctx :=
  (c.setWords lat ln code.toNat vs).setLast lat ln.wid (lastOf vs)

/-- Writes the same words to every side of a lane (R109). -/
def Ctx.bothSides (c : Ctx) (ln : Lane) (code : BitVec 6) (vs : List Word) : Ctx :=
  c.t.sides.foldl (fun c sd => c.result 0 { ln with side := sd, wid := c.t.wid ln.fid sd } code vs) c

/-- Sets sticky bits of a fibre (R229). -/
def Ctx.stick (c : Ctx) (wid : Nat) (bits : BitVec 7) : Ctx :=
  { c with t := { c.t with sticky := sset 0 c.t.sticky wid (sget 0 c.t.sticky wid ||| bits) } }

/-! ### Guards -/

/-- The guard of an instruction: a predicate, lane or group, plain or negated (R187, R192, R197). -/
structure Guard where
  neg : Bool := false
  isG : Bool := false
  idx : Nat := 0
  deriving DecidableEq, Repr

/-- The guard that MODX gives, or else the guard field names; `grp` for the uniform set. -/
def guardOf (grp : Bool) (f : Nat) (m : Mods) : Guard :=
  match m.x with
  | some x => if x.hg then { neg := x.gn, isG := x.gs, idx := x.gi.toNat } else { isG := grp, idx := f }
  | none => { isG := grp, idx := f }

/-- Whether a guard holds for a lane. -/
def Ctx.guard (c : Ctx) (gd : Guard) (ln : Lane) : Bool :=
  (if gd.isG then c.gp gd.idx else c.p ln.wid gd.idx) != gd.neg

/-- Whether a group guard holds. -/
def Ctx.groupGuard (c : Ctx) (gd : Guard) : Bool := c.gp gd.idx != gd.neg

/-- The active lanes of every side. -/
def Ctx.lanes (c : Ctx) : List Lane := c.t.sides.flatMap (lanesOn c.t c.g)

/-- The executing lanes of every side (R128). -/
def Ctx.exec (c : Ctx) (gd : Guard) : List Lane := c.lanes.filter (c.guard gd)

/-- The executing lanes of the visible side. -/
def Ctx.execVisible (c : Ctx) (gd : Guard) : List Lane := (lanesOn c.t c.g 0).filter (c.guard gd)

/-! ### Checks before the effect -/

/-- The locations of a lane operand of n words. -/
def laneLocs (ln : Lane) (code : BitVec 6) (n : Nat) : List Loc :=
  let k := code.toNat
  if k < 48 then (List.range n).map fun i => .v ln.wid (k + i)
  else if k < 56 then (List.range n).map fun i => .q ln.wid (k - 48 + i)
  else if k = 56 then [.last ln.wid] else []

/-- The location of a uniform operand. -/
def uniLocs (code : BitVec 6) : List Loc := if code = 63 then [] else [.s code.toNat]

/-- The locations of a guard. -/
def guardLocs (gd : Guard) (ln : Lane) : List Loc :=
  if gd.idx = 0 then [] else if gd.isG then [.g gd.idx] else [.p ln.wid gd.idx]

/-- Whether a read of a location comes too early (R133, R134). DESIGN CHOICE, log entry 7. -/
def Ctx.early (c : Ctx) (l : Loc) : Bool :=
  inFlight c.clk l c.g.hist
    || (match l with
        | .q wid i => (sget none c.g.temps (wid * 8 + i)).isNone
        | .last wid => (sget none c.g.last wid).isNone
        | _ => false)

/-- The lanes that read too early, of the active lanes for the guard and of the executing lanes for
the operands. -/
def Ctx.earlyMask (c : Ctx) (gd : Guard) (locs : Lane → List Loc) : DWord :=
  maskOf ((c.lanes.filter fun ln =>
    (guardLocs gd ln).any c.early || (c.guard gd ln && (locs ln).any c.early)).map (·.pos))

/-- The visible lanes whose two sides differ in a compared value (R110). DEDUCED, log entry 31. -/
def Ctx.differing (c : Ctx) (gd : Guard) (f : Lane → List DWord) : DWord :=
  if c.t.launch.prot then
    maskOf (((lanesOn c.t c.g 0).filter fun ln =>
      let sh := { ln with wid := c.t.wid ln.fid 1, side := 1 }
      (c.guard gd ln || c.guard gd sh) && decide (f ln ≠ f sh)).map (·.pos))
  else 0

/-- The visible lanes whose guard differs between the two sides (R110, kind 6). -/
def Ctx.guardDiffers (c : Ctx) (gd : Guard) : DWord :=
  if c.t.launch.prot && decide (gd.idx ≠ 0) then
    maskOf (((lanesOn c.t c.g 0).filter fun ln =>
      c.guard gd ln != c.guard gd { ln with wid := c.t.wid ln.fid 1, side := 1 }).map (·.pos))
  else 0

/-- The SDC trap of a comparison point (R110, R111). DEDUCED, log entry 31. -/
def sdcTrap (kind : Nat) (mask : DWord) (addr : DWord) : Trap :=
  { cause := 0x0301, mask := mask, addr := addr, kind := kind }

/-- The lanes whose next read of a register word meets an uncorrectable error (R121). DEDUCED, log entry 22. -/
def Ctx.badWords (c : Ctx) (locs : Lane → List Loc) (gd : Guard) : DWord :=
  maskOf ((c.lanes.filter fun ln => c.guard gd ln && (locs ln).any fun l =>
    match l with
    | .v w r => c.t.errors.any fun e => e.isReg w r
    | _ => false).map (·.pos))

/-- The trap that an instruction's operands raise before it has any effect: STALL_SHORT under CHK
(R133, R134), UECC for a bad register word (R121), SDC for a guard that differs (R110). -/
def Ctx.operandTrap (c : Ctx) (gd : Guard) (locs : Lane → List Loc) : Option Trap :=
  let e := c.earlyMask gd locs
  let u := c.badWords locs gd
  let d := c.guardDiffers gd
  if c.t.launch.chk && e != 0 then some { cause := 0x0101, mask := e }
  else if u != 0 then some { cause := 0x0302, mask := u, kind := 0 }
  else if d != 0 then some (sdcTrap 6 d 0)
  else none

/-- The context of an instruction of the issuing group: it issues once the results that END named and
that it reads have been written (R135). -/
def ctxFor (s : State) (t : Team) (g : Group) (m : Mods) : Ctx :=
  { t := t, g := g, clk := s.clk, lit := m.lit.getD 0 }

/-- The clock at which the instruction issues. DESIGN CHOICE, log entry 9. -/
def Ctx.issueClk (c : Ctx) (gd : Guard) (locs : Lane → List Loc) : Nat :=
  namedDue (c.lanes.flatMap fun ln => guardLocs gd ln ++ locs ln) c.g.hist c.clk

/-- Puts a context back and passes the instruction. -/
def Ctx.finish (c : Ctx) (s : State) (stall words : Nat) : State :=
  ({ s with clk := Nat.max s.clk c.clk }).put c.t (c.g.retire c.clk stall words)

/-! ### Shapes -/

/-- The trap of an operand check: an uncorrectable word raises one trap, and the read clears it
(R121). -/
def Ctx.trapOperand (c : Ctx) (s : State) (gd : Guard) (locs : Lane → List Loc) (tr : Trap) : Res :=
  let reads : List Loc := (c.exec gd).flatMap locs
  let t := if tr.cause = 0x0302 then
      { c.t with errors := c.t.errors.filter fun e => !reads.any fun l =>
          match l with
          | .v w r => e.isReg w r
          | _ => false }
    else c.t
  trapRes { s with clk := c.clk } t c.g tr

/-- A lane instruction: it issues once the results that END named and that it reads have been written,
its operands are checked, and then it acts. DEDUCED, log entry 20. -/
def laneRun (s : State) (gd : Guard) (m : Mods) (locs : Lane → List Loc) (f : State → Ctx → Res) : Res :=
  withGroup s fun t g =>
    let c0 := ctxFor s t g m
    let c := { c0 with clk := c0.issueClk gd locs }
    match c.operandTrap gd locs with
    | some tr => c.trapOperand s gd locs tr
    | none => f { s with clk := c.clk } c

/-- A lane instruction that only writes registers: its effect on the context, then the program counter
passes it. -/
def laneInstr (s : State) (gd : Guard) (m : Mods) (stall : Nat) (locs : Lane → List Loc)
    (f : Ctx → Ctx) : Res :=
  laneRun s gd m locs fun s c => .next ((f c).finish s stall m.words)

/-- Writes to each executing lane the words and sticky bits that a function of the lane gives, with a latency.
All operands are read before any result is written. -/
def Ctx.mapSticky (c : Ctx) (gd : Guard) (lat : Nat) (code : BitVec 6) (f : Lane → List Word × BitVec 7) : Ctx :=
  ((c.exec gd).map fun ln => (ln, f ln)).foldl
    (fun c p => (c.result lat p.1 code p.2.1).stick p.1.wid p.2.2) c

/-- The same without sticky bits. -/
def Ctx.mapLanes (c : Ctx) (gd : Guard) (lat : Nat) (code : BitVec 6) (f : Lane → List Word) : Ctx :=
  c.mapSticky gd lat code fun ln => (f ln, 0)

/-- Writes a predicate in each executing lane. -/
def Ctx.mapPred (c : Ctx) (gd : Guard) (lat : Nat) (idx : Nat) (f : Lane → Bool × BitVec 7) : Ctx :=
  ((c.exec gd).map fun ln => (ln, f ln)).foldl
    (fun c p => (c.setP lat p.1.wid idx p.2.1).stick p.1.wid p.2.2) c

/-- The locations of the third source. -/
def cLocs (m : Mods) (ln : Lane) (n : Nat) : List Loc :=
  match m.x with
  | some x => if x.hc then laneLocs ln x.c n else []
  | none => []

/-- The locations of the b operand. -/
def bLocs (w : W3) (ln : Lane) (n : Nat) : List Loc :=
  if isUb w.m then uniLocs w.b else laneLocs ln w.b n

/-- The locations of a three-operand lane instruction whose sources have na, nb and nc words. -/
def w3Locs (w : W3) (na nb nc : Nat) (ln : Lane) : List Loc :=
  laneLocs ln w.a na ++ bLocs w ln nb ++ cLocs w.m ln nc

/-- The guard of an L3 word. -/
def guard3 (w : W3) : Guard := guardOf false w.f.toNat w.m

/-- The guard of a word without a guard field. -/
def guardX (m : Mods) : Guard := guardOf false 0 m

/-- The trap of a uniform instruction's operands: STALL_SHORT under CHK, for every active lane. -/
def Ctx.uniTrap (c : Ctx) (gd : Guard) (locs : List Loc) : Option Trap :=
  let gl : List Loc := if gd.idx = 0 then [] else [.g gd.idx]
  if c.t.launch.chk && (gl.any c.early || (c.groupGuard gd && locs.any c.early)) then
    some { cause := 0x0101, mask := c.g.activeMask }
  else none

/-- Whether an error site makes the two executions of a group's uniform instruction differ. -/
def ErrorSite.isUniform (e : ErrorSite) (num : Nat) : Bool :=
  match e with
  | .uniform _ _ n => decide (n = num)
  | _ => false

/-- Whether the two executions of the group's uniform instruction differ, in a protected launch (R109, R110). -/
def Ctx.uniDiffers (c : Ctx) : Bool := c.t.launch.prot && c.t.errors.any (·.isUniform c.g.num)

/-- SDC of a uniform instruction at its comparison point, once (R110, R111). DEDUCED, log entry 31. -/
def Ctx.sdcUni (c : Ctx) (s : State) (kind : Nat) : Res :=
  trapRes s { c.t with errors := c.t.errors.filter fun e => !e.isUniform c.g.num } c.g (sdcTrap kind c.g.activeMask 0)

/-- A uniform instruction: its operands are checked, and where its group guard holds its two executions are compared
at `point` and it acts; a false guard has no effect and ends no run (R110, R192, R206, R409). -/
def uniInstr (s : State) (gd : Guard) (m : Mods) (stall : Nat) (locs : List Loc)
    (f : State → Ctx → Res) (point : Option Nat := some 7) : Res :=
  withGroup s fun t g =>
    let c0 := ctxFor s t g m
    let gl : List Loc := if gd.idx = 0 then [] else [.g gd.idx]
    let c := { c0 with clk := namedDue (gl ++ locs) g.hist s.clk }
    match c.uniTrap gd locs with
    | some tr => trapRes { s with clk := c.clk } t g tr
    | none =>
      if c.groupGuard gd then
        if c.uniDiffers && point.isSome then c.sdcUni { s with clk := c.clk } (point.getD 7) else f { s with clk := c.clk } c
      else .next (c.finish s stall m.words)

/-- A uniform instruction that writes one s-register. -/
def uniWrite (s : State) (gd : Guard) (m : Mods) (stall : Nat) (locs : List Loc) (lat d : Nat)
    (f : Ctx → DWord) : Res :=
  uniInstr s gd m stall locs fun s c => .next ((c.setS lat d (f c)).finish s stall m.words)

/-- The guard of a Y3 word. -/
def guardY (w : W3) : Guard := guardOf true w.f.toNat w.m

/-- The guard of a YI, YC or YE word. -/
def guardYX (m : Mods) : Guard := guardOf true 0 m

/-- The locations of a Y3 word's sources. -/
def y3Locs (w : W3) : List Loc := uniLocs w.a ++ uniLocs w.b ++
  (match w.m.x with
   | some x => if x.hc then uniLocs x.c else []
   | none => [])

/-- A trap's outcome from a context: the group stands at the instruction. -/
def Ctx.trap (c : Ctx) (s : State) (tr : Trap) : Res := trapRes s c.t c.g tr

/-- ILLEGAL with a reason, at run time (R201). -/
def Ctx.illegal (c : Ctx) (s : State) (reason : Nat) : Res :=
  c.trap s { cause := 0x0100, mask := c.g.activeMask, detail := BitVec.ofNat 64 reason }

/-- The instruction waits: nothing of it has happened, and the group tries it again. DESIGN CHOICE, log entry 8. -/
def Ctx.wait (c : Ctx) (s : State) (w : Wait) : Res := .next (s.put c.t (c.g.waitFor c.clk w))

end Sys2Proof.Machine
end

