-- ==== Sys2Proof/Machine/Flags.lean ====
section
/-! DEFINITION. The sticky bits (R229) and the rounding modes that a MODA names (R196, R236). -/

namespace Sys2Proof.Machine

/-- Sticky bit NV: an invalid result. -/
def stNV : BitVec 7 := 1
/-- Sticky bit DZ: an integer division by zero, or the most negative value over −1. -/
def stDZ : BitVec 7 := 2
/-- Sticky bit FZ: an exact infinity from a finite operand. -/
def stFZ : BitVec 7 := 4
/-- Sticky bit OF: overflow after rounding. -/
def stOF : BitVec 7 := 8
/-- Sticky bit UF: tiny and inexact, or flushed. -/
def stUF : BitVec 7 := 16
/-- Sticky bit NX: differs from the exact result. -/
def stNX : BitVec 7 := 32
/-- Sticky bit SAT: saturated. -/
def stSAT : BitVec 7 := 64

/-- A sticky bit under a condition. -/
def stIf (c : Bool) (b : BitVec 7) : BitVec 7 := if c then b else 0

/-- The rounding modes of R196. -/
inductive RMode where
  | rne | rz | ru | rd | rna
  deriving DecidableEq, Repr

/-- The mode of a MODA RND field, or the instruction's default (R196). -/
def rmodeOf (m : Mods) (dflt : RMode) : RMode :=
  match m.a with
  | none => dflt
  | some a =>
    if a.rnd = 1 then .rne else if a.rnd = 2 then .rz else if a.rnd = 3 then .ru
    else if a.rnd = 4 then .rd else if a.rnd = 5 then .rna else dflt

/-- The SAT field. -/
def satOf (m : Mods) : Bool := match m.a with | some a => a.sat | none => false

/-- The CLAMP field. -/
def clampOf (m : Mods) : Nat := match m.a with | some a => a.clamp.toNat | none => 0

/-- The SCALE field, a signed exponent. -/
def scaleOf (m : Mods) : Int := match m.a with | some a => a.scale.toInt | none => 0

/-- The negation and absolute-value fields of operand a (R196: the absolute value first). -/
def naOf (m : Mods) : Bool := match m.a with | some a => a.na | none => false
/-- The negation of operand b. -/
def nbOf (m : Mods) : Bool := match m.a with | some a => a.nb | none => false
/-- The negation of operand c. -/
def ncOf (m : Mods) : Bool := match m.a with | some a => a.nc | none => false
/-- The absolute value of operand a. -/
def aaOf (m : Mods) : Bool := match m.a with | some a => a.aa | none => false
/-- The absolute value of operand b. -/
def abOf (m : Mods) : Bool := match m.a with | some a => a.ab | none => false

/-- Saturates an exact integer to 32 bits signed, with the SAT bit (R196, R230). -/
def satI32 (t : Int) : Word × BitVec 7 :=
  let d := min (max t (-2147483648)) 2147483647
  (BitVec.ofInt 32 d, stIf (decide (d ≠ t)) stSAT)

/-- An exact integer result as SAT chooses (R230). -/
def intResult (sat : Bool) (t : Int) : Word × BitVec 7 := if sat then satI32 t else (BitVec.ofInt 32 t, 0)

end Sys2Proof.Machine
end

