-- ==== Sys2Proof/Machine/Float.lean ====
section
/-! DEFINITION. Floating-point values as exact dyadic numbers, and their one rounding (R235 to R239,
R196). Every result is computed exactly first and rounded once. -/

namespace Sys2Proof.Machine

/-- A binary interchange format: exponent bits and stored significand bits (R235). -/
structure FFmt where
  eb : Nat
  mb : Nat
  deriving DecidableEq, Repr

/-- binary32 -/
def f32 : FFmt := ⟨8, 23⟩
/-- binary64 -/
def f64 : FFmt := ⟨11, 52⟩
/-- binary16 -/
def f16 : FFmt := ⟨5, 10⟩
/-- The upper half of binary32 -/
def bf16 : FFmt := ⟨8, 7⟩

/-- The exponent bias. -/
def FFmt.bias (f : FFmt) : Nat := 2 ^ (f.eb - 1) - 1
/-- The width of an encoding. -/
def FFmt.width (f : FFmt) : Nat := 1 + f.eb + f.mb
/-- The encoding of +∞. -/
def FFmt.infBits (f : FFmt) : Nat := (2 ^ f.eb - 1) * 2 ^ f.mb
/-- The canonical quiet NaN (R235). -/
def FFmt.nanBits (f : FFmt) : Nat := f.infBits + 2 ^ (f.mb - 1)
/-- The sign bit. -/
def FFmt.signBit (f : FFmt) : Nat := 2 ^ (f.eb + f.mb)
/-- The encoding of 1.0. -/
def FFmt.oneBits (f : FFmt) : Nat := f.bias * 2 ^ f.mb

/-- A floating-point value: a NaN with its sign and whether it signals, an infinity, or
`(-1)^neg × m × 2^e`. -/
inductive FVal where
  | nan (neg signalling : Bool)
  | inf (neg : Bool)
  | fin (neg : Bool) (m : Nat) (e : Int)
  deriving DecidableEq, Repr

/-- The value of an encoding; under FTZ a subnormal counts as a zero of its sign (R236). -/
def FFmt.decode (f : FFmt) (ftz : Bool) (bits : Nat) : FVal :=
  let neg := decide (bits / f.signBit % 2 = 1)
  let ex := bits / 2 ^ f.mb % 2 ^ f.eb
  let mant := bits % 2 ^ f.mb
  if ex = 2 ^ f.eb - 1 then
    if mant = 0 then .inf neg else .nan neg (decide (mant < 2 ^ (f.mb - 1)))
  else if ex = 0 then
    .fin neg (if ftz then 0 else mant) (1 - (f.bias : Int) - f.mb)
  else .fin neg (mant + 2 ^ f.mb) ((ex : Int) - f.bias - f.mb)

/-- The sign of a value. -/
def FVal.neg : FVal → Bool
  | .nan n _ => n
  | .inf n => n
  | .fin n _ _ => n

/-- Whether a value is a NaN. -/
def FVal.isNan : FVal → Bool
  | .nan _ _ => true
  | _ => false

/-- Whether a value is a signalling NaN. -/
def FVal.isSnan : FVal → Bool
  | .nan _ s => s
  | _ => false

/-- Whether a value is a zero. -/
def FVal.isZero : FVal → Bool
  | .fin _ m _ => m == 0
  | _ => false

/-- A value with its sign set as MODA's absolute value and negation say (R196). -/
def FVal.modify (ab ng : Bool) : FVal → FVal
  | .nan n s => .nan ((!ab && n) != ng) s
  | .inf n => .inf ((!ab && n) != ng)
  | .fin n m e => .fin ((!ab && n) != ng) m e

/-- The length of a number in bits. -/
def bitLen (m : Nat) : Nat := if m = 0 then 0 else Nat.log2 m + 1

/-- Whether the discarded part rounds the kept significand up. `rem` over `2^shift`, with `sticky`
for further nonzero digits below. -/
def roundsUp (mode : RMode) (neg odd : Bool) (rem shift : Nat) (sticky : Bool) : Bool :=
  let inexact := decide (rem ≠ 0) || sticky
  let half := if shift = 0 then 0 else 2 ^ (shift - 1)
  match mode with
  | .rz => false
  | .ru => inexact && !neg
  | .rd => inexact && neg
  | .rne => decide (shift ≠ 0) && (decide (half < rem) || (decide (rem = half) && (sticky || odd)))
  | .rna => decide (shift ≠ 0) && decide (half ≤ rem)

/-- Rounds `m × 2^e` to a multiple of `2^q`: the significand and whether it is inexact. -/
def roundAt (mode : RMode) (neg : Bool) (m : Nat) (e q : Int) (sticky : Bool) : Nat × Bool :=
  if q ≤ e then
    let m' := m * 2 ^ (e - q).toNat
    (if roundsUp mode neg (m' % 2 == 1) 0 0 sticky then m' + 1 else m', sticky)
  else
    let sh := (q - e).toNat
    let hi := m / 2 ^ sh
    let rem := m % 2 ^ sh
    (if roundsUp mode neg (hi % 2 == 1) rem sh sticky then hi + 1 else hi, decide (rem ≠ 0) || sticky)

/-- The result of an overflow in a mode (R236). -/
def FFmt.overflow (f : FFmt) (mode : RMode) (neg : Bool) : Nat :=
  let s := if neg then f.signBit else 0
  let toInf := match mode with
    | .rne | .rna => true
    | .rz => false
    | .ru => !neg
    | .rd => neg
  s + (if toInf then f.infBits else f.infBits - 1)

/-- Rounds an exact magnitude into a format (R236): the encoding and the bits OF, UF and NX. -/
def FFmt.round (f : FFmt) (mode : RMode) (ftz neg : Bool) (m : Nat) (e : Int) (sticky : Bool) :
    Nat × BitVec 7 :=
  let s := if neg then f.signBit else 0
  if m = 0 ∧ sticky = false then (s, 0)
  else
    let top : Int := (bitLen m : Int) - 1 + e
    let emin : Int := 1 - (f.bias : Int)
    let qn : Int := top - f.mb
    let q : Int := max qn (emin - f.mb)
    let r := roundAt mode neg m e q sticky
    let free := roundAt mode neg m e qn sticky
    let tiny := decide ((bitLen free.1 : Int) - 1 + qn < emin)
    if r.1 = 0 then (s, stNX ||| stUF)
    else if (f.bias : Int) < (bitLen r.1 : Int) - 1 + q then (f.overflow mode neg, stOF ||| stNX)
    else if r.1 < 2 ^ f.mb then
      if ftz then (s, stUF ||| stNX) else (s + r.1, stIf r.2 stNX ||| stIf (r.2 && tiny) stUF)
    else
      let ex : Int := (bitLen r.1 : Int) - 1 + q + f.bias
      let mant := if r.1 = 2 ^ (f.mb + 1) then 0 else r.1 - 2 ^ f.mb
      (s + ex.toNat * 2 ^ f.mb + mant, stIf r.2 stNX ||| stIf (r.2 && tiny) stUF)

/-- How an instruction rounds its result: the format, the mode, FTZ, SCALE and CLAMP. -/
structure Rounding where
  f : FFmt
  mode : RMode
  ftz : Bool
  scale : Int := 0
  clamp : Nat := 0

/-- R196: the clamp of a rounded encoding. -/
def FFmt.clampBits (f : FFmt) (clamp : Nat) (y : Nat) : Nat :=
  if clamp = 0 then y
  else
    match f.decode false y with
    | .nan _ _ => 0
    | v =>
      let mag := y % f.signBit
      if v.neg then
        if clamp = 1 then 0 else if f.oneBits < mag then f.signBit + f.oneBits else y
      else if f.oneBits < mag then f.oneBits else y

/-- A NaN result with its NV bit. -/
def Rounding.nan (r : Rounding) (nv : Bool) : Nat × BitVec 7 :=
  (r.f.clampBits r.clamp r.f.nanBits, stIf nv stNV)

/-- An infinite result. -/
def Rounding.inf (r : Rounding) (neg : Bool) (st : BitVec 7) : Nat × BitVec 7 :=
  (r.f.clampBits r.clamp ((if neg then r.f.signBit else 0) + r.f.infBits), st)

/-- A finite exact result: scaled, rounded once, clamped. -/
def Rounding.fin (r : Rounding) (neg : Bool) (m : Nat) (e : Int) (sticky : Bool) : Nat × BitVec 7 :=
  let y := r.f.round r.mode r.ftz neg m (e + r.scale) sticky
  (r.f.clampBits r.clamp y.1, y.2)

/-- The product of two values, exact; none when it is invalid (0 × ∞). -/
def FVal.mul : FVal → FVal → Option FVal
  | .nan n s, _ => some (.nan n s)
  | _, .nan n s => some (.nan n s)
  | .inf n, b => if b.isZero then none else some (.inf (n != b.neg))
  | a, .inf n => if a.isZero then none else some (.inf (a.neg != n))
  | .fin n m e, .fin k p h => some (.fin (n != k) (m * p) (e + h))

/-- The sign of an exact zero sum (R235). -/
def zeroSign (mode : RMode) (ts : List FVal) : Bool :=
  if ts.all (fun t => t.isZero && t.neg) then true
  else if ts.all (fun t => t.isZero && !t.neg) then false
  else decide (mode = .rd)

/-- The least exponent of the finite terms. -/
def leastExp : List FVal → Int → Int
  | [], d => d
  | .fin _ _ e :: r, d => leastExp r (min e d)
  | _ :: r, d => leastExp r d

/-- The sum of finite terms at an exponent no greater than theirs. -/
def sumAt (q : Int) : List FVal → Int
  | [] => 0
  | .fin n m e :: r => (if n then -1 else 1) * ((m * 2 ^ (e - q).toNat : Nat) : Int) + sumAt q r
  | _ :: r => sumAt q r

/-- The rounded sum of exact terms: NaN when a term is a NaN, NV when the terms hold infinities of
both signs (R235 to R237). -/
def Rounding.sum (r : Rounding) (ts : List FVal) : Nat × BitVec 7 :=
  if ts.any FVal.isNan then r.nan false
  else
    let pos := ts.any fun t => match t with | .inf n => !n | _ => false
    let ng := ts.any fun t => match t with | .inf n => n | _ => false
    if pos && ng then r.nan true
    else if pos then r.inf false 0
    else if ng then r.inf true 0
    else
      let q := leastExp ts 0
      let t := sumAt q ts
      if t = 0 then r.fin (zeroSign r.mode ts) 0 0 false
      else r.fin (decide (t < 0)) t.natAbs q false

/-- Adds the NV bit of signalling operands (R235). -/
def withSnan (vs : List FVal) (y : Nat × BitVec 7) : Nat × BitVec 7 :=
  (y.1, y.2 ||| stIf (vs.any FVal.isSnan) stNV)

/-- A sum of products and values, where an invalid product gives NaN with NV; a NaN operand decides
first only in its lack of NV (R237, R243). -/
def Rounding.sumOf (r : Rounding) (ts : List (Option FVal)) : Nat × BitVec 7 :=
  if ts.any Option.isNone then r.nan true else r.sum (ts.filterMap id)

/-- a + b (R237). -/
def fAdd (r : Rounding) (a b : FVal) : Nat × BitVec 7 := withSnan [a, b] (r.sum [a, b])

/-- a × b (R237). -/
def fMul (r : Rounding) (a b : FVal) : Nat × BitVec 7 :=
  withSnan [a, b] <|
    match a.mul b with
    | none => r.nan true
    | some p => r.sum [p]

/-- a × b + c with the product not rounded (R237). -/
def fFma (r : Rounding) (a b c : FVal) : Nat × BitVec 7 := withSnan [a, b, c] (r.sumOf [a.mul b, some c])

/-- FMULZ: a zero operand gives a zero (R238). -/
def fMulz (r : Rounding) (a b : FVal) : Nat × BitVec 7 :=
  if a.isZero || b.isZero then r.fin (a.neg != b.neg) 0 0 false else fMul r a b

/-- a / b, correctly rounded (R237). -/
def fDiv (r : Rounding) (a b : FVal) : Nat × BitVec 7 :=
  withSnan [a, b] <|
    match a, b with
    | .nan _ _, _ => r.nan false
    | _, .nan _ _ => r.nan false
    | .inf _, .inf _ => r.nan true
    | .inf n, .fin k _ _ => r.inf (n != k) 0
    | .fin n _ _, .inf k => r.fin (n != k) 0 0 false
    | .fin n m e, .fin k p h =>
      if p = 0 then (if m = 0 then r.nan true else r.inf (n != k) stFZ)
      else r.fin (n != k) (m * 2 ^ 128 / p) (e - h - 128) (decide (m * 2 ^ 128 % p ≠ 0))

/-- The integer square root of a number below 4^n, bit by bit. -/
def isqrt (x : Nat) : Nat → Nat → Nat
  | 0, r => r
  | n + 1, r => if (r + 2 ^ n) * (r + 2 ^ n) ≤ x then isqrt x n (r + 2 ^ n) else isqrt x n r

/-- √a, correctly rounded (R237). -/
def fSqrt (r : Rounding) (a : FVal) : Nat × BitVec 7 :=
  withSnan [a] <|
    match a with
    | .nan _ _ => r.nan false
    | .inf n => if n then r.nan true else r.inf false 0
    | .fin n m e =>
      if m = 0 then r.fin n 0 0 false
      else if n then r.nan true
      else
        -- SCALE multiplies the exact root; the exponent is made even first
        let odd := decide (e % 2 ≠ 0)
        let m2 := (if odd then 2 * m else m) * 2 ^ 128
        let e2 := (if odd then e - 1 else e) - 128
        let root := isqrt m2 128 0
        r.fin false root (e2 / 2) (decide (root * root ≠ m2))

/-- Compares two finite or infinite values: −1, 0 or 1. -/
def FVal.cmp (a b : FVal) : Int :=
  match a, b with
  | .fin n m e, .fin k p h =>
    let q := min e h
    let x := (if n then -1 else 1) * ((m * 2 ^ (e - q).toNat : Nat) : Int)
    let y := (if k then -1 else 1) * ((p * 2 ^ (h - q).toNat : Nat) : Int)
    if x < y then -1 else if y < x then 1 else 0
  | .inf n, .inf k => if n = k then 0 else if n then -1 else 1
  | .inf n, _ => if n then -1 else 1
  | _, .inf k => if k then 1 else -1
  | _, _ => 0

/-- The encoding of an exactly representable value. -/
def FFmt.encodeExact (f : FFmt) : FVal → Nat
  | .nan _ _ => f.nanBits
  | .inf n => (if n then f.signBit else 0) + f.infBits
  | .fin n m e => (f.round .rne false n m e false).1

/-- minimumNumber or maximumNumber of IEEE 754-2019, −0 below +0 (R239). -/
def fMinMax (r : Rounding) (isMax : Bool) (a b : FVal) : Nat × BitVec 7 :=
  withSnan [a, b] <|
    match a, b with
    | .nan _ _, .nan _ _ => r.nan false
    | .nan _ _, b => (r.f.clampBits r.clamp (r.f.encodeExact b), 0)
    | a, .nan _ _ => (r.f.clampBits r.clamp (r.f.encodeExact a), 0)
    | a, b =>
      let c := a.cmp b
      let aFirst := decide (c < 0) || (decide (c = 0) && a.neg)
      (r.f.clampBits r.clamp (r.f.encodeExact (if aFirst != isMax then a else b)), 0)

/-- A condition of FCMP (R188, R239) with its NV bit. -/
def fCond (cond : Nat) (a b : FVal) : Bool × BitVec 7 :=
  let un := a.isNan || b.isNan
  let c := a.cmp b
  (match cond with
   | 0 => !un && decide (c = 0)
   | 1 => un || decide (c ≠ 0)
   | 2 => !un && decide (c < 0)
   | 3 => !un && decide (c ≤ 0)
   | 4 => !un && decide (0 < c)
   | 5 => !un && decide (0 ≤ c)
   | 6 => !un
   | _ => un,
   stIf (a.isSnan || b.isSnan) stNV)

/-- The one-hot class of an F32 encoding, whatever FTZ (R239). -/
def fClass (x : Word) : Word :=
  let bits := x.toNat
  let neg := decide (2 ^ 31 ≤ bits)
  let ex := bits / 2 ^ 23 % 256
  let mant := bits % 2 ^ 23
  let i :=
    if ex = 255 then (if mant = 0 then (if neg then 0 else 7) else if mant < 2 ^ 22 then 8 else 9)
    else if ex = 0 then (if mant = 0 then (if neg then 3 else 4) else (if neg then 2 else 5))
    else (if neg then 1 else 6)
  BitVec.ofNat 32 (2 ^ i)

/-- RN(a + b) on F32 encodings with subnormals kept (R50). -/
def addF32 (a b : Nat) : Nat :=
  (fAdd { f := f32, mode := .rne, ftz := false } (f32.decode false a) (f32.decode false b)).1

end Sys2Proof.Machine
end

