-- ==== Sys2Proof/Machine/Sched.lean ====
section
/-! DEFINITION. The scheduler's edges (R77 to R80, R32 to R35, R220), its queue of child launches (R84),
and the completion of an instance (R79, R298, R386). -/

namespace Sys2Proof.Machine

/-! ### Edges -/

/-- The edge index that an edge code names in a launch record (R69, R206). -/
def Launch.edge (l : Launch) (code : Nat) : Nat :=
  if code < 4 then l.ins.getD code 0xFFFF else l.outs.getD (code - 4) 0xFFFF

/-- An edge of partition k's graph. -/
def State.edge? (s : State) (k e : Nat) : Option Edge :=
  match (s.part k).graph with
  | some g => g.edges[e]?
  | none => none

/-- Whether an edge is a streaming edge (R77). -/
def Edge.streaming (e : Edge) : Bool := decide (e.needFill = 0) && decide (e.needFree = 0)

/-- Whether a node's firing edges let it run (R78). -/
def Graph.nodeReady (g : Graph) (l : Launch) : Bool :=
  let named := fun (f : Edge → Bool) (e : Nat) => decide (e = 0xFFFF) || (match g.edges[e]? with
    | some x => x.streaming || f x
    | none => false)
  l.ins.all (named fun x => decide (x.needFill ≤ x.fill)) && l.outs.all (named fun x => decide (x.needFree ≤ x.free))

/-- Whether a firing edge of a node grants nothing for now: its last change stands to be written back (R18, R79). -/
def Graph.grantHeld (g : Graph) (l : Launch) : Bool :=
  (l.ins ++ l.outs).any fun e => match g.edges[e]? with
    | some x => !x.streaming && x.wbDue
    | none => false

/-- A node's readiness at a clock: its wait counts from the moment it became ready (R82). -/
def Graph.readiness (g : Graph) (clk i : Nat) (l : Launch) : Ready :=
  let r := g.ready.getD i {}
  if !g.nodeReady l then { r with ready := false }
  else if r.ready then r
  else { since := clk, prio := l.prio, ready := true }

/-- Judges the readiness of every node (R78, R82). -/
def Graph.refresh (g : Graph) (clk : Nat) : Graph :=
  { g with ready := g.nodes.zipIdx.map fun p => g.readiness clk p.2 p.1 }

/-- Stores an edge of partition k's graph. -/
def State.setEdge (s : State) (k e : Nat) (x : Edge) : State :=
  let p := s.part k
  s.setPart k { p with graph := p.graph.map fun g => Graph.refresh { g with edges := g.edges.set e x } s.clk }

/-- The counters of an edge as its descriptor holds them from offset 0x10 (R77). -/
def Edge.counters (e : Edge) : List Byte :=
  leBytes 4 e.fill ++ leBytes 4 e.free ++ bytes64 e.head ++ bytes64 e.tail

/-- Writes an edge's counters back to its descriptor (R79). A held write-back stays due; a failed one is logged
once an episode, and the counters stay the scheduler's own. -/
def State.writeBack (s : State) (k e : Nat) : State :=
  match s.edge? k e with
  | none => s
  | some x =>
    let r := s.schedPut k none (x.desc + 0x10) x.counters
    match r.2 with
    | .ok _ _ _ => r.1.setEdge k e { x with wbFailed := false, wbDue := false }
    | .held => s.setEdge k e { x with wbDue := true }
    | f =>
      if x.wbFailed then s.setEdge k e { x with wbDue := false }
      else
        let cause := if f = .world then 0x0201 else 0x0200
        let detail : DWord := match f with
          | .page d (some p) => BitVec.ofNat 64 (d + p * 256)
          | .page d none => BitVec.ofNat 64 d
          | _ => 0
        (s.setEdge k e { x with wbFailed := true, wbDue := false }).addLog
          { platformEntry cause k x.desc detail with cls := 1 }

/-- Passes published indices that stand at the lowest unpublished one. -/
def advanceOut (e : Edge) : Nat → Edge
  | 0 => e
  | n + 1 =>
    if e.outSet.contains e.pubIdx then
      advanceOut { e with outSet := e.outSet.erase e.pubIdx, pubIdx := e.pubIdx + 1, fill := e.fill + 1 } n
    else e

/-- Passes released indices that stand at the lowest unreleased one: FREE of a device edge, CONSUMED of
a source edge. -/
def advanceIn (e : Edge) : Nat → Edge
  | 0 => e
  | n + 1 =>
    if e.inSet.contains e.relIdx then
      advanceIn { e with inSet := e.inSet.erase e.relIdx, relIdx := e.relIdx + 1
                         free := if e.source then e.free else e.free + 1
                         consumed := if e.source then e.consumed + 1 else e.consumed } n
    else e

/-- Writes CONSUMED to a source edge's return line in host memory, as a 64-byte line and a release at SYSTEM
scope (R26, R32, R35): it is held while port 0 is not usable (R18), and until every remote store of the instances
that released the slots has been applied (R49). -/
def State.writeReturn (s : State) (k e : Nat) : State :=
  match s.edge? k e with
  | none => s
  | some x =>
    if s.port0 && !(s.remotes.any fun r => x.retWait.contains r.inst) then
      let s1 := x.retWait.foldl State.performInst s
      ((s1.hostPut (2 ^ 55 + x.retLine.toNat) (bytes64 x.consumed ++ List.replicate 56 0)).setEdge k e
        { x with retDue := false, retWait := [] }).raise 4
    else s.setEdge k e { x with retDue := true }

/-- Tries again what the edges of one partition hold back (R18, R35, R79): an unbound graph may go then. -/
def State.retryPart (s : State) (k : Nat) (g : Graph) : State :=
  (g.edges.zipIdx.foldl (fun s x =>
    let s1 := if x.1.wbDue then s.writeBack k x.2 else s
    if x.1.retDue then s1.writeReturn k x.2 else s1) s).settleBusy k

/-- Tries again every held write of the scheduler: it proceeds as soon as nothing holds it (R18). -/
def State.retryEdges (s : State) : State :=
  s.parts.foldl (fun s p => match p.2.graph with
    | some g => if g.edges.any Edge.due then s.retryPart p.1 g else s
    | none => s) s

/-- Publishes slots of an edge: FILL takes them in index order (R79, R220). -/
def State.publishSlots (s : State) (k e : Nat) (idxs : List Nat) : State :=
  match s.edge? k e with
  | none => s
  | some x =>
    let y := advanceOut { x with outSet := x.outSet ++ idxs } (x.outSet.length + idxs.length)
    (s.setEdge k e y).writeBack k e

/-- An instance releases slots of an edge: FREE or CONSUMED takes them in index order (R79, R220). -/
def State.releaseSlots (s : State) (k e inst : Nat) (idxs : List Nat) : State :=
  match s.edge? k e with
  | none => s
  | some x =>
    let y := advanceIn { x with inSet := x.inSet ++ idxs, retWait := if x.source then x.retWait ++ [inst] else [] }
      (x.inSet.length + idxs.length)
    let s1 := s.setEdge k e y
    if x.source then (if y.consumed = x.consumed then s1 else s1.writeReturn k e) else s1.writeBack k e

/-! ### Outstanding ranges (R220, R221) -/

/-- Whether a range is one of an edge and kind that the team holds and is not to be handed out again. -/
def QRange.is (r : QRange) (code : Nat) (taken : Bool) : Bool :=
  decide (r.edge = code) && (r.taken == taken) && !r.replay

/-- The number of slots of an edge that a team has outstanding. DEDUCED, log entry 43. -/
def Team.outstanding (t : Team) (code : Nat) (taken : Bool) : Nat :=
  (t.ranges.filter fun r => r.is code taken).foldl (fun n r => n + r.count) 0

/-- Takes the n lowest outstanding slots of an edge out of the list, `fuel` ranges at most. -/
def takeLowest (code : Nat) (taken : Bool) (n : Nat) (acc : List Nat) (rs : List QRange) :
    Nat → List Nat × List QRange
  | 0 => (acc, rs)
  | fuel + 1 =>
    if n = 0 then (acc, rs)
    else
      let low := (rs.filter fun r => r.is code taken).foldl
        (fun (m : Option QRange) r => match m with
          | some x => if r.first < x.first then some r else some x
          | none => some r) none
      match low with
      | none => (acc, rs)
      | some r =>
        let m := Nat.min n r.count
        let rest := rs.erase r
        let rest' := if m < r.count then { r with first := r.first + m, count := r.count - m } :: rest else rest
        takeLowest code taken (n - m) (acc ++ numsFrom r.first (r.first + m)) rest' fuel

/-- Publishes the n lowest reserved slots of a team's edge (R220). -/
def State.publishLowest (s : State) (t : Team) (code n : Nat) : State × Team :=
  let r := takeLowest code false n [] t.ranges (t.ranges.length + 1)
  (s.publishSlots t.part (t.launch.edge code) r.1, { t with ranges := r.2 })

/-- Releases the n lowest taken slots of a team's edge (R220). -/
def State.releaseLowest (s : State) (t : Team) (code n : Nat) : State × Team :=
  let r := takeLowest code true n [] t.ranges (t.ranges.length + 1)
  (s.releaseSlots t.part (t.launch.edge code) t.inst r.1, { t with ranges := r.2 })

/-- At team exit every reserved slot is published and every taken one released (R221). -/
def State.settleRanges (s : State) (t : Team) : State × Team :=
  let rs := t.ranges.map fun r => { r with replay := false }
  let s1 := rs.foldl (fun s r =>
    let idxs := numsFrom r.first (r.first + r.count)
    if r.taken then s.releaseSlots t.part (t.launch.edge r.edge) t.inst idxs
    else s.publishSlots t.part (t.launch.edge r.edge) idxs) s
  (s1, { t with ranges := [] })

/-! ### Child launches (R84) -/

/-- Whether the pending child queue of partition k is full. -/
def State.childFull (s : State) (k : Nat) : Bool := decide (4096 ≤ (s.part k).children.length)

/-- The launch index of the next child of partition k. -/
def State.childIndex (s : State) (k : Nat) : Nat := 0x80000000 + (s.part k).childCount % 2 ^ 31

/-- Queues a child; the queue has room. -/
def State.queueChild (s : State) (k : Nat) (bytes : List Byte) (version : Option Word)
    (redeem : Option (List DWord)) (node : Option Launch) : State :=
  let p := s.part k
  let prio := match node with
    | some l => l.prio
    | none => (bytes.getD 0x30 0).toNat % 8
  let c : Child := { index := s.childIndex k, bytes := bytes, since := s.clk, prio := prio
                     redeem := redeem, version := version, node := node }
  s.setPart k { p with children := p.children ++ [c], childCount := p.childCount + 1 }

/-! ### Completion -/

/-- The slots granted to an instance on each firing edge are handed on at its completion (R79). -/
def State.handOn (s : State) (i : Inst) : State :=
  i.grants.foldl (fun s g =>
    let idxs := numsFrom g.first (g.first + g.count)
    if g.output then s.publishSlots i.part g.edge idxs else s.releaseSlots i.part g.edge i.id idxs) s

/-- An instance whose every team has exited and whose every copy has ended completes (R79, R298): its stores are
performed, its slots are handed on, a redeem's slot receives its status, and its hold is released. The status is a
release at SYSTEM scope: it follows every remote store of the instance (R49, R386). -/
def State.checkInstance (s : State) (id : Nat) : State :=
  match s.inst? id with
  | none => s
  | some i =>
    if i.exited = i.launch.teams && i.relaunch.isEmpty
        && !((s.teams ++ s.orphans).any fun t => decide (t.inst = id))
        && !(i.redeem.isSome && s.remotes.any fun r => decide (r.inst = id)) then
      let status := if i.drifted then 5 else if i.matched then 4 else 6
      let s1 := ((s.performInst id).handOn i).endBinding i status
      ({ s1 with insts := s1.insts.filter fun j => decide (j.id ≠ id) }).settleBusy i.part
    else s

/-- Tries again to complete the redeems whose remote stores have been applied since (R49, R386). -/
def State.retryRedeems (s : State) : State :=
  (s.insts.filter fun i => i.redeem.isSome && decide (i.exited = i.launch.teams)).foldl (fun s i => s.checkInstance i.id) s

end Sys2Proof.Machine
end

