-- ==== Sys2Proof/Machine/Engine.lean ====
section
/-! DEFINITION. Read-modify-writes at memory (R269), remote stores on their way (R48, R49), the token
ring engines (R354, R355) and the steps of the Larder engine (R359, R372, R374, R383, R388). -/

namespace Sys2Proof.Machine

/-! ### Atomics -/

/-- The result of an atomic operation code on an old value and an operand (R198, R269). -/
def aopResult (ftz : Bool) (aop : Nat) (wide : Bool) (old v : DWord) : DWord :=
  let o32 := old.setWidth 32
  let v32 := v.setWidth 32
  let r : Rounding := { f := f32, mode := .rne, ftz := ftz }
  let fo := f32.decode ftz o32.toNat
  let fv := f32.decode ftz v32.toNat
  let less := if wide then old.slt v else (o32 : BitVec 32).slt v32
  let lessU := if wide then old.ult v else o32.ult v32
  let y : DWord :=
    match aop with
    | 0 => old + v
    | 1 => if less then old else v
    | 2 => if lessU then old else v
    | 3 => if less then v else old
    | 4 => if lessU then v else old
    | 5 => old &&& v
    | 6 => old ||| v
    | 7 => old ^^^ v
    | 8 => v
    | 9 => BitVec.ofNat 64 (fAdd r fo fv).1
    | 10 => BitVec.ofNat 64 (fMinMax r false fo fv).1
    | _ => BitVec.ofNat 64 (fMinMax r true fo fv).1
  if wide then y else (y.setWidth 32).setWidth 64

/-- The size in bytes of an atomic's access. -/
def aopSize (wide : Bool) : Nat := if wide then 8 else 4

/-- A RED applied after its issue, at its home (R114, R120): a poisoned sector keeps its contents and
makes one log entry. -/
def State.applyRed (s : State) (part pa aop : Nat) (wide ftz : Bool) (v addr : DWord) (core : Nat) : State :=
  let n := aopSize wide
  let s1 := s.touch pa n
  if s1.homePoisoned pa n then
    s1.addLog { platformEntry 0x0300 part addr
                  (BitVec.ofNat 64 (0xFFFF * 2 ^ 32 + 0xFFFFFFFF)) with cls := 2, unit := core, die := dieOf core }
  else
    let old : DWord := BitVec.ofNat 64 (leWord (s1.homeBytes pa n))
    s1.writeHome pa (leBytes n (aopResult ftz aop wide old v).toNat)

/-! ### Remote stores -/

/-- The first-hop link toward a device: HOP of the valid entry that names it, unless that is no link (R46). -/
def State.hop (s : State) (dev : Nat) : Option Nat :=
  (((List.range 256).find? fun j =>
    bitAt (s.reg (0x200 + j)) 15 && decide (s.rfield (0x200 + j) 0 8 = dev)).map fun j => s.rfield (0x200 + j) 8 4).filter
      fun h => decide (h < 12)

/-- Sends a remote store or RED toward its owner over the link that TOPO gives at its issue (R44, R46, R48). A
failed link discards it and counts it in the link's entry (R18). A packet for which TOPO names no link stays
unsent. DESIGN CHOICE, log entry 77. -/
def State.sendRemote (s : State) (t : Team) (owner fid va : Nat) (data : List Byte)
    (red : Option (Nat × Bool × DWord)) : State :=
  let link := (s.hop owner).getD 12
  if link < 12 && s.bufail (28 + link) then s.foldBufail (28 + link)
  else
    { s with remotes := s.remotes ++ [{ owner := owner, part := t.part, inst := t.inst, team := t.index
                                        fid := fid, va := va, data := data, red := red, link := link }] }

/-- Whether a remote store or RED is on its way before another of the same fibre to the same owner (R49). The sector
entries of a drained store buffer name no fibre and keep their place among all of their team. -/
def Remote.before (a b : Remote) : Bool :=
  decide (a.owner = b.owner) && decide (a.inst = b.inst) && decide (a.team = b.team)
    && (decide (a.fid = b.fid) || decide (a.fid = 0xFFFFFFFF) || decide (b.fid = 0xFFFFFFFF))

/-- Whether a remote store of a team has not been applied at its owner (R49). DEDUCED, log entry 37. -/
def State.remotePending (s : State) (t : Team) : Bool :=
  s.remotes.any fun r => decide (r.inst = t.inst) && decide (r.team = t.index)

/-! ### Token rings -/

/-- The engine of ring k. -/
def State.ring (s : State) (k : Nat) : Ring := sget {} s.rings k

/-- The base of ring k in device physical space (R36, R149). -/
def State.ringBase (s : State) (k : Nat) : Nat := 2 ^ 55 + s.rfield (0x048 + k) 6 58 * 64

/-- Whether ring k takes the TOKPUBs of a partition (R36). -/
def State.ringOn (s : State) (k part : Nat) : Bool :=
  bitAt (s.reg (0x058 + k)) 5 && decide (s.rfield (0x058 + k) 6 4 = part)

/-- Entries of ring k (R36). -/
def State.ringSize (s : State) (k : Nat) : Nat := 2 ^ s.rfield (0x058 + k) 0 5

/-- TAIL as the engine takes it (R354). DEDUCED, log entry 52. -/
def State.ringTail (s : State) (k : Nat) : Nat :=
  let r := s.ring k
  let t := leWord (s.homeBytes (s.ringBase k + 0x40) 8)
  if s.bufail 24 then r.tseen
  else if r.next < t then r.next else if t + s.ringSize k < r.next then r.next - s.ringSize k else t

/-- A ring entry made from 16 bytes of the scratchpad (R353). -/
def ringEntry (src : List Byte) (lap : Nat) : List Byte :=
  src.take 12 ++ leBytes 2 lap ++ (src.drop 12).take 2

/-- The engine writes entries from absolute index a on, in ascending order (R38). -/
def State.ringWrite (s : State) (k a : Nat) : List (List Byte) → State
  | [] => s
  | e :: es =>
    let n := s.ringSize k
    (s.hostPut (s.ringBase k + 128 + 16 * (a % n)) (ringEntry e ((a / n + 1) % 2 ^ 16))).ringWrite k (a + 1) es

/-- The engine performs one TOKPUB (R26, R355): the first index, or none while the ring is full. DEDUCED, log entry 52. -/
def State.ringPublish (s : State) (k : Nat) (es : List (List Byte)) : State × Option Nat :=
  let r := s.ring k
  let a := r.next
  let n := es.length
  let size := s.ringSize k
  let seen := if r.tseen + size < a + n then s.ringTail k else r.tseen
  let s1 := { s with rings := sset {} s.rings k { r with tseen := seen } }
  if seen + size < a + n then (s1, none)
  else
    let s2 := s1.ringWrite k a es
    let s3 := s2.hostPut (s2.ringBase k) (leBytes 8 (a + n) ++ List.replicate 56 0)
    (State.raise { s3 with rings := sset {} s3.rings k { r with tseen := seen, next := a + n } } 3, some a)

/-- The first address of a TOKPUB of n entries that is cross-world for a block of world `sec` (R55, R355). DEDUCED, log entry 52. -/
def State.ringCross (s : State) (sec : Bool) (k n : Nat) : Option Nat :=
  let base := s.ringBase k
  let next := (s.ring k).next
  (((List.range n).map fun i => base + 128 + 16 * ((next + i) % s.ringSize k)) ++ [base]).find? fun pa =>
    s.regionSec pa != sec

/-! ### The Larder engine -/

/-- The status of a handle under the first rows of R372: none when the slot may be acted on. -/
inductive Ticket where
  | ok (w0 : DWord) (s : State)
  | no (status : Nat) (gen : Nat) (s : State)
  | fault (x : Xlat) (va : DWord)

/-- Whether a handle is out of range (R367). -/
def State.handleOut (s : State) (k : Nat) (h : DWord) : Bool :=
  decide (fieldOf h 48 16 ≠ 0) || decide (s.rfield (pidx k 13) 0 25 ≤ fieldOf h 0 32)

/-- The engine judges a handle for a group of a core (R361, R362, R372). `busy` names the statuses that give BUSY. -/
def State.ticket (s : State) (core : Option Nat) (k : Nat) (ver : Option Word) (h : DWord) (busy : List Nat) : Ticket :=
  if s.larderOff k then .no 5 0 s
  else if s.handleOut k h then .no 4 0 s
  else
    match s.word0 core k ver (fieldOf h 0 32) with
    | (.fault x va, _) => .fault x va
    | (.unusable w, s1) => .no 3 (w0Gen w) s1
    | (.ok w, s1) =>
      if w0Gen w ≠ fieldOf h 32 16 then .no 2 (w0Gen w) s1
      else if w0Status w = 0 then .no 6 (w0Gen w) s1
      else if busy.contains (w0Status w) then .no 3 (w0Gen w) s1
      else .ok w s1

/-- An engine step's answer: the status, a value, the state, or a fault of the Larder's page. -/
inductive Engine where
  | done (status value : Nat) (s : State)
  | fault (x : Xlat) (va : DWord)

/-- The answer of a write of word 0. -/
def Engine.wrote (r : State × Xlat) (va : DWord) (status value : Nat) : Engine :=
  match r.2 with
  | .ok _ _ _ => .done status value r.1
  | x => .fault x va

/-- TKDROP at the engine: the status and the slot's generation after it (R372). -/
def State.dropStep (s : State) (core : Option Nat) (k : Nat) (ver : Option Word) (h : DWord) : Engine :=
  match s.ticket core k ver h [1, 3] with
  | .fault x va => .fault x va
  | .no st g s1 => .done st g s1
  | .ok w s1 =>
    let i := fieldOf h 0 32
    .wrote (s1.setWord0 core k ver i (freedWord0 w i)) (s.slotAddr k i) 0 ((w0Gen w + 1) % 2 ^ 16)

/-- The engine marks a slot FED (R374). -/
def State.fedStep (s : State) (core : Option Nat) (k : Nat) (ver : Option Word) (h : DWord) : Engine :=
  match s.ticket core k ver h [1] with
  | .fault x va => .fault x va
  | .no st g s1 => .done st g s1
  | .ok w s1 =>
    let i := fieldOf h 0 32
    .wrote (s1.setWord0 core k ver i (setField w 62 1 1)) (s.slotAddr k i) 0 0

/-- Whether the feedback words of a slot are valid for a generation (R373, R383). -/
def feedValid (words : List DWord) (gen : Nat) : Bool :=
  let f := words.getD 8 0
  bitAt f 32 && decide (fieldOf f 48 16 = gen)

/-- The age exponent of a DECAY redeem (R384). -/
def decayExp (age h : Nat) : DWord := if h = 0 then 0 else BitVec.ofInt 64 (-((age / h : Nat) : Int))

/-- The s-register values s3 to s15 of a redeem instance (R385). -/
def redeemArgs (node : Launch) (handle arg : DWord) (mode : Nat) (v : Word) (fb : Bool) (age h : Nat)
    (words : List DWord) : List DWord :=
  let ver : DWord := words.getD 1 0
  [if arg = 0 then node.args else arg, handle, words.getD 2 0, words.getD 3 0, words.getD 4 0,
   BitVec.ofNat 64 (fieldOf (words.getD 5 0) 0 32 + 2 ^ 32 * mode + (if fb then 2 ^ 40 else 0)),
   BitVec.ofNat 64 (v.toNat + 2 ^ 32 * (fieldOf ver 0 32)),
   if fb then words.getD 8 0 else 0,
   if fb then words.getD 9 0 else 0,
   if fb then BitVec.ofNat 64 (fieldOf (words.getD 10 0) 0 32) else 0,
   if fb then words.getD 11 0 else 0,
   words.getD 7 0,
   if mode = 2 then decayExp age h else 0]

/-- The node of a redeem: the record of the bound graph, with every edge field taken as 0xFFFF
(R385). -/
def State.redeemNode (s : State) (k rli : Nat) : Option Launch :=
  if bitAt (s.reg (pidx k 9)) 31 then
    match (s.part k).graph with
    | some g => (g.nodes[rli]?).map fun l =>
        { l with ins := [0xFFFF, 0xFFFF, 0xFFFF, 0xFFFF], outs := [0xFFFF, 0xFFFF, 0xFFFF] }
    | none => none
  else none

/-- Whether a PUBLISH on which the devices have agreed is in flight: its retirement waits for holds to go, and until it
is done nothing is bound to a version (R406). -/
def State.publishing (s : State) : Bool :=
  s.parts.any fun p => match p.2.coll with
    | some c => decide (c.kind = 1) && decide (c.form ≠ 1) && c.agreed
    | none => false

/-- The engine and the Cellar perform a TKREDEEM, indivisibly (R383); a PUBLISH in flight holds the bind (R406). -/
def State.redeemStep (s : State) (core : Option Nat) (k : Nat) (ver : Option Word) (h arg : DWord) (mode : Nat)
    (words : List DWord) : Engine :=
  match s.ticket core k ver h [1, 3] with
  | .fault x va => .fault x va
  | .no st _ s1 => .done st 0 s1
  | .ok w s1 =>
    let i := fieldOf h 0 32
    let va := s.slotAddr k i
    let tv : Word := (words.getD 1 0).setWidth 32
    match s1.redeemNode k (fieldOf (words.getD 1 0) 32 32) with
    | none => .done 15 0 s1
    | some node =>
      if s1.publishing then .fault .held va
      else if mode = 0 ∧ s1.retained tv = false then
        .wrote (s1.setWord0 core k ver i (setField w 48 8 7)) va 10 0
      else
        let v : Word := if mode = 0 then tv else BitVec.ofNat 32 (s1.rfield 0x010 0 32)
        if s1.childFull k then .done 12 0 s1
        else
          match s1.bindHold v with
          | none => .done 11 0 s1
          | some s2 =>
            let fb := feedValid words (w0Gen w)
            let w1 := setField w 48 8 3
            let w2 := if fb then setField w1 62 1 1 else w1
            let r := s2.setWord0 core k ver i w2
            let args := redeemArgs node h arg mode v fb (s1.verAge tv) (s1.rfield 0x012 0 16) words
            .wrote (r.1.queueChild k [] (some v) (some args) (some node), r.2) va 0 (s1.childIndex k)

/-- The Cellar and the child queue perform a TKBIND.VER (R388); a PUBLISH in flight holds the bind (R406). -/
def State.bindVerStep (s : State) (k : Nat) (bytes : List Byte) (v : Word) : Engine :=
  if s.publishing then .fault .held 0
  else if !s.retained v then .done 10 0 s
  else if s.childFull k then .done 12 0 s
  else
    match s.bindHold v with
    | none => .done 11 0 s
    | some s1 => .done 0 (s1.childIndex k) (s1.queueChild k bytes (some v) none none)

/-- Records the outcome of a TKBIND.OUT at the engine (R387). -/
def State.recordOut (s : State) (id : Nat) (drift : Bool) : State :=
  match s.inst? id with
  | none => s
  | some i => s.putInst (if drift then { i with drifted := true } else { i with matched := true })

end Sys2Proof.Machine
end

