-- ==== Sys2Proof/Machine/Buffer.lean ====
section
/-! DEFINITION. The store buffer of a CONTAIN team (R112 to R115): entries, the team's own view through
them, and the drain. -/

namespace Sys2Proof.Machine

/-! ### Entries -/

/-- The entries that a record takes (R112). -/
def SbEntry.size : SbEntry → Nat
  | .launch _ => 2
  | .order => 0
  | _ => 1

/-- The entries in use and reserved. -/
def Team.sbUsed (t : Team) : Nat :=
  (t.sb.foldl (fun n e => n + e.size) 0) + (t.copies.foldl (fun n c => n + c.2.reserved) 0)

/-- A store as an effect: the owner of a remote block or none, the address and the bytes. -/
structure Put where
  owner : Option Nat
  addr : Nat
  data : List Byte
  key : Nat := 0

/-- The part of a store that falls in a sector, as addressed bytes. -/
def Put.inSector (p : Put) (n : Nat) : List (Nat × Byte) :=
  ((List.range p.data.length).filter fun i => decide ((p.addr + i) / 32 = n)).map
    fun i => (p.addr + i, p.data.getD i 0)

/-- Addressed bytes laid over others, each address once. -/
def layBytes (old bytes : List (Nat × Byte)) : List (Nat × Byte) := bytes.foldl (fun m b => sinsert b.1 b.2 m) old

/-- Puts bytes into the last open entry of a sector, or into a new one (R112, R113). One write of all 32 bytes
leaves the sector clean (R119). DEDUCED, log entry 36. -/
def sbMerge (owner : Option Nat) (n key : Nat) (bytes : List (Nat × Byte)) (poison : Option Bool) :
    List SbEntry → List SbEntry → List SbEntry
  | before, [] =>
    before.reverse ++ [.sector owner n (layBytes [] bytes) true
      (poison.orElse fun _ => if (layBytes [] bytes).length = 32 then some false else none) key]
  | before, e :: rest =>
    match e with
    | .sector o k old true p _ =>
      if o = owner ∧ k = n then
        let p' := poison.orElse fun _ => if (layBytes [] bytes).length = 32 then some false else p
        before.reverse ++ .sector o k (layBytes old bytes) true p' key :: rest
      else sbMerge owner n key bytes poison (e :: before) rest
    | _ => sbMerge owner n key bytes poison (e :: before) rest

/-- Puts the stores of one instruction into the buffer, sector by sector in the order in which they first touch
one (R112, R267). -/
def sbStores (sb : List SbEntry) (ps : List Put) : List SbEntry :=
  ((ps.flatMap fun p => (sectorsOf p.addr p.data.length).map fun n => (p.owner, n, p.key)).eraseDups).foldl
    (fun sb x => sbMerge x.1 x.2.1 x.2.2
      ((ps.filter fun p => decide (p.owner = x.1) && decide (p.key = x.2.2)).flatMap fun p => p.inSector x.2.1) none [] sb) sb

/-- The sectors of which the stores of one instruction write all 32 bytes. -/
def wholePuts (ps : List Put) : List (Option Nat × Nat) :=
  ((ps.flatMap fun p => (sectorsOf p.addr p.data.length).map fun n => (p.owner, n)).eraseDups).filter fun x =>
    decide ((layBytes [] ((ps.filter fun p => decide (p.owner = x.1)).flatMap fun p => p.inSector x.2)).length = 32)

/-- Whether an error site is the open entry of one of some sectors. -/
def ErrorSite.inEntry (e : ErrorSite) (sb : List SbEntry) (xs : List (Option Nat × Nat)) : Bool :=
  match e with
  | .storeBuffer _ _ i _ =>
    match sb[i]? with
    | some (.sector o n _ true _ _) => xs.contains (o, n)
    | _ => false
  | _ => false

/-- The stores of one instruction enter the buffer; an entry that they write whole loses its error (R121). DEDUCED, log entry 22. -/
def Team.bufferStores (t : Team) (ps : List Put) : Team :=
  { t with sb := sbStores t.sb ps, errors := t.errors.filter fun e => !e.inEntry t.sb (wholePuts ps) }

/-- Closes every open entry: a release of a fibre of the team (R113). DEDUCED, log entry 36. -/
def Team.closeEntries (t : Team) : Team :=
  { t with sb := t.sb.map fun e =>
      match e with
      | .sector o n b _ p key => .sector o n b false p key
      | e => e }

/-- Whether the buffer holds a remote entry that no release at SYSTEM scope follows yet. -/
def remoteOpen (sb : List SbEntry) : Bool :=
  sb.foldl (fun b e =>
    match e with
    | .sector (some _) _ _ _ _ _ => true
    | .red (some _) _ _ _ _ _ _ _ _ => true
    | .order => false
    | _ => b) false

/-- A release at SYSTEM scope by a fibre of the team: the entries close, and what follows waits at the drain until the
remote entries before it have been applied at their owners (R49, R113, R174). DEDUCED, log entry 36. -/
def Team.closeSystem (t : Team) : Team :=
  let t1 := t.closeEntries
  if remoteOpen t1.sb then { t1 with sb := t1.sb ++ [.order] } else t1

/-! ### The team's own view (R113) -/

/-- A byte of memory under the team's entries. -/
def Team.sbByte (t : Team) (pa : Nat) (b : Byte) : Byte :=
  t.sb.foldl (fun b e =>
    match e with
    | .sector none n bytes _ _ _ => if n = pa / 32 then ((bytes.find? fun x => decide (x.1 = pa)).map (·.2)).getD b else b
    | _ => b) b

/-- The poison of a sector under the team's entries. -/
def Team.sbPoison (t : Team) (sec : Nat) (p : Bool) : Bool :=
  t.sb.foldl (fun p e =>
    match e with
    | .sector none n bytes _ q _ => if n = sec then q.getD (p && decide (bytes.length ≠ 32)) else p
    | _ => p) p

/-! ### The drain (R114) -/

/-- Runs of consecutive addresses. -/
def runsOf : List (Nat × Byte) → List (Nat × List Byte)
  | [] => []
  | (a, b) :: rest =>
    match runsOf rest with
    | (a', bs) :: more => if a' = a + 1 then (a, b :: bs) :: more else (a, [b]) :: (a', bs) :: more
    | [] => [(a, [b])]

/-- Writes a buffered sector to memory with its poison (R114, R119). -/
def State.applySector (s : State) (n : Nat) (bytes : List (Nat × Byte)) (poison : Option Bool) (key : Nat) : State :=
  let s1 := (runsOf bytes).foldl (fun s r => s.putBytes r.1 r.2) (s.rekey key true (n * 32) 32)
  match poison with
  | some p => s1.setPoison n p
  | none => if bytes.length = 32 then s1.setPoison n false else s1

/-- An entry of the buffer meets memory at a place under a key: `f` applies it, or it is held while a function, a key
slot or the memory-side cache holds accesses, or it is discarded where they are lost (R18, R31, R58, R114). -/
def State.applyAt (s : State) (t : Team) (key pa : Nat) (f : State → State) : State × Team × Bool :=
  match s.reach key pa with
  | none => (s, t, false)
  | some lost =>
    let s1 := s.noteAccess pa key t.part t.core
    (if lost then s1 else f s1, t, true)

/-- What a record of the Larder chapter comes to at the drain: a held access holds it, and a fault of the page is
logged as R55 and R161 say (R18, R372, R374, R389). -/
def State.applyStep (s : State) (t : Team) (e : Engine) : State × Team × Bool :=
  match e with
  | .done _ _ s1 => (s1, t, true)
  | .fault .held _ => (s, t, false)
  | .fault x va => (s.logXlat t.part x va fun e => { e with launch := s.launchIndex t, team := t.index }, t, true)

/-- Applies one entry as its instruction would have performed it at this moment; false while it holds the drain: a full
ring, an access that is held, or a release at SYSTEM scope that waits for the remote entries before it (R18, R49, R114,
R357, R372, R389). -/
def State.applyEntry (s : State) (t : Team) (e : SbEntry) : State × Team × Bool :=
  let k := t.part
  let ver := s.version t
  match e with
  | .sector none n bytes _ p key =>
    s.applyAt t key (n * 32) fun s => (s.applySector n bytes p key).l1DropRange t.core t.launch.paircore (n * 32) 32
  | .sector (some o) _ bytes _ _ _ =>
    ((runsOf bytes).foldl (fun s r => s.sendRemote t o 0xFFFFFFFF r.1 r.2 none) s, t, true)
  | .red none pa va aop wide v core _ key =>
    s.applyAt t key pa fun s =>
      ((s.rekey key true pa (aopSize wide)).applyRed k pa aop wide t.launch.ftz v va core).l1DropRange t.core t.launch.paircore
        pa (aopSize wide)
  | .red (some o) pa _ aop wide v _ fid _ =>
    (s.sendRemote t o fid pa (leBytes (aopSize wide) v.toNat) (some (aop, wide, v)), t, true)
  | .push code n => let r := s.publishLowest t code n; (r.1, r.2, true)
  | .token ring es =>
    if s.ringOn ring k then
      if let some pa := s.ringCross (s.coreSec t.core) ring es.length then
        (s.addLog { platformEntry 0x0201 k (BitVec.ofNat 64 pa) 0 with
                      cls := 1, launch := s.launchIndex t, team := t.index }, t, true)
      else if s.port0 then
        let r := s.ringPublish ring es
        (r.1, t, r.2.isSome)
      else (s, t, false)
    else (s.addLog { platformEntry 0x010F k 0 (BitVec.ofNat 64 (ring + (if bitAt (s.reg (0x058 + ring)) 5 then 16 else 0)))
                       with cls := 0, launch := s.launchIndex t, team := t.index }, t, true)
  | .launch bytes =>
    if s.childFull k then (s.addLog { platformEntry 0x0A k 0 0 with launch := 0xFFFFFFFF }, t, true)
    else (s.queueChild k bytes none none none, t, true)
  | .drop h => s.applyStep t (s.dropStep (some t.core) k ver h)
  | .fed h => s.applyStep t (s.fedStep (some t.core) k ver h)
  | .redeem h arg mode words => s.applyStep t (s.redeemStep (some t.core) k ver h arg mode words)
  | .bindVer bytes v => s.applyStep t (s.bindVerStep k bytes v)
  | .bindOut drift => (s.recordOut t.inst drift, t, true)
  | .order => (s, t, !s.remotePending t)

/-- Applies entries in the order of their creation, until one holds the drain. DEDUCED, log entry 36. -/
def State.applyEntries (s : State) (t : Team) : List SbEntry → State × Team × List SbEntry
  | [] => (s, t, [])
  | e :: rest =>
    match s.applyEntry t e with
    | (s1, t1, true) => s1.applyEntries t1 rest
    | (s1, t1, false) => (s1, t1, e :: rest)

/-- Whether an error site is a store-buffer entry. -/
def ErrorSite.isBuffer : ErrorSite → Bool
  | .storeBuffer _ _ _ _ => true
  | _ => false

/-- The outcome of a drain. -/
inductive Drained where
  | done (s : State) (t : Team)
  | held (s : State) (t : Team)
  | bad (s : State) (t : Team)

/-- Whether a Larder slot still stands PENDING: its ticket has not left the buffer (R369). -/
def State.slotPending (s : State) (t : Team) (i : Nat) : Bool :=
  match (s.word0 (some t.core) t.part (s.version t) i).1 with
  | .ok w => decide (w0Status w = 1)
  | .fault .held _ => true
  | _ => false

/-- A team whose drain is held: the drain has begun, the team is restartable no longer, and the slots whose tickets have
been issued are PENDING no more (R115, R369). -/
def State.drainHeld (s : State) (t : Team) (left : List SbEntry) : Drained :=
  .held s { t with sb := left, restartable := false, draining := true, pending := t.pending.filter (s.slotPending t) }

/-- Drains a team's buffer (R114): the entries' check; what the team has posted or observed is performed, which its
entries follow (R171, R174); then the entries' application, and a release at SYSTEM scope, which waits for every remote
entry to be applied at its owner (R49). The releases of QPOP.REL follow (R221). A drain that is held has begun, and
is tried again until it is done: the team is restartable no longer (R115). DEDUCED, log entry 36. -/
def State.drain (s : State) (t : Team) : Drained :=
  if t.errors.any ErrorSite.isBuffer then
    .bad (s.freePending t.core t.part (s.version t) t.pending)
      { t with sb := [], pending := [], relLater := [], draining := false
               errors := t.errors.filter fun e => !e.isBuffer }
  else
    let r := (s.performTeam t.uid).applyEntries { t with sb := [] } t.sb
    if !r.2.2.isEmpty || r.1.remotePending t then r.1.drainHeld r.2.1 r.2.2
    else
      let q := r.2.1.relLater.foldl (fun (x : State × Team) p => x.1.releaseLowest x.2 p.1 p.2) (r.1, r.2.1)
      .done q.1 { q.2 with relLater := [], pending := [], draining := false }

/-- The UECC of an uncorrectable entry (R114, R121). -/
def bufferTrap (g : Group) : Trap := { cause := 0x0302, mask := g.activeMask, kind := 5 }

/-- Makes an effect of a CONTAIN team enter the buffer; where it finds too few free entries the buffer
drains first and the team is restartable no longer (R115). A drain that has begun is completed before anything enters.
DEDUCED, log entry 36. -/
def State.sbEffect (s : State) (t : Team) (f : Team → Team) : Drained :=
  let t1 := f t
  if t1.sbUsed ≤ 2048 && !t.draining then .done s t1
  else
    match s.drain t with
    | .done s2 t2 => .done s2 (f { t2 with restartable := false })
    | d => d

end Sys2Proof.Machine
end

