-- ==== Sys2Proof/Machine/CopyMap.lean ====
section
/-! DEFINITION. Copy descriptors (R278, R287, R290): their fields, their checks (R279, R290), and the
map from a landing position to its destination and source bytes (R280, R288, R291, R301). -/

namespace Sys2Proof.Machine

/-- A signed 32-bit field. -/
def sfield (w : DWord) (lo : Nat) : Int := (w.extractLsb' lo 32).toInt

/-- An address as a 64-bit number, from an exact integer. -/
def addrOf (x : Int) : Nat := (BitVec.ofInt 64 x).toNat

/-- A word of the descriptor. -/
def Copy.d (c : Copy) (i : Nat) : DWord := c.desc.getD i 0

/-! ### BCPY -/

/-- The element size in bytes (R278). -/
def bcpySize (d : List DWord) : Nat := 2 ^ fieldOf (d.getD 2 0) 0 4
/-- CONV. -/
def bcpyConv (d : List DWord) : Nat := fieldOf (d.getD 2 0) 21 3
/-- NDIM. -/
def bcpyDims (d : List DWord) : Nat := fieldOf (d.getD 2 0) 13 3
/-- The extent of dimension m, 1 above NDIM. -/
def bcpyExt (d : List DWord) (m : Nat) : Nat :=
  if m = 0 then fieldOf (d.getD 2 0) 32 32
  else if bcpyDims d < m then 1 else fieldOf (d.getD 3 0) (16 * m - 16) 16
/-- The source stride of dimension m. -/
def bcpySstr (d : List DWord) (m : Nat) : Int := if bcpyDims d < m then 0 else sfield (d.getD (3 + m) 0) 0
/-- The destination stride of dimension m. -/
def bcpyDstr (d : List DWord) (m : Nat) : Int := if bcpyDims d < m then 0 else sfield (d.getD (3 + m) 0) 32

/-- The elements of a BCPY. -/
def bcpyElems (d : List DWord) : Nat :=
  bcpyExt d 0 * bcpyExt d 1 * bcpyExt d 2 * bcpyExt d 3 * bcpyExt d 4

/-- TOTAL in destination bytes (R279). -/
def bcpyTotal (d : List DWord) : Nat :=
  if bcpyConv d = 2 then bcpyElems d / 4 * 3 else bcpyElems d * bcpySize d

/-- The offset that the outer indices of an element give, on a side. -/
def bcpyOuter (d : List DWord) (str : Nat → Int) (n : Nat) : Int :=
  let n1 := n / bcpyExt d 0
  let n2 := n1 / bcpyExt d 1
  let n3 := n2 / bcpyExt d 2
  let n4 := n3 / bcpyExt d 3
  ((n1 % bcpyExt d 1 : Nat) : Int) * str 1 + ((n2 % bcpyExt d 2 : Nat) : Int) * str 2
    + ((n3 % bcpyExt d 3 : Nat) : Int) * str 3 + ((n4 % bcpyExt d 4 : Nat) : Int) * str 4

/-- The bytes of dimension 0 on a side; `packed` when that side holds packed FP6. -/
def bcpyRow (d : List DWord) (packed : Bool) : Nat :=
  if packed then bcpyExt d 0 / 4 * 3 else bcpyExt d 0 * bcpySize d

/-- The lowest and the highest byte of a side over all positions (R280), relative to its base. -/
def bcpyBounds (d : List DWord) (str : Nat → Int) (packed : Bool) : Int × Int :=
  let span := fun m => ((bcpyExt d m : Nat) : Int) - 1
  let lo := ([1, 2, 3, 4].map fun m => min 0 (span m * str m)).foldl (· + ·) 0
  let hi := ([1, 2, 3, 4].map fun m => max 0 (span m * str m)).foldl (· + ·) 0
  (lo, hi + (bcpyRow d packed : Nat) - 1)

/-- Whether the destination is dense (R279). -/
def bcpyDense (d : List DWord) : Bool :=
  let row := bcpyRow d (decide (bcpyConv d = 2))
  let dims := bcpyDims d
  (dims < 1 || decide (bcpyDstr d 1 = row))
    && (dims < 2 || decide (bcpyDstr d 2 = bcpyExt d 1 * bcpyDstr d 1))
    && (dims < 3 || decide (bcpyDstr d 3 = bcpyExt d 2 * bcpyDstr d 2))
    && (dims < 4 || decide (bcpyDstr d 4 = bcpyExt d 3 * bcpyDstr d 3))

/-- Whether two ranges of integers meet. -/
def rangesMeet (a b : Int × Int) : Bool := decide (a.1 ≤ b.2) && decide (b.1 ≤ a.2)

/-- The exact bounding range of a BCPY's source. -/
def bcpySrcRange (d : List DWord) : Int × Int :=
  let b := bcpyBounds d (bcpySstr d) (decide (bcpyConv d = 1))
  (((d.getD 0 0).toNat : Int) + b.1, ((d.getD 0 0).toNat : Int) + b.2)

/-- The exact bounding range of a BCPY's destination. -/
def bcpyDstRange (d : List DWord) : Int × Int :=
  let b := bcpyBounds d (bcpyDstr d) (decide (bcpyConv d = 2))
  (((d.getD 1 0).toNat : Int) + b.1, ((d.getD 1 0).toNat : Int) + b.2)

/-- The descriptor checks of BCPY, ILLEGAL with reason 2 (R278, R279). -/
def bcpyBad (d : List DWord) : Bool :=
  let w := d.getD 2 0
  let dims := fieldOf w 13 3
  let conv := fieldOf w 21 3
  let dsp := fieldOf w 6 2
  let ssp := fieldOf w 4 2
  decide (fieldOf w 24 8 ≠ 0) || decide (2 < conv) || decide (4 < dims) || decide (dsp = 3) || decide (1 < ssp)
    || decide (4 < fieldOf w 0 4) || (decide (dsp ≠ 2) && decide (fieldOf w 8 5 ≠ 0))
    || (([1, 2, 3, 4].any fun m => decide (dims < m)
          && (decide (fieldOf (d.getD 3 0) (16 * m - 16) 16 ≠ 0) || decide (d.getD (3 + m) 0 ≠ 0))))
    || (decide (dsp ≠ 0) && !bcpyDense d)
    || decide (2 ^ 40 ≤ bcpyTotal d)
    || (decide (0 < conv) && (decide (fieldOf w 0 4 ≠ 0) || decide (bcpyExt d 0 % 4 ≠ 0)
          || (if conv = 1 then decide (ssp ≠ 0) else decide (dsp ≠ 0))))
    || (decide (dsp = ssp) && decide (0 < bcpyTotal d) && rangesMeet (bcpySrcRange d) (bcpyDstRange d))

/-! ### GATH -/

/-- ROW. -/
def gathRow (d : List DWord) : Nat := fieldOf (d.getD 2 0) 32 32
/-- NIDX. -/
def gathCount (d : List DWord) : Nat := fieldOf (d.getD 4 0) 0 32
/-- TLEN. -/
def gathLen (d : List DWord) : Nat := fieldOf (d.getD 4 0) 32 32
/-- The table pitch; 0 means ROW. -/
def gathPitch (d : List DWord) : Nat := if d.getD 6 0 = 0 then gathRow d else (d.getD 6 0).toNat

/-- The table's range. -/
def gathSrcRange (d : List DWord) : Int × Int :=
  let b : Int := ((d.getD 0 0).toNat : Int)
  (b, b + (((gathLen d : Nat) : Int) - 1) * (gathPitch d : Nat) + (gathRow d : Nat) - 1)

/-- The destination's range. -/
def gathDstRange (d : List DWord) : Int × Int :=
  let b : Int := ((d.getD 1 0).toNat : Int)
  (b, b + (gathCount d * gathRow d : Nat) - 1)

/-- The index list's range. -/
def gathIdxRange (d : List DWord) : Int × Int :=
  let b : Int := ((d.getD 3 0).toNat : Int)
  (b, b + (4 * gathCount d : Nat) - 1)

/-- The descriptor checks of GATH (R279, R287). -/
def gathBad (d : List DWord) : Bool :=
  let w := d.getD 2 0
  let dsp := fieldOf w 6 2
  let ssp := fieldOf w 4 2
  let live := decide (0 < gathCount d)
  decide (fieldOf w 22 10 ≠ 0) || decide (fieldOf w 13 3 ≠ 0) || decide (fieldOf w 0 4 ≠ 0)
    || decide (gathRow d = 0) || decide (65536 < gathRow d) || decide (dsp = 3) || decide (1 < ssp)
    || (decide (dsp ≠ 2) && decide (fieldOf w 8 5 ≠ 0)) || decide (d.getD 7 0 ≠ 0)
    || decide (2 ^ 40 ≤ gathCount d * gathRow d)
    || (live && decide (0 < gathLen d) && decide (dsp = ssp) && rangesMeet (gathSrcRange d) (gathDstRange d))

/-! ### LAYX -/

/-- The fields of a LAYX descriptor (R290). -/
structure Layx where
  c : Nat
  size : Nat
  images : Nat
  iw : Nat
  ih : Nat
  dw : Nat
  dh : Nat
  pl : Nat
  pt : Nat
  sw : Nat
  sh : Nat
  kw : Nat
  kh : Nat
  q : Nat
  p : Nat
  pitch : Nat

/-- Reads a LAYX descriptor. -/
def layxOf (d : List DWord) : Layx :=
  let w := d.getD 2 0
  let x := d.getD 3 0
  let y := d.getD 4 0
  let z := d.getD 5 0
  { c := fieldOf w 32 32, size := 2 ^ fieldOf w 0 4, images := fieldOf x 32 16, iw := fieldOf x 16 16
    ih := fieldOf x 0 16, dw := fieldOf y 56 8, dh := fieldOf y 48 8, pl := fieldOf y 40 8
    pt := fieldOf y 32 8, sw := fieldOf y 24 8, sh := fieldOf y 16 8, kw := fieldOf y 8 8
    kh := fieldOf y 0 8, q := fieldOf z 16 16, p := fieldOf z 0 16, pitch := (d.getD 6 0).toNat }

/-- The bytes of a matrix row. -/
def Layx.row (l : Layx) : Nat := l.kh * l.kw * l.c * l.size
/-- The rows of the matrix. -/
def Layx.rows (l : Layx) : Nat := l.images * l.p * l.q
/-- TOTAL. -/
def Layx.total (l : Layx) : Nat := l.rows * l.row

/-- The source's range: the whole tensor. -/
def layxSrcRange (d : List DWord) : Int × Int :=
  let l := layxOf d
  let b : Int := ((d.getD 0 0).toNat : Int)
  (b, b + (l.images * l.ih * l.iw * l.c * l.size : Nat) - 1)

/-- The destination's range. -/
def layxDstRange (d : List DWord) : Int × Int :=
  let l := layxOf d
  let b : Int := ((d.getD 1 0).toNat : Int)
  (b, b + ((l.rows - 1) * l.pitch + l.row : Nat) - 1)

/-- The descriptor checks of LAYX, the pin slots apart (R290). -/
def layxBad (d : List DWord) : Bool :=
  let w := d.getD 2 0
  let l := layxOf d
  decide (fieldOf w 21 11 ≠ 0) || decide (fieldOf w 4 12 ≠ 0) || decide (3 < fieldOf w 0 4)
    || decide (fieldOf (d.getD 3 0) 48 16 ≠ 0) || decide (fieldOf (d.getD 5 0) 32 32 ≠ 0)
    || decide (l.c = 0) || decide (65535 < l.c)
    || [l.images, l.iw, l.ih, l.kh, l.kw, l.sh, l.sw, l.dh, l.dw, l.p, l.q].any (fun x => decide (x = 0))
    || decide (l.pitch < l.row) || decide (2 ^ 40 ≤ l.total)

/-! ### Positions -/

/-- How a destination byte is made from source bytes. -/
inductive SpotVal where
  | byte                 -- the byte itself
  | expand (sh : Nat)    -- six bits of a little-endian pair, from bit `sh`
  | pack (j : Nat)       -- byte j of three, from four elements
  | fill (b : Byte)
  deriving DecidableEq

/-- One landing position: its destination byte and its source bytes. -/
structure Spot where
  dst : Nat
  srcs : List Nat
  val : SpotVal

/-- The value of a position from its source bytes (R301). -/
def Spot.value (p : Spot) (bs : List Byte) : Byte :=
  match p.val with
  | .byte => bs.getD 0 0
  | .expand sh => BitVec.ofNat 8 (leWord bs / 2 ^ sh % 64)
  | .pack j =>
    let u := (bs.getD 0 0).toNat % 64 + (bs.getD 1 0).toNat % 64 * 2 ^ 6 + (bs.getD 2 0).toNat % 64 * 2 ^ 12
      + 2 ^ 18 * ((bs.getD 3 0).toNat % 64)
    BitVec.ofNat 8 (u / 2 ^ (8 * j))
  | .fill b => b

/-- A position of a BCPY (R280, R301). -/
def bcpySpot (d : List DWord) (p : Nat) : Spot :=
  let src : Int := ((d.getD 0 0).toNat : Int)
  let dst : Int := ((d.getD 1 0).toNat : Int)
  if bcpyConv d = 1 then
    let i0 := p % bcpyExt d 0
    let s := src + bcpyOuter d (bcpySstr d) p + (i0 / 4 * 3 : Nat)
    let bit := 6 * (i0 % 4)
    let first := bit / 8
    let last := (bit + 5) / 8
    { dst := addrOf (dst + bcpyOuter d (bcpyDstr d) p + (i0 : Nat))
      srcs := (numsFrom first (last + 1)).map fun j => addrOf (s + (j : Nat))
      val := .expand (bit % 8) }
  else if bcpyConv d = 2 then
    let e := p / 3 * 4
    let i0 := e % bcpyExt d 0
    let s := src + bcpyOuter d (bcpySstr d) e + (i0 : Nat)
    { dst := addrOf (dst + bcpyOuter d (bcpyDstr d) e + (i0 / 4 * 3 + p % 3 : Nat))
      srcs := [addrOf s, addrOf (s + 1), addrOf (s + 2), addrOf (s + 3)]
      val := .pack (p % 3) }
  else
    let size := bcpySize d
    let e := p / size
    let i := e % bcpyExt d 0 * size + p % size
    { dst := addrOf (dst + bcpyOuter d (bcpyDstr d) e + (i : Nat))
      srcs := [addrOf (src + bcpyOuter d (bcpySstr d) e + (i : Nat))]
      val := .byte }

/-- A position of a LAYX (R291). -/
def layxSpot (d : List DWord) (p : Nat) : Spot :=
  let l := layxOf d
  let rho := p / l.row
  let o := p % l.row
  let kappa := o / l.size
  let b := o % l.size
  let n := rho / (l.p * l.q)
  let pp := rho / l.q % l.p
  let q := rho % l.q
  let kh := kappa / (l.kw * l.c)
  let kw := kappa / l.c % l.kw
  let c := kappa % l.c
  let y : Int := (pp * l.sh + kh * l.dh : Nat) - (l.pt : Int)
  let x : Int := (q * l.sw + kw * l.dw : Nat) - (l.pl : Int)
  let dst := addrOf (((d.getD 1 0).toNat : Int) + (rho * l.pitch + o : Nat))
  if 0 ≤ y ∧ y < (l.ih : Int) ∧ 0 ≤ x ∧ x < (l.iw : Int) then
    let e := ((n * l.ih + y.toNat) * l.iw + x.toNat) * l.c + c
    { dst := dst, srcs := [addrOf (((d.getD 0 0).toNat : Int) + (e * l.size + b : Nat))], val := .byte }
  else { dst := dst, srcs := [], val := .fill ((d.getD 7 0).extractLsb' (8 * b) 8) }

/-- A position of a copy that lands by position. -/
def Copy.spot (c : Copy) (p : Nat) : Spot :=
  match c.kind with
  | .layx => layxSpot c.desc p
  | _ => bcpySpot c.desc p

/-- Whether a position reads source bytes that the one before it does not share: always, but inside a group of four
packed elements (R280, R301). -/
def SpotVal.opens : SpotVal → Bool
  | .expand sh => decide (sh = 0)
  | .pack j => decide (j = 0)
  | _ => true

/-- Whether a range of positions can be one unit with its first: consecutive bytes of one 128-byte block on
both sides (R280). -/
def Spot.follows (a b : Spot) : Bool :=
  decide (b.dst = a.dst + 1) && decide (b.dst / 128 = a.dst / 128) &&
    match a.srcs, b.srcs with
    | [], [] => true
    | x :: xs, y :: ys =>
      (if b.val.opens then decide (y = (x :: xs).getLastD x + 1) else decide (x ≤ y) && decide (y ≤ (x :: xs).getLastD x + 1))
        && (x :: xs ++ y :: ys).all fun z => decide (z / 128 = x / 128)
    | _, _ => false

/-- The positions after p that belong to its unit, `fuel` at most. -/
def Copy.unitFrom (c : Copy) (p total : Nat) (cur : Spot) : Nat → List Spot
  | 0 => []
  | fuel + 1 =>
    if p + 1 < total then
      let nxt := c.spot (p + 1)
      if cur.follows nxt then nxt :: c.unitFrom (p + 1) total nxt fuel else []
    else []

/-- The unit that starts at COUNT. -/
def Copy.unit (c : Copy) : List Spot :=
  let first := c.spot c.count
  first :: c.unitFrom c.count c.total first 127

/-- The highest landing position of a destination byte, when some position lands it (R182). -/
def Copy.lastPos (c : Copy) (byte : Nat) : Option Nat :=
  match c.kind with
  | .lcpyGS | .lcpySG =>
    let hits := (List.range c.lanes.length).filter fun i =>
      match c.lanes[i]? with
      | some (o, a) =>
        let x := if c.kind = .lcpyGS then o else a
        decide (x ≤ byte) && decide (byte < x + c.width)
      | none => false
    hits.getLast?.map (· * c.width)
  | _ => (List.range c.total).reverse.find? fun p => decide ((c.spot p).dst = byte)

/-- Whether the watermark has passed the destination offset x of a dense destination (R182, R288). -/
def Copy.passed (c : Copy) (x : Nat) : Bool :=
  match c.kind with
  | .gath => decide (x / gathRow c.desc < c.count)
  | _ => decide (x < c.count)

end Sys2Proof.Machine
end

