-- ==== Sys2Proof/Machine/Access.lean ====
section
/-! DEFINITION. The accesses of a group's fibres to memory: recoverable faults (R106, R107), the range
lock table (R181, R182), the judgement of the lanes' global accesses (R160, R266), and the reads and
writes themselves (R150, R151, R171, R172, R178, R267). -/

namespace Sys2Proof.Machine

/-! ### Recoverable faults -/

/-- Records a recoverable fault of partition k: one waiting entry for each 64 KiB block (R106). DEDUCED, log entry 38. -/
def State.addFault (s : State) (k : Nat) (f : FaultWait) : State :=
  let p := s.part k
  if p.faults.any (fun x => decide (x.block = f.block)) then s
  else s.setPart k { p with faults := p.faults ++ [f] }

/-- The fault entry of an access of a team (R107). -/
def State.faultOf (s : State) (t : Team) (core : Nat) (va : DWord) (kind reason who : Nat) : FaultWait :=
  { block := va.toNat / 2 ^ 16, va := va, core := core, kind := kind, reason := reason, team := t.index
    launch := s.launchIndex t, who := who }

/-- A fibre that a fault parks: its id, the faulting address and the reason. -/
structure FaultLane where
  fid : Nat
  va : DWord
  reason : Nat
  deriving DecidableEq, Repr

/-- Parks fibres of a group on recoverable faults at an instruction's address; the group's other lanes
go on (R106, R141). DEDUCED, log entry 21. DEDUCED, log entry 38. -/
def State.parkFault (s : State) (t : Team) (g : Group) (pc : DWord) (kind : Nat) (ps : List FaultLane) : State :=
  let parked := ps.map fun p => ({ fid := p.fid, core := g.core, slot := 0, pc := pc, st := .fault, fault := p.va, fkind := kind } : Parked)
  let r := s.parkFibres t { g with faulted := g.faulted ++ ps.map (·.fid) } parked
  ps.foldl (fun s p => s.addFault t.part (s.faultOf t g.core p.va kind p.reason p.fid)) (s.settle r.1 r.2)

/-! ### Traps -/

/-- PAGE_FAULT with its detail (R161). -/
def pageTrap (mask : DWord) (addr : DWord) (detail : Nat) (pa : Option Nat) : Trap :=
  { cause := 0x0200, mask := mask, addr := addr
    detail := BitVec.ofNat 64 (detail + (match pa with | some p => p * 256 | none => 0)) }

/-- The trap of a translation outcome, when it is one (R48, R55, R161). -/
def Xlat.trap? (x : Xlat) (mask addr : DWord) : Option Trap :=
  match x with
  | .page d pa => some (pageTrap mask addr d pa)
  | .world => some { cause := 0x0201, mask := mask, addr := addr }
  | .shardRemote => some { cause := 0x0113, mask := mask, addr := addr }
  | .shardNodev => some { cause := 0x0114, mask := mask, addr := addr }
  | .remote _ => some { cause := 0x0113, mask := mask, addr := addr }
  | _ => none

/-! ### The range lock table (R181, R182) -/

/-- Whether an access of n bytes from a meets a range of its space. In the Hamper `h` is where the record of the
access begins, so that a range is met through any record that overlaps it (R309); elsewhere it is 0. -/
def Range.meets (r : Range) (sp : Space) (h a n : Nat) : Bool :=
  decide (r.space = sp) && decide (h + a ≤ r.base + r.last) && decide (r.base + r.first < h + a + n)

/-- Whether an optional range is met. -/
def meets? (r : Option Range) (sp : Space) (h a n : Nat) : Bool :=
  match r with
  | some r => r.meets sp h a n
  | none => false

/-- Whether a copy's entry is registered. -/
def Copy.registered (c : Copy) : Bool := decide (c.st ≠ .idle)

/-- What a load meets at one entry. -/
inductive LoadMeet where
  | pass | stall | failed
  deriving DecidableEq

/-- A load of n bytes against one entry (R182). -/
def Copy.loadMeets (c : Copy) (sp : Space) (h a n : Nat) : LoadMeet :=
  if !c.registered || !meets? c.dst sp h a n then .pass
  else
    match c.dst with
    | none => .pass
    | some r =>
      let last := Nat.min (h + a + n - 1 - r.base) r.last
      if c.st = .failed then
        if c.strided then
          if (numsFrom (h + a - r.base) (h + a + n - r.base)).any (fun b => match c.lastPos b with
              | some p => decide (c.count ≤ p)
              | none => false) then .failed
          else .pass
        else if c.passed (last - r.first) then .pass else .failed
      else if c.strided then .stall
      else if c.passed (last - r.first) then .pass else .stall

/-- What an access of one lane meets in the table: nothing, a stall, or a trap with its entry and the
range's kind. -/
inductive TableMeet where
  | pass
  | stall
  | failed (k : Nat)
  | conflict (k kind : Nat)
  deriving DecidableEq

/-- A load against the table, entry by entry (R182). -/
def Team.loadMeets (t : Team) (sp : Space) (h a n : Nat) : TableMeet :=
  match t.copies.find? fun c => decide (c.2.loadMeets sp h a n = .failed) with
  | some c => .failed c.1
  | none => if t.copies.any fun c => decide (c.2.loadMeets sp h a n = .stall) then .stall else .pass

/-- A store against the table (R182). -/
def Team.storeMeets (t : Team) (sp : Space) (h a n : Nat) : TableMeet :=
  match t.copies.find? fun c => c.2.registered &&
      (meets? c.2.src sp h a n || meets? c.2.dst sp h a n || meets? c.2.idx sp h a n) with
  | some c =>
    .conflict c.1 (if meets? c.2.src sp h a n then 0 else if meets? c.2.dst sp h a n then 1 else 2)
  | none => .pass

/-- The s60 of RANGE_CONFLICT and COPY_FAILED. -/
def entryDetail (k kind : Nat) : DWord := BitVec.ofNat 64 (k % 16 + kind * 16)

/-! ### Lane accesses -/

/-- One lane's access. -/
structure Acc where
  ln : Lane
  addr : DWord
  deriving DecidableEq, Repr

/-- The mask of some accesses. -/
def accMask (l : List Acc) : DWord := maskOf (l.map (·.ln.pos))

/-- The address of the lowest lane. -/
def accAddr (l : List Acc) : DWord := match l with | a :: _ => a.addr | [] => 0

/-- The trap of the first cause, lowest entry first, that lanes meet in the table. DEDUCED, log entry 20. -/
def tableTrap (l : List (Acc × TableMeet)) : Option Trap :=
  let conf := l.filterMap fun p => match p.2 with | .conflict k kind => some (p.1, k, kind) | _ => none
  let fail := l.filterMap fun p => match p.2 with | .failed k => some (p.1, k) | _ => none
  match conf, fail with
  | (_, k0, _) :: _, _ =>
    let k := conf.foldl (fun m x => Nat.min m x.2.1) k0
    let ls := conf.filter fun x => decide (x.2.1 = k)
    some { cause := 0x0109, mask := accMask (ls.map (·.1)), addr := accAddr (ls.map (·.1))
           detail := entryDetail k (match ls with | x :: _ => x.2.2 | [] => 0) }
  | [], (_, k0) :: _ =>
    let k := fail.foldl (fun m x => Nat.min m x.2) k0
    let ls := fail.filter fun x => decide (x.2 = k)
    some { cause := 0x010A, mask := accMask (ls.map (·.1)), addr := accAddr (ls.map (·.1))
           detail := entryDetail k 1 }
  | [], [] => none

/-- The accesses that are not aligned to their size trap ALIGN (R266). -/
def alignTrap (l : List Acc) (size : Nat) : Option Trap :=
  match l.filter fun a => decide (a.addr.toNat % size ≠ 0) with
  | [] => none
  | bad => some { cause := 0x0108, mask := accMask bad, addr := accAddr bad }

/-- The scratchpad accesses beyond SCRATCH KiB trap PAGE_FAULT with detail 5 (R148, R266). -/
def scratchTrap (t : Team) (l : List Acc) (size : Nat) : Option Trap :=
  match l.filter fun a => decide (1024 * t.launch.scratch < a.addr.toNat + size) with
  | [] => none
  | bad => some (pageTrap (accMask bad) (accAddr bad) 5 none)

/-- The global accesses with [63:56] nonzero trap PAGE_FAULT with detail 4. -/
def highTrap (l : List Acc) : Option Trap :=
  match l.filter fun a => decide (fieldOf a.addr 56 8 ≠ 0) with
  | [] => none
  | bad => some (pageTrap (accMask bad) (accAddr bad) 4 none)

/-- The lanes that meet an outcome. -/
def lanesMeeting (xs : List (Acc × Xlat)) (f : Xlat → Bool) : List Acc :=
  (xs.filter fun p => f p.2).map (·.1)

/-- The one trap that the lanes' translation outcomes give (R266, step 6). -/
def xlatTrap (xs : List (Acc × Xlat)) : Option Trap :=
  let pages := xs.filter fun p => match p.2 with | .page _ _ => true | _ => false
  match pages with
  | (a, .page d pa) :: _ =>
    let ls := lanesMeeting xs fun x => match x with | .page e _ => decide (e = d) | _ => false
    some (pageTrap (accMask ls) a.addr d pa)
  | _ =>
    match lanesMeeting xs (fun x => decide (x = .world)) with
    | l@(_ :: _) => some { cause := 0x0201, mask := accMask l, addr := accAddr l }
    | [] =>
      match lanesMeeting xs (fun x => decide (x = .shardRemote)) with
      | l@(_ :: _) => some { cause := 0x0113, mask := accMask l, addr := accAddr l }
      | [] =>
        match lanesMeeting xs (fun x => decide (x = .shardNodev)) with
        | l@(_ :: _) => some { cause := 0x0114, mask := accMask l, addr := accAddr l }
        | [] => none

/-- Where a lane's access goes. -/
inductive Dest where
  | local (pa : Nat) (leaf : DWord) (lost : Bool)
  | remote (owner : Nat)
  deriving DecidableEq, Repr

/-- The lanes that complete. -/
def goingLanes (xs : List (Acc × Xlat)) : List (Acc × Dest) :=
  xs.filterMap fun p => match p.2 with
    | .ok pa leaf lost => some (p.1, .local pa leaf lost)
    | .remote o => some (p.1, .remote o)
    | _ => none

/-- The lanes that park. -/
def parkingLanes (xs : List (Acc × Xlat)) : List FaultLane :=
  xs.filterMap fun p => match p.2 with
    | .recoverable r => some { fid := p.1.ln.fid, va := p.1.addr, reason := r }
    | _ => none

/-- Translates the lanes' accesses. -/
def Ctx.xlates (c : Ctx) (s : State) (l : List Acc) (acc : Access) (remoteOk : Bool) : List (Acc × Xlat) :=
  l.map fun a => (a, s.xlate (s.coreSec c.g.core) c.g.core c.t.part (s.version c.t) a.addr acc remoteOk)

/-- Caches the translations of completed accesses and notes empty key slots (R58, R162). -/
def Ctx.afterXlat (c : Ctx) (s : State) (l : List (Acc × Dest)) : State :=
  l.foldl (fun s p => match p.2 with
    | .local pa leaf _ =>
      (s.tlbFill c.g.core c.t.part (s.version c.t) p.1.addr).noteKeyEmpty pa leaf c.t.part c.g.core
    | .remote _ => s.tlbFill c.g.core c.t.part (s.version c.t) p.1.addr) s

/-! ### Reading global memory -/

/-- How a load is performed: from the core's L1, under the core's posted stores without the L1, or at the home
L2 (R170, R172, R268). -/
inductive LoadVia where
  | l1 | under | home
  deriving DecidableEq

/-- Prepares a read of some fibres through a key id: the sectors come under its keys, pool lines are filled, and
the L1 line is filled, or for a read at the home L2 the core's own stores to the bytes are performed. A read without
the L1 drops its line, so that no later read of the core is older (R171, R172). The fibres observe the posted stores
that they read (R176). DEDUCED, log entry 35. -/
def State.readPrep (s : State) (t : Team) (core : Nat) (fids : List Nat) (key pa n : Nat) (via : LoadVia) : State :=
  let s1 := s.rekey key false pa n
  match via with
  | .l1 => (s1.l1Fill core t.part key pa).observe t.uid fids fun p => p.meets core pa n
  | .under => (s1.l1DropRange core false pa n).observe t.uid fids fun p => p.meets core pa n
  | .home => (s1.performWhere fun p => p.meets core pa n).l1DropRange core false pa n

/-- The bytes that a team's read returns, with its buffer merged over memory (R113). DEDUCED, log entry 35. -/
def State.teamBytes (s : State) (t : Team) (core key pa : Nat) : Nat → List Byte
  | 0 => []
  | n + 1 => t.sbByte pa (s.coreByte core t.part key pa) :: s.teamBytes t core key (pa + 1) n

/-- The first poisoned byte of a team's read, as an offset (R113, R120). -/
def State.teamPoison (s : State) (t : Team) (core key pa n : Nat) : Option Nat :=
  ((sectorsOf pa n).find? fun sec => t.sbPoison sec (s.corePoison core t.part key sec)).map fun sec => sec * 32 - pa

/-- The memory's way of a plain load: without the L1 under PAIRCORE, whose TEAM scope is the home L2 (R170). DEDUCED, log entry 32. -/
def Team.plainVia (t : Team) : LoadVia := if t.launch.paircore then .under else .l1

/-- The fibres of a group. -/
def Group.fids (g : Group) : List Nat := g.active.map (·.2)

/-- An acquire of a group at any scope: its fibres observe the stores of their team (R175, R176). -/
def State.observeBy (s : State) (t : Team) (g : Group) : State := s.observeTeam t.uid g.fids

/-- An acquire at DEVICE or SYSTEM scope also removes the partition's lines from the L1 (R172); under PAIRCORE
from both. DEDUCED, log entry 6. -/
def State.acquire (s : State) (t : Team) (g : Group) : State :=
  (s.observeBy t g).l1Drop g.core t.part t.launch.paircore

/-- A release at DEVICE or SYSTEM scope performs the earlier stores of the group's fibres and those that they have
observed (R174, R176, R178). DEDUCED, log entry 6. -/
def State.release (s : State) (t : Team) (g : Group) : State := s.performFor t.uid g.fids

/-! ### Writing global memory -/

/-- Stores of one instruction as byte writes in lane order; a later lane's byte remains (R267). -/
def byteWrites (l : List (Nat × List Byte)) : List (Nat × Byte) :=
  l.foldl (fun m p => (List.range p.2.length).foldl (fun m i => sinsert (p.1 + i) (p.2.getD i 0) m) m) []

/-- A lane's store to this device's memory: its fibre, the key id of its page, its address and its bytes. -/
structure LocalStore where
  fid : Nat
  key : Nat
  pa : Nat
  data : List Byte
  deriving DecidableEq, Repr

/-- The sectors of which some addressed bytes make all 32. -/
def sectorsFilled (bytes : List (Nat × Byte)) : List Nat :=
  ((bytes.map fun b => b.1 / 32).eraseDups).filter fun n => decide ((bytes.filter fun b => decide (b.1 / 32 = n)).length = 32)

/-- The single-copy atomic pieces of a store: a 16-byte store is two halves (R169). -/
def atomPieces (pa : Nat) (data : List Byte) : List (Nat × List Byte) :=
  if data.length = 16 then [(pa, data.take 8), (pa + 8, data.drop 8)] else [(pa, data)]

/-- Issues one lane's store (R151, R170, R171): it updates the line that the core's L1 holds and stands posted until
it is performed at its home; under PAIRCORE, or with HINT .NOL1, the L1 keeps no copy. DEDUCED, log entry 6. DEDUCED, log entry 32. -/
def State.postStore (s : State) (t : Team) (core : Nat) (nol1 rel : Bool) (clean : List Nat) (x : LocalStore) : State :=
  let s0 := s.rekey x.key true x.pa x.data.length
  let s1 := if nol1 || t.launch.paircore then s0.l1DropRange core t.launch.paircore x.pa x.data.length
    else s0.l1Update core t.part x.key x.pa x.data
  { s1 with posted := s1.posted ++ (atomPieces x.pa x.data).map fun p =>
      ({ core := core, pair := t.launch.paircore, team := t.uid, fid := x.fid, pa := p.1, data := p.2, key := x.key
         rel := rel, clears := clean.filter fun n => decide (n = p.1 / 32) } : Posted) }

/-- Issues the local stores of one instruction, in lane order; the sectors that they write whole are clean (R119,
R267). -/
def State.postStores (s : State) (t : Team) (core : Nat) (l : List LocalStore) (nol1 rel : Bool) : State :=
  let clean := sectorsFilled (byteWrites (l.map fun x => (x.pa, x.data)))
  let s1 := l.foldl (fun s x => s.postStore t core nol1 rel clean x) s
  ((l.map (·.key)).eraseDups).foldl (fun s k => s.l1Clean core t.part k clean) s1

/-- Stores of a group without CONTAIN (R48, R267). -/
def State.storeDirect (s : State) (t : Team) (core : Nat) (l : List (Acc × Dest × List Byte)) (nol1 rel : Bool) : State :=
  let here := l.filterMap fun p => match p.2.1 with
    | .local pa leaf lost => if lost then none
      else some ({ fid := p.1.ln.fid, key := keyOf leaf, pa := pa, data := p.2.2 } : LocalStore)
    | .remote _ => none
  l.foldl (fun s p => match p.2.1 with
    | .remote o => s.sendRemote t o p.1.ln.fid p.1.addr.toNat p.2.2 none
    | .local _ _ _ => s) (s.postStores t core here nol1 rel)

/-- The effects of a group's stores in a CONTAIN team. -/
def putsOf (l : List (Acc × Dest × List Byte)) : List Put :=
  l.filterMap fun p => match p.2.1 with
    | .local pa leaf lost => if lost then none else some { owner := none, addr := pa, data := p.2.2, key := keyOf leaf }
    | .remote o => some { owner := some o, addr := p.1.addr.toNat, data := p.2.2 }

/-! ### The scratchpad -/

/-- Scratchpad bytes. -/
def Team.scratchBytes (t : Team) (off n : Nat) : List Byte := sgetList 0 t.scratch off n

/-- Whether a scratchpad read meets poison. -/
def Team.scratchBad (t : Team) (off n : Nat) : Bool := (sectorsOf off n).any (sget false t.scratchPoison)

/-- Whether an error site is a scratchpad word that an access touches. -/
def ErrorSite.inScratch (e : ErrorSite) (off n : Nat) : Bool :=
  match e with
  | .scratch _ _ w _ => overlaps (w / 4 * 4) 4 off n
  | _ => false

/-- Writes the scratchpad: a sector written whole loses its poison, a word written whole its error
(R119, R121). -/
def Team.putScratch (t : Team) (off : Nat) (bs : List Byte) : Team :=
  { t with
    scratch := ssetList 0 t.scratch off bs
    scratchPoison := (wholeSectors off bs.length).foldl (fun m n => sset false m n false) t.scratchPoison
    errors := t.errors.filter fun e =>
      match e with
      | .scratch _ _ w _ => !(decide (off ≤ w / 4 * 4) && decide (w / 4 * 4 + 4 ≤ off + bs.length))
      | _ => true }

/-- Writes of one scratchpad instruction, in ascending lane. -/
def Team.putScratchAll (t : Team) (l : List (Nat × List Byte)) : Team :=
  (runsOf (byteWrites l)).foldl (fun t r => t.putScratch r.1 r.2) t

/-- The lanes whose scratchpad access reads an uncorrectable word. DEDUCED, log entry 22. -/
def scratchErrors (t : Team) (l : List Acc) (n : Nat) : List Acc :=
  l.filter fun a => t.errors.any fun e => e.inScratch a.addr.toNat n

/-- The error sites that the lanes have read are gone after their trap (R121). DEDUCED, log entry 22. -/
def dropScratchErrors (t : Team) (l : List Acc) (n : Nat) : Team :=
  { t with errors := t.errors.filter fun e => !l.any fun a => e.inScratch a.addr.toNat n }

/-! ### Accesses made once for the group -/

/-- What a read that is made once for the group gives. -/
inductive GroupGot where
  | ok (bs : List Byte) (s : State)
  | trap (tr : Trap)
  | poisoned (tr : Trap) (s : State)     -- its parts have been read
  | park (va : DWord) (reason : Nat)
  | wait (w : Wait)

/-- The parts of a group's read: translation, the table and poison, in the order of R266. `kind` is the
consumer kind of its POISON. -/
def Ctx.groupParts (c : Ctx) (s : State) (kind : Nat) (via : LoadVia) (acc : List Byte) (bad : Option DWord) :
    List (Nat × Nat) → GroupGot
  | [] =>
    match bad with
    | some a => .poisoned { cause := 0x0300, mask := c.g.activeMask, addr := a, kind := kind } s
    | none => .ok acc s
  | (va, n) :: rest =>
    let a : DWord := BitVec.ofNat 64 va
    let mask := c.g.activeMask
    match s.xlate (s.coreSec c.g.core) c.g.core c.t.part (s.version c.t) a .read false with
    | .ok pa leaf lost =>
      match c.t.loadMeets .global 0 va n with
      | .stall => .wait .watermark
      | .failed k => .trap { cause := 0x010A, mask := mask, addr := a, detail := entryDetail k 1 }
      | _ =>
        let s1 := c.afterXlat s [({ ln := { pos := 0, fid := 0, wid := 0, side := 0 }, addr := a }, .local pa leaf lost)]
        let lines := numsFrom (pa / 128) ((pa + n - 1) / 128 + 1)
        let s2 := lines.foldl (fun s l => s.readPrep c.t c.g.core c.g.fids (keyOf leaf) (l * 128) 128 via) s1
        let p := if lost then some 0 else s2.teamPoison c.t c.g.core (keyOf leaf) pa n
        let bs := s2.teamBytes c.t c.g.core (keyOf leaf) pa n
        let bad' := match bad with
          | some x => some x
          | none => p.map fun o => a + BitVec.ofNat 64 o
        c.groupParts s2 kind via (acc ++ bs) bad' rest
    | .held => .wait .held
    | .recoverable r => .park a r
    | x =>
      match x.trap? mask a with
      | some tr => .trap tr
      | none => .wait .held

/-- Reads a global range once for the group. -/
def Ctx.groupRead (c : Ctx) (s : State) (kind : Nat) (via : LoadVia) (va : DWord) (n : Nat) : GroupGot :=
  if n ≠ 0 ∧ 2 ^ 56 < va.toNat + n then
    .trap (pageTrap c.g.activeMask (if fieldOf va 56 8 ≠ 0 then va else BitVec.ofNat 64 (2 ^ 56)) 4 none)
  else c.groupParts s kind via [] none (blocksOf va.toNat n (n / 2 ^ 12 + 2))

/-- Parks every active fibre of the group at the instruction (R106, R107). DEDUCED, log entry 38. -/
def Ctx.parkGroup (c : Ctx) (s : State) (kind : Nat) (va : DWord) (reason : Nat) : Res :=
  .next (s.parkFault c.t c.g.endRun c.g.pc kind (c.g.active.map fun p => { fid := p.2, va := va, reason := reason }))

/-- Goes on with the bytes of a group's read, or ends in its outcome. -/
def Ctx.withRead (c : Ctx) (s : State) (faultKind : Nat) (r : GroupGot) (f : State → List Byte → Res) : Res :=
  match r with
  | .ok bs s1 => f s1 bs
  | .trap tr => c.trap s tr
  | .poisoned tr s1 => c.trap s1 tr
  | .park va reason => c.parkGroup s faultKind va reason
  | .wait w => c.wait s w

/-- Goes on with an effect that has entered the store buffer, or ends in its outcome (R114, R115). -/
def Ctx.withBuffer (c : Ctx) (d : Drained) (f : State → Ctx → Res) : Res :=
  match d with
  | .done s t => f s { c with t := t }
  | .held s t => ({ c with t := t }).wait s .drain
  | .bad s t => ({ c with t := t }).trap s (bufferTrap c.g)

end Sys2Proof.Machine
end

