-- ==== Sys2Proof/Machine/Exit.lean ====
section
/-! DEFINITION. Barriers (R145, R216 to R219), rejoin entries (R140, R213), pair entries as fibres leave
them (R333, R334), the end of fibres (R212) and of teams (R129, R297, R298, R417). -/

namespace Sys2Proof.Machine

/-! ### Barriers -/

/-- A barrier word of its fields (R145). -/
def barWord (phase arrived expect : Nat) : DWord :=
  BitVec.ofNat 64 (2 ^ 63 + 2 ^ 32 * (phase % 2 ^ 16) + 2 ^ 16 * (arrived % 2 ^ 11) + expect % 2 ^ 11)

/-- Whether a barrier is initialised. -/
def barOn (w : DWord) : Bool := bitAt w 63
/-- PHASE. -/
def barPhase (w : DWord) : Nat := fieldOf w 32 16
/-- ARRIVED. -/
def barArrived (w : DWord) : Nat := fieldOf w 16 11
/-- EXPECT. -/
def barExpect (w : DWord) : Nat := fieldOf w 0 11

/-- The word after arrivals without DROP (R218); excess arrivals are discarded. -/
def barArrive (w : DWord) (n : Nat) : DWord :=
  if !barOn w then w
  else if barExpect w ≤ barArrived w + n then barWord (barPhase w + 1) 0 (barExpect w)
  else barWord (barPhase w) (barArrived w + n) (barExpect w)

/-- The word after arrivals with DROP (R218). -/
def barDrop (w : DWord) (n : Nat) : DWord :=
  if !barOn w then w
  else
    let e := barExpect w - n
    if e = 0 then 0
    else if e ≤ barArrived w then barWord (barPhase w + 1) 0 e
    else barWord (barPhase w) (barArrived w) e

/-- A token (R216). -/
def barToken (b phase : Nat) : Word := BitVec.ofNat 32 (2 ^ 31 + 2 ^ 16 * b + phase)

/-- Whether a register holds a token of barrier b (R216). -/
def isToken (b : Nat) (v : Word) : Bool := decide (fieldOf v 16 16 = 2 ^ 15 + b)

/-- A team's barrier word. -/
def Team.bar (t : Team) (b : Nat) : DWord := sget 0 t.barriers b

/-- Writes a team's barrier word. -/
def Team.setBar (t : Team) (b : Nat) (w : DWord) : Team := { t with barriers := sset 0 t.barriers b w }

/-- Whether a register waits on its barrier (R219). -/
def barWaits (b : Nat) (w : DWord) (v : Word) : Bool :=
  isToken b v && barOn w && decide (fieldOf v 0 16 = barPhase w)

/-! ### Pair entries -/

/-- STATE of a pair entry (R335). -/
def PairEntry.state (e : PairEntry) : Nat := fieldOf e.w3 0 3
/-- Whether a half is gone: role 0 conditional, 1 unconditional. -/
def PairEntry.gone (e : PairEntry) (role : Nat) : Bool := bitAt e.w3 (4 + role)
/-- The mask of a half. -/
def PairEntry.mask (e : PairEntry) (role : Nat) : DWord := if role = 0 then e.w0 else e.w1
/-- The base of a half. -/
def PairEntry.base (e : PairEntry) (role : Nat) : Nat := fieldOf e.w2 (32 * role) 32
/-- The fibres of a half. -/
def PairEntry.set (e : PairEntry) (role : Nat) : List Nat :=
  ((List.range 64).filter (bitAt (e.mask role))).map (e.base role + ·)
/-- PEND of a pair entry. -/
def PairEntry.pend (e : PairEntry) : Nat := fieldOf e.w3 6 2
/-- PROLE of a pair entry. -/
def PairEntry.prole (e : PairEntry) : Nat := fieldOf e.w3 8 1
/-- PSTEP of a pair entry. -/
def PairEntry.pstep (e : PairEntry) : Nat := fieldOf e.w3 32 32

/-- Writes the mask of a half. -/
def PairEntry.setMask (e : PairEntry) (role : Nat) (m : DWord) : PairEntry :=
  if role = 0 then { e with w0 := m } else { e with w1 := m }

/-- Clears the pending arrival of an entry. -/
def PairEntry.noPend (e : PairEntry) : PairEntry :=
  { e with w3 := setField (setField e.w3 6 3 0) 32 32 0 }

/-- A half becomes gone (R333, R334): BOUND becomes SOLO and SOLO becomes FREE; a pending arrival of the
other half proceeds unpaired, and the gone half's own is cleared. -/
def PairEntry.leave (e : PairEntry) (role : Nat) : PairEntry :=
  if e.gone role || !(decide (e.state = 2) || decide (e.state = 3)) then e
  else if e.state = 3 then {}
  else
    let e1 := e.noPend
    { e1 with w3 := setField (setField e1.w3 (4 + role) 1 1) 0 3 3 }

/-- A fibre leaves every half that names it (R333). -/
def PairEntry.dropFibre (e : PairEntry) (fid : Nat) : PairEntry :=
  [0, 1].foldl (fun e r =>
    let b := e.base r
    if e.state = 0 ∨ e.gone r = true ∨ fid < b ∨ 64 ≤ fid - b ∨ bitAt (e.mask r) (fid - b) = false then e
    else
      let m := setField (e.mask r) (fid - b) 1 0
      let e1 := e.setMask r m
      if m = 0 then e1.leave r else e1) e

/-- Fibres leave the pair entries of their team. -/
def Team.pairsDrop (t : Team) (fids : List Nat) : Team :=
  { t with pairs := (List.range 8).foldl (fun m k =>
      sset {} m k (fids.foldl PairEntry.dropFibre (sget {} m k))) t.pairs }

/-! ### Rejoin entries (R140, R213) -/

/-- The fibres that an entry names. -/
def maskFibres (base : Nat) (mask : DWord) : List Nat :=
  ((List.range 64).filter (bitAt mask)).map (base + ·)

/-- A mask without the fibres that a test refuses. -/
def keepFibres (base : Nat) (mask : DWord) (f : Nat → Bool) : DWord :=
  maskOf ((List.range 64).filter fun i => bitAt mask i && f (base + i))

/-- Whether no fibre in an entry's mask remains unarrived. -/
def Rejoin.full (r : Rejoin) : Bool := (maskFibres r.base r.mask).all r.arrived.contains

/-- Completes the entries that no fibre holds any more, and releases their fibres. -/
def Team.judgeRejoins (t : Team) : Team :=
  let rs := t.rejoins.map fun r => { r with complete := r.complete || r.full }
  let free (p : Parked) : Parked :=
    if p.st = .rejoin ∧ (rs.any fun r => r.complete && decide (r.tag = p.tag)) = true
    then { p with released := true } else p
  { t with rejoins := rs, attic := t.attic.map free }

/-- A fibre arrives with a tag, a base and a mask: it counts in the open entry of its tag, or opens an
entry, or is held while all eight are open. DEDUCED, log entry 29. -/
def Team.arrive (t : Team) (fid : Nat) (tag : BitVec 16) (base : Nat) (mask : DWord) : Team × ParkState :=
  if t.rejoins.any fun r => decide (r.tag = tag) then
    ({ t with rejoins := t.rejoins.map fun r =>
        if r.tag = tag then { r with arrived := r.arrived ++ [fid] } else r }, .rejoin)
  else if t.rejoins.length < 8 then
    ({ t with rejoins := t.rejoins ++
        [{ tag := tag, base := base, mask := keepFibres base mask t.live.contains, arrived := [fid] }] }, .rejoin)
  else (t, .rejoinHeld)

/-- Fibres leave the masks of the open entries (R212). -/
def Team.rejoinsDrop (t : Team) (fids : List Nat) : Team :=
  let less (r : Rejoin) : Rejoin :=
    { r with mask := keepFibres r.base r.mask fun f => !fids.contains f }
  Team.judgeRejoins { t with rejoins := t.rejoins.map less }

/-! ### The end of a team -/

/-- Whether a copy is under way. -/
def Copy.running (c : Copy) : Bool := c.st == .landing || c.st == .frozen

/-- Whether a range is not global. -/
def localRange (r : Option Range) : Bool :=
  match r with
  | some r => decide (r.space ≠ .global)
  | none => false

/-- Whether a copy uses the team's scratchpad or Hamper (R297). -/
def Copy.inLocal (c : Copy) : Bool := localRange c.src || localRange c.dst || localRange c.idx

/-- Whether a copy has a global destination. -/
def Copy.toGlobal (c : Copy) : Bool := !localRange c.dst

/-- Ends an exiting team when nothing holds it any more (R129, R221, R293, R297): its queue ranges are
handed on, its pins are released, and its instance may complete. The copies that use only global memory leave it and
land on, with the entries of those that have failed, on which another may be chained; those of one team keep their order
while others hold its exit (R183, R281, R284). DEDUCED, log entry 33. -/
def State.leaveTeam (s : State) (t : Team) : State :=
  let held := t.copies.any fun c => c.2.running && c.2.inLocal
  if held || (t.launch.contain && (!t.drained || t.copies.any fun c => c.2.running)) then s.putTeam { t with exitHeld := held }
  else
    let away := if t.copies.any fun c => c.2.running then t.copies.filter fun c => c.2.registered else []
    let ghost : Team :=
      { core := t.core, slot := t.slot, part := t.part, inst := t.inst, index := t.index, launch := t.launch
        copies := away, copySeq := t.copySeq, exiting := true }
    let r := (if away.isEmpty then s else { s with orphans := s.orphans ++ [ghost] }).settleRanges t
    let s1 := (r.1.dropTeam r.2).unpinTeam r.2
    let s2 := match s1.inst? t.inst with
      | some i => s1.putInst { i with exited := i.exited + 1 }
      | none => s1
    (s2.settleFaults t.part).checkInstance t.inst

/-- A team as its records show it: the registers and entries of the copies that use only global memory leave an exiting
team, though they land on (R297). DEDUCED, log entry 33. -/
def Team.shown (t : Team) : Team :=
  if t.exiting then { t with copies := t.copies.filter fun c => !c.2.registered || c.2.inLocal } else t

/-- A team exits (R129, R417): its stores are performed, and its exit is held by its copies that use its own
storage. DEDUCED, log entry 33. -/
def State.exitTeam (s : State) (t : Team) : State :=
  (s.performTeam t.uid).leaveTeam { t with exiting := true, groups := [], attic := [], live := [], rejoins := [] }

/-- A team with every group record free and no fibre parked has exited (R129). -/
def State.exitIfEmpty (s : State) (core slot : Nat) : State :=
  match s.team? core slot with
  | some t => if !t.exiting && t.groups.isEmpty && t.attic.isEmpty then s.exitTeam t else s
  | none => s

/-! ### The end of fibres -/

/-- Fibres of a team end (R212): their ids are free, and they leave the rejoin entries and the pair
entries. -/
def Team.endFibres (t : Team) (fids : List Nat) : Team :=
  (({ t with live := t.live.filter fun f => !fids.contains f }).rejoinsDrop fids).pairsDrop fids

/-- The group of an ended run goes on with its other fibres; without any its record frees, and the team
may have exited. -/
def State.settleExit (s : State) (t : Team) (g : Group) : State :=
  (s.settle t g).exitIfEmpty t.core t.slot

/-- Whether a group of a team that TEXIT ends goes now (R97, R402, R417): it waits at a barrier, on a queue, on a
watermark, for a pair entry or on a collective, or stands at a run boundary. A group in the middle of another act ends at
its next run boundary. DEDUCED, log entry 33. -/
def Group.endsNow (g : Group) : Bool :=
  [Wait.barrier, .queue, .pop, .watermark, .pair, .collective].contains g.wait
    || (decide (g.issued = 0) && (decide (g.wait = .none) || g.wordsAt.isEmpty))

/-- TEXIT (R417): the issuing group ends; every other group of the team ends now if it waits or stands at
a run boundary, or else at its next one; the parked fibres end with it. DEDUCED, log entry 33. -/
def State.texit (s : State) (t : Team) (g : Group) : State :=
  let stops := t.groups.filter fun u => decide (u.num = g.num) || u.endsNow
  let gone := (stops.flatMap fun u => u.active.map (·.2)) ++ t.attic.map (·.fid)
  let t1 := { t with cut := true, attic := [], rejoins := []
                     groups := t.groups.filter fun u => !stops.any fun v => decide (v.num = u.num) }
  (s.putTeam (t1.endFibres gone)).exitIfEmpty t.core t.slot

end Sys2Proof.Machine
end

