-- ==== Sys2Proof/Machine/Control.lean ====
section
/-! DEFINITION. Control flow, fibres, segments and barriers (R205 to R219), with the parking of partial
groups (R138). -/

namespace Sys2Proof.Machine

/-! ### Shared operations -/

/-- The address of the next instruction. -/
def Ctx.nextPc (c : Ctx) (m : Mods) : DWord := c.g.pc + BitVec.ofNat 64 (4 * m.words)

/-- The run ends and the group goes on at a target. -/
def Ctx.jumpTo (c : Ctx) (s : State) (stall : Nat) (target : DWord) : Res :=
  .next (({ s with clk := Nat.max s.clk c.clk }).put c.t (c.g.jump c.clk stall target))

/-- Whether an address is no place for an instruction: JMPI, CALLI, RET and FORK trap ALIGN on it. -/
def badTarget (x : DWord) : Bool := decide (fieldOf x 0 2 ≠ 0) || decide (fieldOf x 56 8 ≠ 0)

/-- ALIGN for the lanes with a bad target: their mask and the lowest such lane's target (R209). -/
def targetTrap (ts : List (Lane × DWord)) : Option Trap :=
  match ts.filter fun p => badTarget p.2 with
  | [] => none
  | (ln, x) :: rest =>
    some { cause := 0x0108, mask := maskOf (((ln, x) :: rest).map (·.1.pos)), addr := x }

/-- The low register of the link pair (R208). -/
def Team.linkReg (t : Team) : Nat := t.launch.window - 2

/-- Writes the link pair of every active lane (R208). -/
def Ctx.link (c : Ctx) (ret : DWord) : Ctx :=
  c.lanes.foldl (fun c ln =>
    (c.setV 0 ln.wid c.t.linkReg (ret.setWidth 32)).setV 0 ln.wid (c.t.linkReg + 1) ((ret >>> 32).setWidth 32)) c

/-- The link address of a lane. -/
def Ctx.linkAddr (c : Ctx) (ln : Lane) : DWord := c.v ln.wid (c.t.linkReg + 1) ++ c.v ln.wid c.t.linkReg

/-- Fibres of a group leave it for the Attic as FORMABLE, each at its own address (R136). -/
def State.leaveFormable (s : State) (t : Team) (g : Group) (ls : List (Nat × DWord)) : Team × Group :=
  s.parkFibres t g (ls.map fun p => { fid := p.1, core := g.core, slot := 0, pc := p.2 })

/-! ### Partial groups that wait (R138) -/

/-- The group records of a team on a core: record g stands on core 2k + (g mod 2) under PAIRCORE
(R71). -/
def Team.recordsOn (t : Team) (core : Nat) : List Nat :=
  (List.range t.launch.groups).filter fun n => !t.launch.paircore || decide (n % 2 = core - t.core)

/-- The lowest free group record of a team on a core. -/
def Team.freeRecord (t : Team) (core : Nat) : Option Nat :=
  (t.recordsOn core).find? fun n => !t.groups.any fun g => decide (g.num = n)

/-- FORMWAIT (R139). -/
def State.formWait (s : State) : Nat := s.rfield 0x00D 0 16

/-- Whether a partial group that waits must give up its record: its team has a FORMABLE fibre that has
waited FORMWAIT clocks, and no free record. DEDUCED, log entry 30. -/
def State.mustPark (s : State) (t : Team) (g : Group) : Bool :=
  g.underfull t && (t.freeRecord g.core).isNone
    && t.attic.any fun p => p.st == .formable && decide (p.core = g.core)
        && decide (s.formWait ≤ s.clk - p.parked)

/-- Every fibre of a group parks as FORMABLE at an address, and its record frees. -/
def State.parkGroupAt (s : State) (t : Team) (g : Group) (pc : DWord) : State :=
  let r := s.parkFibres t g (g.active.map fun p =>
    { fid := p.2, core := g.core, slot := 0, pc := pc, synced := g.synced.contains p.2 })
  s.settle r.1 r.2

/-- A group waits at its instruction, unless R138 has it park there. DEDUCED, log entry 30. -/
def Ctx.waitOrPark (c : Ctx) (s : State) (w : Wait) : Res :=
  if s.mustPark c.t c.g then .next (s.parkGroupAt c.t c.g c.g.pc) else c.wait s w

/-! ### NOP, END and YIELD -/

/-- NOP (R206, R214): only its guard is read. -/
def execNop (w : W3) (s : State) : Res := laneInstr s (guardX w.m) w.m w.s.toNat (fun _ => []) fun c => c

/-- Whether an END name covers a result in flight (R199). -/
def nameCovers (n : BitVec 7) (l : Loc) : Bool :=
  match l with
  | .v _ r => !bitAt n 6 && decide (fieldOf n 0 6 = r)
  | .s i => bitAt n 6 && decide (fieldOf n 0 6 = i)
  | _ => false

/-- END (R199, R214): the run ends, and the results it names hold their later readers. DESIGN CHOICE, log entry 7. -/
def execEndRun (w : WEnd) (s : State) : Res :=
  withGroup s fun t g =>
    let c := ctxFor s t g w.m
    let mark (e : Early) : Early :=
      if [w.n0, w.n1, w.n2].any (nameCovers · e.loc) then { e with named := true } else e
    ({ c with g := { g with hist := g.hist.map mark } } : Ctx).jumpTo s 0 (c.nextPc w.m)

/-- YIELD (R138, R214). DEDUCED, log entry 30. -/
def execYield (w : W3) (s : State) : Res :=
  uniInstr s (guardY w) w.m w.s.toNat [] fun s c =>
    if s.mustPark c.t c.g then .next (s.parkGroupAt c.t c.g (c.nextPc w.m))
    else c.jumpTo s w.s.toNat (c.nextPc w.m)

/-! ### Branches -/

/-- The target of a YB word (R193). -/
def Ctx.branchTarget (c : Ctx) (w : WB) : DWord := c.g.pc + ((w.off.signExtend 64) <<< (2 : Nat))

/-- BRA (R207). -/
def execBra (w : WB) (s : State) : Res :=
  withGroup s fun t g =>
    let c := ctxFor s t g w.m
    c.jumpTo s 0 (c.branchTarget w)

/-- The split of a group at a branch (R136): the smaller side leaves, the taken side on a tie. -/
def Ctx.branch (c : Ctx) (s : State) (taken fall : List Lane) (target next : DWord) : Res :=
  if taken.isEmpty then c.jumpTo s 0 next
  else if fall.isEmpty then c.jumpTo s 0 target
  else
    let leaveTaken := decide (taken.length ≤ fall.length)
    let leaving := if leaveTaken then taken.map fun ln => (ln.fid, target) else fall.map fun ln => (ln.fid, next)
    let r := s.leaveFormable c.t c.g leaving
    ({ c with t := r.1, g := r.2 } : Ctx).jumpTo s 0 (if leaveTaken then next else target)

/-- BR (R207). -/
def execBr (w : WB) (s : State) : Res :=
  let i := w.pred.toNat
  laneRun s {} w.m (fun ln => if i = 0 then [] else [.p ln.wid i]) fun s c =>
    let d := c.differing {} fun ln => [if c.p ln.wid i then 1 else 0]
    if d ≠ 0 then c.trap s (sdcTrap 6 d 0)
    else
      let ls := lanesOn c.t c.g 0
      c.branch s (ls.filter fun ln => c.p ln.wid i != w.n) (ls.filter fun ln => c.p ln.wid i == w.n)
        (c.branchTarget w) (c.nextPc w.m)

/-- BRG (R207). -/
def execBrg (w : WB) (s : State) : Res :=
  let i := w.pred.toNat % 8
  uniInstr (point := some 6) s {} w.m 0 (if i = 0 then [] else [.g i]) fun s c =>
    c.jumpTo s 0 (if c.gp i != w.n then c.branchTarget w else c.nextPc w.m)

/-! ### Calls and indirect jumps -/

/-- JMPI, and CALLI with the link (R209). -/
def jumpIndirect (w : W3) (s : State) (call : Bool) : Res :=
  let gd := guard3 w
  laneRun s gd w.m (fun ln => laneLocs ln w.a 2) fun s c =>
    let next := c.nextPc w.m
    let target := fun ln => if c.guard gd ln then c.l64 ln w.a else next
    let d := c.differing gd fun ln => [target ln]
    if d ≠ 0 then c.trap s (sdcTrap 6 d 0)
    else
      let ts := (lanesOn c.t c.g 0).map fun ln => (ln, target ln)
      match targetTrap ts with
      | some tr => c.trap s tr
      | none =>
        let t0 := match ts with | p :: _ => p.2 | [] => next
        match ts.filter fun p => decide (p.2 ≠ t0) with
        | m@(_ :: _) => c.trap s { cause := 0x0105, mask := maskOf (m.map (·.1.pos)), addr := t0 }
        | [] => (if call then c.link next else c).jumpTo s w.s.toNat t0

/-- JMPI (R209). -/
def execJmpi (w : W3) (s : State) : Res := jumpIndirect w s false
/-- CALLI (R209). -/
def execCalli (w : W3) (s : State) : Res := jumpIndirect w s true

/-- CALL (R210). -/
def execCall (w : WB) (s : State) : Res :=
  withGroup s fun t g =>
    let c := ctxFor s t g w.m
    (c.link (g.pc + 4)).jumpTo s 0 (c.branchTarget w)

/-- The value held by the most lanes; on a tie the one of the lowest lane (R210). -/
def majority (ts : List DWord) (d : DWord) : DWord :=
  ts.foldl (fun k x => if ts.count k < ts.count x then x else k) (ts.headD d)

/-- RET (R210). DEDUCED, log entry 31. -/
def execRet (w : W3) (s : State) : Res :=
  uniInstr s (guardY w) w.m w.s.toNat [] fun s c0 =>
    let locs := fun ln => laneLocs ln (BitVec.ofNat 6 c0.t.linkReg) 2
    let c := { c0 with clk := c0.issueClk {} locs }
    match c.operandTrap {} locs with
    | some tr => c.trapOperand s {} locs tr
    | none =>
      let s := { s with clk := c.clk }
      let d := c.differing {} fun ln => [c.linkAddr ln]
      if d ≠ 0 then c.trap s (sdcTrap 6 d 0)
      else
        let ts := (lanesOn c.t c.g 0).map fun ln => (ln, c.linkAddr ln)
        match targetTrap ts with
        | some tr => c.trap s tr
        | none =>
          let k := majority (ts.map (·.2)) 0
          let away := (ts.filter fun p => decide (p.2 ≠ k)).map fun p => (p.1.fid, p.2)
          let r := s.leaveFormable c.t c.g away
          ({ c with t := r.1, g := r.2 } : Ctx).jumpTo s w.s.toNat k

/-! ### Fibres -/

/-- The core on which the window of a fibre stands (R71, R124). -/
def Team.fibreCore (t : Team) (fid : Nat) : Nat :=
  if t.launch.paircore then t.core + fid / t.launch.wv % 2 else t.core

/-- A window as a new fibre finds it: every register, predicate and sticky bit clear (R123, R211). -/
def Team.freshWindow (t : Team) (wid : Nat) : Team :=
  { t with
    win := sclear t.win (wid * 64) (wid * 64 + 64)
    preds := sset 1 t.preds wid 1
    sticky := sset 0 t.sticky wid 0
    errors := t.errors.filter fun e =>
      match e with
      | .register _ _ w _ _ _ => decide (w ≠ wid)
      | .predicate _ _ w _ => decide (w ≠ wid)
      | _ => true }

/-- The lowest fibre id that no fibre holds. DEDUCED, log entry 27. -/
def Team.freeFid (t : Team) : Option Nat :=
  (List.range (t.launch.groups * t.launch.wv)).find? fun f => !t.live.contains f

/-- FORK in one lane (R211): the child's id, or 0xFFFFFFFF. DEDUCED, log entry 27. -/
def Ctx.forkLane (c : Ctx) (s : State) (d : BitVec 6) (ln : Lane) (target : DWord) (v0 : Nat → Word) : Ctx :=
  match c.t.freeFid with
  | none => c.bothSides ln d [0xFFFFFFFF]
  | some f =>
    let core := c.t.fibreCore f
    let fresh := c.t.sides.foldl (fun t sd =>
      let wid := t.wid f sd
      let t1 := t.freshWindow wid
      { t1 with win := sset 0 (sset 0 t1.win (wid * 64) (v0 sd)) (wid * 64 + 1) (BitVec.ofNat 32 ln.fid) }) c.t
    let t1 := { fresh with live := fresh.live ++ [f] }
    let t2 := t1.park (s.atticUsed core) { fid := f, core := core, slot := 0, pc := target, parked := s.clk, count := s.coreCount core }
    ({ c with t := t2 } : Ctx).bothSides ln d [BitVec.ofNat 32 f]

/-- FORK (R211). -/
def execFork (w : W3) (s : State) : Res :=
  let gd := guard3 w
  laneRun s gd w.m (fun ln => laneLocs ln w.a 2 ++ laneLocs ln w.b 1) fun s c =>
    let d := c.differing gd fun ln => [c.l64 ln w.a, (c.l32 ln w.b).setWidth 64]
    if d ≠ 0 then c.trap s (sdcTrap 6 d 0)
    else
      let ls := c.execVisible gd
      match targetTrap (ls.map fun ln => (ln, c.l64 ln w.a)) with
      | some tr => c.trap s tr
      | none =>
        let c1 := ls.foldl (fun c1 ln =>
          c1.forkLane s w.d ln (c.l64 ln w.a) fun sd => c.l32 { ln with side := sd, wid := c.t.wid ln.fid sd } w.b) c
        .next (c1.finish s w.s.toNat w.m.words)

/-- FEND (R212). -/
def execFend (w : W3) (s : State) : Res :=
  laneRun s (guard3 w) w.m (fun _ => []) fun s c =>
    let fids := (c.execVisible (guard3 w)).map (·.fid)
    .next (s.settleExit (c.t.endFibres fids)
      ((c.g.removeFibres fids).jump c.clk w.s.toNat (c.nextPc w.m)))

/-- Every active fibre of a group arrives at a rejoin (R140, R213). DEDUCED, log entry 29. -/
def Team.arriveAll (t : Team) (tag : BitVec 16) (base : Nat) (mask pc : DWord) : List Nat → Team × List Parked
  | [] => (t, [])
  | f :: fs =>
    let r := t.arrive f tag base mask
    let q := r.1.arriveAll tag base mask pc fs
    (q.1, { fid := f, core := t.core, slot := 0, pc := pc, st := r.2, tag := tag, base := base, mask := mask } :: q.2)

/-- RJOIN (R213). DEDUCED, log entry 29. -/
def execRjoin (w : W3) (s : State) : Res :=
  uniInstr (point := some 6) s (guardY w) w.m w.s.toNat (uniLocs w.d ++ uniLocs w.a ++ uniLocs w.b) fun s c =>
    let a := c.t.arriveAll ((c.u w.d).setWidth 16) (fieldOf (c.u w.a) 0 32) (c.u w.b) (c.nextPc w.m)
      (c.g.active.map (·.2))
    let r := s.parkFibres a.1 c.g a.2
    .next (s.settle r.1.judgeRejoins r.2)

/-! ### Segments -/

/-- The SEG code of a size, or none (R142, R215). -/
def segCode (wv : Nat) (a : DWord) : Option Nat :=
  let n := a.toNat
  if n = 0 then some 0
  else if n = 2 ∧ wv % 2 = 0 then some 1
  else if n = 4 ∧ wv % 4 = 0 then some 2
  else if n = 8 ∧ wv % 8 = 0 then some 3
  else if n = 16 ∧ wv % 16 = 0 then some 4
  else if n = 32 ∧ wv % 32 = 0 then some 5
  else none

/-- The segment size in visible lanes (R142). -/
def Group.segSize (g : Group) (wv : Nat) : Nat := if g.seg = 0 then wv else 2 ^ g.seg

/-- SEGSET (R215). -/
def execSegset (w : W3) (s : State) : Res :=
  uniInstr s (guardY w) w.m w.s.toNat (uniLocs w.a) fun s c =>
    match segCode c.t.launch.wv (c.u w.a) with
    | some k => .next (({ c with g := { c.g with seg := k } } : Ctx).finish s w.s.toNat w.m.words)
    | none => c.trap s { cause := 0x0104, mask := c.g.activeMask, detail := c.u w.a }

/-- SEGGET (R215). -/
def execSegget (w : W3) (s : State) : Res :=
  uniWrite s (guardY w) w.m w.s.toNat [] 1 w.d.toNat fun c => BitVec.ofNat 64 (c.g.segSize c.t.launch.wv)

/-! ### Barriers -/

/-- Writes a token register in lanes, on every side. -/
def Ctx.setTokens (c : Ctx) (d : BitVec 6) (ls : List Lane) (v : Word) : Ctx :=
  ls.foldl (fun c ln => c.t.sides.foldl (fun c sd => c.setV 0 (c.t.wid ln.fid sd) d.toNat v) c) c

/-- Judges the groups that wait on a barrier against its word (R217, R218, R219): one whose every lane passes goes
on, whatever the word becomes before its turn. -/
def Team.judgeWaiters (t : Team) (b : Nat) : Team :=
  { t with groups := t.groups.map fun g =>
      match g.barAt with
      | some (b', d) =>
        if b' = b ∧ g.wait = .barrier
            ∧ !(lanesOn t g 0).any (fun ln => barWaits b (t.bar b) (sget 0 t.win (ln.wid * 64 + d))) then { g with barPass := true }
        else g
      | none => g }

/-- BAR.INIT (R217): the groups that wait on the barrier are judged against the new word. -/
def execBarInit (w : WE) (s : State) : Res :=
  uniInstr s (guardYX w.m) w.m 0 (uniLocs w.a) fun s c =>
    let e := Nat.min (c.u w.a).toNat 1024
    .next (({ c with t := (c.t.setBar (w.sub.toNat % 16) (if e = 0 then 0 else barWord 0 0 e)).judgeWaiters (w.sub.toNat % 16) } : Ctx).finish s 0 w.m.words)

/-- The arrival half of BAR.ARV and BAR.SYNC (R218). The arrivals are releases at TEAM scope: open
store-buffer entries close. Fibres that have arrived at this BAR.SYNC already do not arrive again (R219). DEDUCED, log entry 26. -/
def Ctx.barArrivals (c : Ctx) (b : Nat) (d : BitVec 6) (drop : Bool) : Ctx :=
  let word := c.t.bar b
  if !barOn word then c
  else
    let ls := (lanesOn c.t c.g 0).filter fun ln => !c.g.synced.contains ln.fid && !barWaits b word (c.v ln.wid d.toNat)
    let t1 := if c.t.launch.contain && !ls.isEmpty then c.t.closeEntries else c.t
    let w1 := if drop then barDrop word ls.length else barArrive word ls.length
    let c1 : Ctx := { c with t := (t1.setBar b w1).judgeWaiters b }
    c1.setTokens d ls (if drop then 0 else barToken b (barPhase word))

/-- The wait half of BAR.WT and BAR.SYNC (R219): a group that waits holds no lane positions, as its run ends there (R131). DEDUCED, log entry 26. -/
def Ctx.barWait (c : Ctx) (s : State) (b : Nat) (d : BitVec 6) (m : Mods) : Res :=
  let ls := lanesOn c.t c.g 0
  if !c.g.barPass && ls.any fun ln => barWaits b (c.t.bar b) (c.v ln.wid d.toNat) then
    ({ c with g := { c.g with barAt := some (b, d.toNat), positions := none } } : Ctx).waitOrPark s .barrier
  else
    (c.setTokens d (ls.filter fun ln => isToken b (c.v ln.wid d.toNat)) 0).jumpTo (s.observeBy c.t c.g) 0 (c.nextPc m)

/-- A barrier instruction: its token registers are read in every active lane. DEDUCED, log entry 26. -/
def barInstr (w : WE) (s : State) (f : State → Ctx → Res) : Res :=
  uniInstr s (guardYX w.m) w.m 0 [] fun s c0 =>
    let locs := fun ln => laneLocs ln w.d 1
    let c := { c0 with clk := c0.issueClk {} locs }
    match c.operandTrap {} locs with
    | some tr => c.trapOperand s {} locs tr
    | none => f { s with clk := c.clk } c

/-- BAR.ARV (R218). -/
def execBarArv (w : WE) (s : State) : Res :=
  barInstr w s fun s c => .next ((c.barArrivals (w.sub.toNat % 16) w.d (bitAt w.sub 4)).finish s 0 w.m.words)

/-- BAR.WT (R219). -/
def execBarWt (w : WE) (s : State) : Res :=
  barInstr w s fun s c => c.barWait s (w.sub.toNat % 16) w.d w.m

/-- BAR.SYNC (R218, R219). DEDUCED, log entry 25. -/
def execBarSync (w : WE) (s : State) : Res :=
  barInstr w s fun s c =>
    let c1 := c.barArrivals (w.sub.toNat % 16) w.d false
    ({ c1 with g := { c1.g with synced := c1.g.active.map (·.2) } } : Ctx).barWait s (w.sub.toNat % 16) w.d w.m

end Sys2Proof.Machine
end

