-- ==== Sys2Proof/Machine/Shapes.lean ====
section
/-! DEFINITION. The shapes that the lane and uniform arithmetic instructions share (R227, R247). -/

namespace Sys2Proof.Machine

/-- The sign-extended imm9 (R187). -/
def imm32 (i : BitVec 9) : Word := i.signExtend 32

/-- The sign-extended imm9 of a uniform instruction (R226). -/
def imm64 (i : BitVec 9) : DWord := i.signExtend 64

/-- A result without sticky bits. -/
def plain (v : Word) : Word × BitVec 7 := (v, 0)

/-- A lane instruction of 32-bit operands: d ← f a b c with sticky bits, c absent reading `cz`. -/
def lane3 (s : State) (w : W3) (lat : Nat) (cz : Word) (f : Word → Word → Word → Word × BitVec 7) : Res :=
  laneInstr s (guard3 w) w.m w.s.toNat (w3Locs w 1 1 1) fun c =>
    c.mapSticky (guard3 w) lat w.d fun ln =>
      let r := f (c.l32 ln w.a) (c.b32 ln w) (c.c32 ln w.m cz)
      ([r.1], r.2)

/-- The same of an LI word: d ← f a imm. -/
def laneI (s : State) (w : WI) (lat : Nat) (f : Word → Word → Word × BitVec 7) : Res :=
  laneInstr s (guardX w.m) w.m w.s.toNat (fun ln => laneLocs ln w.a 1) fun c =>
    c.mapSticky (guardX w.m) lat w.d fun ln =>
      let r := f (c.l32 ln w.a) (imm32 w.imm)
      ([r.1], r.2)

/-- A lane compare of 32-bit operands: p[d] ← f a b. -/
def laneC (s : State) (w : WC) (lat : Nat) (f : Word → Word → Bool × BitVec 7) : Res :=
  let w3 : W3 := { d := w.d, a := w.a, b := w.b, f := 0, s := w.s, m := w.m }
  laneInstr s (guardX w.m) w.m w.s.toNat (w3Locs w3 1 1 0) fun c =>
    c.mapPred (guardX w.m) lat w.d.toNat fun ln => f (c.l32 ln w.a) (c.b32 ln w3)

/-- A lane instruction that may trap after every lane has been written (R231). -/
def laneTrapAfter (s : State) (w : W3) (lat : Nat) (f : Word → Word → Word × BitVec 7)
    (bad : Ctx → Option Trap) : Res :=
  laneRun s (guard3 w) w.m (w3Locs w 1 1 0) fun s c =>
    let c' := c.mapSticky (guard3 w) lat w.d fun ln =>
      let r := f (c.l32 ln w.a) (c.b32 ln w)
      ([r.1], r.2)
    match bad c with
    | none => .next (c'.finish s w.s.toNat w.m.words)
    | some tr => trapRes s c'.t c'.g tr

/-- A uniform three-operand instruction: s[d] ← f a b c (R247). -/
def uni3 (s : State) (w : W3) (f : DWord → DWord → DWord → DWord) : Res :=
  uniWrite s (guardY w) w.m w.s.toNat (y3Locs w) 1 w.d.toNat fun c => f (c.u w.a) (c.u w.b) (c.cU w.m)

/-- A uniform immediate instruction: s[d] ← f a imm. -/
def uniI (s : State) (w : WI) (f : DWord → DWord → DWord) : Res :=
  uniWrite s (guardYX w.m) w.m w.s.toNat (uniLocs w.a) 1 w.d.toNat fun c => f (c.u w.a) (imm64 w.imm)

/-- A uniform compare: g[d] ← f a b. -/
def uniC (s : State) (w : WC) (f : DWord → DWord → Bool) : Res :=
  uniInstr s (guardYX w.m) w.m w.s.toNat (uniLocs w.a ++ uniLocs w.b) fun s c =>
    .next ((c.setG 1 w.d.toNat (f (c.u w.a) (c.u w.b))).finish s w.s.toNat w.m.words)

/-- A condition 0 to 5 on exact integers (R188). -/
def intCond (cond : Nat) (a b : Int) : Bool :=
  match cond with
  | 0 => decide (a = b)
  | 1 => decide (a ≠ b)
  | 2 => decide (a < b)
  | 3 => decide (a ≤ b)
  | 4 => decide (b < a)
  | _ => decide (b ≤ a)

end Sys2Proof.Machine
end

