-- ==== Sys2Proof/Machine/Collect.lean ====
section
/-! DEFINITION. The lane collectives (R249 to R261). -/

namespace Sys2Proof.Machine

/-- A contributor: its lane, its position in its segment, its segment and its operands (R252, R253). -/
structure Peer where
  ln : Lane
  i : Nat
  seg : Nat
  a : DWord
  c : Word

/-- The contributors of one side: the executing lanes that the member mask names (R252, R254). -/
def Ctx.peers (c : Ctx) (gd : Guard) (w : W3) (side na : Nat) (m : DWord) : List Peer :=
  let z := c.g.segSize c.t.launch.wv
  ((lanesOn c.t c.g side).filter fun ln => bitAt m ln.pos && c.guard gd ln).map fun ln =>
    { ln := ln, i := ln.pos % z, seg := ln.pos / z
      a := if na = 2 then c.l64 ln w.a else (c.l32 ln w.a).setWidth 64
      c := c.c32 ln w.m 0 }

/-- A collective (R250 to R255): it reads its guard and its operands in every lane of the group in one step,
whatever the guard; MEMBER_EXITED for members whose fibres have left, and otherwise each
contributor receives what the contributors of its segment give it. `d` says whether a contributor is
written at all. -/
def collective (s : State) (w : W3) (na nc : Nat)
    (f : Ctx → Nat → List Peer → Peer → List Word × BitVec 7) : Res :=
  let gd := guardX w.m
  laneRun s {} w.m (fun ln => guardLocs gd ln ++ laneLocs ln w.a na ++ cLocs w.m ln nc) fun s c =>
    let wv := c.t.launch.wv
    let m := maskOf ((List.range wv).filter (bitAt (c.u w.b)))
    let gone := m &&& c.g.formed &&& ~~~c.g.activeMask
    if c.guardDiffers gd ≠ 0 then c.trap s (sdcTrap 6 (c.guardDiffers gd) 0)
    else if gone ≠ 0 then c.trap s { cause := 0x0106, mask := gone, detail := c.u w.b }
    else
      let out := c.t.sides.flatMap fun sd =>
        let ps := c.peers gd w sd na m
        ps.map fun p => (p.ln, f c (c.g.segSize wv) (ps.filter fun q => decide (q.seg = p.seg)) p)
      let c1 := out.foldl (fun c p => (c.result 0 p.1 w.d p.2.1).stick p.1.wid p.2.2) c
      .next (c1.finish s w.s.toNat w.m.words)

/-- The source position of SHFL, or none (R256). -/
def shflSource (fn z i n : Nat) : Option Nat :=
  match fn with
  | 0 => some (n % z)
  | 1 => if i < n then none else some (i - n)
  | 2 => if z ≤ i + n then none else some (i + n)
  | _ => if z ≤ i ^^^ n then none else some (i ^^^ n)

/-- SHFL (R256). -/
def execShfl (w : W3) (s : State) : Res :=
  collective s w 1 1 fun _ z ps p =>
    let src := match shflSource w.f.toNat z p.i p.c.toNat with
      | some j => (ps.find? fun (q : Peer) => decide (q.i = j)).getD p
      | none => p
    ([src.a.setWidth 32], 0)

/-- The lane mask of some contributors. -/
def peerMask (ps : List Peer) : DWord := maskOf (ps.map (·.ln.pos))

/-- The words of a 64-bit value. -/
def pairWords (v : DWord) : List Word := [v.setWidth 32, (v >>> 32).setWidth 32]

/-- VOTE (R257). -/
def execVote (w : W3) (s : State) : Res :=
  collective s w 1 0 fun _ _ ps p =>
    let t := ps.filter fun q => decide (q.a ≠ 0)
    let yes (b : Bool) : List Word := [if b then 1 else 0]
    (match w.f.toNat with
     | 0 => yes (decide (t.length = ps.length))
     | 1 => yes (!t.isEmpty)
     | 2 => pairWords (peerMask t)
     | 3 => [BitVec.ofNat 32 t.length]
     | _ => yes (ps.all fun q => decide (q.a = p.a)), 0)

/-- MATCH (R258). -/
def execMatch (w : W3) (s : State) : Res :=
  collective s w (if bitAt w.f 0 then 2 else 1) 0 fun _ _ ps p =>
    (pairWords (peerMask (ps.filter fun q => decide (q.a = p.a))), 0)

/-- The operation of REDX and SCANX (R259). -/
def redOp (fn : Nat) (a b : Word) : Word :=
  match fn with
  | 0 => a + b
  | 1 => if b.slt a then b else a
  | 2 => if b.ult a then b else a
  | 3 => if a.slt b then b else a
  | 4 => if a.ult b then b else a
  | 5 => a &&& b
  | 6 => a ||| b
  | _ => a ^^^ b

/-- Combines values with an operation. -/
def redFold (fn : Nat) : List Word → Word
  | [] => 0
  | x :: xs => xs.foldl (redOp fn) x

/-- REDX (R259). -/
def execRedx (w : W3) (s : State) : Res :=
  collective s w 1 0 fun _ _ ps _ => ([redFold w.f.toNat (ps.map fun q => q.a.setWidth 32)], 0)

/-- SCANX (R259). -/
def execScanx (w : W3) (s : State) : Res :=
  collective s w 1 0 fun _ _ ps p =>
    ([redFold w.f.toNat ((ps.filter fun q => decide (q.i ≤ p.i)).map fun q => q.a.setWidth 32)], 0)

/-- The combination of two nodes of FREDX (R260). -/
def fredxComb (ftz : Bool) (fn : Nat) (u v : Nat) : Nat × BitVec 7 :=
  let r : Rounding := { f := f32, mode := .rne, ftz := ftz }
  let x := f32.decode ftz u
  let y := f32.decode ftz v
  if fn = 0 then fAdd r x y else fMinMax r (decide (fn = 2)) x y

/-- One level of the tree: neighbouring nodes combine, an empty one gives way (R260). -/
def fredxLevel (ftz : Bool) (fn : Nat) : List (Option Nat) → List (Option Nat) × BitVec 7
  | u :: v :: rest =>
    let q := fredxLevel ftz fn rest
    match u, v with
    | some x, some y =>
      let z := fredxComb ftz fn x y
      (some z.1 :: q.1, z.2 ||| q.2)
    | some x, none => (some x :: q.1, q.2)
    | none, y => (y :: q.1, q.2)
  | l => (l, 0)

/-- The tree of FREDX, level by level (R260). -/
def fredxTree (ftz : Bool) (fn : Nat) (nodes : List (Option Nat)) (st : BitVec 7) : Nat → Option Nat × BitVec 7
  | 0 => (nodes.headD none, st)
  | fuel + 1 =>
    if nodes.length ≤ 1 then (nodes.headD none, st)
    else
      let q := fredxLevel ftz fn nodes
      fredxTree ftz fn q.1 (st ||| q.2) fuel

/-- A leaf of FREDX: under FTZ a subnormal counts as a zero of its sign (R260). -/
def fredxLeaf (ftz : Bool) (a : Nat) : Nat :=
  if ftz ∧ (f32.decode true a).isZero = true then a / 2 ^ 31 * 2 ^ 31 else a

/-- FREDX (R260): a NaN result is the canonical one. DEDUCED, log entry 50. -/
def execFredx (w : W3) (s : State) : Res :=
  collective s w 1 0 fun c z ps _ =>
    let ftz := c.t.launch.ftz
    let leaves := (List.range z).map fun i =>
      (ps.find? fun q => decide (q.i = i)).map fun q => fredxLeaf ftz (q.a.setWidth 32).toNat
    let r := fredxTree ftz w.f.toNat leaves 0 z
    let v := r.1.getD 0
    ([BitVec.ofNat 32 (if (f32.decode false v).isNan then f32.nanBits else v)], r.2)

/-- The chosen contributor of a segment (R261). -/
def chosen (high : Bool) (ps : List Peer) (p : Peer) : Peer := if high then ps.getLastD p else ps.headD p

/-- BCAST (R261). -/
def execBcast (w : W3) (s : State) : Res :=
  let wide := bitAt w.f 1
  collective s w (if wide then 2 else 1) 0 fun _ _ ps p =>
    let a := (chosen (bitAt w.f 0) ps p).a
    (if wide then pairWords a else [a.setWidth 32], 0)

/-- ELECT (R261). -/
def execElect (w : W3) (s : State) : Res :=
  collective s w 0 0 fun _ _ ps p =>
    ([if (chosen (bitAt w.f 0) ps p).ln.pos = p.ln.pos then 1 else 0], 0)

end Sys2Proof.Machine
end

