-- ==== Sys2Proof/Machine/Copies.lean ====
section
/-! DEFINITION. Copies: their issue (R272, R276 to R282, R287, R290), their landing (R183, R280 to R289,
R291, R301), their failure, cancellation and completion (R284, R286, R296 to R298), refills of Hamper
records (R102, R303), watermarks (R277, R294, R295) and pins (R292, R293). -/

namespace Sys2Proof.Machine

/-! ### Hamper records -/

/-- The index of a Hamper record of a core (R86, R302). -/
def Team.hrecKey (t : Team) (core rec : Nat) : Nat := (core - t.core) * 32 + rec

/-- A Hamper record. -/
def Team.hrec (t : Team) (key : Nat) : HRecord := sget {} t.hrecs key

/-- Writes a Hamper record. -/
def Team.setHrec (t : Team) (key : Nat) (r : HRecord) : Team := { t with hrecs := sset {} t.hrecs key r }

/-- HELD. -/
def HRecord.held (r : HRecord) : Bool := bitAt r.w3 31
/-- LV. -/
def HRecord.lv (r : HRecord) : Bool := bitAt r.w3 25
/-- CW. -/
def HRecord.cw (r : HRecord) : Bool := bitAt r.w3 30
/-- LK. -/
def HRecord.lk (r : HRecord) : Nat := fieldOf r.w3 21 4
/-- RF. -/
def HRecord.rf (r : HRecord) : Bool := bitAt r.w3 26
/-- RFAIL. -/
def HRecord.rfail (r : HRecord) : Bool := bitAt r.w3 27
/-- RCOUNT. -/
def HRecord.rcount (r : HRecord) : Nat := fieldOf r.w3 0 21
/-- BASE. -/
def HRecord.hbase (r : HRecord) : Nat := fieldOf r.w0 0 20
/-- LEN. -/
def HRecord.hlen (r : HRecord) : Nat := fieldOf r.w0 20 20

/-- The place of a byte of a record's range among the team's Hamper bytes. -/
def Team.hbyteAt (t : Team) (key off : Nat) : Nat := 2 ^ 20 * (key / 32) + (t.hrec key).hbase + off

/-- Sets CW and clears LV of a record (R303). -/
def HRecord.written (r : HRecord) : HRecord := { r with w3 := setField (setField r.w3 30 1 1) 25 1 0 }

/-- A Hamper write of n bytes at a place, other than a landing of the copy that record `keep` names: every
held record whose range it meets is marked written (R303). -/
def Team.markHamper (t : Team) (place n : Nat) (keep : Option Nat) : Team :=
  let half := place / 2 ^ 20
  (List.range 32).foldl (fun t i =>
    let key := half * 32 + i
    let r := t.hrec key
    if r.held && keep != some key && overlaps (t.hbyteAt key 0) r.hlen place n then t.setHrec key r.written else t) t

/-! ### The register of a copy -/

/-- A watermark register. -/
def Team.copy (t : Team) (k : Nat) : Copy := sget {} t.copies k

/-- Writes a watermark register. -/
def Team.setCopy (t : Team) (k : Nat) (c : Copy) : Team := { t with copies := sset {} t.copies k c }

/-- The word of a copy state (R277). -/
def CopyState.code : CopyState → Nat
  | .idle => 0 | .landing => 1 | .frozen => 2 | .failed => 3

/-- The word of a copy kind (R277). -/
def CopyKind.code : CopyKind → Nat
  | .bcpy => 0 | .gath => 1 | .layx => 2 | .lcpyGS | .lcpySG => 3

/-- A word of a watermark register (R277). -/
def Copy.word (c : Copy) (sel : Nat) : DWord :=
  match sel with
  | 0 => BitVec.ofNat 64 (2 ^ 52 * c.kind.code + 2 ^ 48 * c.st.code + c.count % 2 ^ 48)
  | 1 => BitVec.ofNat 64 (c.total % 2 ^ 48)
  | 2 => c.faddr
  | _ => BitVec.ofNat 64 (Nat.min c.status 0xFFFFFFFF)

/-- The register is IDLE and its range-lock entry released; unfilled reserved entries are freed (R112,
R276). -/
def Copy.idle (c : Copy) : Copy :=
  { c with st := .idle, src := none, dst := none, idx := none, faddr := 0, faultVa := none, reserved := 0
           cover := [], bad := [], pages := [], index := none, part := 0 }

/-- The barrier at which a copy arrives when its register returns to IDLE (R286): none for an LCPY, without BAR, and
after its team has exited. -/
def Team.arrivesAt (t : Team) (c : Copy) : Option Nat :=
  match c.kind with
  | .lcpyGS | .lcpySG => none
  | _ => if bitAt (c.d 2) 16 && !t.exiting then some (fieldOf (c.d 2) 17 4) else none

/-- The arrival that a copy with BAR makes when its register returns to IDLE, as BAR.ARV makes one (R218, R286): the
waiting groups are judged against the new word, and as a release it closes the open store-buffer entries. -/
def Team.copyArrival (t : Team) (c : Copy) : Team :=
  match t.arrivesAt c with
  | none => t
  | some b =>
    let t1 := if t.launch.contain && barOn (t.bar b) then t.closeEntries else t
    (t1.setBar b (barArrive (t1.bar b) 1)).judgeWaiters b

/-- A copy returns its register to IDLE (R276, R286). -/
def Team.copyDone (t : Team) (k : Nat) (c : Copy) : Team := (t.setCopy k c.idle).copyArrival c

/-- A Hamper record loses the copy that lands in it (R303). -/
def Team.dropLanding (t : Team) (k : Nat) (c : Copy) : Team :=
  match c.dst with
  | some r =>
    if r.space = .hamper then
      let h := t.hrec r.hrec
      if h.lv && decide (h.lk = k) then t.setHrec r.hrec h.written else t
    else t
  | none => t

/-- A copy fails (R284): its entry stays registered. -/
def Team.copyFail (t : Team) (k : Nat) (c : Copy) (addr : DWord) : Team :=
  (t.dropLanding k c).setCopy k { c with st := .failed, faddr := addr, faultVa := none, reserved := 0, pages := [] }

/-- A copy is cancelled at its unit boundary (R296). -/
def Team.copyCancel (t : Team) (k : Nat) (c : Copy) : Team :=
  (if c.running then t.dropLanding k c else t).copyDone k c

/-! ### Issue -/

/-- The copy range of integer bounds; a Hamper range is that of a record which begins at a place. -/
def rangeOf (sp : Space) (h base : Nat) (r : Int × Int) : Range :=
  { space := sp, first := r.1.toNat, last := r.2.toNat, hrec := h, base := base }

/-- The space of a space code. -/
def spaceOf (n : Nat) : Space := if n = 0 then .global else if n = 1 then .scratch else .hamper

/-- The PAGE_FAULT that a range meets at issue (R282, step 5). DEDUCED, log entry 20. -/
def boundsTrap (t : Team) (mask : DWord) (sp : Space) (h : Nat) (r : Int × Int) : Option Trap :=
  let a : DWord := BitVec.ofInt 64 r.1
  match sp with
  | .global =>
    if r.1 < 0 ∨ 2 ^ 56 ≤ r.1 then some (pageTrap mask a 4 none)
    else if 2 ^ 56 ≤ r.2 then some (pageTrap mask (BitVec.ofNat 64 (2 ^ 56)) 4 none) else none
  | .scratch =>
    if r.1 < 0 ∨ ((1024 * t.launch.scratch : Nat) : Int) ≤ r.2 then some (pageTrap mask a 5 none) else none
  | .hamper =>
    let rec_ := t.hrec h
    if rec_.held = false ∨ r.1 < 0 ∨ (rec_.hlen : Int) ≤ r.2 then some (pageTrap mask a 5 none) else none

/-- A copy as its issue describes it: its ranges in the order of their checks, with each one's place. -/
structure Issue where
  copy : Copy
  src : Option (Space × (Int × Int))
  dst : Space × Nat × (Int × Int)
  idx : Option (Space × (Int × Int))
  bytes : Nat                 -- destination bytes

/-- The bounds check of an issue, source first. -/
def Issue.trap? (i : Issue) (t : Team) (mask : DWord) : Option Trap :=
  let src := match i.src with
    | some (sp, r) => boundsTrap t mask sp 0 r
    | none => none
  match src with
  | some tr => some tr
  | none =>
    match (if i.bytes = 0 ∧ i.dst.1 ≠ .hamper then none
        else boundsTrap t mask i.dst.1 i.dst.2.1 (if i.bytes = 0 then (0, -1) else i.dst.2.2)) with
    | some tr => some tr
    | none =>
      match i.idx with
      | some (sp, r) => boundsTrap t mask sp 0 r
      | none => none

/-- Registers and starts a copy (R276, R282, R303). -/
def Team.startCopy (t : Team) (k : Nat) (i : Issue) (reserved : Nat) (buffered : Bool) : Team :=
  let c : Copy := { i.copy with
    src := i.src.map fun r => rangeOf r.1 0 0 r.2
    dst := some (rangeOf i.dst.1 i.dst.2.1 (if i.dst.1 = .hamper then t.hbyteAt i.dst.2.1 0 else 0) i.dst.2.2)
    idx := i.idx.map fun r => rangeOf r.1 0 0 r.2
    reserved := reserved, buffered := buffered, seq := t.copySeq, st := .landing }
  let t1 := { t with copySeq := t.copySeq + 1 }
  let t2 := if i.dst.1 = .hamper then
      let r := t1.hrec i.dst.2.1
      let w := setField (setField (setField r.w3 25 2 1) 27 1 0) 30 1 0
      t1.setHrec i.dst.2.1 { r with w3 := setField (setField w 21 4 k) 0 21 0, desc := c.desc,
                                           gath := c.kind == .gath, faultVa := none,
                                           cover := [], rbad := [], index := none, part := 0 }
    else t1
  if c.total = 0 then t2.copyDone k c else t2.setCopy k c

/-- COPY_FAILED of a failed register (R282, R295). -/
def copyFailedTrap (mask : DWord) (k : Nat) (c : Copy) : Trap :=
  { cause := 0x010A, mask := mask, addr := c.faddr, detail := entryDetail k 3 }

/-- MASK_PARTIAL of a group (R128); of a per-lane copy with the lowest lane's address (R266). DEDUCED, log entry 20. -/
def partialTrap (g : Group) (addr : DWord := 0) : Trap := { cause := 0x0103, mask := g.activeMask, addr := addr }

/-- The entries that a copy into global memory reserves (R112). DEDUCED, log entry 41. -/
def reservation (bytes : Nat) : Nat := (bytes + 31) / 32 + 1

/-- Step 6 and 7 of R282: the reservation of a CONTAIN team, and the start. -/
def Ctx.reserveCopy (c : Ctx) (s : State) (k : Nat) (i : Issue) (f : State → Ctx → Res) : Res :=
  if c.t.launch.contain && decide (i.dst.1 = .global) && decide (0 < i.bytes) then
    let need := reservation i.bytes
    if c.t.sbUsed + need ≤ 2048 && !c.t.draining then f s { c with t := c.t.startCopy k i need true }
    else
      c.withBuffer (s.drain c.t) fun s1 c1 =>
        let t1 := { c1.t with restartable := false }
        if 2048 < need then f s1 { c1 with t := t1.startCopy k i 0 false }
        else if t1.sbUsed + need ≤ 2048 then f s1 { c1 with t := t1.startCopy k i need true }
        else ({ c1 with t := t1 } : Ctx).wait s1 .drain
  else f s { c with t := c.t.startCopy k i 0 false }

/-- Steps 4 to 7 of R282. -/
def Ctx.issueCopy (c : Ctx) (s : State) (k : Nat) (i : Issue) (pre : Option Trap) (f : State → Ctx → Res) : Res :=
  let old := c.t.copy k
  match old.st with
  | .failed => c.trap s (copyFailedTrap c.g.activeMask k old)
  | .landing | .frozen => c.wait s .watermark
  | .idle =>
    match pre with
    | some tr => c.trap s tr
    | none =>
      match i.trap? c.t c.g.activeMask with
      | some tr => c.trap s tr
      | none => c.reserveCopy s k i f

/-- The descriptor of a copy (R278). -/
def Ctx.copyDesc (c : Ctx) (a : BitVec 6) : List DWord := (List.range 8).map fun i => c.s (a.toNat + i)

/-- Whether the group repeats the copy whose issue it waits in (R282, steps 4 and 6): the checks before step 4 are
behind it. -/
def Group.inIssue (g : Group) : Bool := decide (g.wait = .watermark) || decide (g.wait = .drain)

/-- BCPY, GATH and LAYX up to their issue (R275, R282). -/
def copyInstr (w : WE) (s : State) (bad : Ctx → List DWord → Bool) (mk : Ctx → List DWord → Issue) : Res :=
  uniInstr (point := none) s (guardYX w.m) w.m 0 ((List.range 8).map fun i => .s (w.a.toNat + i)) fun s c =>
    let d := c.copyDesc w.a
    if !c.g.inIssue && bad c d then c.illegal s 2
    else if !c.g.inIssue && c.uniDiffers then c.sdcUni s 3
    else if c.g.underfull c.t then c.trap s (partialTrap c.g)
    else
      c.issueCopy s (w.sub.toNat % 16) (mk c d) none fun s1 c1 => .next (c1.finish s1 0 w.m.words)

/-- The fields that every copy starts with. -/
def Ctx.newCopy (c : Ctx) (kind : CopyKind) (d : List DWord) (total : Nat) : Copy :=
  { kind := kind, desc := d, total := total, core := c.g.core, fibres := c.g.active.map (·.2) }

/-- BCPY (R278 to R282). -/
def execBcpy (w : WE) (s : State) : Res :=
  copyInstr w s (fun _ => bcpyBad) fun c d =>
    let total := bcpyTotal d
    let w2 := d.getD 2 0
    let dsp := spaceOf (fieldOf w2 6 2)
    { copy := { c.newCopy .bcpy d total with strided := !bcpyDense d }
      src := if total = 0 then none else some (spaceOf (fieldOf w2 4 2), bcpySrcRange d)
      dst := (dsp, if dsp = .hamper then c.t.hrecKey c.g.core (fieldOf w2 8 5) else 0, bcpyDstRange d)
      idx := none, bytes := total }

/-- GATH (R287, R288). -/
def execGath (w : WE) (s : State) : Res :=
  copyInstr w s (fun _ => gathBad) fun c d =>
    let n := gathCount d
    let w2 := d.getD 2 0
    let dsp := spaceOf (fieldOf w2 6 2)
    { copy := c.newCopy .gath d n
      src := if n = 0 ∨ gathLen d = 0 then none else some (spaceOf (fieldOf w2 4 2), gathSrcRange d)
      dst := (dsp, if dsp = .hamper then c.t.hrecKey c.g.core (fieldOf w2 8 5) else 0, gathDstRange d)
      idx := if n = 0 then none else some (spaceOf (fieldOf w2 21 1), gathIdxRange d)
      bytes := n * gathRow d }

/-- Whether every byte of LAYX's destination range lies in a pin slot of the team (R290). -/
def pinsCover (t : Team) (r : Int × Int) (fuel : Nat) : Bool :=
  let slots := t.pins.filterMap fun p => p.2.map fun x => ((x.addr.toNat : Int), ((x.addr.toNat + x.len : Nat) : Int))
  let rec go (a : Int) : Nat → Bool
    | 0 => decide (r.2 < a)
    | n + 1 =>
      if r.2 < a then true
      else
        match slots.find? fun p => decide (p.1 ≤ a) && decide (a < p.2) with
        | some p => go p.2 n
        | none => false
  go r.1 fuel

/-- LAYX (R290, R291). -/
def execLayx (w : WE) (s : State) : Res :=
  copyInstr w s (fun c d => layxBad d || !pinsCover c.t (layxDstRange d) 9) fun c d =>
    let l := layxOf d
    { copy := { c.newCopy .layx d l.total with strided := decide (l.pitch ≠ l.row) }
      src := some (.global, layxSrcRange d), dst := (.global, 0, layxDstRange d), idx := none, bytes := l.total }

/-- The bounding range of some addresses of n bytes. -/
def boundsOf (as : List Nat) (n : Nat) : Int × Int :=
  ((as.foldl Nat.min (as.headD 0) : Nat), ((as.foldl Nat.max 0 + n : Nat) : Int) - 1)

/-- LCPY (R128, R266, R272): a false group guard makes no group partial, and no lane executes. DEDUCED, log entry 20. -/
def execLcpy (w : W3) (s : State) : Res :=
  let gd := guard3 w
  let size := match w.m.m with
    | some x => if x.w.toNat = 5 then 8 else if x.w.toNat = 6 then 16 else 4
    | none => 4
  let disp : DWord := match w.m.m with
    | some x => x.disp.signExtend 64
    | none => 0
  laneRun s gd w.m (fun ln => w3Locs w 1 2 1 ln) fun s c =>
    let addr := fun ln => c.b64 ln w + (c.l32 ln w.a).signExtend 64 + disp
    let off := fun ln => ((c.c32 ln w.m 0).setWidth 64 : DWord)
    let ls := c.execVisible gd
    let accs := ls.map fun ln => ({ ln := ln, addr := addr ln } : Acc)
    let d := c.differing gd fun ln => [addr ln, off ln]
    if d ≠ 0 then c.trap s (sdcTrap 3 d (accAddr (accs.filter fun a => bitAt d a.ln.pos)))
    else if gd.isG && !c.groupGuard gd then .next (c.finish s w.s.toNat w.m.words)
    else if decide (ls.length < c.t.launch.wv) then c.trap s (partialTrap c.g (accAddr accs))
    else
      let sg := bitAt w.d 4
      let lanes := ls.map fun ln => ((off ln).toNat, (addr ln).toNat)
      let glob := (Space.global, boundsOf (lanes.map (·.2)) size)
      let scr := (Space.scratch, boundsOf (lanes.map (·.1)) size)
      let total := lanes.length * size
      let src := if sg then scr else glob
      let dst := if sg then glob else scr
      let issue : Issue :=
        { copy := { c.newCopy (if sg then .lcpySG else .lcpyGS) [] total with strided := true, width := size, lanes := lanes }
          src := some src, dst := (dst.1, 0, dst.2), idx := none, bytes := total }
      let pre : Option Trap :=
        match accs.filter fun a => decide (a.addr.toNat % size ≠ 0 ∨ (off a.ln).toNat % size ≠ 0) with
        | bad@(_ :: _) => some { cause := 0x0108, mask := accMask bad, addr := accAddr bad }
        | [] =>
          match highTrap accs with
          | some tr => some tr
          | none => scratchTrap c.t (ls.map fun ln => { ln := ln, addr := off ln }) size
      c.issueCopy s (w.d.toNat % 16) issue pre fun s1 c1 => .next (c1.finish s1 w.s.toNat w.m.words)

/-! ### Translation at landing -/

/-- The outcome of translating ranges of a copy. -/
inductive Mapped where
  | ok (ps : List Piece) (pages : List (Nat × DWord × Nat)) (s : State)
  | fault (x : Xlat) (va : DWord)

/-- The translation of one address by the engine of a copy: a page in use serves until it is left (R164), and a row or
an LCPY of which part has landed goes on through its pages (R284, R289). -/
def State.engineXlat (s : State) (t : Team) (c : Copy) (va : DWord) (acc : Access) : Xlat :=
  match c.pages.find? fun p => decide (p.1 = va.toNat / 2 ^ p.2.2) with
  | some p =>
    if c.part ≠ 0 then s.underWay (s.version t) va p.2.1 p.2.2
    else s.judgeLeaf (s.coreSec c.core) t.part (s.version t) va acc false p.2.1 p.2.2
  | none => s.xlate (s.coreSec c.core) c.core t.part (s.version t) va acc false

/-- The page that a translation uses. -/
def State.pageOf (s : State) (t : Team) (c : Copy) (va : DWord) : List (Nat × DWord × Nat) :=
  match c.pages.find? fun p => decide (p.1 = va.toNat / 2 ^ p.2.2) with
  | some p => [p]
  | none =>
    match s.tlbHit c.core t.part (s.version t) va with
    | some e => [(e.vpn, e.leaf, e.bits)]
    | none => []

/-- Translates the parts of a copy's ranges. -/
def State.engineMap (s : State) (t : Team) (c : Copy) (acc : Access) (ps : List Piece)
    (pages : List (Nat × DWord × Nat)) : List (Nat × Nat) → Mapped
  | [] => .ok ps pages s
  | (va, n) :: rest =>
    let a : DWord := BitVec.ofNat 64 va
    match s.engineXlat t c a acc with
    | .ok pa leaf lost =>
      let s1 := (s.tlbFill c.core t.part (s.version t) a).noteKeyEmpty pa leaf t.part c.core
      s1.engineMap t c acc (ps ++ [{ pa := pa, n := n, lost := lost, key := keyOf leaf }]) (pages ++ s1.pageOf t c a) rest
    | x => .fault x a

/-- The parts of ranges between 4 KiB borders. -/
def partsOf (rs : List (Nat × Nat)) : List (Nat × Nat) := rs.flatMap fun r => blocksOf r.1 r.2 (r.2 / 2 ^ 12 + 2)

/-! ### Reading and writing at landing -/

/-- Bytes with a mark on those from poisoned sectors. -/
abbrev Marked := List (Byte × Bool)

/-- Reads the pieces of global ranges as the team's loads would at memory (R113, R183, R285). -/
def State.readPieces (s : State) (t : Team) (core : Nat) : List Piece → Marked × State
  | [] => ([], s)
  | p :: rest =>
    let s1 := s.rekey p.key false p.pa p.n
    let here : Marked := (List.range p.n).map fun i =>
      let a := p.pa + i
      if p.lost then (0, true)
      else (t.sbByte a (s1.coreHomeByte core a), t.sbPoison (a / 32) (s1.coreHomePoison core (a / 32)))
    let q := s1.readPieces t core rest
    (here ++ q.1, q.2)

/-- Reads scratchpad ranges: an uncorrectable word is carried as poisoned (R121). -/
def Team.readScratch (t : Team) (rs : List (Nat × Nat)) : Marked :=
  rs.flatMap fun r => (List.range r.2).map fun i =>
    let a := r.1 + i
    (sget 0 t.scratch a, sget false t.scratchPoison (a / 32) || t.errors.any fun e => e.inScratch a 1)

/-- The uncorrectable scratchpad words that ranges read: they are logged once and gone (R121). DEDUCED, log entry 22. DEDUCED, log entry 68. -/
def State.scratchReadErrors (s : State) (t : Team) (core : Nat) (rs : List (Nat × Nat)) : State × Team :=
  let hit := t.errors.filter fun e => rs.any fun r => e.inScratch r.1 r.2
  (hit.foldl (fun s _ => s.addLog
      { time := 0, seq := 0, cause := 0x0302, cls := 2, die := dieOf core, unit := core, part := t.part
        launch := s.launchIndex t, team := t.index
        detail := BitVec.ofNat 64 (2 ^ 61 * (t.relaunches % 4) + 2 ^ 48 + 0xFFFF * 2 ^ 32 + 0xFFFFFFFF) }) s,
   { t with errors := t.errors.filter fun e => !hit.contains e })

/-- A destination sector's part of a landing: the sector, its bytes with their places, and whether some
byte is marked. -/
def sectorParts (a : Nat) (bs : Marked) : List (Nat × List (Nat × Byte) × Bool) :=
  (sectorsOf a bs.length).map fun n =>
    let here := ((List.range bs.length).filter fun i => decide ((a + i) / 32 = n)).map fun i => (a + i, bs.getD i (0, false))
    (n, here.map fun x => (x.1, x.2.1), here.any fun x => x.2.2)

/-- What a landing does to a destination sector's poison: set, cleared once the copy has written it in full
from clean sources, or left (R285). -/
def Copy.coverSector (c : Copy) (n : Nat) (bytes : List (Nat × Byte)) (marked : Bool) : Copy × Option Bool :=
  let m := bytes.foldl (fun m b => m ||| 2 ^ (b.1 % 32)) (sget 0 c.cover n)
  let bad := marked || c.bad.contains n
  let c1 : Copy := { c with bad := if bad && !c.bad.contains n then c.bad ++ [n] else c.bad }
  if m = 2 ^ 32 - 1 then
    ({ c1 with cover := sset 0 c1.cover n 0, bad := c1.bad.filter fun x => decide (x ≠ n) }, some bad)
  else ({ c1 with cover := sset 0 c1.cover n m }, if marked then some true else none)

/-- Lands bytes in a range of the scratchpad. -/
def Team.landScratch (t : Team) (c : Copy) (a : Nat) (bs : Marked) : Team × Copy :=
  (sectorParts a bs).foldl (fun x p =>
    let q := x.2.coverSector p.1 p.2.1 p.2.2
    let t1 := (runsOf p.2.1).foldl (fun t r => t.putScratch r.1 r.2) x.1
    (match q.2 with
     | some b => { t1 with scratchPoison := sset false t1.scratchPoison p.1 b }
     | none => t1, q.1)) (t, c)

/-- Lands bytes in a Hamper range at a place, tagged with a key id (R56); `keep` is the record that the landing leaves
as it is. -/
def Team.landHamper (t : Team) (c : Copy) (place : Nat) (bs : Marked) (keep : Option Nat) (key : Nat) : Team × Copy :=
  (sectorParts place bs).foldl (fun x p =>
    let q := x.2.coverSector p.1 p.2.1 p.2.2
    let t1 := { x.1 with
      hbytes := p.2.1.foldl (fun m b => sset 0 m b.1 b.2) x.1.hbytes
      hkeys := sset 0 x.1.hkeys p.1 key
      errors := x.1.errors.filter fun e =>
        match e with
        | .hamper core _ off _ =>
          !((List.range 4).all fun i => p.2.1.any fun b => decide (b.1 = 2 ^ 20 * (core - t.core) + off / 4 * 4 + i))
        | _ => true }
    (match q.2 with
     | some b => { t1 with hpoison := sset false t1.hpoison p.1 b }
     | none => t1, q.1)) (t.markHamper place bs.length keep, c)

/-- The engine of a copy as the posted stores name it. -/
def Copy.engineFid (c : Copy) : Nat := 2 ^ 32 + c.seq

/-- Lands bytes of one piece of a global range: into the store buffer, or toward the home L2, where they stand posted,
in any order for other teams, and the lines leave the L1 of the issuing core (R112, R182, R184). A sector that the copy
has written in full from clean sources is clean once all its pieces are performed (R285). DEDUCED, log entry 6. -/
def State.landPiece (s : State) (t : Team) (c : Copy) (key pa : Nat) (bs : Marked) : State × Team × Copy :=
  if c.buffered then
    let r := (sectorParts pa bs).foldl (fun (x : Team × Copy) p =>
      let q := x.2.coverSector p.1 p.2.1 p.2.2
      let fixed := decide ((layBytes [] p.2.1).length = 32)
      ({ x.1 with sb := sbMerge none p.1 key p.2.1 q.2 [] x.1.sb
                  errors := x.1.errors.filter fun e => !(fixed && e.inEntry x.1.sb [(none, p.1)]) }, q.1)) (t, c)
    (s, r.1, { r.2 with reserved := r.2.reserved - (r.1.sb.length - t.sb.length) })
  else
    let s0 := (s.rekey key true pa bs.length).l1DropRange c.core t.launch.paircore pa bs.length
    let r := (sectorParts pa bs).foldl (fun (x : State × Copy) p =>
      let q := x.2.coverSector p.1 p.2.1 p.2.2
      let whole := fun (o : Posted) => decide (q.2 = some false) && o.landing && decide (o.team = t.uid)
        && decide (o.fid = c.engineFid) && (sectorsOf o.pa o.data.length).contains p.1
      ({ x.1 with posted := (x.1.posted.map fun o => if whole o then { o with clears := o.clears ++ [p.1] } else o)
                              ++ (runsOf p.2.1).map fun b =>
          ({ core := c.core, pair := t.launch.paircore, team := t.uid, fid := c.engineFid, pa := b.1, data := b.2
             key := key, landing := true, clears := if q.2 = some false then [p.1] else []
             poisons := if q.2 = some true then [p.1] else [] } : Posted) }, q.1)) (s0, c)
    (r.1, t, r.2)

/-- Lands bytes in the pieces of global ranges. -/
def State.landPieces (s : State) (t : Team) (c : Copy) (bs : Marked) : List Piece → State × Team × Copy
  | [] => (s, t, c)
  | p :: rest =>
    let r := if p.lost then (s, t, c) else s.landPiece t c p.key p.pa (bs.take p.n)
    r.1.landPieces r.2.1 r.2.2 (bs.drop p.n) rest

/-! ### One landing -/

/-- One landing of a copy: what it reads, what it writes and how the bytes arise; and what of its row or its lanes is
still to come, whose translation and chain are judged with it so that a row lands whole or not at all (R284, R289). -/
structure Job where
  reads : List (Nat × Nat)
  writes : List (Nat × Nat)
  restR : List (Nat × Nat) := []
  restW : List (Nat × Nat) := []
  make : Marked → Marked
  count : Nat
  part : Nat := 0
  status : Nat := 0

/-- The unit of a copy that lands by position (R280). DEDUCED, log entry 41. -/
def Copy.unitJob (c : Copy) : Job :=
  let spots := c.unit
  let srcs := spots.flatMap (·.srcs)
  let lo := srcs.foldl Nat.min (srcs.headD 0)
  let hi := srcs.foldl Nat.max 0
  { reads := if srcs.isEmpty then [] else [(lo, hi + 1 - lo)]
    writes := [((spots.head?.map (·.dst)).getD 0, spots.length)]
    make := fun bs => spots.map fun p =>
      let from_ := p.srcs.map fun a => bs.getD (a - lo) (0, false)
      (p.value (from_.map (·.1)), from_.any (·.2))
    count := c.count + spots.length }

/-- The landing of an LCPY's next lane; COUNT moves with the last one (R272). DEDUCED, log entry 41. -/
def Copy.laneJob (c : Copy) (gs : Bool) : Job :=
  let from_ := (c.lanes.drop c.part).map fun p => (if gs then p.2 else p.1, c.width)
  let to_ := (c.lanes.drop c.part).map fun p => (if gs then p.1 else p.2, c.width)
  let last := decide (c.lanes.length ≤ c.part + 1)
  { reads := from_.take 1, writes := to_.take 1, restR := from_.drop 1, restW := to_.drop 1
    make := id, count := if last then c.total else 0, part := if last then 0 else c.part + 1 }

/-- The bytes of a range beyond its first n. -/
def restOf (a len n : Nat) : List (Nat × Nat) := if n < len then [(a + n, len - n)] else []

/-- The landing of the next piece of a gather's row, up to a line boundary of the destination, for the index word
read (R22, R288). DEDUCED, log entry 41. -/
def Copy.rowJob (c : Copy) (x : Nat) (poisoned : Bool) : Job :=
  let left := gathRow c.desc - c.part
  let dst := (c.d 1).toNat + c.count * gathRow c.desc + c.part
  let n := Nat.min left (128 - dst % 128)
  let last := decide (left ≤ n)
  let fill := poisoned || decide (x = 0xFFFFFFFF) || decide (gathLen c.desc ≤ x)
  let src := (c.d 0).toNat + x * gathPitch c.desc + c.part
  { reads := if fill then [] else [(src, n)], restR := if fill then [] else restOf src left n
    writes := [(dst, n)], restW := restOf dst left n
    make := fun bs => if fill then
        (List.range n).map fun j => ((c.d 5).extractLsb' (8 * ((c.part + j) % 8)) 8, poisoned)
      else bs
    count := if last then c.count + 1 else c.count, part := if last then 0 else c.part + n
    status := if fill && last then 1 else 0 }

/-- What the earlier copies of the team make of a read or a write of a copy (R183, R281). -/
inductive Chain where
  | ok | wait | fail (addr : DWord)

/-- The copies of a team that were issued earlier and are registered. -/
def Team.earlier (t : Team) (c : Copy) : List Copy :=
  (t.copies.map (·.2)).filter fun e => e.registered && decide (e.seq < c.seq)

/-- A read against the earlier copies' destinations (R281). -/
def chainRead (es : List Copy) (sp : Space) (a n : Nat) : Chain :=
  match es.find? fun e => decide (e.loadMeets sp 0 a n = .failed) with
  | some e =>
    match (numsFrom a (a + n)).find? fun b => decide (e.loadMeets sp 0 b 1 = .failed) with
    | some b => .fail (BitVec.ofNat 64 b)
    | none => .ok
  | none => if es.any fun e => decide (e.loadMeets sp 0 a n = .stall) then .wait else .ok

/-- Whether the watermark of a copy has passed every byte of a range that it lands (R183). -/
def Copy.passedAll (e : Copy) (sp : Space) (h a n : Nat) : Bool :=
  match e.dst with
  | none => true
  | some r =>
    !r.meets sp h a n ||
      (numsFrom (Nat.max (h + a - r.base) r.first) (Nat.min (h + a + n - r.base) (r.last + 1))).all fun b =>
        if e.strided then (match e.lastPos b with | some p => decide (p < e.count) | none => true)
        else e.passed (b - r.first)

/-- A write against the earlier copies (R183, R281). DEDUCED, log entry 41. -/
def chainWrite (es : List Copy) (sp : Space) (h a n : Nat) : Chain :=
  if es.any fun e =>
    (e.running && (meets? e.src sp h a n || meets? e.idx sp h a n)) || !e.passedAll sp h a n
  then .wait else .ok

/-- The worst of the answers of some ranges. -/
def chainAll (f : Nat × Nat → Chain) : List (Nat × Nat) → Chain
  | [] => .ok
  | r :: rs =>
    match f r with
    | .ok => chainAll f rs
    | x => x

/-- What a landing comes to. -/
inductive Landing where
  | wait
  | fault (s : State) (t : Team) (c : Copy) (x : Xlat) (va : DWord) (write : Bool)
  | chained (addr : DWord)
  | done (s : State) (t : Team) (c : Copy)

/-- The bytes of a copy's reads, from global memory under a key id or from the scratchpad. -/
inductive ReadIn where
  | wait
  | fault (x : Xlat) (va : DWord)
  | chained (addr : DWord)
  | ok (bs : Marked) (pages : List (Nat × DWord × Nat)) (key : Nat) (s : State) (t : Team)

/-- Reads ranges of a copy, with others that are judged and not yet read. -/
def State.copyRead (s : State) (t : Team) (c : Copy) (es : List Copy) (scr : Bool) (rs rest : List (Nat × Nat)) : ReadIn :=
  match chainAll (fun r => chainRead es (if scr then .scratch else .global) r.1 r.2) (rs ++ rest) with
  | .wait => .wait
  | .fail a => .chained a
  | .ok =>
    if scr then
      let bs := t.readScratch rs
      let q := s.scratchReadErrors t c.core rs
      .ok bs [] 0 q.1 q.2
    else
      match s.engineMap t c .read [] [] (partsOf rs ++ partsOf rest) with
      | .fault x va => .fault x va
      | .ok ps pages s1 =>
        let q := s1.readPieces t c.core (ps.take (partsOf rs).length)
        .ok q.1 pages ((ps.head?.map (·.key)).getD 0) q.2 t

/-- The place of a copy's destination, from a range of addresses, offsets or record offsets. -/
def Copy.dstSpace (c : Copy) : Space := match c.dst with | some r => r.space | none => .global

/-- Where the record of a copy's destination begins. -/
def Copy.dstBase (c : Copy) : Nat := match c.dst with | some r => r.base | none => 0

/-- The Hamper record of a copy's destination. -/
def Copy.dstRec (c : Copy) : Nat := match c.dst with | some r => r.hrec | none => 0

/-- Writes the bytes of a landing; `k` is the register, or none for a refill that a record carries. A Hamper range is
the one that the record had at the copy's issue (R281). -/
def State.copyWrite (s : State) (t : Team) (c : Copy) (k : Option Nat) (job : Job) (bs : Marked)
    (ps : List Piece) (key : Nat) : State × Team × Copy :=
  match c.dstSpace with
  | .global => s.landPieces t c bs ps
  | .scratch =>
    let r := job.writes.foldl (fun (x : Team × Copy × Marked) w =>
      let q := x.1.landScratch x.2.1 w.1 (x.2.2.take w.2)
      (q.1, q.2, x.2.2.drop w.2)) (t, c, bs)
    (s, r.1, r.2.1)
  | .hamper =>
    let h := t.hrec c.dstRec
    let keep := match k with
      | some k => if h.lv && decide (h.lk = k) then some c.dstRec else none
      | none => some c.dstRec
    let r := job.writes.foldl (fun (x : Team × Copy × Marked) w =>
      let q := x.1.landHamper x.2.1 (c.dstBase + w.1) (x.2.2.take w.2) keep key
      (q.1, q.2, x.2.2.drop w.2)) (t, c, bs)
    (s, r.1, r.2.1)

/-- Performs a job of a copy: the earlier copies, the translations, the reads, then the writes (R280,
R283). -/
def State.runJob (s : State) (t : Team) (c : Copy) (k : Option Nat) (es : List Copy) (scr : Bool)
    (pages0 : List (Nat × DWord × Nat)) (job : Job) : Landing :=
  match chainAll (fun r => chainWrite es c.dstSpace c.dstBase r.1 r.2) job.writes with
  | .wait | .fail _ => .wait
  | .ok =>
    match s.copyRead t c es scr job.reads job.restR with
    | .wait => .wait
    | .fault x va => .fault s t c x va false
    | .chained a => .chained a
    | .ok bs pages key s1 t1 =>
      let out := job.make bs
      let fin := fun (r : State × Team × Copy) (ps : List (Nat × DWord × Nat)) =>
        Landing.done r.1 r.2.1 { r.2.2 with count := job.count, status := r.2.2.status + job.status, part := job.part
                                            index := if job.count = c.count then c.index else none
                                            pages := (pages0 ++ pages ++ ps).eraseDups }
      if c.dstSpace = .global then
        match s1.engineMap t1 c .write [] [] (partsOf job.writes ++ partsOf job.restW) with
        | .fault x va => .fault s t c x va true
        | .ok ps pages2 s2 => fin (s2.copyWrite t1 c k job out (ps.take (partsOf job.writes).length) 0) pages2
      else fin (s1.copyWrite t1 c k job out [] key) []

/-- One landing of a copy: a unit, a lane of an LCPY, or a piece of a row. The index word of a row is read once, and kept
through a freeze (R288, R289). -/
def State.landOnce (s : State) (t : Team) (c : Copy) (k : Option Nat) : Landing :=
  let es := if k.isSome then t.earlier c else []
  match c.kind with
  | .bcpy => s.runJob t c k es (bitAt (c.d 2) 4) [] c.unitJob
  | .layx => s.runJob t c k es false [] c.unitJob
  | .lcpyGS => s.runJob t c k es false [] (c.laneJob true)
  | .lcpySG => s.runJob t c k es true [] (c.laneJob false)
  | .gath =>
    match c.index with
    | some x => s.runJob t c k es (bitAt (c.d 2) 4) c.pages (c.rowJob x.1 x.2)
    | none =>
      match s.copyRead t c es (bitAt (c.d 2) 21) [((c.d 3).toNat + 4 * c.count, 4)] [] with
      | .wait => .wait
      | .fault x va => .fault s t c x va false
      | .chained a => .chained a
      | .ok bs pages _ s1 t1 =>
        let c1 : Copy := { c with index := some (leWord (bs.map (·.1)), bs.any (·.2)) }
        s1.runJob t1 c1 k es (bitAt (c.d 2) 4) pages (c1.rowJob (leWord (bs.map (·.1))) (bs.any (·.2)))

/-! ### The event of a landing -/

/-- The log entry of a copy that a translation fault fails: cross-world, no target and malformed are always
logged (R55, R161). -/
def State.logCopyFault (s : State) (t : Team) (core : Nat) (x : Xlat) (va : DWord) : State :=
  let e := fun (cause : Nat) (detail : DWord) => s.addLog
    { time := 0, seq := 0, cause := cause, cls := 1, die := dieOf core, unit := core, part := t.part
      launch := s.launchIndex t, team := t.index, addr := va, detail := detail }
  match x with
  | .world => e 0x0201 0
  | .page d pa => if d = 3 ∨ d = 6 then e 0x0200 (BitVec.ofNat 64 (d + (pa.getD 0) * 256)) else s
  | _ => s

/-- The entry of a copy that fails after its team has exited (R298). -/
def State.logLateFail (s : State) (t : Team) (core : Nat) (addr : DWord) : State :=
  if t.exiting then s.addLog
    { time := 0, seq := 0, cause := 0x010A, cls := 0, die := dieOf core, unit := core, part := t.part
      launch := s.launchIndex t, team := t.index, addr := addr }
  else s

/-- A copy that is done arrives at its barrier: what it has landed is released to its team (R286). DEDUCED, log entry 6. -/
def State.releaseCopy (s : State) (t : Team) (c : Copy) : State :=
  if (t.arrivesAt c).isSome then
    s.observe t.uid [0xFFFFFFFF] fun p => decide (p.team = t.uid) && decide (p.fid = c.engineFid)
  else s

/-- A copy of a team after one landing: done, frozen, failed or further on; none when it waits (R276,
R283, R284). DEDUCED, log entry 41. -/
def State.landCopy (s : State) (t : Team) (k : Nat) : Option (State × Team) :=
  let c := t.copy k
  if c.st ≠ .landing then none
  else
    match s.landOnce t c (some k) with
    | .wait => none
    | .fault _ _ _ .held _ _ => none
    | .fault s1 t1 c1 (.recoverable r) va wr =>
      let f := s1.faultOf t1 c.core va (if wr then 4 else 3) r k
      some (s1.addFault t.part f, t1.setCopy k { c1 with st := .frozen, faddr := va, faultVa := some va, fkind := if wr then 4 else 3 })
    | .fault s1 t1 c1 x va _ => some ((s1.logCopyFault t1 c.core x va).logLateFail t1 c.core va, t1.copyFail k c1 va)
    | .chained a => some (s.logLateFail t c.core a, t.copyFail k c a)
    | .done s1 t1 c1 =>
      some (if c1.count = c1.total then (s1.releaseCopy t1 c1, t1.copyDone k c1) else (s1, t1.setCopy k c1))

/-- Puts an exited team's record back, and drops it once its copies have ended (R297, R298). DEDUCED, log entry 42. -/
def State.putOrphan (s : State) (t : Team) : State :=
  let same := fun (u : Team) => decide (u.inst = t.inst) && decide (u.index = t.index)
  if t.copies.any fun c => c.2.running then { s with orphans := s.orphans.map fun u => if same u then t else u }
  else ({ s with orphans := s.orphans.filter fun u => !same u }).checkInstance t.inst

/-- Puts a team back after one of its copies has moved: an exiting one may leave. -/
def State.afterCopy (s : State) (t : Team) : State :=
  ((if t.exiting then s.leaveTeam t else s.putTeam t)).settleFaults t.part

/-! ### Refills of records (R102) -/

/-- The copy that a record's refill lands again. -/
def Team.refill (t : Team) (key : Nat) : Copy :=
  let r := t.hrec key
  { kind := if r.gath then .gath else .bcpy, desc := r.desc, core := t.core + key / 32, st := .landing
    count := if r.gath then r.rcount / gathRow r.desc else r.rcount
    total := if r.gath then gathCount r.desc else bcpyTotal r.desc
    dst := some (rangeOf .hamper key (t.hbyteAt key 0) (if r.gath then gathDstRange r.desc else bcpyDstRange r.desc))
    cover := r.cover, bad := r.rbad, index := r.index, part := r.part }

/-- RF, RFAIL and RCOUNT of a record. -/
def HRecord.setRefill (r : HRecord) (rf rfail : Bool) (n : Nat) : HRecord :=
  { r with w3 := setField (setField (setField r.w3 26 1 (if rf then 1 else 0)) 27 1 (if rfail then 1 else 0)) 0 21 n
           faultVa := none }

/-- One landing of a refill that a record carries (R102); none when it waits. The entry of a recoverable fault names LK as
its watermark register, though that register may serve another copy: the spec names no other. DESIGN CHOICE, log entry 91. -/
def State.landRefill (s : State) (t : Team) (key : Nat) : Option (State × Team) :=
  let r := t.hrec key
  let c := t.refill key
  if !r.rf || r.faultVa.isSome || decide (c.total = 0) then none
  else
    match s.landOnce t c none with
    | .wait => none
    | .fault _ _ _ .held _ _ => none
    | .fault s1 t1 c1 (.recoverable rs) va _ =>
      some (s1.addFault t.part (s1.faultOf t1 c.core va 3 rs r.lk), t1.setHrec key { r with faultVa := some va, index := c1.index })
    | .fault s1 t1 _ x va _ => some (s1.logCopyFault t1 c.core x va, t1.setHrec key (r.setRefill false true r.rcount))
    | .chained _ => some (s, t.setHrec key (r.setRefill false true r.rcount))
    | .done s1 t1 c1 =>
      let n := if r.gath then c1.count * gathRow r.desc else c1.count
      let r1 : HRecord := { t1.hrec key with cover := c1.cover, rbad := c1.bad, index := c1.index, part := c1.part }
      some (s1, t1.setHrec key (if c1.count = c1.total then r1.setRefill false false 0 else r1.setRefill true false n))

/-- Whether the copies of a partition land: they freeze at their units while it is halted (R97). -/
def State.copiesRun (s : State) (k : Nat) : Bool := decide (s.pstate k = 1)

/-- COPY_UNIT_LAND (R102, R280): the copy of register `e` of the team at `core` and `slot` lands one unit; with
`ok` it is a copy of a team that has exited, numbered by `addr`; with `k` = 1 it is the refill of record
`e`. DEDUCED, log entry 41. -/
def execCopyUnitLand (s : State) : Res :=
  let q := s.request
  if q.ok then
    match s.orphans.find? fun t => decide (t.inst = q.addr.toNat) && decide (t.index = q.value.toNat) with
    | none => .next s
    | some t =>
      if !s.copiesRun t.part then .next s
      else
        match s.landCopy t q.e with
        | some (s1, t1) => .next (s1.putOrphan t1)
        | none => .next s
  else
    match s.team? q.core q.slot with
    | none => .next s
    | some t =>
      if !s.copiesRun t.part then .next s
      else
        match (if q.k = 1 then s.landRefill t q.e else s.landCopy t q.e) with
        | some (s1, t1) => .next (s1.afterCopy t1)
        | none => .next s

/-! ### Watermarks and pins -/

/-- WMRD (R277, R294). -/
def execWmrd (w : WE) (s : State) : Res :=
  uniInstr s (guardYX w.m) w.m 0 [] fun s c =>
    let v := (c.t.copy (w.sub.toNat % 16)).word (w.sub.toNat / 16)
    .next ((c.setS 0 w.d.toNat v).finish s 0 w.m.words)

/-- WMWAIT (R184, R295). -/
def execWmwait (w : WE) (s : State) : Res :=
  let k := w.sub.toNat % 16
  uniInstr s (guardYX w.m) w.m 0 [] fun s c =>
    match (c.t.copy k).st with
    | .idle =>
      .next (c.finish (s.observe c.t.uid c.g.fids fun p => decide (p.team = c.t.uid) && decide (p.fid = (c.t.copy k).engineFid)) 0 w.m.words)
    | .failed => c.trap s (copyFailedTrap c.g.activeMask k (c.t.copy k))
    | _ => c.wait s .watermark

/-- CPYCAN (R286, R296): a copy that has landed part of a row or some lanes of an LCPY stops once the unit is whole, and
the group waits for it. -/
def execCpycan (w : WE) (s : State) : Res :=
  let k := w.sub.toNat % 16
  uniInstr s (guardYX w.m) w.m 0 [] fun s c =>
    let cp := c.t.copy k
    if cp.st = .landing ∧ cp.part ≠ 0 then c.wait s .held
    else
      let c1 : Ctx := if cp.st = .idle then c else { c with t := c.t.copyCancel k cp }
      let s1 := if cp.st = .idle then s else s.releaseCopy c.t cp
      .next ((c1.finish s1 0 w.m.words).settleFaults c.t.part)

/-- The lines that cover a range, as pieces of pages in order: the physical line numbers, or the outcome
that stops the pin (R292). DESIGN CHOICE, log entry 15. -/
def State.pinLines (s : State) (c : Ctx) (acc : List Nat) : List (Nat × Nat) → List Nat × Option Xlat × State
  | [] => (acc, none, s)
  | (va, n) :: rest =>
    let a : DWord := BitVec.ofNat 64 va
    match s.xlate (s.coreSec c.g.core) c.g.core c.t.part (s.version c.t) a .read false with
    | .ok pa leaf _ =>
      let s1 := (s.tlbFill c.g.core c.t.part (s.version c.t) a).rekey (keyOf leaf) false pa n
      s1.pinLines c (acc ++ numsFrom (pa / 128) ((pa + n) / 128)) rest
    | x => (acc, some x, s)

/-- Whether pinning lines would leave a set of some die with more than PANTRY pinned lines (R156). DESIGN CHOICE, log entry 15. -/
def State.pantryFull (s : State) (lines : List Nat) : Bool :=
  let fresh := (lines.filter fun l => !s.pinned.contains l).eraseDups
  let all := s.pinned.eraseDups ++ fresh
  fresh.any fun l =>
    decide (s.rfield (0x014 + homeDie (l * 128)) 20 5 < (all.filter fun m =>
      decide (homeDie (m * 128) = homeDie (l * 128)) && decide (Config.l2Set m = Config.l2Set l)).length)

/-- PIN (R156, R292). DESIGN CHOICE, log entry 40. -/
def execPin (w : WE) (s : State) : Res :=
  uniInstr s (guardYX w.m) w.m 0 (uniLocs w.a ++ uniLocs w.b) fun s c =>
    let base := (c.u w.a).toNat
    let len := (c.u w.b).toNat
    let done := fun (s : State) (c : Ctx) (v : Nat) =>
      Host.Outcome.next ((c.setS 0 w.d.toNat (BitVec.ofNat 64 v)).finish s 0 w.m.words)
    if len = 0 ∨ 2 ^ 28 < len then done s c 4
    else
      match (List.range 8).find? fun j => (sget none c.t.pins j).isNone with
      | none => done s c 2
      | some j =>
        let first := base / 128 * 128
        let n := (base + len + 127) / 128 * 128 - first
        let r := s.pinLines c [] (blocksOf first n (n / 2 ^ 12 + 2))
        match r.2.1 with
        | some .held => c.wait s .held
        | some x => done (s.logCopyFault c.t c.g.core x (BitVec.ofNat 64 (first + 128 * r.1.length))) c 3
        | none =>
          if r.2.2.pantryFull r.1 then done r.2.2 c 1
          else
            let slot : PinSlot := { addr := BitVec.ofNat 64 first, len := n, lines := r.1 }
            let s1 := ((r.1.filter fun l => !r.2.2.pinned.contains l).eraseDups).foldl State.l2Room r.2.2
            done { s1 with pinned := s1.pinned ++ r.1 }
              { c with t := { c.t with pins := sset none c.t.pins j (some slot) } } (j * 256)

/-- UNPIN (R293). -/
def execUnpin (w : WE) (s : State) : Res :=
  uniInstr s (guardYX w.m) w.m 0 (uniLocs w.a) fun s c =>
    let j := (c.u w.a).toNat
    if 8 ≤ j then c.illegal s 2
    else
      match sget none c.t.pins j with
      | none => .next (c.finish s 0 w.m.words)
      | some slot =>
        if c.t.copies.any fun p => p.2.running && p.2.kind == .layx && meets? p.2.dst .global 0 slot.addr.toNat slot.len
        then c.wait s .held
        else
          .next (({ c with t := { c.t with pins := sset none c.t.pins j none } } : Ctx).finish
            { s with pinned := unpinLines s.pinned slot.lines } 0 w.m.words)

end Sys2Proof.Machine
end

