-- ==== Sys2Proof/Decode.lean ====
section
/-! DEFINITION. The decoder of R185 to R201, total on any list of words, and the encoder written
from the same formats. A word that is no instruction is refused with the lowest ILLEGAL reason that
applies. -/

namespace Sys2Proof

/-- What the words at an address decode to: an instruction and its count of words, ILLEGAL with its
reason, or more words are needed. -/
inductive Decoded where
  | instr (i : Instr) (words : Nat)
  | illegal (reason : Nat)
  | short
  deriving DecidableEq, Repr

/-- The field `[lo + n - 1 : lo]` of an instruction word. -/
def fld (w : Word) (lo n : Nat) : BitVec n := w.extractLsb' lo n

/-- The top byte of a word: bit 31 and the opcode (R202, R203). -/
def topByte (w : Word) : Nat := (fld w 24 8).toNat

/-- The MODA prefix of a word (R196). -/
def modaOf (w : Word) : ModA :=
  { na := bitAt w 23, nb := bitAt w 22, nc := bitAt w 21, aa := bitAt w 20, ab := bitAt w 19
    sat := bitAt w 18, clamp := fld w 16 2, scale := fld w 10 6, rnd := fld w 7 3 }

/-- The MODX prefix of a word (R197). -/
def modxOf (w : Word) : ModX :=
  { hc := bitAt w 23, c := fld w 17 6, hg := bitAt w 16, gn := bitAt w 15, gs := bitAt w 14
    gi := fld w 8 6, ub := bitAt w 7 }

/-- The MODM prefix of a word (R198). -/
def modmOf (w : Word) : ModM :=
  { w := fld w 21 3, scope := fld w 19 2, ord := fld w 17 2, hint := fld w 15 2, aop := fld w 11 4
    disp := fld w 0 11 }

/-- The prefixes before an instruction word: what they say, their reserved bits, and the words left.
A second prefix of one kind ends the scan with `dup` (R195). -/
structure Prefixes where
  mods : Mods
  reasons : List Nat
  dup : Bool
  rest : List Word

/-- The reasons of a repeated prefix word of its own: reserved bits and codes (R196 to R198). -/
def repeatReasons (w : Word) : List Nat :=
  if topByte w = 0x7C then reasonIf (fld w 0 7 != 0) 2 ++ (modaOf w).codeReasons
  else if topByte w = 0x7D then reasonIf (fld w 0 7 != 0) 2
  else (modmOf w).codeReasons

/-- Scans prefix words, in any order, at most one of each kind (R185, R195). -/
def scanPrefixes (m : Mods) (rs : List Nat) : List Word → Prefixes
  | [] => { mods := m, reasons := rs, dup := false, rest := [] }
  | w :: ws =>
    if topByte w = 0x7C then
      if m.a.isSome then { mods := m, reasons := rs ++ m.codeReasons ++ repeatReasons w, dup := true, rest := ws }
      else scanPrefixes { m with a := some (modaOf w) } (rs ++ reasonIf (fld w 0 7 != 0) 2) ws
    else if topByte w = 0x7D then
      if m.x.isSome then { mods := m, reasons := rs ++ m.codeReasons ++ repeatReasons w, dup := true, rest := ws }
      else scanPrefixes { m with x := some (modxOf w) } (rs ++ reasonIf (fld w 0 7 != 0) 2) ws
    else if topByte w = 0x7E then
      if m.m.isSome then { mods := m, reasons := rs ++ m.codeReasons ++ repeatReasons w, dup := true, rest := ws }
      else scanPrefixes { m with m := some (modmOf w) } rs ws
    else { mods := m, reasons := rs, dup := false, rest := w :: ws }

/-- The fields of an instruction word in a row's format (R187, R192, R199). -/
def Row.fieldsOf (r : Row) (w : Word) (m : Mods) : Fields :=
  match r.build with
  | .w3 _ => .w3 { d := fld w 18 6, a := fld w 12 6, b := fld w 6 6, f := fld w 3 3, s := fld w 0 3, m := m }
  | .wi _ => .wi { d := fld w 18 6, a := fld w 12 6, imm := fld w 3 9, s := fld w 0 3, m := m }
  | .wc _ => .wc { d := fld w 18 6, a := fld w 12 6, b := fld w 6 6, cond := fld w 3 3, s := fld w 0 3, m := m }
  | .wb _ => .wb { n := bitAt w 23, pred := fld w 17 6, off := fld w 0 17, m := m }
  | .we _ => .we { d := fld w 18 6, a := fld w 12 6, b := fld w 6 6, sub := fld w 0 6, m := m }
  | .wend _ => .wend { z := fld w 21 3, n0 := fld w 14 7, n1 := fld w 7 7, n2 := fld w 0 7, m := m }

/-- Puts a literal word into the fields. -/
def Fields.withLit (l : Word) : Fields → Fields
  | .w3 w => .w3 { w with m := { w.m with lit := some l } }
  | .wi w => .wi { w with m := { w.m with lit := some l } }
  | .wc w => .wc { w with m := { w.m with lit := some l } }
  | .wb w => .wb { w with m := { w.m with lit := some l } }
  | .we w => .we { w with m := { w.m with lit := some l } }
  | .wend w => .wend { w with m := { w.m with lit := some l } }

/-- The lowest reason of a list (R201). -/
def lowestReason : List Nat → Nat
  | [] => 0
  | r :: rs => rs.foldl Nat.min r

/-- Judges the fields of a row: ILLEGAL with the lowest reason, or the instruction (R201). -/
def judge (r : Row) (win : Nat) (rs : List Nat) (f : Fields) : Decoded :=
  match rs ++ f.reasons r win with
  | [] =>
    match r.make f with
    | some i => .instr i f.mods.words
    | none => .illegal 1
  | x :: xs => .illegal (lowestReason (x :: xs))

/-- Decodes the instruction at the head of a list of words, under a window of `win` registers. -/
def decode (win : Nat) (ws : List Word) : Decoded :=
  let p := scanPrefixes {} [] ws
  if p.dup then .illegal (lowestReason (p.reasons ++ [6]))
  else
    match p.rest with
    | [] => .short
    | w :: rest =>
      match rowOf (topByte w) (fld w 0 6).toNat with
      | none => .illegal 1
      | some r =>
        let f := r.fieldsOf w p.mods
        if f.usesLit r then
          match rest with
          | [] => .short
          | l :: _ => judge r win p.reasons (f.withLit l)
        else judge r win p.reasons f

/-- The MODA word (R196). -/
def modaWord (m : ModA) : Word :=
  0x7C#8 ++ BitVec.ofBool m.na ++ BitVec.ofBool m.nb ++ BitVec.ofBool m.nc ++ BitVec.ofBool m.aa
    ++ BitVec.ofBool m.ab ++ BitVec.ofBool m.sat ++ m.clamp ++ m.scale ++ m.rnd ++ 0#7

/-- The MODX word (R197). -/
def modxWord (m : ModX) : Word :=
  0x7D#8 ++ BitVec.ofBool m.hc ++ m.c ++ BitVec.ofBool m.hg ++ BitVec.ofBool m.gn ++ BitVec.ofBool m.gs
    ++ m.gi ++ BitVec.ofBool m.ub ++ 0#7

/-- The MODM word (R198). -/
def modmWord (m : ModM) : Word := 0x7E#8 ++ m.w ++ m.scope ++ m.ord ++ m.hint ++ m.aop ++ m.disp

/-- The instruction word of a top byte and fields (R187, R192, R193, R199). -/
def Fields.word (op : Nat) : Fields → Word
  | .w3 w => BitVec.ofNat 8 op ++ w.d ++ w.a ++ w.b ++ w.f ++ w.s
  | .wi w => BitVec.ofNat 8 op ++ w.d ++ w.a ++ w.imm ++ w.s
  | .wc w => BitVec.ofNat 8 op ++ w.d ++ w.a ++ w.b ++ w.cond ++ w.s
  | .wb w => BitVec.ofNat 8 op ++ BitVec.ofBool w.n ++ w.pred ++ w.off
  | .we w => BitVec.ofNat 8 op ++ w.d ++ w.a ++ w.b ++ w.sub
  | .wend w => BitVec.ofNat 8 op ++ w.z ++ w.n0 ++ w.n1 ++ w.n2

/-- An optional word as a list. -/
def optWord {α : Type} (f : α → Word) : Option α → List Word
  | none => []
  | some x => [f x]

/-- The words of an encoded instruction, the prefixes in the order MODA, MODX, MODM; an event of
another agent has none. -/
def encode (i : Instr) : List Word :=
  match i.fields? with
  | none => []
  | some (op, f) =>
    optWord modaWord f.mods.a ++ (optWord modxWord f.mods.x ++ (optWord modmWord f.mods.m
      ++ (f.word op :: optWord id f.mods.lit)))

/-- The words of a table word: bit 0 is the least significant bit of the first word, and every bit
at or above `nbits` is 0, up to the longest instruction of five words (R185). -/
def tableWords (nbits w : Nat) : List Word :=
  [BitVec.ofNat 32 (w % 2 ^ nbits), BitVec.ofNat 32 (w % 2 ^ nbits / 2 ^ 32),
   BitVec.ofNat 32 (w % 2 ^ nbits / 2 ^ 64), BitVec.ofNat 32 (w % 2 ^ nbits / 2 ^ 96),
   BitVec.ofNat 32 (w % 2 ^ nbits / 2 ^ 128)]

/-- The instruction that the decoder reads from a table word, under the widest window. -/
def decodeTableWord (nbits w : Nat) : Option Instr :=
  match decode 48 (tableWords nbits w) with
  | .instr i _ => some i
  | _ => none

end Sys2Proof
end

