-- ==== Sys2Proof/Machine/Issue.lean ====
section
/-! DEFINITION. The issue slots of a core (R130): the lane positions that groups claim and hold, the one uniform
instruction that a slot issues at a clock, and the order in which groups that wait for either are served. Which groups of a
partition issue at all (R95, R97). -/

namespace Sys2Proof.Machine

/-- Whether a group of a stopping partition has stopped (R97): at its run boundary, at a wait, at a K step of a
matrix instruction, or at once when fibres of it are parked on a page fault. R97 lists the waits at a barrier, a queue, an
RJOIN and a watermark; a group in any other wait, in which it issues nothing, stops at once too. DESIGN CHOICE, log
entry 90. -/
def Group.halts (t : Team) (g : Group) : Bool :=
  decide (g.issued = 0) || decide (g.wait ≠ .none)
    || t.attic.any fun p => decide (p.st = .fault) && g.faulted.contains p.fid

/-- Whether a group's partition runs, or is stopping and the group has not stopped yet (R95, R97). -/
def State.runs (s : State) (t : Team) (g : Group) : Bool :=
  decide (s.pstate t.part = 1) || (decide (s.pstate t.part = 2) && !g.halts t)

/-- Whether a group issues at all (R95, R97); one that waits on its own collective does not (R399). -/
def State.issues (s : State) (t : Team) (g : Group) : Bool := decide (g.wait ≠ .collective) && s.runs t g

/-! ### Lane positions -/

/-- Whether an instruction is uniform: its opcode is of the uniform map (R192). -/
def Instr.isUniform (i : Instr) : Bool :=
  match i.fields? with
  | some (op, _) => decide (0x80 ≤ op)
  | none => false

/-- The lane positions claimed in an issue slot of a core: the first of each claim and their number (R130). A group that has
stopped claims none. -/
def State.claims (s : State) (core islot : Nat) : List (Nat × Nat) :=
  s.teams.flatMap fun t => t.groups.filterMap fun g =>
    if g.core = core ∧ g.islot = islot ∧ s.runs t g = true then g.positions.map fun p => (p, t.launch.width) else none

/-- The issue slot of a group that is placed or formed on a core: the one with fewer positions claimed, or 0 (R130). The groups of
its team that have been placed just before it count with their `w` positions each. DESIGN CHOICE, log entry 9. -/
def State.issueSlot (s : State) (core : Nat) (placed : List Group := []) (w : Nat := 0) : Nat :=
  let claimed := fun k => (s.claims core k).foldl (fun n c => n + c.2) 0
    + w * (placed.filter fun g => decide (g.core = core) && decide (g.islot = k)).length
  if claimed 1 < claimed 0 then 1 else 0

/-- Groups in the issue slots that their cores give them, placed one after another behind others (R130). -/
def State.slotGroups (s : State) (w : Nat) (placed : List Group) : List Group → List Group
  | [] => placed
  | g :: gs =>
    s.slotGroups w (placed ++ [{ g with islot := s.issueSlot g.core placed w, positions := none, seeks := .none }]) gs

/-- A team as it is placed, with its groups in issue slots (R130). -/
def State.slotted (s : State) (t : Team) : Team := { t with groups := s.slotGroups t.launch.width [] t.groups }

/-- The first of `w` aligned positions of a slot, all free (R130). -/
def State.freePositions (s : State) (core islot w : Nat) : Option Nat :=
  ((List.range (64 / w)).map (· * w)).find? fun p =>
    (s.claims core islot).all fun c => decide (p + w ≤ c.1) || decide (c.1 + c.2 ≤ p)

/-! ### The order of service -/

/-- Whether group h of team u goes before group g of team t: its last run started longer ago, or at the same clock and it
has the lower team slot, or there the lower record (R130). -/
def Group.goesFirst (u : Team) (h : Group) (t : Team) (g : Group) : Bool :=
  decide (h.runStart < g.runStart) || (decide (h.runStart = g.runStart)
    && (decide (u.slot < t.slot) || (decide (u.slot = t.slot) && decide (h.num < g.num))))

/-- Whether a group that has waited in the same slot for the same thing, and could have it now, goes before group g (R130). A group
waits from the turn that found none free. DESIGN CHOICE, log entry 9. -/
def State.passedOver (s : State) (t : Team) (g : Group) (what : Seek) : Bool :=
  s.teams.any fun u => u.groups.any fun h =>
    decide (h.core = g.core) && decide (h.islot = g.islot) && decide (h.seeks = what) && s.issues u h && Group.goesFirst u h t g
      && (decide (what = .uniform) || (s.freePositions h.core h.islot u.launch.width).isSome)

/-- Whether a group's slot has issued a uniform instruction at this clock. -/
def State.uniformTaken (s : State) (g : Group) : Bool := decide (sget 0 s.uniClk (2 * g.core + g.islot) = s.clk + 1)

/-- Whether a group needs positions: it holds none, and does not wait at a barrier, which ends its run (R131). DESIGN
CHOICE, log entry 9. -/
def Group.needsPositions (g : Group) : Bool := g.positions.isNone && decide (g.wait ≠ .barrier)

/-- Whether the instruction at which a group stands has not issued yet: it does not wait in it, and is at no later K step of it. -/
def Group.unissued (g : Group) : Bool :=
  g.needsPositions || (decide (g.wait = .none) && decide (g.progress.map (·.pc) ≠ some g.pc))

/-- The positions that a group holds at its next instruction, if it has them or claims them now (R130). -/
def State.claim (s : State) (t : Team) (g : Group) : Option Group :=
  if !g.needsPositions then some g
  else if s.passedOver t g .positions then none
  else (s.freePositions g.core g.islot t.launch.width).map fun p => { g with positions := some p, runStart := s.clk }

/-- The group as its slot admits its next instruction: it holds its positions, and a uniform instruction that issues now has the
slot's one uniform issue of this clock (R130). -/
def State.letIssue (s : State) (t : Team) (g : Group) (i : Instr) : Option Group :=
  match s.claim t g with
  | none => none
  | some g' =>
    if Instr.isUniform i && g.unissued then
      if s.uniformTaken g || s.passedOver t g .uniform then none else some { g' with seeks := .granted }
    else some { g' with seeks := .none }

/-- What a group that its slot does not letIssue waits for. -/
def State.lacks (s : State) (t : Team) (g : Group) : Seek := if (s.claim t g).isNone then .positions else .uniform

/-- The state after an instruction: where its group was granted the uniform issue, its slot has issued one at this clock (R130). -/
def State.noteIssue (s : State) (g : Group) : State :=
  if g.seeks = .granted then { s with uniClk := sset 0 s.uniClk (2 * g.core + g.islot) (s.clk + 1) } else s

/-- The outcome of an instruction that the present group of a state issues. -/
def State.issueRes (s : State) : Res → Res
  | .next s' => .next (match s.curGroup? with | some (_, g) => s'.noteIssue g | none => s')
  | r => r

end Sys2Proof.Machine
end

