-- ==== Sys2Proof/Machine/Fetch.lean ====
section
/-! DEFINITION. Fetching the runs of a group into the core's loop buffer (R131, R415), faults on a
fetch (R106, R120, R141), recoverable faults and their queue entries (R106, R107), and the decoding of
the instruction that issues next (R185, R200, R201). -/

namespace Sys2Proof.Machine

/-! ### Code lines -/

/-- The cached line of code of an address (R414). -/
def State.codeLine (s : State) (core k va : Nat) : Option CodeLine :=
  s.code.find? fun l => decide (l.core = core) && decide (l.part = k) && decide (l.vline = va / 128)

/-- The line of an address as a fetch reads it through the home L2, under the key id of its page (R56, R153, R414). -/
def State.codeRead (s : State) (core k va pa : Nat) (leaf : DWord) (lost : Bool) : CodeLine × State :=
  let vb := va / 128 * 128
  let pb := pa / 128 * 128
  let s1 := s.rekey (keyOf leaf) false pb 128
  let line : CodeLine :=
    { core := core, part := k, key := keyOf leaf, vline := va / 128, pline := pa / 128, leaf := leaf
      cells := if lost then [] else cellsOf (fun v => s1.homeByte (pb + (v - vb))) vb 128
      poison := (List.range 4).filter fun i => lost || s1.homePoison (pb / 32 + i) }
  (line, s1)

/-- Fetches a line into the core's instruction cache; a line of host memory is cached in its home L2 alone (R149). -/
def State.codeFill (s : State) (core k va pa : Nat) (leaf : DWord) (lost : Bool) : CodeLine × State :=
  let r := s.codeRead core k va pa leaf lost
  (r.1, if 2 ^ 55 ≤ pa then r.2 else { r.2 with code := r.2.code ++ [r.1] })

/-- The outcome of fetching one word. -/
inductive FetchWord where
  | ok (w : Word) (s : State)
  | fault (x : Xlat)
  | poison

/-- Fetches the word at an address (R131, R120). A cached line is judged by the worlds as they stand (R54, R55), and held
while the eviction of its key is in progress (R58). DEDUCED, log entry 19. -/
def State.fetchWord (s : State) (t : Team) (core : Nat) (va : DWord) : FetchWord :=
  let a := va.toNat
  let use (l : CodeLine) (s : State) : FetchWord :=
    if l.poison.contains (a % 128 / 32) then .poison
    else .ok (BitVec.ofNat 32 (leWord (sgetList 0 l.cells a 4))) s
  match s.codeLine core t.part a with
  | some l =>
    if s.crossWorld (s.coreSec core) t.part (l.pline * 128) l.leaf then .fault .world
    else if decide (l.pline * 128 < 2 ^ 40) && bitAt (s.reg (0x0A8 + l.key)) 5 then .fault .held
    else use l s
  | none =>
    match s.xlate (s.coreSec core) core t.part (s.version t) va .exec false with
    | .ok pa leaf lost =>
      let r := ((s.tlbFill core t.part (s.version t) va).noteKeyEmpty pa leaf t.part core).codeFill core t.part a pa leaf lost
      use r.1 r.2
    | x => .fault x

/-- Whether an instruction can end a run (R131). -/
def Instr.endsRun : Instr → Bool
  | .endRun _ | .bra _ | .br _ | .brg _ | .jmpi _ | .call _ | .calli _ | .ret _ => true
  | .barWt _ | .barSync _ | .rjoin _ | .fend _ | .yield _ | .texit _ | .eret _ => true
  | _ => false

/-- Whether a run-ending instruction lets the run go on where its group guard is false (R131, R206, R409). -/
def Instr.mayPass : Instr → Bool
  | .ret w | .rjoin w | .yield w | .texit w | .eret w => decide (guardY w ≠ { isG := true })
  | .barWt w | .barSync w => decide (guardYX w.m ≠ { isG := true })
  | _ => false

/-- The outcome of fetching a run. -/
inductive FetchRun where
  | ok (ws : List Word) (s : State)
  | fault (x : Xlat) (va : DWord)
  | poison (va : DWord)

/-- Fetches words from an address until the run's boundary, its 24th instruction or an encoding that
is no instruction (R131, R200). `cur` holds the words of the present instruction, `n` the
instructions still to come. The words past an instruction that ends the run unless its guard is false belong to the run
too, and the run is fetched whole. DEDUCED, log entry 19. -/
def State.fetchFrom (s : State) (t : Team) (core : Nat) (va : DWord) (acc cur : List Word) (n : Nat) :
    Nat → FetchRun
  | 0 => .ok (acc ++ cur) s
  | fuel + 1 =>
    match s.fetchWord t core va with
    | .fault x => .fault x va
    | .poison => .poison va
    | .ok w s1 =>
      let ws := cur ++ [w]
      match decode t.launch.window ws with
      | .short => s1.fetchFrom t core (va + 4) acc ws n fuel
      | .illegal _ => .ok (acc ++ ws) s1
      | .instr i _ =>
        if (Instr.endsRun i && !Instr.mayPass i) || decide (n ≤ 1) then .ok (acc ++ ws) s1
        else s1.fetchFrom t core (va + 4) (acc ++ ws) [] (n - 1) fuel

/-- What a group does next: it issues an instruction, or its turn has been spent. -/
inductive Prepared where
  | ready (i : Instr) (s : State)
  | spent (s : State)

/-- RUN_FETCH: fetches the run of a group whose loop buffer holds no word at its program counter (R131,
R415). Answers the state with the buffer filled, or the state after the fetch's fault. DEDUCED, log entry 19. -/
def State.fetchRun (s : State) (t : Team) (g : Group) : State × Bool :=
  if fieldOf g.pc 0 2 ≠ 0 then
    (s.takeTrap t g { cause := 0x0108, mask := g.activeMask, addr := g.pc }, false)
  else
    match s.fetchFrom t g.core g.pc [] [] (24 - g.issued) 121 with
    | .ok ws s1 => (s1.put t { g with buf := ws, bufPc := g.pc }, true)
    | .poison va => (s.takeTrap t g { cause := 0x0300, mask := g.activeMask, addr := va, kind := 3 }, false)
    | .fault x va =>
      match x with
      | .held => (s.put t (g.waitFor s.clk .held), false)
      | .recoverable r =>
        (s.parkFault t g.endRun g.pc 5 (g.active.map fun p => { fid := p.2, va := va, reason := r }), false)
      | x =>
        match x.trap? g.activeMask va with
        | some tr => (s.takeTrap t g tr, false)
        | none => (s, false)

/-- Decodes the instruction that the issuing group stands at: RUN_LONG for the 25th of its run, ILLEGAL
for an encoding that is none, with the group's own window (R200, R201). -/
def State.decodeCur (s : State) (t : Team) (g : Group) : Prepared :=
  if 24 ≤ g.issued then .spent (s.takeTrap t g { cause := 0x0102, mask := g.activeMask })
  else
    match decode t.launch.window g.wordsAt with
    | .instr i _ => .ready i s
    | .illegal r =>
      .spent (s.takeTrap t g { cause := 0x0100, mask := g.activeMask, detail := BitVec.ofNat 64 r })
    | .short => .spent s

/-- A resolution with ABORT delivers its trap in the group into which the fibres are formed (R108,
R141). -/
def State.abortTrap (s : State) (t : Team) (g : Group) : Option State :=
  match g.abort with
  | [] => none
  | _ =>
    let ls := g.active.filter fun p => g.abort.contains p.2
    some (s.takeTrap t { g with abort := [] }
      (pageTrap (maskOf (ls.map (·.1))) (match ls with | p :: _ => (sget 0 g.abortVa p.2) | [] => 0) 1 none))

/-- Whether an instruction is a matrix instruction, whose issue the current limiter may hold (R12, R316, R348). -/
def Instr.isMatrix : Instr → Bool
  | .mma _ | .mmak _ | .aclr _ | .ald _ | .ast _ | .achk _ | .maskp _ | .mmam _ | .mmap _ => true
  | _ => false

/-- Whether the current limiter holds matrix issue on a core at this clock (R12). DESIGN CHOICE, log entry 70. -/
def State.limited (s : State) (core : Nat) : Bool :=
  decide (s.holdClk = some s.clk) && bitAt (s.holdDies.setWidth 64) (dieOf core)

/-- The instruction that a group has decoded, or the hold of the current limiter (R12), or its wait in its issue slot
(R130). DESIGN CHOICE, log entry 70. -/
def State.limit (s : State) (t : Team) (g : Group) : Prepared → Prepared
  | .ready i s1 =>
    if Instr.isMatrix i && s.limited g.core then .spent (s1.put t (g.waitFor s.clk .none))
    else
      match s.letIssue t g i with
      | some g' => .ready i (s1.put t g')
      | none => .spent (s1.put t { g with seeks := s.lacks t g, nextIssue := s.clk + 1 })
  | p => p

/-- Prepares the turn of the group at a position: it becomes the issuing group, its run is fetched when
the loop buffer does not hold it, its instruction is decoded, and its issue slot admits it (R130). A group of a team that TEXIT ends goes at its
run boundary (R417), and one that may not issue spends its turn. DESIGN CHOICE, log entry 17. -/
def State.prepare (s : State) (pos : Pos) : Prepared :=
  let s0 := { s with cur := some pos }
  match s0.curGroup? with
  | none => .spent s0
  | some (t, g) =>
    if t.cut && g.endsNow then .spent (s0.texit t g)
    else if !s0.issues t g then .spent s0
    else
      let s1 := { s0 with clk := Nat.max s.clk g.nextIssue }
      match s1.abortTrap t g with
      | some s' => .spent s'
      | none =>
        if !g.wordsAt.isEmpty || decide (24 ≤ g.issued) then s1.limit t g (s1.decodeCur t g)
        else
          let r := s1.fetchRun t g
          match r.2, r.1.curGroup? with
          | true, some (t', g') => r.1.limit t' g' (r.1.decodeCur t' g')
          | _, _ => .spent r.1

end Sys2Proof.Machine
end

