-- ==== Sys2Proof/Machine/Narrow.lean ====
section
/-! DEFINITION. The narrow formats (R299, R300), the reservation records of the Hamper (R302 to R312) and
the quantisation instructions (R313 to R315). -/

namespace Sys2Proof.Machine

/-! ### Formats -/

/-- The value of an encoding of `eb` exponent and `mb` mantissa bits without specials (R299). -/
def narrowFin (eb mb : Nat) (bits : Nat) : FVal :=
  let neg := decide (bits / 2 ^ (eb + mb) % 2 = 1)
  let bias : Int := 2 ^ (eb - 1) - 1
  let ex := bits / 2 ^ mb % 2 ^ eb
  let mant := bits % 2 ^ mb
  if ex = 0 then .fin neg mant (1 - bias - mb) else .fin neg (mant + 2 ^ mb) ((ex : Int) - bias - mb)

/-- The value of a code in the formats of R299: the Hamper codes 0 to 7, and 8 for E3M5. DEDUCED, log entry 49. -/
def narrowValue (fmt bits : Nat) : FVal :=
  match fmt with
  | 0 => bf16.decode false bits
  | 1 => f16.decode false bits
  | 2 => if bits % 128 = 127 then .nan false false else narrowFin 4 3 (bits % 256)
  | 3 => FFmt.decode ⟨5, 2⟩ false (bits % 256)
  | 4 => narrowFin 3 2 (bits % 64)
  | 5 => narrowFin 2 3 (bits % 64)
  | 6 => narrowFin 2 1 (bits % 16)
  | 7 =>
    let v : Int := (BitVec.ofNat 8 bits).toInt
    .fin (decide (v < 0)) v.natAbs 0
  | _ => if bits % 256 = 255 then .nan false false else narrowFin 3 5 (bits % 256)

/-! ### Records (R302) -/

/-- FMT. -/
def HRecord.fmt (r : HRecord) : Nat := fieldOf r.w0 40 4
/-- ROWS. -/
def HRecord.rows (r : HRecord) : Nat := fieldOf r.w1 0 16
/-- K. -/
def HRecord.kLen (r : HRecord) : Nat := fieldOf r.w1 16 20
/-- BLK. -/
def HRecord.blk (r : HRecord) : Nat := fieldOf r.w1 36 4
/-- NBD. -/
def HRecord.nbd (r : HRecord) : Nat := fieldOf r.w1 40 11
/-- BSOFF. -/
def HRecord.bsoff (r : HRecord) : Nat := fieldOf r.w2 0 20
/-- NBS. -/
def HRecord.nbs (r : HRecord) : Nat := fieldOf r.w2 20 20
/-- BDOFF. -/
def HRecord.bdoff (r : HRecord) : Nat := fieldOf r.w2 40 20

/-- The K step of a format (R304). -/
def kStep (fmt : Nat) : Nat := if fmt < 2 then 16 else if fmt = 6 ∨ fmt = 7 then 64 else 32

/-- The size of an element in nibbles (R304). -/
def nibbles (fmt : Nat) : Nat := if fmt < 2 then 4 else if fmt = 6 then 1 else 2

/-- The K steps of a record, KP / step. -/
def HRecord.steps (r : HRecord) : Nat := (r.kLen + kStep r.fmt - 1) / kStep r.fmt

/-- RB, the bytes of a row (R304). -/
def HRecord.rowBytes (r : HRecord) : Nat := r.steps * kStep r.fmt * nibbles r.fmt / 2

/-- The block scales of a row. -/
def HRecord.blocks (r : HRecord) : Nat := (r.kLen + 7) / 8

/-- The band scales of a record. DEDUCED, log entry 49. -/
def HRecord.bands (r : HRecord) : Nat := (r.rows + 63) / 64

/-- Whether a descriptor has a reserved bit set or a field out of range (R309, step 1). -/
def HRecord.bad (r : HRecord) : Bool :=
  decide (fieldOf r.w0 44 20 ≠ 0) || decide (fieldOf r.w1 51 13 ≠ 0) || decide (fieldOf r.w2 60 4 ≠ 0)
    || decide (r.rows = 0) || decide (r.kLen = 0) || decide (r.hlen = 0) || decide (r.hlen % 32 ≠ 0)
    || decide (524288 < r.hlen) || decide (r.hbase % 32 ≠ 0) || decide (r.bdoff % 2 ≠ 0)

/-- Whether the watermark register that a record names is landing or frozen (R309, R310). -/
def Team.landingBusy (t : Team) (r : HRecord) : Bool := r.lv && (t.copy r.lk).running

/-- HRES (R309). -/
def execHres (w : WE) (s : State) : Res :=
  uniInstr s (guardYX w.m) w.m 0 ((List.range 3).map fun i => .s (w.a.toNat + i)) fun s c =>
    let key := c.t.hrecKey c.g.core (w.sub.toNat % 32)
    let new : HRecord :=
      { w0 := c.s w.a.toNat, w1 := c.s (w.a.toNat + 1), w2 := c.s (w.a.toNat + 2), w3 := 0x80000000 }
    let old := c.t.hrec key
    if new.bad then c.illegal s 2
    else if 1024 * c.t.launch.hamper < new.hbase + new.hlen then c.trap s (pageTrap c.g.activeMask 0 5 none)
    else if old.held && c.t.landingBusy old then c.wait s .held
    else .next ((({ c with t := c.t.setHrec key new } : Ctx).finish s 0 w.m.words).settleFaults c.t.part)

/-- Whether a product that is under way fetches through a record (R310, R312). -/
def Group.fetchesFrom (g : Group) (key : Nat) : Bool :=
  match g.progress with
  | some p => p.recs.any fun r => decide (r.1 = key)
  | none => false

/-- HREL (R310): it waits for the products that fetch through the record. DEDUCED, log entry 48. -/
def execHrel (w : WE) (s : State) : Res :=
  uniInstr s (guardYX w.m) w.m 0 [] fun s c =>
    let key := c.t.hrecKey c.g.core (w.sub.toNat % 32)
    let r := c.t.hrec key
    if r.held && (c.t.landingBusy r || r.rf || c.t.groups.any fun g => decide (g.num ≠ c.g.num) && g.fetchesFrom key) then
      c.wait s .held
    else .next ((({ c with t := c.t.setHrec key {} } : Ctx).finish s 0 w.m.words).settleFaults c.t.part)

/-- HSTAT (R311). -/
def execHstat (w : WE) (s : State) : Res :=
  uniInstr s (guardYX w.m) w.m 0 (uniLocs w.a) fun s c =>
    let r := c.t.hrec (c.t.hrecKey c.g.core (w.sub.toNat % 32))
    let done := fun (v : DWord) => Host.Outcome.next ((c.setS 0 w.d.toNat v).finish s 0 w.m.words)
    if c.u w.a = 0 then done r.w0
    else if c.u w.a = 1 then done r.w1
    else if c.u w.a = 2 then done r.w2
    else if c.u w.a = 3 then done r.w3
    else c.illegal s 2

/-! ### Quantisation -/

/-- The block scale of R313 for a magnitude and a target. -/
def qscale (ftz : Bool) (a b : Word) : Word × BitVec 7 :=
  let x := (f32.decode ftz a.toNat).modify true false
  let t := f32.decode ftz b.toNat
  let good := match t with
    | .fin n m _ => !n && decide (m ≠ 0)
    | _ => false
  match x with
  | .nan _ _ | .inf _ => (0xFF, stNV)
  | .fin _ m _ =>
    if !good then (0xFF, stNV)
    else if m = 0 then (0x60, 0)
    else
      let reaches := fun (code : Nat) =>
        match (narrowValue 8 code).mul t with
        | some p => decide (0 ≤ p.cmp x)
        | none => false
      match (List.range 0xFF).find? fun code => decide (0 < code) && reaches code with
      | some code => (BitVec.ofNat 32 code, 0)
      | none => (0xFE, stSAT)

/-- QSCALE (R313). -/
def execQscale (w : W3) (s : State) : Res :=
  withGroup s fun t _ => lane3 s w 4 0 fun a b _ => qscale t.launch.ftz a b

/-- How a format of CVTN.PACK stores a value: exponent and mantissa bits and the largest code. -/
def packShape (fn : Nat) : Nat × Nat × Nat :=
  match fn with
  | 0 => (4, 3, 0x7E)
  | 1 => (5, 2, 0x7B)
  | 2 => (3, 2, 0x1F)
  | 3 => (2, 3, 0x1F)
  | _ => (2, 1, 0x7)

/-- Whether an overflow of a sign gives an infinity in a mode (R236). -/
def overflowsToInf (mode : RMode) (neg : Bool) : Bool :=
  match mode with
  | .rne | .rna => true
  | .rz => false
  | .ru => !neg
  | .rd => neg

/-- The code of an overflow of CVTN.PACK (R314). DEDUCED, log entry 49. -/
def packOverflow (fn : Nat) (mode : RMode) (sat neg : Bool) : Nat × BitVec 7 :=
  let sh := packShape fn
  let sign := if neg then 2 ^ (sh.1 + sh.2.1) else 0
  if fn ≤ 1 ∧ overflowsToInf mode neg = true then
    if sat then (sign + sh.2.2, stOF ||| stNX ||| stSAT)
    else if fn = 0 then (sign + 0x7F, stOF ||| stNX ||| stNV)
    else (sign + 0x7C, stOF ||| stNX)
  else (sign + sh.2.2, stOF ||| stNX)

/-- Rounds an exact magnitude into a format of CVTN.PACK (R314, R236). -/
def packFin (fn : Nat) (mode : RMode) (sat neg : Bool) (m : Nat) (e : Int) (sticky : Bool) : Nat × BitVec 7 :=
  let sh := packShape fn
  let mb := sh.2.1
  let bias : Int := 2 ^ (sh.1 - 1) - 1
  let sign := if neg then 2 ^ (sh.1 + mb) else 0
  if m = 0 ∧ sticky = false then (sign, 0)
  else
    let emin : Int := 1 - bias
    let qn : Int := (bitLen m : Int) - 1 + e - mb
    let q : Int := max qn (emin - mb)
    let r := roundAt mode neg m e q sticky
    let free := roundAt mode neg m e qn sticky
    let tiny := decide ((bitLen free.1 : Int) - 1 + qn < emin)
    let code : Nat :=
      if r.1 < 2 ^ mb then r.1
      else ((bitLen r.1 : Int) - 1 + q + bias).toNat * 2 ^ mb + (if r.1 = 2 ^ (mb + 1) then 0 else r.1 - 2 ^ mb)
    if sh.2.2 < code then packOverflow fn mode sat neg
    else (sign + code, stIf r.2 stNX ||| stIf (r.2 && tiny) stUF)

/-- Rounds an exact magnitude to INT8 (R314). -/
def packInt (mode : RMode) (neg : Bool) (m : Nat) (e : Int) (sticky : Bool) : Nat × BitVec 7 :=
  let r := roundAt mode neg m e 0 sticky
  let bound := if neg then 128 else 127
  if bound < r.1 then (if neg then 0x80 else 0x7F, stOF ||| stNX ||| stSAT)
  else (if neg then (256 - r.1) % 256 else r.1, stIf r.2 stNX)

/-- The code of a quotient and its sticky bits (R314). DEDUCED, log entry 49. -/
def packCode (fn : Nat) (mode : RMode) (sat : Bool) (scale : Int) (a b : FVal) : Nat × BitVec 7 :=
  let nan : Nat × BitVec 7 := (if fn = 0 then 0x7F else if fn = 1 then 0x7E else 0, stNV)
  let inf := fun (neg : Bool) (st : BitVec 7) =>
    if fn = 5 then ((if neg then 0x80 else 0x7F : Nat), stOF ||| stNX ||| stSAT ||| stNV ||| st)
    else ((packOverflow fn mode sat neg).1, (packOverflow fn mode sat neg).2 ||| st)
  let fin := fun (neg : Bool) (m : Nat) (e : Int) (sticky : Bool) =>
    if fn = 5 then packInt mode neg m e sticky else packFin fn mode sat neg m e sticky
  match a, b with
  | .nan _ _, _ => nan
  | _, .nan _ _ => nan
  | .inf _, .inf _ => nan
  | .inf n, .fin k _ _ => inf (n != k) 0
  | .fin n _ _, .inf k => fin (n != k) 0 0 false
  | .fin n m e, .fin k p h =>
    if p = 0 then (if m = 0 then nan else inf (n != k) stFZ)
    else fin (n != k) (m * 2 ^ 256 / p) (e - h - 256 + scale) (decide (m * 2 ^ 256 % p ≠ 0))

/-- The width of a format of CVTN in bits (R314). -/
def cvtnWidth (fn : Nat) : Nat := if fn = 4 then 4 else 8

/-- CVTN.PACK (R314). -/
def execCvtnPack (w : W3) (s : State) : Res :=
  let fn := w.f.toNat
  let gd := guardX w.m
  laneInstr s gd w.m w.s.toNat (w3Locs w 1 1 1) fun c =>
    c.mapSticky gd 4 w.d fun ln =>
      let ftz := c.t.launch.ftz
      let a := (f32.decode ftz (c.l32 ln w.a).toNat).modify (aaOf w.m) (naOf w.m)
      let b := f32.decode ftz (c.b32 ln w).toNat
      let r := packCode fn (rmodeOf w.m .rne) (satOf w.m) (scaleOf w.m) a b
      let wd := cvtnWidth fn
      ([(c.c32 ln w.m 0) >>> wd ||| BitVec.ofNat 32 (r.1 * 2 ^ (32 - wd))], r.2)

/-- The F32 of a code of CVTN.EXP in a slot (R315). -/
def expCode (fn : Nat) (a b : Word) : Word :=
  let wd := cvtnWidth fn
  let code := a.toNat / 2 ^ (wd * (b.toNat % (32 / wd))) % 2 ^ wd
  BitVec.ofNat 32 (f32.encodeExact (narrowValue (fn + 2) code))

/-- CVTN.EXP (R315). -/
def execCvtnExp (w : W3) (s : State) : Res :=
  let fn := w.f.toNat
  let gd := guardX w.m
  laneInstr s gd w.m w.s.toNat (w3Locs w 1 1 0) fun c =>
    c.mapLanes gd 4 w.d fun ln => [expCode fn (c.l32 ln w.a) (c.b32 ln w)]

end Sys2Proof.Machine
end

