-- ==== Sys2Proof/Machine/Matrix.lean ====
section
/-! DEFINITION. The matrix unit: operand fetches (R304 to R306, R326), K steps (R321 to R324), MMA, MMAK
and MMAM (R319, R320, R351), tiles (R318, R329, R330), their check (R331) and mask tiles (R349, R350). -/

namespace Sys2Proof.Machine

/-! ### Exact sums -/

/-- The exact sum of products, an invalid product being NaN (R321). -/
def exactSum (ts : List (Option FVal)) : FVal :=
  let vs := ts.filterMap id
  let pos := vs.any fun t => match t with | .inf n => !n | _ => false
  let ng := vs.any fun t => match t with | .inf n => n | _ => false
  if ts.any Option.isNone || vs.any FVal.isNan || (pos && ng) then .nan false false
  else if pos then .inf false
  else if ng then .inf true
  else
    let q := leastExp vs 0
    let t := sumAt q vs
    if t = 0 then .fin (!vs.isEmpty && vs.all fun v => v.isZero && v.neg) 0 q
    else .fin (decide (t < 0)) t.natAbs q

/-- RN(C + P) on an F32 word (R321); no product leaves the word. -/
def accumulate (ftz : Bool) (c : Word) (ps : List (Option FVal)) : Word :=
  if ps.isEmpty then c
  else
    BitVec.ofNat 32
      (fAdd { f := f32, mode := .rne, ftz := ftz } (f32.decode ftz c.toNat) (exactSum ps)).1

/-! ### Operands -/

/-- A byte of a record's range. -/
def Team.rangeByte (t : Team) (key off : Nat) : Nat := (sget 0 t.hbytes (t.hbyteAt key off)).toNat

/-- The value of element (r, k) of a record (R304, R305). -/
def Team.element (t : Team) (key r k : Nat) : FVal :=
  let h := t.hrec key
  if h.rows ≤ r ∨ h.kLen ≤ k then .fin false 0 0
  else
    let row := r * h.rowBytes
    if h.fmt = 6 then
      let e := narrowValue 6 (t.rangeByte key (row + k / 2) / 16 ^ (k % 2) % 16)
      let blk := narrowValue 8 (t.rangeByte key (h.bsoff + r * h.blocks + k / 8))
      let b := h.bdoff + 2 * (r / 64)
      let band := bf16.decode false (t.rangeByte key b + 256 * t.rangeByte key (b + 1))
      match band with
      | .inf n => if blk.isNan || e.isZero then .nan false false else .inf (e.neg != n)
      | band =>
        match e.mul blk with
        | none => .nan false false
        | some x => (x.mul band).getD (.nan false false)
    else if h.fmt < 2 then
      let b := row + 2 * k
      narrowValue h.fmt (t.rangeByte key b + 256 * t.rangeByte key (b + 1))
    else narrowValue h.fmt (t.rangeByte key (row + k))

/-- The pieces of a record's range that a fetch of columns c0 to c0 + n - 1 of a row reads (R304, R305). -/
def HRecord.rowPieces (h : HRecord) (r c0 n : Nat) : List (Nat × Nat) :=
  let c1 := Nat.min (c0 + n) h.kLen
  if h.rows ≤ r ∨ c1 ≤ c0 then []
  else
    let lo := r * h.rowBytes + c0 * nibbles h.fmt / 2
    let hi := r * h.rowBytes + (c1 * nibbles h.fmt + 1) / 2
    (lo, hi - lo) ::
      (if h.fmt = 6 then
        [(h.bsoff + r * h.blocks + c0 / 8, (c1 - 1) / 8 - c0 / 8 + 1), (h.bdoff + 2 * (r / 64), 2)]
      else [])

/-- The check of a record before a fetch (R306). DEDUCED, log entry 20. -/
def HRecord.trap? (h : HRecord) (rec : Nat) (mask : DWord) : Option Trap :=
  let nbs := h.rows * h.blocks
  if !h.held then some (pageTrap mask 0 5 none)
  else if 8 ≤ h.fmt ∨ (h.fmt ≠ 6 ∧ ¬(h.blk = 0 ∧ h.nbs = 0 ∧ h.nbd = 0 ∧ h.bsoff = 0 ∧ h.bdoff = 0)) then
    some { cause := 0x010B, mask := mask, detail := BitVec.ofNat 64 (rec + h.fmt * 2 ^ 8) }
  else if h.fmt = 6 ∧ ¬(h.blk = 8 ∧ h.nbs = nbs ∧ h.nbd = h.bands) then
    some { cause := 0x010C, mask := mask
           detail := BitVec.ofNat 64 (rec + 2 ^ 16 * (nbs % 2 ^ 20) + 2 ^ 36 * (h.bands % 2 ^ 12)) }
  else if h.hlen < h.rows * h.rowBytes
      ∨ (h.fmt = 6 ∧ (h.hlen < h.bsoff + h.nbs ∨ h.hlen < h.bdoff + 2 * h.nbd)) then
    some (pageTrap mask 0 5 none)
  else none

/-! ### Fetching -/

/-- What a fetch or a step comes to; a trap that consumes an error keeps the team without it (R121). -/
inductive Fetched where
  | ok (t : Team)
  | wait
  | trap (tr : Trap) (t : Team)

/-- Whether an error site is a Hamper word of a core that meets a range of places. -/
def ErrorSite.inHamper (e : ErrorSite) (first : Nat) (place n : Nat) : Bool :=
  match e with
  | .hamper core _ off _ => overlaps (2 ^ 20 * (core - first) + off / 4 * 4) 4 place n
  | _ => false

/-- Whether an error site is one of n words of a tile from word `lo`. -/
def ErrorSite.inTile (e : ErrorSite) (core tile lo n : Nat) : Bool :=
  match e with
  | .tile c _ w _ => decide (c = core) && decide (tile * 288 + lo ≤ w) && decide (w < tile * 288 + lo + n)
  | _ => false

/-- What a fetch of n bytes, a bytes from a place of the Hamper on, meets at the refill of a record (R102). -/
def Team.refillMeets (t : Team) (key h a n : Nat) : LoadMeet :=
  let r := t.hrec key
  if r.rf then (t.refill key).loadMeets .hamper h a n
  else if r.rfail then ({ t.refill key with st := .failed } : Copy).loadMeets .hamper h a n
  else .pass

/-- What such a fetch meets at the refills of the team, through whatever records they come (R102, R309). -/
def Team.refillsMeet (t : Team) (h a n : Nat) : TableMeet :=
  match t.hrecs.find? fun r => decide (t.refillMeets r.1 h a n = .failed) with
  | some r => .failed r.2.lk
  | none => if t.hrecs.any fun r => decide (t.refillMeets r.1 h a n = .stall) then .stall else .pass

/-- Fetches one piece of a record's range (R184, R326). DEDUCED, log entry 48. -/
def Team.fetchPiece (t : Team) (mask : DWord) (key : Nat) (p : Nat × Nat) : Fetched :=
  let failed := fun (k : Nat) =>
    Fetched.trap { cause := 0x010A, mask := mask, addr := BitVec.ofNat 64 p.1, detail := entryDetail k 1 } t
  match t.loadMeets .hamper (t.hbyteAt key 0) p.1 p.2 with
  | .failed k => failed k
  | .stall => .wait
  | _ =>
    match t.refillsMeet (t.hbyteAt key 0) p.1 p.2 with
    | .failed k => failed k
    | .stall => .wait
    | _ =>
      let place := t.hbyteAt key p.1
      match (sectorsOf place p.2).find? (sget false t.hpoison) with
      | some sec =>
        .trap { cause := 0x0300, mask := mask, kind := 1
                addr := BitVec.ofNat 64 (Nat.max p.1 (p.1 + sec * 32 - place)) } t
      | none =>
        if t.errors.any fun e => e.inHamper t.core place p.2 then
          .trap { cause := 0x0302, mask := mask, kind := 3 }
            { t with errors := t.errors.filter fun e => !e.inHamper t.core place p.2 }
        else .ok t

/-- Fetches pieces in order. -/
def Team.fetchPieces (t : Team) (mask : DWord) (key : Nat) : List (Nat × Nat) → Fetched
  | [] => .ok t
  | p :: rest =>
    match t.fetchPiece mask key p with
    | .ok t1 => t1.fetchPieces mask key rest
    | x => x

/-! ### Products -/

/-- The operands of a product on one tile (R316, R319): the core half, the tile, the record keys, the row
and column tiles, T and ZSKIP. -/
structure MatOp where
  core : Nat
  half : Nat
  tile : Nat
  aKey : Nat
  bKey : Nat
  i : Nat
  j : Nat
  trans : Bool
  zskip : Bool
  deriving DecidableEq, Repr

/-- The pieces of the A operand of step n. -/
def MatOp.aPieces (o : MatOp) (t : Team) (n : Nat) : List (Nat × Nat) :=
  let h := t.hrec o.aKey
  let st := kStep h.fmt
  (List.range 16).flatMap fun m => h.rowPieces (16 * o.i + m) (n * st) st

/-- The pieces of the B operand of step n. -/
def MatOp.bPieces (o : MatOp) (t : Team) (n : Nat) : List (Nat × Nat) :=
  let h := t.hrec o.bKey
  let st := kStep h.fmt
  if o.trans then (List.range st).flatMap fun x => h.rowPieces (n * st + x) (16 * o.j) 16
  else (List.range 16).flatMap fun q => h.rowPieces (16 * o.j + q) (n * st) st

/-- The A operand of step n, by row. -/
def MatOp.aRows (o : MatOp) (t : Team) (n : Nat) : List (List FVal) :=
  let st := kStep (t.hrec o.aKey).fmt
  (List.range 16).map fun m => (List.range st).map fun x => t.element o.aKey (16 * o.i + m) (n * st + x)

/-- The B operand of step n, by output column. -/
def MatOp.bCols (o : MatOp) (t : Team) (n : Nat) : List (List FVal) :=
  let st := kStep (t.hrec o.bKey).fmt
  (List.range 16).map fun q => (List.range st).map fun x =>
    if o.trans then t.element o.bKey (n * st + x) (16 * o.j + q) else t.element o.bKey (16 * o.j + q) (n * st + x)

/-- The place of a tile's elements. -/
def tilePlace (half tile : Nat) : Nat := (half * 256 + tile) * 256

/-- The place of a tile's checksum words. -/
def sumPlace (half tile : Nat) : Nat := (half * 256 + tile) * 32

/-- The 256 elements of a tile. -/
def Team.tile (t : Team) (half n : Nat) : List Word := sgetList 0 t.tiles (tilePlace half n) 256

/-- The checksum words of a tile, CR and then CC (R318). -/
def Team.checks (t : Team) (half n : Nat) : List Word := sgetList 0 t.sums (sumPlace half n) 32

/-- Whether an error site lies in words of a tile of the team. -/
def dropTileErrors (t : Team) (core tile lo n : Nat) : Team :=
  { t with errors := t.errors.filter fun e => !e.inTile core tile lo n }

/-- Writes the elements of a tile; a word written whole loses its error (R121). -/
def Team.setTile (t : Team) (half n : Nat) (ws : List Word) : Team :=
  let t1 := dropTileErrors t (t.core + half) n 0 256
  { t1 with tiles := ssetList 0 t1.tiles (tilePlace half n) ws }

/-- Writes the checksum words of a tile. -/
def Team.setChecks (t : Team) (half n : Nat) (ws : List Word) : Team :=
  let t1 := dropTileErrors t (t.core + half) n 256 32
  { t1 with sums := ssetList 0 t1.sums (sumPlace half n) ws }

/-- The products of a row and a column that ZSKIP leaves (R321, R322). -/
def productsOf (zskip : Bool) (a b : List FVal) : List (Option FVal) :=
  ((a.zip b).filter fun p => !(zskip && (p.1.isZero || p.2.isZero))).map fun p => p.1.mul p.2

/-- One element of a K step (R321). -/
def stepElement (int8 zskip ftz : Bool) (c : Word) (a b : List FVal) : Word :=
  let ps := productsOf zskip a b
  if int8 then c + BitVec.ofInt 32 (sumAt 0 (ps.filterMap id)) else accumulate ftz c ps

/-- A K step on the words of a tile. -/
def stepTile (int8 zskip ftz : Bool) (cs : List Word) (as bs : List (List FVal)) : List Word :=
  (List.range 256).map fun e =>
    stepElement int8 zskip ftz (cs.getD e 0) (as.getD (e / 16) []) (bs.getD (e % 16) [])

/-- The exact sums of the entries of some rows, position by position. -/
def columnSums (rows : List (List FVal)) (n : Nat) : List FVal :=
  (List.range n).map fun k => exactSum (rows.map fun r => r[k]?)

/-- A K step on the checksum words of a tile (R324). -/
def stepChecks (zskip ftz : Bool) (cs : List Word) (as bs : List (List FVal)) : List Word :=
  let n := (as.headD []).length
  let sb := columnSums bs n
  let sa := columnSums as n
  let pick := fun (own other : List FVal) =>
    ((own.zip other).filter fun p => !(zskip && p.1.isZero)).map fun p => p.1.mul p.2
  (List.range 32).map fun m =>
    accumulate ftz (cs.getD m 0) (if m < 16 then pick (as.getD m []) sb else pick (bs.getD (m - 16) []) sa)

/-- Updates a tile and, for MMAK, its checksum area with step n (R321, R324). -/
def MatOp.update (o : MatOp) (t : Team) (n : Nat) (checks : Bool) : Team :=
  let int8 := decide ((t.hrec o.bKey).fmt = 7)
  let as := o.aRows t n
  let bs := o.bCols t n
  let c := stepTile int8 o.zskip t.launch.ftz (t.tile o.half o.tile) as bs
  let t1 := { t with tiles := ssetList 0 t.tiles (tilePlace o.half o.tile) c }
  if checks then
    { t1 with sums := ssetList 0 t1.sums (sumPlace o.half o.tile)
                (stepChecks o.zskip t.launch.ftz (t.checks o.half o.tile) as bs) }
  else t1

/-- Consumes the uncorrectable errors of an operand tile (R121, R326). -/
def MatOp.tileErrors (o : MatOp) (t : Team) (mask : DWord) (checks : Bool) : Fetched :=
  let n := if checks then 288 else 256
  if t.errors.any fun e => e.inTile o.core o.tile 0 n then
    .trap { cause := 0x0302, mask := mask, kind := 2 } (dropTileErrors t o.core o.tile 0 n)
  else .ok t

/-- One K step of an MMA, MMAK or MMAM (R321, R326): its operands are fetched, and then it accumulates. DEDUCED, log entry 48. -/
def MatOp.step (o : MatOp) (t : Team) (mask : DWord) (n : Nat) (checks : Bool) : Fetched :=
  match t.fetchPieces mask o.aKey (o.aPieces t n) with
  | .ok t1 =>
    match t1.fetchPieces mask o.bKey (o.bPieces t n) with
    | .ok t2 =>
      match o.tileErrors t2 mask checks with
      | .ok t3 => .ok (o.update t3 n checks)
      | x => x
    | x => x
  | x => x

/-- What a run of K steps comes to: the team and the steps done, with what ended it early. -/
structure Ran where
  t : Team
  done : Nat
  stop : Option (Option Trap)

/-- Runs K steps from step n, `fuel` at most. DEDUCED, log entry 48. -/
def runSteps (step : Team → Nat → Fetched) (t : Team) (n : Nat) : Nat → Ran
  | 0 => { t := t, done := n, stop := none }
  | fuel + 1 =>
    match step t n with
    | .ok t1 => runSteps step t1 (n + 1) fuel
    | .wait => { t := t, done := n, stop := some none }
    | .trap tr t1 => { t := t1, done := n, stop := some (some tr) }

/-! ### The checks of a product (R320, R351) -/

/-- Whether two formats may meet in one product. -/
def formatsMeet (a b : Nat) : Bool :=
  decide (a = b) || (decide (a = 2) && decide (b = 3)) || (decide (a = 3) && decide (b = 2))
    || (decide (a = 4) && decide (b = 5)) || (decide (a = 5) && decide (b = 4))

/-- FORMAT with the fields of R320. -/
def formatTrap (mask : DWord) (rec fb fa reason : Nat) : Trap :=
  { cause := 0x010B, mask := mask
    detail := BitVec.ofNat 64 (rec % 32 + fb * 2 ^ 8 + fa * 2 ^ 12 + 2 ^ 16 * reason) }

/-- FORMAT of a mask tile (R350, R351). -/
def maskTrap (mask : DWord) (tile reason : Nat) : Trap :=
  { cause := 0x010B, mask := mask, detail := BitVec.ofNat 64 (tile % 256 + 2 ^ 16 * reason) }

/-- PAGE_FAULT of a tile index at or above ACC (R317). -/
def tileTrap (t : Team) (mask : DWord) (tile : Nat) : Option Trap :=
  if t.launch.acc ≤ tile then some (pageTrap mask 0 5 none) else none

/-- The first of some traps. -/
def firstTrap : List (Option Trap) → Option Trap
  | [] => none
  | some tr :: _ => some tr
  | none :: rest => firstTrap rest

/-- Steps 2 to 4 of R320. DEDUCED, log entry 48. -/
def MatOp.recordTrap (o : MatOp) (t : Team) (mask : DWord) (checks : Bool) : Option Trap :=
  let a := t.hrec o.aKey
  let b := t.hrec o.bKey
  let fmt := fun (reason : Nat) => some (formatTrap mask (o.bKey % 32) b.fmt a.fmt reason)
  firstTrap [a.trap? (o.aKey % 32) mask, b.trap? (o.bKey % 32) mask,
    if !formatsMeet a.fmt b.fmt then fmt 1
    else if (if o.trans then b.rows else b.kLen) ≠ a.kLen then fmt 2
    else if o.trans ∧ b.fmt = 6 then fmt 3
    else if checks ∧ a.fmt = 7 then fmt 4
    else none,
    if a.rows ≤ 16 * o.i ∨ (if o.trans then b.kLen else b.rows) ≤ 16 * o.j then some (pageTrap mask 0 5 none)
    else none]

/-- The product that a matrix word names (R316, R319). -/
def Ctx.matOp (c : Ctx) (w : WE) : MatOp :=
  let coord := c.u w.a
  { core := c.g.core, half := c.g.core - c.t.core, tile := (c.u w.d).toNat
    aKey := c.t.hrecKey c.g.core (w.sub.toNat % 32), bKey := c.t.hrecKey c.g.core (w.b.toNat % 32)
    i := fieldOf coord 0 16, j := fieldOf coord 16 16, trans := bitAt w.b 5, zskip := bitAt w.sub 5 }

/-! ### Mask tiles (R349) -/

/-- The header of a mask tile: ROWS, KT and KT0, when it is valid. -/
def maskHeader (c0 c1 : Word) : Option (Nat × Nat × Nat) :=
  let rows := fieldOf c0 0 16
  let kt := fieldOf c0 16 16
  if fieldOf c1 16 16 = 0 ∧ 1 ≤ rows ∧ rows ≤ 512 ∧ 1 ≤ kt ∧ kt ≤ 512 ∧ rows * kt ≤ 512 then
    some (rows, kt, fieldOf c1 0 16)
  else none

/-- The header of tile x as its checksum words stand. -/
def Team.maskOfTile (t : Team) (half x : Nat) : Option (Nat × Nat × Nat) :=
  let cs := t.checks half x
  maskHeader (cs.getD 0 0) (cs.getD 1 0)

/-- MMAM masks its tile (R351). -/
def MatOp.applyMask (o : MatOp) (t : Team) (x : Nat) (h : Nat × Nat × Nat) : Team :=
  let m := t.tile o.half x
  let open_ := fun (row q : Nat) =>
    let r := 16 * o.i + row
    if r < h.1 ∧ h.2.2 ≤ o.j ∧ o.j - h.2.2 < h.2.1 then
      let n := r * h.2.1 + (o.j - h.2.2)
      bitAt (m.getD (n / 2) 0) (16 * (n % 2) + q)
    else false
  let c := t.tile o.half o.tile
  t.setTile o.half o.tile ((List.range 256).map fun e =>
    if open_ (e / 16) (e % 16) then c.getD e 0 else 0xFF800000)

/-! ### The instructions -/

/-- The steps from which a group continues its matrix instruction (R326). -/
def Group.startStep (g : Group) : Nat :=
  match g.progress with
  | some p => if p.inHandler = g.inHandler ∧ p.pc = g.pc then p.steps else 0
  | none => 0

/-- The product under way of a group. -/
def Group.product? (g : Group) : Option Progress :=
  g.progress.filter fun p => decide (p.inHandler = g.inHandler) && decide (p.pc = g.pc) && !p.recs.isEmpty

/-- The records with which the product under way began, none when it has yet to begin (R312). -/
def Group.recs (g : Group) : List (Nat × DWord × DWord × DWord) := (g.product?.map (·.recs)).getD []

/-- The group record keeps a step count. -/
def Group.keepSteps (g : Group) (n : Nat) : Group :=
  { g with progress := some { inHandler := g.inHandler, pc := g.pc, steps := n } }

/-- The product of a group is under way: its steps, its records and its place among the products of its core. -/
def Group.underWay (g : Group) (n : Nat) (recs : List (Nat × DWord × DWord × DWord)) (turn : Nat) : Group :=
  { g with progress := some { inHandler := g.inHandler, pc := g.pc, steps := n, recs := recs, turn := turn } }

/-- Words 0 to 2 of some records. -/
def Team.recsOf (t : Team) (keys : List Nat) : List (Nat × DWord × DWord × DWord) :=
  keys.map fun k => (k, (t.hrec k).w0, (t.hrec k).w1, (t.hrec k).w2)

/-- The team as a product under way sees it: through the records with which it began, wholly (R310, R312). -/
def Team.withRecs (t : Team) (recs : List (Nat × DWord × DWord × DWord)) : Team :=
  { t with hrecs := recs.foldl (fun m r =>
      let h := sget {} m r.1
      sset {} m r.1 { h with w0 := r.2.1, w1 := r.2.2.1, w2 := r.2.2.2, w3 := setField h.w3 31 1 1 }) t.hrecs }

/-! ### The order of the steps on a core (R325) -/

/-- The products under way on a core beside those of some groups of a team. -/
def State.productsBeside (s : State) (t : Team) (core : Nat) (nums : List Nat) : List (Nat × Group × Progress) :=
  s.teams.flatMap fun u => (u.groups.filter fun g => decide (g.core = core)
      && !(decide (u.core = t.core) && decide (u.slot = t.slot) && nums.contains g.num)).filterMap fun g =>
    g.product?.map fun p => (u.part, g, p)

/-- The place of the next step on a core: behind those of every product under way. -/
def nextTurn (ps : List (Nat × Group × Progress)) (own : Nat) : Nat := ps.foldl (fun n p => Nat.max n p.2.2.turn) own + 1

/-- Whether another product's step comes first: it stands before, and waits for no operand. A stopping partition's
product takes no further step (R325, R327). -/
def State.stepsFirst (s : State) (ps : List (Nat × Group × Progress)) (turn : Nat) : Bool :=
  ps.any fun p => decide (p.2.2.turn < turn) && decide (p.2.1.wait = .held) && decide (s.pstate p.1 = 1)

/-- A matrix instruction discards the progress that a handler has kept (R326), once its guard holds. -/
def Ctx.dropOuter (c : Ctx) : Ctx :=
  match c.g.progress with
  | some p => if c.g.inHandler && !p.inHandler then { c with g := { c.g with progress := none } } else c
  | none => c

/-- A group-wide matrix instruction up to MASK_PARTIAL (R317). -/
def matInstr (w : WE) (s : State) (locs : List Loc) (f : State → Ctx → Res) : Res :=
  uniInstr s (guardYX w.m) w.m 0 locs fun s c0 =>
    let c := c0.dropOuter
    if c.g.underfull c.t then c.trap s (partialTrap c.g) else f s c

/-- What a group's product may do in this turn: wait for the steps of others, or perform at most so many steps from
one on, and its place before and after (R325, R327). DEDUCED, log entry 48. -/
structure StepTurn where
  first : Nat
  limit : Nat
  turn : Nat
  next : Nat
  blocked : Bool

/-- The turn of a product of n steps: one step while others are under way on the core or its partition stops. -/
def Ctx.stepTurn (c : Ctx) (s : State) (nums : List Nat) (n limit : Nat) : StepTurn :=
  let ps := s.productsBeside c.t c.g.core nums
  let turn := match c.g.product? with
    | some p => p.turn
    | none => nextTurn ps 0
  let first := c.g.startStep
  let most := if ps.isEmpty && decide (s.pstate c.t.part ≠ 2) then limit else Nat.min limit 1
  { first := first, limit := Nat.min most (n - first), turn := turn, next := nextTurn ps turn
    blocked := s.stepsFirst ps turn }

/-- The records through which a product fetches: those with which it began. -/
def Ctx.productRecs (c : Ctx) (keys : List Nat) : List (Nat × DWord × DWord × DWord) :=
  if c.g.recs.isEmpty then c.t.recsOf keys else c.g.recs

/-- A product of one group after its checks: K steps from its progress, at most `limit` of them, then the
mask of an MMAM, and the instruction completes (R320, R321, R326, R352). -/
def Ctx.product (c : Ctx) (s : State) (o : MatOp) (m : Mods) (checks : Bool) (mask : Option Nat) (limit : Nat) : Res :=
  let recs := c.productRecs [o.aKey, o.bKey]
  let v := c.t.withRecs recs
  let n := (v.hrec o.aKey).steps
  let x := c.stepTurn s [c.g.num] n limit
  if x.blocked then ({ c with g := c.g.underWay x.first recs x.turn } : Ctx).wait s .held
  else
  let r0 := runSteps (fun t k => o.step t c.g.activeMask k checks) v x.first x.limit
  let r : Ran := { r0 with t := { r0.t with hrecs := c.t.hrecs } }
  let keep : Ctx := { c with t := r.t, g := c.g.keepSteps r.done }
  let on : Ctx := { c with t := r.t, g := c.g.underWay r.done recs (if r.done = x.first then x.turn else x.next) }
  match r.stop with
  | some (some tr) => keep.trap s tr
  | some none => on.wait s .watermark
  | none =>
    if r.done < n then on.wait s .held
    else
      let finish := fun (t : Team) =>
        Host.Outcome.next (({ c with t := t, g := { c.g with progress := none } } : Ctx).finish s 0 m.words)
      match mask with
      | none => finish r.t
      | some x =>
        if r.t.errors.any fun e => e.inTile o.core x 0 258 then
          { keep with t := dropTileErrors r.t o.core x 0 258 }.trap s { cause := 0x0302, mask := c.g.activeMask, kind := 2 }
        else
          match r.t.maskOfTile o.half x with
          | none => keep.trap s (maskTrap c.g.activeMask x 5)
          | some h => finish (o.applyMask r.t x h)

/-- The header check of an MMAM before step 0 (R351): words 256 and 257 of tile x are read, and one with an
uncorrectable error traps UECC (R121, R326). -/
def Ctx.withHeader (c : Ctx) (s : State) (o : MatOp) (x : Nat) (f : Ctx → Res) : Res :=
  if c.t.errors.any fun e => e.inTile o.core x 256 2 then
    ({ c with t := dropTileErrors c.t o.core x 256 2 } : Ctx).trap s { cause := 0x0302, mask := c.g.activeMask, kind := 2 }
  else if (c.t.maskOfTile o.half x).isNone then c.trap s (maskTrap c.g.activeMask x 5)
  else f c

/-- MMA, MMAK and MMAM with at most `limit` K steps (R319, R320, R351). The header of a mask tile is judged before step 0
and after the last step alone. -/
def runProduct (w : WE) (s : State) (checks masked : Bool) (limit : Nat) : Res :=
  matInstr w s (uniLocs w.d ++ uniLocs w.a) fun s c =>
    let o := c.matOp w
    let am := c.g.activeMask
    let x := fieldOf (c.u w.a) 32 8
    let v := c.t.withRecs c.g.recs
    let tr := firstTrap [tileTrap c.t am o.tile, if masked then tileTrap c.t am x else none,
      o.recordTrap v am checks,
      if !masked then none
      else if (v.hrec o.aKey).fmt = 7 then
        some (formatTrap am (o.bKey % 32) (v.hrec o.bKey).fmt (v.hrec o.aKey).fmt 4)
      else if x = o.tile then some (maskTrap am x 6) else none]
    match tr with
    | some tr => c.trap s tr
    | none =>
      if masked && c.g.product?.isNone && decide (c.g.startStep = 0) then
        c.withHeader s o x fun c => c.product s o w.m checks (some x) limit
      else c.product s o w.m checks (if masked then some x else none) limit

/-- The K steps of the longest product. -/
def allSteps : Nat := 65536

/-- MMA (R319 to R323). -/
def execMma (w : WE) (s : State) : Res := runProduct w s false false allSteps
/-- MMAK (R324). -/
def execMmak (w : WE) (s : State) : Res := runProduct w s true false allSteps
/-- MMAM (R351, R352). -/
def execMmam (w : WE) (s : State) : Res := runProduct w s false true allSteps

/-! ### Tiles -/

/-- ACLR (R329). -/
def execAclr (w : WE) (s : State) : Res :=
  matInstr w s (uniLocs w.d) fun s c =>
    let half := c.g.core - c.t.core
    let n := (c.u w.d).toNat
    match tileTrap c.t c.g.activeMask n with
    | some tr => c.trap s tr
    | none =>
      .next (({ c with t := (c.t.setTile half n (List.replicate 256 0)).setChecks half n (List.replicate 32 0) }
        : Ctx).finish s 0 w.m.words)

/-- A scratchpad read made once for the group (R120, R121, R182): its bytes, or what stops it. -/
def Ctx.scratchRead (c : Ctx) (off n : Nat) : Fetched × List Byte :=
  let mask := c.g.activeMask
  match c.t.loadMeets .scratch 0 off n with
  | .failed k => (.trap { cause := 0x010A, mask := mask, addr := BitVec.ofNat 64 off, detail := entryDetail k 1 } c.t, [])
  | .stall => (.wait, [])
  | _ =>
    match (sectorsOf off n).find? (sget false c.t.scratchPoison) with
    | some sec => (.trap { cause := 0x0300, mask := mask, addr := BitVec.ofNat 64 (Nat.max off (sec * 32)) } c.t, [])
    | none =>
      if c.t.errors.any fun e => e.inScratch off n then
        (.trap { cause := 0x0302, mask := mask, kind := 1 }
          { c.t with errors := c.t.errors.filter fun e => !e.inScratch off n }, [])
      else (.ok c.t, c.t.scratchBytes off n)

/-- Goes on with the bytes of such a read. -/
def Ctx.withScratch (c : Ctx) (s : State) (off n : Nat) (f : Ctx → List Byte → Res) : Res :=
  match c.scratchRead off n with
  | (.ok _, bs) => f c bs
  | (.wait, _) => c.wait s .watermark
  | (.trap tr t, _) => ({ c with t := t } : Ctx).trap s tr

/-- The 32-bit words of some bytes. -/
def wordsOf (bs : List Byte) : List Word := (List.range (bs.length / 4)).map fun i => wordAt bs (4 * i)

/-- The rows of a tile as values. -/
def tileRows (ws : List Word) : List (List FVal) :=
  (List.range 16).map fun m => ((ws.drop (16 * m)).take 16).map fun w => f32.decode false w.toNat

/-- The columns of a tile as values. -/
def tileCols (ws : List Word) : List (List FVal) :=
  (List.range 16).map fun q => (List.range 16).map fun m => f32.decode false (ws.getD (16 * m + q) 0).toNat

/-- RN of a value as an F32 word, subnormals kept. -/
def roundF32 (v : FVal) : Word := BitVec.ofNat 32 (f32.encodeExact v)

/-- The checksum words of a tile as loaded (R330). -/
def sumsOf (ws : List Word) : List Word :=
  (tileRows ws ++ tileCols ws).map fun l => roundF32 (exactSum (l.map some))

/-- A tile transfer up to its alignment and bounds (R330). -/
def transfer (w : WE) (s : State) (f : State → Ctx → Nat → Nat → Nat → Res) : Res :=
  matInstr w s (uniLocs w.d ++ uniLocs w.a) fun s c =>
    let n := (c.u w.d).toNat
    let off := fieldOf (c.u w.a) 0 32
    let size := if bitAt w.sub 1 then 128 else 1024
    let am := c.g.activeMask
    let tr := firstTrap [tileTrap c.t am n,
      if off % 64 ≠ 0 then some { cause := 0x0108, mask := am, addr := BitVec.ofNat 64 off } else none,
      if 1024 * c.t.launch.scratch < off + size then some (pageTrap am (BitVec.ofNat 64 off) 5 none) else none]
    match tr with
    | some tr => c.trap s tr
    | none => f s c n off size

/-- ALD (R330). -/
def execAld (w : WE) (s : State) : Res :=
  transfer w s fun s c n off size =>
    c.withScratch s off size fun c bs =>
      let half := c.g.core - c.t.core
      let ws := wordsOf bs
      let t := if bitAt w.sub 1 then c.t.setChecks half n ws
        else if bitAt w.sub 0 then (c.t.setTile half n ws).setChecks half n (sumsOf ws)
        else c.t.setTile half n ws
      .next (({ c with t := t } : Ctx).finish s 0 w.m.words)

/-- AST (R330). -/
def execAst (w : WE) (s : State) : Res :=
  transfer w s fun s c n off size =>
    let half := c.g.core - c.t.core
    let ck := bitAt w.sub 1
    match c.t.storeMeets .scratch 0 off size with
    | .conflict k kind =>
      c.trap s { cause := 0x0109, mask := c.g.activeMask, addr := BitVec.ofNat 64 off, detail := entryDetail k kind }
    | _ =>
      let lo := if ck then 256 else 0
      let cnt := if ck then 32 else 256
      if c.t.errors.any fun e => e.inTile c.g.core n lo cnt then
        ({ c with t := dropTileErrors c.t c.g.core n lo cnt } : Ctx).trap s
          { cause := 0x0302, mask := c.g.activeMask, kind := 2 }
      else
        let ws := if ck then c.t.checks half n else c.t.tile half n
        .next (({ c with t := c.t.putScratch off (ws.flatMap bytes32) } : Ctx).finish s 0 w.m.words)

/-! ### ACHK (R331) -/

/-- A tolerance: a negative or NaN value counts as +0. -/
def tolerance (w : Word) : FVal :=
  match f32.decode false w.toNat with
  | .nan _ _ => .fin false 0 0
  | v => if v.neg then .fin false 0 0 else v

/-- The absolute value. -/
def FVal.abs (v : FVal) : FVal := v.modify true false

/-- The negated value. -/
def FVal.minus (v : FVal) : FVal := v.modify false true

/-- The residue of R331. -/
def residue (x y : FVal) : FVal :=
  if x.isNan || y.isNan then .inf false
  else
    match x, y with
    | .inf n, .inf k => if n = k then .fin false 0 0 else .inf false
    | .inf _, _ => .inf false
    | _, .inf _ => .inf false
    | x, y => (exactSum [some x, some y.minus]).abs

/-- The judgement of one row or column: whether it is flagged, and RN(checksum − sum). -/
def judgeSum (ta tr : FVal) (sum : Word) (cells : List FVal) : Bool × Word :=
  let s := exactSum (cells.map some)
  let z := exactSum (cells.map fun c => some c.abs)
  let c := f32.decode false sum.toNat
  let rel := match tr.mul z with
    | some p => if p.isNan then .fin false 0 0 else p
    | none => .fin false 0 0
  let limit := exactSum [some ta, some rel]
  let nan := s.isNan || c.isNan || cells.any FVal.isNan
  (nan || decide ((residue c s).cmp limit = 1), roundF32 (exactSum [some c, some s.minus]))

/-- The result pair of ACHK from the judgements of the rows and the columns. -/
def achkPair (rows cols : List (Bool × Word)) : DWord × DWord :=
  let idx := fun (l : List (Bool × Word)) => (List.range 16).filter fun i => (l.getD i (false, 0)).1
  let r := idx rows
  let q := idx cols
  let mask := fun (l : List Nat) => l.foldl (fun m i => m + 2 ^ i) 0
  let res := fun (l : List (Bool × Word)) (f : List Nat) =>
    match f with
    | i :: _ => (l.getD i (false, 0)).2.toNat
    | [] => 0
  (BitVec.ofNat 64 ((if r.length = 1 ∧ q.length = 1 then 2 ^ 63 else 0) + 2 ^ 52 * (q.headD 0) + 2 ^ 48 * (r.headD 0)
      + 2 ^ 40 * q.length + 2 ^ 32 * r.length + 2 ^ 16 * (mask q) + mask r),
   BitVec.ofNat 64 (2 ^ 32 * (res cols q) + res rows r))

/-- ACHK (R331). -/
def execAchk (w : WE) (s : State) : Res :=
  matInstr w s (uniLocs w.a ++ uniLocs w.b) fun s c =>
    let n := (c.u w.a).toNat
    match tileTrap c.t c.g.activeMask n with
    | some tr => c.trap s tr
    | none =>
      if c.t.errors.any fun e => e.inTile c.g.core n 0 288 then
        ({ c with t := dropTileErrors c.t c.g.core n 0 288 } : Ctx).trap s
          { cause := 0x0302, mask := c.g.activeMask, kind := 2 }
      else
        let half := c.g.core - c.t.core
        let ws := c.t.tile half n
        let cs := c.t.checks half n
        let ta := tolerance ((c.u w.b).setWidth 32)
        let tr := tolerance ((c.u w.b >>> 32).setWidth 32)
        let judge := fun (ls : List (List FVal)) (cs : List Word) => (ls.zip cs).map fun p => judgeSum ta tr p.2 p.1
        let r := achkPair (judge (tileRows ws) (cs.take 16)) (judge (tileCols ws) (cs.drop 16))
        .next (((c.setS 0 w.d.toNat r.1).setS 0 (w.d.toNat + 1) r.2).finish s 0 w.m.words)

/-! ### MASKP (R350) -/

/-- The words of a mask tile from the mask bytes. -/
def maskWords (bs : List Byte) : List Word :=
  wordsOf (bs ++ List.replicate (1024 - bs.length) 0)

/-- MASKP (R349, R350). -/
def execMaskp (w : WE) (s : State) : Res :=
  matInstr w s (uniLocs w.d ++ uniLocs w.a) fun s c =>
    let n := (c.u w.d).toNat
    let off := fieldOf (c.u w.a) 0 32
    let am := c.g.activeMask
    let beyond := fun (size : Nat) => if 1024 * c.t.launch.scratch < off + size
      then some (pageTrap am (BitVec.ofNat 64 off) 5 none) else none
    let tr := firstTrap [tileTrap c.t am n,
      if off % 8 ≠ 0 then some { cause := 0x0108, mask := am, addr := BitVec.ofNat 64 off } else none, beyond 8]
    match tr with
    | some tr => c.trap s tr
    | none =>
      c.withScratch s off 8 fun c hd =>
        let c0 := wordAt hd 0
        let c1 := wordAt hd 4
        match maskHeader c0 c1 with
        | none => c.trap s (maskTrap am n 5)
        | some h =>
          let size := 2 * h.1 * h.2.1
          match beyond (8 + size) with
          | some tr => c.trap s tr
          | none =>
            c.withScratch s (off + 8) size fun c bs =>
              let half := c.g.core - c.t.core
              let t := (c.t.setTile half n (maskWords bs)).setChecks half n ([c0, c1] ++ List.replicate 30 0)
              .next (({ c with t := t } : Ctx).finish s 0 w.m.words)

end Sys2Proof.Machine
end

