-- ==== Sys2Proof/Machine/Pairs.lean ====
section
/-! DEFINITION. Guided pairs (R332 to R346): PAIR, UNPAIR, and the two meeting points MMAP and GUIDE. -/

namespace Sys2Proof.Machine

/-! ### Halves -/

/-- The fibres of a group. -/
def Group.fibres (g : Group) : List Nat := g.active.map (·.2)

/-- The lowest fibre id of a group. -/
def Group.lowFibre (g : Group) : Nat := g.fibres.foldl Nat.min (g.fibres.headD 0)

/-- The mask of a group's fibres over its lowest one. -/
def Group.fibreMask (g : Group) : DWord := maskOf (g.fibres.map (· - g.lowFibre))

/-- Whether every fibre of a group lies within 64 of its lowest one (R338). -/
def Group.inReach (g : Group) : Bool := g.fibres.all fun f => decide (f < g.lowFibre + 64)

/-- Whether the fibres of a group are those of a half. -/
def Group.isSet (g : Group) (fs : List Nat) : Bool :=
  decide (g.fibres.length = fs.length) && g.fibres.all fs.contains

/-- The half of an entry that a group is (R333). -/
def PairEntry.half? (e : PairEntry) (g : Group) : Option Nat :=
  if e.state = 2 ∨ e.state = 3 then [0, 1].find? fun r => !e.gone r && g.isSet (e.set r) else none

/-- The role of the waiting half of an OPEN entry. -/
def PairEntry.orole (e : PairEntry) : Nat := fieldOf e.w3 3 1

/-- The roles whose halves an entry holds. -/
def PairEntry.roles (e : PairEntry) : List Nat :=
  if e.state = 0 then [] else if e.state = 1 then [e.orole] else [0, 1].filter fun r => !e.gone r

/-- A pair entry of a team. -/
def Team.pair (t : Team) (k : Nat) : PairEntry := sget {} t.pairs k

/-- Writes a pair entry. -/
def Team.setPair (t : Team) (k : Nat) (e : PairEntry) : Team := { t with pairs := sset {} t.pairs k e }

/-- Records a group as a half. -/
def PairEntry.record (e : PairEntry) (role : Nat) (g : Group) : PairEntry :=
  let e1 := e.setMask role g.fibreMask
  { e1 with w2 := setField e1.w2 (32 * role) 32 g.lowFibre }

/-- Records a pending arrival (R335, R339). -/
def PairEntry.setPend (e : PairEntry) (kind role step : Nat) : PairEntry :=
  { e with w3 := setField (setField (setField e.w3 6 2 kind) 8 1 role) 32 32 step }

/-- Another group of the team that has arrived at a slot. -/
def Team.arrivedAt (t : Team) (k num : Nat) : Option (Group × Arrival) :=
  t.groups.findSome? fun u =>
    match u.arrival with
    | some a => if u.num ≠ num ∧ a.slot = k then some (u, a) else none
    | none => none

/-! ### PAIR and UNPAIR -/

/-- PAIR ends with a status that records nothing (R338). -/
def Ctx.pairStatus (c : Ctx) (s : State) (w : WE) (status : Nat) : Res :=
  .next ((c.setS 0 w.d.toNat (BitVec.ofNat 64 status)).finish s 0 w.m.words)

/-- Completes a binding (R334, R338): both groups go on with status BOUND and the lowest fibre of the other
half; it is a release and an acquire at TEAM scope by the fibres of both. DEDUCED, log entry 51. -/
def Ctx.bind (c : Ctx) (s : State) (w : WE) (k role : Nat) (p : Group) (a : Arrival) : Res :=
  let e := (c.t.pair k).record role c.g
  let bound : PairEntry := { e with w3 := setField (setField e.w3 3 1 0) 0 3 2 }
  let t1 := (if c.t.launch.contain then c.t.closeEntries else c.t).setPair k bound
  let first := (({ c with t := t1, g := p } : Ctx).setS 0 (a.ops.headD 0).toNat
    (BitVec.ofNat 64 (2 ^ 32 * c.g.lowFibre))).g.retire c.clk 0 a.words
  let own := c.setS 0 w.d.toNat (BitVec.ofNat 64 (2 ^ 32 * p.lowFibre))
  .next (({ own with t := t1.putGroup first } : Ctx).finish ((s.observeBy c.t p).observeBy c.t c.g) 0 w.m.words)

/-- The core on which a fibre stands, in a group or parked. -/
def Team.coreOf (t : Team) (f : Nat) : Nat :=
  match t.groups.find? fun g => g.fibres.contains f with
  | some g => g.core
  | none => ((t.attic.find? fun p => decide (p.fid = f)).map (·.core)).getD t.core

/-- PAIR (R334, R338). A waiting half that a fault has parked is a group again before the two bind. DEDUCED, log entry
51. -/
def execPair (w : WE) (s : State) : Res :=
  let k := w.sub.toNat % 8
  let role := if bitAt w.sub 3 then 1 else 0
  matInstr w s [] fun s c =>
    let e := c.t.pair k
    let a : Arrival := { slot := k, kind := 0, words := w.m.words, ops := [w.d.setWidth 64] }
    if e.state = 1 ∧ e.orole = role ∧ c.g.isSet (e.set role) = true then
      ({ c with g := { c.g with arrival := some a } } : Ctx).wait s .pair
    else if !c.g.inReach then c.pairStatus s w 4
    else if (List.range 8).any fun j => (c.t.pair j).roles.any fun r =>
        ((c.t.pair j).set r).any c.g.fibres.contains then c.pairStatus s w 5
    else if e.state = 2 ∨ e.state = 3 then c.pairStatus s w 2
    else if e.state = 1 then
      if e.orole = role then c.pairStatus s w 1
      else
        match c.t.arrivedAt k c.g.num with
        | none => if (e.set e.orole).any fun f => c.t.coreOf f ≠ c.g.core then c.pairStatus s w 3 else c.wait s .pair
        | some (p, a) => if p.core ≠ c.g.core then c.pairStatus s w 3 else c.bind s w k role p a
    else
      let r := ({} : PairEntry).record role c.g
      let open_ : PairEntry := { r with w3 := setField (setField 0 3 1 role) 0 3 1 }
      ({ c with t := c.t.setPair k open_, g := { c.g with arrival := some a } } : Ctx).wait s .pair

/-- UNPAIR (R344). -/
def execUnpair (w : WE) (s : State) : Res :=
  let k := w.sub.toNat % 8
  uniInstr s (guardYX w.m) w.m 0 [] fun s c0 =>
    let c := c0.dropOuter
    let e := c.t.pair k
    let t := match e.half? c.g with
      | some r => c.t.setPair k (e.leave r)
      | none => c.t
    .next (({ c with t := t } : Ctx).finish s 0 w.m.words)

/-! ### Meeting points (R339) -/

/-- PAIR_SPLIT (R339). -/
def splitTrap (g : Group) (reason k : Nat) : Trap :=
  { cause := 0x010D, mask := g.activeMask, detail := BitVec.ofNat 64 (reason + k * 16) }

/-- Two groups of a team trap: the second only while its team is still there. -/
def State.trapBoth (s : State) (t : Team) (g : Group) (tr : Trap) (num : Nat) (tr2 : Trap) : State :=
  let s1 := s.takeTrap t g tr
  match s1.team? t.core t.slot with
  | some t1 =>
    if t1.inst = t.inst ∧ t1.index = t.index then
      match t1.group? num with
      | some p => s1.takeTrap t1 p { tr2 with mask := p.activeMask }
      | none => s1
    else s1
  | none => s1

/-- The arrival of a group at a meeting point (R339), once its own checks have passed: it performs alone, it
waits, the halves split, or it performs with its partner. DEDUCED, log entry 51. -/
def Ctx.meet (c : Ctx) (s : State) (a : Arrival) (step : Nat) (same : List DWord → List DWord)
    (alone : Ctx → Nat → Res) (paired : Ctx → Group → Arrival → Res) : Res :=
  let e := c.t.pair a.slot
  match e.half? c.g with
  | none => c.trap s (splitTrap c.g 1 a.slot)
  | some role =>
    let here : Ctx := { c with g := { c.g with arrival := some a } }
    if e.state = 3 then alone c role
    else if e.pend = 0 then ({ here with t := c.t.setPair a.slot (e.setPend a.kind role step) } : Ctx).wait s .pair
    else if e.prole = role then here.wait s .pair
    else
      match c.t.arrivedAt a.slot c.g.num with
      | none => c.wait s .pair
      | some (p, b) =>
        let t1 := c.t.setPair a.slot e.noPend
        let reason := if b.kind ≠ a.kind then 2
          else if same a.ops ≠ same b.ops then (if a.kind = 1 then 3 else 4)
          else if e.pstep ≠ step then 5 else 0
        if reason ≠ 0 then
          let tr := splitTrap c.g reason a.slot
          .next (s.trapBoth (t1.putGroup { p with arrival := none }) c.g tr p.num tr)
        else paired { here with t := t1 } p b

/-! ### MMAP (R340 to R342) -/

/-- The operands of an arrival at MMAP: the B record, the coordinates, T and ZSKIP, which the halves must
share, and then the tile and the A record. -/
def MatOp.ops (o : MatOp) (coord : DWord) : List DWord :=
  [BitVec.ofNat 64 o.bKey, coord &&& 0xFFFFFFFF, if o.trans then 1 else 0, if o.zskip then 1 else 0,
   BitVec.ofNat 64 o.tile, BitVec.ofNat 64 o.aKey]

/-- The product of the partner of a paired MMAP. -/
def MatOp.partner (o : MatOp) (ops : List DWord) : MatOp :=
  { o with tile := (ops.getD 4 0).toNat, aKey := (ops.getD 5 0).toNat }

/-- Whose operand stops a paired step: that of both halves, or that of one, by its role. -/
inductive PairStop where
  | wait
  | both (tr : Trap)
  | half (role : Nat) (tr : Trap)

/-- What paired K steps come to. -/
structure PairRan where
  t : Team
  done : Nat
  stop : Option PairStop

/-- Paired K steps (R340, R341, R346): the B operand is fetched once, then the conditional and the unconditional A
operand, and the halves' tiles are updated in that order, whichever half arrived first. DEDUCED, log entry 48. -/
def pairSteps (o p : MatOp) (mask : DWord) (t : Team) (n : Nat) : Nat → PairRan
  | 0 => { t := t, done := n, stop := none }
  | fuel + 1 =>
    let halt := fun (t : Team) (w : PairStop) => ({ t := t, done := n, stop := some w } : PairRan)
    match t.fetchPieces mask o.bKey (o.bPieces t n) with
    | .wait => halt t .wait
    | .trap tr t1 => halt t1 (.both tr)
    | .ok t1 =>
      match t1.fetchPieces mask o.aKey (o.aPieces t1 n), o.tileErrors t1 mask false with
      | .wait, _ => halt t1 .wait
      | .trap tr t2, _ => halt t2 (.half 0 tr)
      | .ok _, .trap tr t2 => halt t2 (.half 0 tr)
      | .ok _, _ =>
        match t1.fetchPieces mask p.aKey (p.aPieces t1 n), p.tileErrors t1 mask false with
        | .wait, _ => halt t1 .wait
        | .trap tr t2, _ => halt t2 (.half 1 tr)
        | .ok _, .trap tr t2 => halt t2 (.half 1 tr)
        | .ok _, _ => pairSteps o p mask (p.update (o.update t1 n false) n false) (n + 1) fuel

/-- The paired product of two halves, with at most `limit` K steps. The partner's records are judged again as it begins
(R306, R312, R340). -/
def Ctx.pairedProduct (c : Ctx) (s : State) (o : MatOp) (m : Mods) (limit : Nat) (p : Group) (a : Arrival) : Res :=
  let q := o.partner a.ops
  let recs := c.productRecs [o.aKey, o.bKey, q.aKey]
  let v := c.t.withRecs recs
  let n := (v.hrec o.aKey).steps
  let x := c.stepTurn s [c.g.num, p.num] n limit
  let held := fun (t : Team) (k turn : Nat) =>
    ({ c with t := t.putGroup (p.underWay k recs turn), g := c.g.underWay k recs turn } : Ctx)
  if x.blocked then (held c.t x.first x.turn).wait s .held
  else
  let role := ((c.t.pair a.slot).half? c.g).getD 0
  let r0 := match q.recordTrap v c.g.activeMask false with
    | some tr => ({ t := v, done := x.first, stop := some (.half (1 - role) tr) } : PairRan)
    | none => if role = 0 then pairSteps o q c.g.activeMask v x.first x.limit
        else pairSteps q o c.g.activeMask v x.first x.limit
  let r : PairRan := { r0 with t := { r0.t with hrecs := c.t.hrecs } }
  let own := c.g.keepSteps r.done
  let other := p.keepSteps r.done
  let both := held r.t r.done (if r.done = x.first then x.turn else x.next)
  let k := a.slot
  let pend := fun (role : Nat) => r.t.setPair k ((r.t.pair k).setPend 1 role r.done)
  match r.stop with
  | some .wait => both.wait s .watermark
  | some (.both tr) =>
    .next (s.trapBoth (r.t.putGroup { other with arrival := none }) own tr p.num tr)
  | some (.half r1 tr) =>
    if r1 = role then ({ c with t := (pend (1 - role)).putGroup other, g := own } : Ctx).trap s tr
    else
      let t1 := (pend role).putGroup (own.waitFor c.clk .pair)
      .next (s.takeTrap t1 { other with arrival := none } { tr with mask := p.activeMask })
  | none =>
    if r.done < n then both.wait s .held
    else
      let done := ({ p with progress := none } : Group).retire c.clk 0 a.words
      .next (({ c with t := r.t.putGroup done, g := { c.g with progress := none } } : Ctx).finish s 0 m.words)

/-- MMAP with at most `limit` K steps (R339 to R342). A half whose partner has lost its arrival, by a fault or a trap at its
fetch, waits until that arrives again, and meets it then. DEDUCED, log entry 51. -/
def runPairProduct (w : WE) (s : State) (limit : Nat) : Res :=
  matInstr w s (uniLocs w.d ++ uniLocs w.a) fun s c =>
    let o := c.matOp w
    let k := fieldOf (c.u w.a) 32 3
    let tr := firstTrap [tileTrap c.t c.g.activeMask o.tile,
      o.recordTrap (c.t.withRecs c.g.recs) c.g.activeMask false]
    let alone := fun (c : Ctx) (_ : Nat) => c.product s o w.m false none limit
    let a : Arrival := { slot := k, kind := 1, words := w.m.words, ops := o.ops (c.u w.a) }
    let meet := c.meet s a c.g.startStep (·.take 4) alone fun c p b => c.pairedProduct s o w.m limit p b
    match c.g.arrival with
    | some _ =>
      let e := c.t.pair k
      if e.state = 3 then
        match tr with
        | some tr => c.trap s tr
        | none => alone c 0
      else
        match e.pend, c.t.arrivedAt k c.g.num with
        | 0, some (p, b) => c.pairedProduct s o w.m limit p b
        | 0, none => c.wait s .pair
        | _, _ => if e.half? c.g = some e.prole then c.wait s .pair else meet
    | none =>
      match tr with
      | some tr => c.trap s tr
      | none => meet

/-- MMAP (R340). -/
def execMmap (w : WE) (s : State) : Res := runPairProduct w s allSteps

/-! ### GUIDE (R343) -/

/-- One element of GUIDE: c and u extrapolated by a scale. -/
def guideElement (ftz : Bool) (scale c u : Word) : Word :=
  let r : Rounding := { f := f32, mode := .rne, ftz := ftz }
  let v := fun (x : Word) => f32.decode ftz x.toNat
  let d := (fAdd r (v c) (v u).minus).1
  BitVec.ofNat 32 (fFma r (v scale) (f32.decode ftz d) (v u)).1

/-- The tiles of GUIDE extrapolated into the conditional one. -/
def Team.guide (t : Team) (half tc tu : Nat) (scale : Word) : Team :=
  let us := t.tile half tu
  t.setTile half tc ((t.tile half tc).zipWith (guideElement t.launch.ftz scale) us)

/-- Consumes the uncorrectable errors of the tiles that GUIDE reads. DEDUCED, log entry 22. -/
def Ctx.guideErrors (c : Ctx) (tc tu : Nat) : Option Team :=
  if c.t.errors.any fun e => e.inTile c.g.core tc 0 256 || e.inTile c.g.core tu 0 256 then
    some (dropTileErrors (dropTileErrors c.t c.g.core tc 0 256) c.g.core tu 0 256)
  else none

/-- GUIDE performed by one half alone (R343). -/
def Ctx.guideAlone (c : Ctx) (s : State) (w : WE) (tc tu role : Nat) : Res :=
  let half := c.g.core - c.t.core
  if role = 0 then .next (c.finish s 0 w.m.words)
  else
    match c.guideErrors tu tu with
    | some t => ({ c with t := t } : Ctx).trap s { cause := 0x0302, mask := c.g.activeMask, kind := 2 }
    | none => .next (({ c with t := c.t.setTile half tc (c.t.tile half tu) } : Ctx).finish s 0 w.m.words)

/-- GUIDE performed for both halves. DEDUCED, log entry 51. -/
def Ctx.guidePaired (c : Ctx) (s : State) (w : WE) (tc tu : Nat) (scale : Word) (p : Group) (a : Arrival) : Res :=
  match c.guideErrors tc tu with
  | some t =>
    let tr : Trap := { cause := 0x0302, mask := c.g.activeMask, kind := 2 }
    .next (s.trapBoth (t.putGroup { p with arrival := none }) c.g tr p.num tr)
  | none =>
    let t1 := (c.t.guide (c.g.core - c.t.core) tc tu scale).putGroup (p.retire c.clk 0 a.words)
    .next (({ c with t := t1 } : Ctx).finish s 0 w.m.words)

/-- GUIDE (R343). -/
def execGuide (w : WE) (s : State) : Res :=
  let k := w.sub.toNat % 8
  matInstr w s (uniLocs w.d ++ uniLocs w.a ++ uniLocs w.b) fun s c =>
    let tc := (c.u w.d).toNat
    let tu := (c.u w.a).toNat
    let scale : Word := (c.u w.b).setWidth 32
    match firstTrap [tileTrap c.t c.g.activeMask tc, tileTrap c.t c.g.activeMask tu] with
    | some tr => c.trap s tr
    | none =>
      match c.g.arrival with
      | some _ =>
        let e := c.t.pair k
        if e.state = 3 then c.guideAlone s w tc tu ((e.half? c.g).getD 0) else c.wait s .pair
      | none =>
        let a : Arrival := { slot := k, kind := 2, words := w.m.words
                             ops := [c.u w.d, c.u w.a, scale.setWidth 64] }
        c.meet s a 0 id (fun c role => c.guideAlone s w tc tu role)
          fun c p b => c.guidePaired s w tc tu scale p b

end Sys2Proof.Machine
end

