-- ==== Sys2Proof/Machine/Tickets.lean ====
section
/-! DEFINITION. Token rings as fibres use them (R355 to R357), claim tickets (R363 to R374), and their
redemption (R383 to R389). -/

namespace Sys2Proof.Machine

/-- Writes one s-register and passes the instruction. -/
def Ctx.answer (c : Ctx) (s : State) (w : WE) (v : DWord) : Res :=
  .next ((c.setS 0 w.d.toNat v).finish s 0 w.m.words)

/-- An s-register value with a status in [63:56] (R367, R382). -/
def statusWord (status : Nat) (low : Nat) : DWord := BitVec.ofNat 64 (2 ^ 56 * status + low)

/-! ### TOKPUB -/

/-- TOKPUB (R355 to R357). -/
def execTokpub (w : WE) (s : State) : Res :=
  let k := w.sub.toNat % 16
  uniInstr s (guardYX w.m) w.m 0 (uniLocs w.a ++ uniLocs w.b) (fun s c =>
    let off := fieldOf (c.u w.a) 0 32
    let n := (c.u w.b).toNat
    let am := c.g.activeMask
    let at_ : DWord := BitVec.ofNat 64 off
    if !s.ringOn k c.t.part then
      c.trap s { cause := 0x010F, mask := am
                 detail := BitVec.ofNat 64 (k + (if bitAt (s.reg (0x058 + k)) 5 then 16 else 0)) }
    else if n = 0 then c.answer s w (BitVec.ofNat 64 (s.ring k).next)
    else if off % 16 ≠ 0 then c.trap s { cause := 0x0108, mask := am, addr := at_ }
    else if 1024 * c.t.launch.scratch < off + 16 * n then c.trap s (pageTrap am at_ 5 none)
    else if s.ringSize k < n then c.answer s w 0xFFFFFFFFFFFFFFFE
    else
      c.withScratch s off (16 * n) fun c bs =>
        let es := (List.range n).map fun i => (bs.drop (16 * i)).take 16
        if c.t.launch.contain then
          c.withBuffer (s.sbEffect c.t.closeSystem fun t => { t with sb := t.sb ++ [.token k es] }) fun s1 c1 =>
            c1.answer s1 w 0xFFFFFFFFFFFFFFFD
        else
          match s.ringCross (s.coreSec c.g.core) k n with
          | some pa => c.trap s { cause := 0x0201, mask := am, addr := BitVec.ofNat 64 pa }
          | none =>
            if !s.port0 || s.remotePending c.t then c.wait s .ring
            else
              match (s.release c.t c.g).ringPublish k es with
              | (s1, some a) => c.answer s1 w (BitVec.ofNat 64 a)
              | (s1, none) => c.answer s1 w 0xFFFFFFFFFFFFFFFF)
    (point := some 1)

/-! ### The ticket digest (R363, R364) -/

/-- The sum of the rotated words of a digest from word i on. -/
def digestSum (i : Nat) : List Byte → Nat → DWord
  | _, 0 => 0
  | bs, fuel + 1 =>
    (((BitVec.ofNat 32 (leWord (bs.take 4))).rotateLeft (i % 32)).setWidth 64 : DWord)
      + digestSum (i + 1) (bs.drop 4) fuel

/-- The ticket digest of some bytes. -/
def digest (bs : List Byte) : DWord := digestSum 0 bs ((bs.length + 3) / 4) ^^^ BitVec.ofNat 64 bs.length

/-- A read of the Larder chapter: at the home L2, after the earlier stores of the group (R364). -/
def Ctx.ticketRead (c : Ctx) (s : State) (va : DWord) (n : Nat) (f : State → List Byte → Res) : Res :=
  c.withRead s 2 (c.groupRead (s.release c.t c.g) 2 .home va n) f

/-- Goes on with an engine step's answer, or ends in the outcome of the Larder's page (R358, R364). -/
def Ctx.withEngine (c : Ctx) (s : State) (e : Engine) (f : Nat → Nat → State → Res) : Res :=
  match e with
  | .done st v s1 => f st v s1
  | .fault .held _ => c.wait s .held
  | .fault (.recoverable r) va => c.parkGroup s 2 va r
  | .fault x va =>
    match x.trap? c.g.activeMask va with
    | some tr => c.trap s tr
    | none => c.wait s .held

/-- Goes on with the judgement of a handle. -/
def Ctx.withTicket (c : Ctx) (s : State) (t : Ticket) (no : Nat → State → Res) (ok : DWord → State → Res) : Res :=
  match t with
  | .ok w s1 => ok w s1
  | .no st _ s1 => no st s1
  | .fault x va => c.withEngine s (.fault x va) fun _ _ s1 => .next s1

/-! ### TKISSUE -/

/-- The engine's search for a FREE slot (R368): its index and generation. -/
inductive Alloc where
  | found (i gen : Nat) (s : State)
  | full (s : State)
  | fault (x : Xlat) (va : DWord)

/-- Examines slots from HEAD on for a group of a core, `fuel` at most. -/
def State.allocFrom (s : State) (core : Option Nat) (k : Nat) (ver : Option Word) : Nat → Alloc
  | 0 => .full s
  | fuel + 1 =>
    let head := s.reg (pidx k 14)
    let i := head.toNat % s.rfield (pidx k 13) 0 25
    let s1 := s.setReg (pidx k 14) (head + 1)
    match s1.word0 core k ver i with
    | (.fault x va, _) => .fault x va
    | (.unusable _, s2) => s2.allocFrom core k ver fuel
    | (.ok w, s2) => if w0Status w = 0 then .found i (w0Gen w) s2 else s2.allocFrom core k ver fuel

/-- Word 0 of an issued ticket (R360, R368). -/
def issuedWord0 (l : Launch) (i gen status : Nat) (d3 : DWord) : DWord :=
  BitVec.ofNat 64 (i % 2 ^ 32 + 2 ^ 32 * gen + 2 ^ 48 * status + 2 ^ 56 * (fieldOf d3 32 4)
    + (if l.prot then 2 ^ 60 else 0) + (if l.contain then 2 ^ 61 else 0))

/-- Bytes 0x08 to 0x7F of a slot as TKISSUE writes them: the ticket, and a zero feedback area. -/
def ticketBytes (ver : Word) (d : List DWord) (idig odig : DWord) : List Byte :=
  bytes32 ver ++ leBytes 4 (fieldOf (d.getD 1 0) 32 32) ++ bytes64 (d.getD 4 0) ++ bytes64 (d.getD 5 0)
    ++ bytes64 (d.getD 0 0) ++ leBytes 8 (fieldOf (d.getD 1 0) 0 32) ++ bytes64 idig ++ bytes64 odig
    ++ List.replicate 64 0

/-- The weight version of the issuing instance (R368). -/
def State.passVersion (s : State) (t : Team) : Word :=
  match s.inst? t.inst with
  | some i => i.version.getD i.vcur
  | none => 0

/-- A TKISSUE in a CONTAIN team at the engine (R369): the slot is made PENDING, and its bytes enter the
buffer. -/
def Ctx.issuePending (c : Ctx) (s : State) (i gen : Nat) (d : List DWord) (rest : List Byte) :
    State × Xlat × (Team → Team) :=
  let k := c.t.part
  let ver := s.version c.t
  let w0 : DWord := BitVec.ofNat 64 (i % 2 ^ 32 + 2 ^ 32 * gen + 2 ^ 48)
  let r := s.setWord0 (some c.g.core) k ver i w0
  let data := bytes64 (issuedWord0 c.t.launch i gen 2 (d.getD 3 0)) ++ rest
  let f := fun (pa key : Nat) (lost : Bool) (t : Team) =>
    let t1 := if lost then t else t.bufferStores [{ owner := none, addr := pa, data := data, key := key }]
    { t1 with pending := t.pending ++ [i] }
  match r.2 with
  | .ok pa leaf lost => (r.1, .ok pa leaf lost, f pa (keyOf leaf) lost)
  | x => (s, x, id)

/-- The engine step of TKISSUE in a CONTAIN team: done, or the outcome that ends it. Its slot is a release at SYSTEM
scope, and a drain that has begun comes first (R114, R368, R369). DEDUCED, log entry 53. -/
def Ctx.issueContained (c : Ctx) (s : State) (w : WE) (d : List DWord) (rest : List Byte) :
    Sum Res (State × Team × DWord) :=
  match s.allocFrom (some c.g.core) c.t.part (s.version c.t) 16 with
  | .fault x va => .inl (c.withEngine s (.fault x va) fun _ _ s1 => .next s1)
  | .full s1 => .inl (c.answer s1 w (statusWord 1 0))
  | .found i gen s1 =>
    match c.issuePending s1 i gen d rest with
    | (s2, .ok _ _ _, f) =>
      let t1 := f c.t.closeSystem
      if t1.sbUsed ≤ 2048 && !c.t.draining then .inr (s2, t1, BitVec.ofNat 64 (2 ^ 32 * gen + i))
      else .inl (c.wait s .drain)
    | (_, x, _) => .inl (c.withEngine s (.fault x (s.slotAddr c.t.part i)) fun _ _ s1 => .next s1)

/-- TKISSUE (R368, R369). DEDUCED, log entry 52. DEDUCED, log entry 53. -/
def execTkissue (w : WE) (s : State) : Res :=
  uniInstr s (guardYX w.m) w.m 0 ((List.range 6).map fun i => .s (w.a.toNat + i)) (point := none) fun s c =>
    let d := (List.range 6).map fun i => c.s (w.a.toNat + i)
    let ia := d.getD 0 0
    let il := fieldOf (d.getD 1 0) 0 32
    let oa := d.getD 2 0
    let ol := fieldOf (d.getD 3 0) 0 32
    let beyond := fun (a : DWord) (n : Nat) => decide (n ≠ 0) && decide (2 ^ 56 < a.toNat + n)
    let high := fun (a : DWord) => pageTrap c.g.activeMask (if fieldOf a 56 8 ≠ 0 then a else BitVec.ofNat 64 (2 ^ 56)) 4 none
    if fieldOf (d.getD 3 0) 36 28 ≠ 0 then c.illegal s 2
    else if c.uniDiffers then c.sdcUni s 4
    else if beyond ia il then c.trap s (high ia)
    else if beyond oa ol then c.trap s (high oa)
    else
      c.ticketRead s ia il fun s1 ibs =>
        c.ticketRead s1 oa ol fun s2 obs =>
          let rest := ticketBytes (s2.passVersion c.t) d (digest ibs) (digest obs)
          let k := c.t.part
          let ver := s2.version c.t
          if s2.larderOff k then c.answer s2 w (statusWord 5 0)
          else if c.t.launch.contain then
            match c.issueContained s2 w d rest with
            | .inr (s3, t, v) => ({ c with t := t } : Ctx).answer s3 w v
            | .inl r =>
              match s2.allocFrom (some c.g.core) k ver 16 with
              | .found i gen s3 =>
                match c.issuePending s3 i gen d rest with
                | (_, .ok _ _ _, _) =>
                  c.withBuffer (s2.drain c.t) fun s4 c4 =>
                    let c5 : Ctx := { c4 with t := { c4.t with restartable := false } }
                    match c5.issueContained s4 w d rest with
                    | .inr (s5, t, v) => ({ c5 with t := t } : Ctx).answer s5 w v
                    | .inl r => r
                | _ => r
              | _ => r
          else if s2.remotePending c.t then c.wait s2 .held
          else
            match s2.allocFrom (some c.g.core) k ver 16 with
            | .fault x va => c.withEngine s2 (.fault x va) fun _ _ s1 => .next s1
            | .full s3 => c.answer s3 w (statusWord 1 0)
            | .found i gen s3 =>
              let s4 := s3.release c.t c.g
              let r := s4.enginePut (some c.g.core) k ver (s4.slotAddr k i + 8) rest
              c.withEngine s2 (.wrote r (s4.slotAddr k i) 0 0) fun _ _ s5 =>
                c.answer (s5.setWord0 (some c.g.core) k ver i (issuedWord0 c.t.launch i gen 2 (d.getD 3 0))).1 w
                  (BitVec.ofNat 64 (2 ^ 32 * gen + i))

/-! ### TKSTAT, TKDROP and TKFEED -/

/-- TKSTAT (R371). -/
def execTkstat (w : WE) (s : State) : Res :=
  uniInstr s (guardYX w.m) w.m 0 (uniLocs w.a ++ uniLocs w.b) (point := none) fun s c =>
    let h := c.u w.a
    let sel := (c.u w.b).toNat
    if 15 < sel then c.illegal s 2
    else if c.uniDiffers then c.sdcUni s 4
    else if s.larderOff c.t.part || s.handleOut c.t.part h then c.answer s w 0xFFFFFFFFFFFFFFFF
    else
      c.ticketRead s (s.slotAddr c.t.part (fieldOf h 0 32) + BitVec.ofNat 64 (8 * sel)) 8 fun s1 bs =>
        c.answer (s1.acquire c.t c.g) w (dwordAt bs 0)

/-- TKDROP (R372). -/
def execTkdrop (w : WE) (s : State) : Res :=
  uniInstr s (guardYX w.m) w.m 0 (uniLocs w.a) (point := some 4) fun s c =>
    let h := c.u w.a
    let k := c.t.part
    if s.larderOff k then c.answer s w (statusWord 5 0)
    else if s.handleOut k h then c.answer s w (statusWord 4 0)
    else if c.t.launch.contain then
      c.withBuffer (s.sbEffect c.t fun t => { t with sb := t.sb ++ [.drop h] }) fun s1 c1 =>
        c1.answer s1 w (statusWord 7 (fieldOf h 0 48))
    else
      c.withEngine s (s.dropStep (some c.g.core) k (s.version c.t) h) fun st gen s1 =>
        c.answer s1 w (statusWord st (2 ^ 32 * gen + fieldOf h 0 32))

/-- Writes the four results of TKFEED. -/
def Ctx.feedAnswer (c : Ctx) (s : State) (w : WE) (a b e f : DWord) : Res :=
  let d := w.d.toNat
  .next (((((c.setS 0 d a).setS 0 (d + 1) b).setS 0 (d + 2) e).setS 0 (d + 3) f).finish s 0 w.m.words)

/-- TKFEED (R374). -/
def execTkfeed (w : WE) (s : State) : Res :=
  uniInstr s (guardYX w.m) w.m 0 (uniLocs w.a) (point := some 4) fun s c =>
    let h := c.u w.a
    let k := c.t.part
    let ver := s.version c.t
    let no := fun (st : Nat) (s : State) => c.feedAnswer s w 0 0 (statusWord st 0) 0
    c.withTicket s (s.ticket (some c.g.core) k ver h [1]) no fun _ s1 =>
      c.ticketRead s1 (s1.slotAddr k (fieldOf h 0 32) + 0x40) 32 fun s2 bs =>
        let s3 := s2.acquire c.t c.g
        let f := wordAt bs 4
        if bitAt f 0 = false ∨ fieldOf f 16 16 ≠ fieldOf h 32 16 then no 8 s3
        else
          let fin := fun (s : State) (c : Ctx) =>
            c.feedAnswer s w (f ++ wordAt bs 0) (dwordAt bs 8) ((wordAt bs 16).setWidth 64) (dwordAt bs 24)
          if c.t.launch.contain then
            c.withBuffer (s3.sbEffect c.t fun t => { t with sb := t.sb ++ [.fed h] }) fin
          else
            c.withEngine s3 (s3.fedStep (some c.g.core) k ver h) fun st _ s4 => if st = 0 then fin s4 c else no st s4

/-! ### TKREDEEM and TKBIND -/

/-- TKREDEEM (R383, R389). -/
def execTkredeem (w : WE) (s : State) : Res :=
  uniInstr s (guardYX w.m) w.m 0 (uniLocs w.a ++ uniLocs w.b) (point := some 4) fun s c =>
    let h := c.u w.a
    let arg := c.u w.b
    let mode := w.sub.toNat % 4
    let k := c.t.part
    let ver := s.version c.t
    let say := fun (st : Nat) (s : State) => c.answer s w (statusWord st 0)
    c.withTicket s (s.ticket (some c.g.core) k ver h [1, 3]) say fun _ s1 =>
      c.ticketRead s1 (s1.slotAddr k (fieldOf h 0 32) + 8) 120 fun s2 bs =>
        let s3 := s2.acquire c.t c.g
        let words : List DWord := 0 :: (List.range 15).map fun i => dwordAt bs (8 * i)
        match s3.redeemNode k (fieldOf (words.getD 1 0) 32 32) with
        | none => say 15 s3
        | some _ =>
          c.ticketRead s3 (words.getD 4 0) (fieldOf (words.getD 5 0) 0 32) fun s4 ibs =>
            if digest ibs ≠ words.getD 6 0 then say 9 s4
            else if c.t.launch.contain then
              c.withBuffer (s4.sbEffect c.t.closeSystem fun t => { t with sb := t.sb ++ [.redeem h arg mode words] })
                fun s5 c5 => c5.answer s5 w (statusWord 7 0)
            else if s4.remotePending c.t then c.wait s4 .held
            else
              let s5 := s4.release c.t c.g
              c.withEngine s4 (s5.redeemStep (some c.g.core) k ver h arg mode words) fun st v s6 =>
                c.answer s6 w (statusWord st (if st = 0 then v else 0))

/-- TKBIND.VER (R388, R389). DEDUCED, log entry 53. -/
def execTkbindVer (w : WE) (s : State) : Res :=
  uniInstr s (guardYX w.m) w.m 0 (uniLocs w.a ++ uniLocs w.b) (point := some 4) fun s c =>
    let a := c.u w.a
    let v := c.u w.b
    if a.toNat % 64 ≠ 0 then c.trap s { cause := 0x0108, mask := c.g.activeMask, addr := a }
    else
      c.withRead s 0 (c.groupRead s 0 c.t.plainVia a 64) fun s1 bs =>
        if fieldOf v 32 32 ≠ 0 then c.answer s1 w (statusWord 4 0)
        else if c.t.launch.contain then
          c.withBuffer (s1.sbEffect c.t.closeEntries fun t => { t with sb := t.sb ++ [.bindVer bs (v.setWidth 32)] })
            fun s2 c2 => c2.answer s2 w (statusWord 7 0)
        else
          c.withEngine s1 ((s1.release c.t c.g).bindVerStep c.t.part bs (v.setWidth 32)) fun st x s2 =>
            c.answer s2 w (statusWord st (if st = 0 then x else 0))

/-- TKBIND.OUT (R387). -/
def execTkbindOut (w : WE) (s : State) : Res :=
  uniInstr s (guardYX w.m) w.m 0 (uniLocs w.a ++ uniLocs w.b) (point := some 4) fun s c =>
    let a := c.u w.a
    let n := (c.u w.b).toNat
    match (s.inst? c.t.inst).bind (·.redeem) with
    | none => c.answer s w (statusWord 13 0)
    | some ws =>
      if 0xFFFFFFFF < n then c.answer s w (statusWord 4 0)
      else
        c.ticketRead s a n fun s1 bs =>
          let drift := decide (digest bs ≠ ws.getD 11 0)
          if drift && decide (fieldOf (ws.getD 5 0) 32 8 = 0) then
            c.trap s1 { cause := 0x0304, mask := c.g.activeMask, addr := a }
          else
            let say := fun (s : State) (c : Ctx) => c.answer s w (statusWord (if drift then 14 else 0) 0)
            if c.t.launch.contain then
              c.withBuffer (s1.sbEffect c.t fun t => { t with sb := t.sb ++ [.bindOut drift] }) say
            else say (s1.recordOut c.t.inst drift) c

end Sys2Proof.Machine
end

