-- ==== Sys2Proof/Machine/Readback.lean ====
section
/-! DEFINITION. State readback (R65, R66): the words of every readback space, the usage of a partition on
a core (R91), the layout of saved contexts (R101) and of the error log (R67). -/

namespace Sys2Proof.Machine

/-! ### Usage (R91) -/

/-- A team's charge on a core, in the order TEAMS, GROUPS, REGW, SCRATCH, ACC, HAMPER. -/
structure Charge where
  teams : Nat := 0
  groups : Nat := 0
  regw : Nat := 0
  scratch : Nat := 0
  acc : Nat := 0
  hamper : Nat := 0
  words : Nat := 0     -- register words, as the core's own limit counts them (R71)
  deriving DecidableEq, Repr

/-- The sum of two charges. -/
def Charge.add (a b : Charge) : Charge :=
  { teams := a.teams + b.teams, groups := a.groups + b.groups, regw := a.regw + b.regw
    scratch := a.scratch + b.scratch, acc := a.acc + b.acc, hamper := a.hamper + b.hamper, words := a.words + b.words }

/-- Whether a charge stays within limits. -/
def Charge.fits (a m : Charge) : Bool :=
  decide (a.teams ≤ m.teams) && decide (a.groups ≤ m.groups) && decide (a.regw ≤ m.regw)
    && decide (a.scratch ≤ m.scratch) && decide (a.acc ≤ m.acc) && decide (a.hamper ≤ m.hamper) && decide (a.words ≤ m.words)

/-- The groups of a launch on the first or the second core of its pair (R71). -/
def Launch.groupsOn (l : Launch) (second : Bool) : Nat :=
  if l.paircore then (if second then l.groups / 2 else (l.groups + 1) / 2) else if second then 0 else l.groups

/-- The charge of one team on its first core, or on the second of its pair (R91). -/
def Launch.charge (l : Launch) (second : Bool) : Charge :=
  if second && !l.paircore then {}
  else
    let g := l.groupsOn second
    { teams := 1, groups := g, regw := (g * l.width * l.window + 255) / 256
      scratch := if second then 0 else l.scratch, acc := l.acc, hamper := l.hamper
      words := g * l.width * l.window }

/-- The charge of a resident team on a core. -/
def Team.chargeOn (t : Team) (core : Nat) : Charge :=
  if t.core = core then t.launch.charge false
  else if t.launch.paircore ∧ t.core + 1 = core then t.launch.charge true
  else {}

/-- Usage of a core by the teams that a test names. -/
def State.usage (s : State) (f : Team → Bool) (core : Nat) : Charge :=
  (s.teams.filter f).foldl (fun a t => a.add (t.chargeOn core)) {}

/-- A charge in the layout of PQ (R89). -/
def Charge.word (a : Charge) : DWord :=
  BitVec.ofNat 64 (a.teams % 2 ^ 7 + a.groups % 2 ^ 8 * 2 ^ 7 + 2 ^ 19 * (a.regw % 2 ^ 9)
    + 2 ^ 28 * (a.scratch % 2 ^ 9) + 2 ^ 37 * (a.acc % 2 ^ 9) + 2 ^ 46 * (a.hamper % 2 ^ 10))

/-- The quotas of a PQ word (R89). -/
def quotaOf (w : DWord) : Charge :=
  { teams := fieldOf w 0 7, groups := fieldOf w 7 8, regw := fieldOf w 19 9, scratch := fieldOf w 28 9
    acc := fieldOf w 37 9, hamper := fieldOf w 46 10, words := 2 ^ 32 }

/-! ### State registers (R419) -/

/-- Whether an index names a state register (R419, R420). -/
def regAssigned (i : Nat) : Bool :=
  decide (i ≤ 0x0E9) || (decide (0x100 ≤ i) && decide (i < 0x200) && decide (i % 16 ≠ 15))
    || (decide (0x200 ≤ i) && decide (i ≤ 0x3FF)) || (decide (0x4000 ≤ i) && decide (i < 0x8000))

/-- A state register as a read gives it: QUSED is the usage of the moment (R91), and PSTAT.HOLD says whether the
current limiter holds at this clock (R15). -/
def State.regRead (s : State) (i : Nat) : DWord :=
  if 0x4000 ≤ i ∧ i < 0x8000 then
    (s.usage (fun t => decide (t.part = (i - 0x4000) / 1024)) ((i - 0x4000) % 1024)).word
  else if i = 0x003 then setField (s.reg i) 17 1 (if s.holdClk = some s.clk then 1 else 0)
  else if regAssigned i then s.reg i
  else 0

/-- The partition whose world a register belongs to (R66). -/
def regPart (i : Nat) : Option Nat :=
  if 0x100 ≤ i ∧ i < 0x200 then some ((i - 0x100) / 16)
  else if 0x4000 ≤ i ∧ i < 0x8000 then some ((i - 0x4000) / 1024)
  else none

/-! ### Records of a core -/

/-- The team at a slot of a core, the second core of a pair included. -/
def State.teamAt (s : State) (core slot : Nat) : Option Team :=
  s.teams.find? fun t => decide (t.slot = slot)
    && (decide (t.core = core) || (t.launch.paircore && decide (t.core + 1 = core)))

/-- The code of an Attic state (R125). -/
def ParkState.code : ParkState → Nat
  | .formable => 1 | .rejoin => 2 | .fault => 3 | .rejoinHeld => 4

/-- The window base of a fibre on a side (R124, R125). DESIGN CHOICE, log entry 14. -/
def Team.wbase (t : Team) (fid side : Nat) : Nat := (Config.windowBase t.inst t.index (t.wid fid side)).toNat

/-- A word of the Attic record of a parked fibre (R125). DESIGN CHOICE, log entry 14. -/
def Team.atticWord (t : Team) (p : Parked) (side : Nat) : Nat → DWord
  | 0 => p.pc
  | 1 => t.predWord (t.wid p.fid side)
  | 2 => BitVec.ofNat 64 (p.fid % 2 ^ 32 + 2 ^ 32 * (t.wbase p.fid side) + 2 ^ 48 * p.st.code
      + 2 ^ 52 * (side % 2) + 2 ^ 56 * (t.slot % 256))
  | _ => BitVec.ofNat 64 ((if p.st = .rejoin ∨ p.st = .rejoinHeld then p.tag.toNat else 0)
      + 2 ^ 32 * (p.count % 2 ^ 32))

/-- A word of slot `slot` of a core's Attic (R65, space 0x01). -/
def State.atticRead (s : State) (core slot word : Nat) : DWord :=
  let hits := s.teams.flatMap fun t => t.attic.filterMap fun p =>
    if p.core ≠ core then none
    else if p.slot = slot then some (t.atticWord p 0 word)
    else if t.launch.prot ∧ p.slot + 1 = slot then some (t.atticWord p 1 word)
    else none
  hits.headD 0

/-- The code of a space in a range-lock entry. -/
def Space.code : Space → Nat
  | .global => 0 | .scratch => 1 | .hamper => 2

/-- The bounds of a range, as two words. -/
def rangeWord (r : Option Range) (last : Bool) : DWord :=
  match r with
  | some r => BitVec.ofNat 64 (if last then r.last else r.first)
  | none => 0

/-- A word of range-lock entry k (R101). -/
def Copy.lockWord (c : Copy) (w : Nat) : DWord :=
  if !c.registered then 0
  else
    match w with
    | 0 =>
      let sp := fun (r : Option Range) => match r with | some r => r.space.code | none => 0
      let h := match c.dst with
        | some r => if r.space = .hamper then r.hrec % 32 else 0
        | none => 0
      BitVec.ofNat 64 (1 + sp c.src * 2 + sp c.dst * 8 + (if c.strided then 32 else 0)
        + (if c.idx.isSome then 64 else 0) + (if sp c.idx = 1 then 128 else 0) + h * 256)
    | 1 => rangeWord c.src false
    | 2 => rangeWord c.src true
    | 3 => rangeWord c.dst false
    | 4 => rangeWord c.dst true
    | 5 => rangeWord c.idx false
    | 6 => rangeWord c.idx true
    | _ => 0

/-- A word of pin slot j (R101). -/
def Team.pinWord (t : Team) (j w : Nat) : DWord :=
  match sget none t.pins j with
  | none => 0
  | some p => if w = 0 then p.addr else BitVec.ofNat 64 (2 ^ 63 + p.len % 2 ^ 29)

/-- The word at byte `off` of a team's block in readback space 0x02 (R277). -/
def Team.watermarkWord (t : Team) (off : Nat) : DWord :=
  if off < 0x200 then (t.copy (off / 32)).word (off / 8 % 4)
  else if off < 0x600 then (t.copy ((off - 0x200) / 64)).lockWord (off / 8 % 8)
  else if off < 0x680 then t.pinWord ((off - 0x600) / 16) (off / 8 % 2)
  else 0

/-- Word w of a reservation record (R302). -/
def HRecord.word (r : HRecord) : Nat → DWord
  | 0 => r.w0 | 1 => r.w1 | 2 => r.w2 | _ => r.w3

/-! ### Saved contexts (R101) -/

/-- The word of a region list at a byte offset: each region is its length with its words. -/
def regionWord (rs : List (Nat × (Nat → DWord))) (off : Nat) : DWord :=
  match rs with
  | [] => 0
  | r :: rest => if off < r.1 then r.2 off else regionWord rest (off - r.1)

/-- The length of a region list. -/
def regionLen (rs : List (Nat × (Nat → DWord))) : Nat := rs.foldl (fun n r => n + r.1) 0

/-- The cores of a team (R86). -/
def Team.coresOf (t : Team) : List Nat := if t.launch.paircore then [t.core, t.core + 1] else [t.core]

/-- The header of a saved team, by word. -/
def Team.headerWord (t : Team) (index : Nat) : Nat → DWord
  | 0 => BitVec.ofNat 64 (t.index % 2 ^ 32 + 2 ^ 32 * (index % 2 ^ 32))
  | 1 => BitVec.ofNat 64 (t.core % 2 ^ 16 + 2 ^ 16 * (t.slot % 256) + (if t.launch.paircore then 2 ^ 24 else 0)
      + (if t.exitHeld then 2 ^ 25 else 0) + (if t.launch.contain then 2 ^ 26 else 0)
      + (if t.restartable then 2 ^ 27 else 0) + 2 ^ 28 * (t.relaunches % 4))
  | 2 => BitVec.ofNat 64 (t.launch.groups + 2 ^ 32 * t.launch.scratch + 2 ^ 48 * t.launch.acc)
  | 3 => BitVec.ofNat 64 (t.launch.hamper + 2 ^ 16 * (t.sbUsed % 2 ^ 12))
  | _ => 0

/-- A word of an open rejoin entry (R101). -/
def Rejoin.word (r : Rejoin) : Nat → DWord
  | 0 => BitVec.ofNat 64 (r.tag.toNat + 2 ^ 16 + 2 ^ 32 * (r.base % 2 ^ 32))
  | 1 => r.mask
  | 2 => maskOf (((List.range 64).filter fun i => r.arrived.contains (r.base + i)))
  | _ => 0

/-- A word of a pair entry (R335). -/
def PairEntry.word (e : PairEntry) : Nat → DWord
  | 0 => e.w0 | 1 => e.w1 | 2 => e.w2 | _ => e.w3

/-- A word of an outstanding queue range (R101). -/
def QRange.word (r : QRange) (w : Nat) : DWord :=
  if w = 0 then BitVec.ofNat 64 r.first
  else BitVec.ofNat 64 (r.count % 2 ^ 32 + 2 ^ 32 * (r.edge % 8) + (if r.taken then 2 ^ 35 else 0) + 2 ^ 36)

/-- The lane list of an LCPY: words of 16 bytes a lane. -/
def Copy.laneWord (c : Copy) (off : Nat) : DWord :=
  match c.lanes[off / 16]? with
  | some l => BitVec.ofNat 64 (if off / 8 % 2 = 0 then l.1 else l.2)
  | none => 0

/-- Whether a copy carries a lane list. -/
def Copy.isLane (c : Copy) : Bool := decide (c.kind = .lcpyGS) || decide (c.kind = .lcpySG)

/-- A word of a copy's descriptor as saved; `list` is the offset of its lane list. -/
def Copy.descWord (c : Copy) (list w : Nat) : DWord :=
  if c.isLane then
    match w with
    | 0 => BitVec.ofNat 64 c.lanes.length
    | 1 => BitVec.ofNat 64 list
    | _ => 0
  else c.desc.getD w 0

/-- A Hamper range that is saved (R98): the range of a held record that no copy wrote last. -/
def HRecord.saved (r : HRecord) : Bool := r.held && !(r.lv && !r.cw)

/-- Eight bytes of a byte map. -/
def word8 (m : Sparse Byte) (a : Nat) : DWord := BitVec.ofNat 64 (leWord (sgetList 0 m a 8))

/-- Two 32-bit words as one. -/
def pairOf (a b : Word) : DWord := b ++ a

/-- The regions of one core of a saved team. -/
def Team.coreRegions (t : Team) (half : Nat) : List (Nat × (Nat → DWord)) :=
  [(1024, fun o => (t.hrec (half * 32 + o / 32)).word (o / 8 % 4)),
   (2048, fun o =>
      let r := t.hrec (half * 32 + o / 64)
      if r.lv then r.desc.getD (o / 8 % 8) 0 else 0),
   (t.launch.acc * 1152, fun o =>
      let x := (half * 256 + o / 1152)
      let b := o % 1152
      if b < 1024 then pairOf (sget 0 t.tiles (x * 256 + b / 4)) (sget 0 t.tiles (x * 256 + b / 4 + 1))
      else pairOf (sget 0 t.sums (x * 32 + (b - 1024) / 4)) (sget 0 t.sums (x * 32 + (b - 1024) / 4 + 1)))]
  ++ ((List.range 32).filter fun h => (t.hrec (half * 32 + h)).saved).map fun h =>
    let r := t.hrec (half * 32 + h)
    (r.hlen, fun o => word8 t.hbytes (t.hbyteAt (half * 32 + h) o))

/-- The lane entries of a saved group from lane j on. DEDUCED, log entry 31. -/
def Group.laneEntries (g : Group) (j : Nat) : DWord :=
  BitVec.ofNat 64 ((List.range 4).foldl (fun n i =>
    n + (match g.lanes.getD (j + i) none with
         | some f => (f % 2 ^ 15 + 2 ^ 15) * 2 ^ (16 * i)
         | none => 0)) 0)

/-- A word of a saved group record; a free record reads zero. -/
def Team.groupWord (t : Team) (num off : Nat) : DWord :=
  match t.group? num with
  | none => 0
  | some g =>
    if off < 0x1F8 then sget 0 g.sregs (off / 8)
    else if off = 0x1F8 then
      BitVec.ofNat 64 (g.gpred.toNat % 256 + g.seg % 8 * 2 ^ 8 + (if g.inHandler then 2 ^ 11 else 0)
        + (if g.progress.isSome then 2 ^ 12 else 0))
    else if off = 0x200 then g.pc
    else if off = 0x208 then (match g.progress with | some p => BitVec.ofNat 64 (p.steps % 2 ^ 32) | none => 0)
    else if off = 0x210 then BitVec.ofNat 64 (2 ^ 21 - 1 + 2 ^ 21 * (g.issued % 32))
    else if off = 0x218 then g.formed
    else if off = 0x220 then g.activeMask
    else if off = 0x228 then
      match g.arrival with
      | some a => if a.kind = 0 ∨ (t.pair a.slot).pend = 0 then 0 else BitVec.ofNat 64 (1 + a.slot % 8 * 2)
      | none => 0
    else if off < 0x280 then 0
    else g.laneEntries ((off - 0x280) / 2)

/-- The record of a fibre in the fibre area: a parked one's Attic record, or that of a fibre in a group. DESIGN CHOICE, log entry 14. -/
def Team.fibreWord (t : Team) (fid side w : Nat) : DWord :=
  match t.attic.find? fun p => decide (p.fid = fid) with
  | some p => t.atticWord p side w
  | none =>
    match t.groups.find? fun g => g.active.any fun p => decide (p.2 = fid) with
    | none => 0
    | some g =>
      match w with
      | 0 => g.pc
      | 1 => t.predWord (t.wid fid side)
      | 2 => BitVec.ofNat 64 (fid % 2 ^ 32 + 2 ^ 32 * (t.wbase fid side))
      | _ => 0

/-- The fault records of a saved team, as their two words. -/
def Team.faultRecords (t : Team) (recorded : List (Nat × Bool)) : List (DWord × DWord) :=
  let word := fun (kind who : Nat) (va : DWord) =>
    let r := recorded.find? fun x => decide (x.1 = va.toNat / 2 ^ 16)
    (BitVec.ofNat 64 (kind + 2 ^ 32 * (who % 2 ^ 32)
      + (match r with | some x => 2 ^ 8 + (if x.2 then 2 ^ 9 else 0) | none => 0)) : DWord)
  ((t.attic.filter fun p => decide (p.st = .fault)).map fun p => (p.fault, word p.fkind p.fid p.fault))
  ++ t.copies.filterMap fun c => match c.2.faultVa with
      | some va => if c.2.st = .frozen then some (va, word c.2.fkind c.1 va) else none
      | none => none

/-- The variable part of a saved team up to the scratchpad. -/
def Team.midRegions (t : Team) : List (Nat × (Nat → DWord)) :=
  let l := t.launch
  let sides := if l.prot then 2 else 1
  let wsz := l.window * 4 + 8
  (List.range t.coresOf.length).flatMap t.coreRegions
  ++ [(l.groups * 768, fun o => t.groupWord (o / 768) (o % 768)),
      (l.groups * l.wv * 32 * sides, fun o => t.fibreWord (o / 32 / sides) (o / 32 % sides) (o / 8 % 4)),
      (l.groups * l.width * wsz, fun o =>
        let wid := o / wsz
        let b := o % wsz
        if b < l.window * 4 then pairOf (sget 0 t.win (wid * 64 + b / 4)) (sget 0 t.win (wid * 64 + b / 4 + 1))
        else (sget 0 t.sticky wid).setWidth 64),
      (l.scratch * 1024, fun o => word8 t.scratch o)]

/-- The offset of the lane list of register k from the block's start. -/
def Team.laneListAt (t : Team) (k : Nat) : Nat :=
  0x1000 + regionLen t.midRegions
    + (List.range k).foldl (fun n j => n + (if (t.copy j).isLane then 16 * (t.copy j).lanes.length else 0)) 0

/-- The fixed part of a saved team's block, by byte offset. -/
def Team.fixedWord (t : Team) (index len off : Nat) : DWord :=
  if off < 0x680 then t.watermarkWord off
  else if off < 0x6C0 then
    (if off = 0x6A0 then BitVec.ofNat 64 len else t.headerWord index ((off - 0x680) / 8))
  else if off < 0x740 then t.bar ((off - 0x6C0) / 8)
  else if off < 0x840 then
    (match t.rejoins[(off - 0x740) / 32]? with | some r => r.word (off / 8 % 4) | none => 0)
  else if off < 0x940 then (sget {} t.pairs ((off - 0x840) / 32)).word (off / 8 % 4)
  else if off < 0xB40 then
    (match t.ranges[(off - 0x940) / 16]? with | some r => r.word (off / 8 % 2) | none => 0)
  else if off < 0xF40 then
    (t.copy ((off - 0xB40) / 64)).descWord (t.laneListAt ((off - 0xB40) / 64)) (off / 8 % 8)
  else 0

/-- A saved team's block. -/
def Team.blockRegions (t : Team) (index : Nat) (recorded : List (Nat × Bool)) : List (Nat × (Nat → DWord)) :=
  let rest := t.midRegions
    ++ ((List.range 16).filter fun k => (t.copy k).isLane).map (fun k => (16 * (t.copy k).lanes.length, (t.copy k).laneWord))
    ++ (t.faultRecords recorded).map fun r => (16, fun o => if o = 0 then r.1 else r.2)
  (0x1000, t.fixedWord index (0x1000 + regionLen rest)) :: rest

/-- Orders the saved teams by launch index and then team index. -/
def insertTeam (f : Team → Nat) (t : Team) : List Team → List Team
  | [] => [t]
  | u :: r =>
    if f t < f u ∨ (f t = f u ∧ t.index < u.index) then t :: u :: r else u :: insertTeam f t r

/-- The regions of a saved context: the header, the directory and the team blocks. DEDUCED, log entry 42. -/
def State.contextRegions (s : State) (k : Nat) : List (Nat × (Nat → DWord)) :=
  let p := s.part k
  let ts := (p.saved.map Team.shown).foldl (fun l t => insertTeam s.launchIndex t l) []
  let blocks := ts.map fun t => t.blockRegions (s.launchIndex t) p.recorded
  let n := ts.length
  let starts := (List.range n).map fun i =>
    0x40 + 16 * n + ((blocks.take i).foldl (fun a b => a + regionLen b) 0)
  let total := 0x40 + 16 * n + blocks.foldl (fun a b => a + regionLen b) 0
  [(0x40, fun o =>
      match o / 8 with
      | 0 => BitVec.ofNat 64 (1 + 2 ^ 32 * n)
      | 1 => BitVec.ofNat 64 total
      | 2 => BitVec.ofNat 64 p.saveNs
      | _ => 0),
   (16 * n, fun o =>
      match ts[o / 16]? with
      | some t =>
        if o / 8 % 2 = 0 then BitVec.ofNat 64 (t.index + 2 ^ 32 * (s.launchIndex t))
        else BitVec.ofNat 64 (starts.getD (o / 16) 0)
      | none => 0)]
  ++ blocks.flatMap id

/-- A word of a partition's saved context: zero when it holds none. DEDUCED, log entry 58. -/
def State.contextWord (s : State) (k off : Nat) : DWord :=
  if (s.part k).saved.isEmpty && decide (s.pstate k ≠ 4) then 0 else regionWord (s.contextRegions k) off

/-! ### The error log (R67, R68) -/

/-- The 64 bytes of a log entry. -/
def LogEntry.bytes (e : LogEntry) : List Byte :=
  leBytes 8 e.time ++ leBytes 8 e.seq ++ leBytes 2 e.cause ++ leBytes 1 e.cls ++ leBytes 1 e.die
    ++ leBytes 2 e.unit ++ leBytes 1 e.part ++ [0] ++ leBytes 4 e.launch ++ leBytes 4 e.team ++ leBytes 4 e.fid
    ++ leBytes 4 e.folded ++ bytes64 e.pc ++ bytes64 e.addr ++ bytes64 e.detail

/-- Whether an entry names the secure world (R66): its partition is secure, or the core that it names is. DEDUCED, log
entry 58. -/
def State.entrySec (s : State) (e : LogEntry) : Bool :=
  (decide (e.part < 16) && s.psec e.part)
    || ((decide (e.die < 8) || e.byCore) && decide (e.unit < 1024) && s.coreSec e.unit)

/-- An entry as a reader of a world sees it: a non-secure one reads bytes 0x14 to 0x3F of a secure entry as
zero. -/
def State.entryFor (s : State) (sec : Bool) (e : LogEntry) : List Byte :=
  if !sec && s.entrySec e then e.bytes.take 0x14 ++ List.replicate 0x2C 0 else e.bytes

/-- The entry that stands in a place of the ring. -/
def State.logSlot (s : State) (i : Nat) : Option LogEntry :=
  (s.log.reverse.find? fun e => decide (e.seq % 65535 = i))

/-- A word of the log (R67). DEDUCED, log entry 58. -/
def State.logWord (s : State) (sec : Bool) (off : Nat) : DWord :=
  if off < 64 then
    match off / 8 with
    | 0 => BitVec.ofNat 64 s.logHead
    | 1 => BitVec.ofNat 64 s.logTail
    | 2 => BitVec.ofNat 64 s.logDropped
    | _ => 0
  else
    match s.logSlot ((off - 64) / 64) with
    | some e => dwordAt (s.entryFor sec e) (off % 64)
    | none => 0

/-! ### Reading a readback address -/

/-- What a readback address names: nothing, or a word with the state that it belongs to. -/
inductive Readback where
  | bad
  | word (secure : Bool) (w : DWord)

/-- The word of a partition's block in space 0x05 (R93). -/
def State.quotaWord (s : State) (k w : Nat) : DWord :=
  match w with
  | 0 => s.regRead (pidx k 0)
  | 1 => s.regRead (pidx k 1)
  | 2 => s.regRead (pidx k 2)
  | 3 => s.regRead (pidx k 3)
  | 4 => s.regRead (pidx k 4)
  | 5 => s.regRead (pidx k 12)
  | 6 => s.regRead (pidx k 13)
  | 7 => s.regRead (pidx k 14)
  | _ => 0

/-- The metadata word of a sector of HBM as readback gives it (R167): POISON, and in the carve-out the TAG and DIRTY of
the memory-side cache line that stands there; CHECK reads zero. R65 lays out no space that holds these words. DEDUCED,
log entry 87. -/
def State.sectorMeta (s : State) (sec : Nat) : Word :=
  let n := sec * 32 - s.carve
  if sec * 32 < s.carve then BitVec.ofNat 32 (if s.homePoison sec then 2 ^ 31 else 0)
  else
    match s.msc.find? fun l => decide (l.line = n / 256) with
    | none => BitVec.ofNat 32 (2 ^ 17 * 0x3FFF)
    | some l =>
      let at_ := s.mscBase l / 32 + n % 256 / 32
      BitVec.ofNat 32 ((if l.poison.contains at_ then 2 ^ 31 else 0) + 2 ^ 17 * l.tag
        + (if l.dirty.contains at_ then 2 ^ 16 else 0))

/-- Whether a readback address lies in the error log while that function is neither ready nor failed: the read is held
(R18, R65). -/
def State.logHeld (s : State) (a : DWord) : Bool := decide (fieldOf a 56 8 = 6) && s.down 43

/-- The word at an aligned readback address (R65, R66). Spaces 2 and 4 hold a PAIRCORE team at its first core alone.
DESIGN CHOICE, log entry 83. In spaces 1 to 4 every slot of a secure core counts as the secure world's, one that holds no
team among them, though R66 speaks of the records that belong to teams: a non-secure read of it gives zero and an entry.
DESIGN CHOICE, log entry 96. A failed error log gives a free value. DESIGN CHOICE, log entry 97. -/
def State.readbackWord (s : State) (sec : Bool) (space off : Nat) : Readback :=
  match space with
  | 0 =>
    let i := off / 8
    if regAssigned i then .word (match regPart i with | some k => s.psec k | none => false) (s.regRead i) else .bad
  | 1 =>
    let core := off / 32 / 8192
    if core < 1024 then .word (s.coreSec core) (s.atticRead core (off / 32 % 8192) (off / 8 % 4)) else .bad
  | 2 =>
    let x := off / 2048
    if x / 64 < 1024 then
      .word (s.coreSec (x / 64)) (match s.team? (x / 64) (x % 64) with
        | some t => t.shown.watermarkWord (off % 2048)
        | none => 0)
    else .bad
  | 3 =>
    let x := off / 1024
    if x / 64 < 1024 then
      .word (s.coreSec (x / 64)) (match s.teamAt (x / 64) (x % 64) with
        | some t => (t.hrec ((x / 64 - t.core) * 32 + off % 1024 / 32)).word (off / 8 % 4)
        | none => 0)
    else .bad
  | 4 =>
    let x := off / 128
    if x / 64 < 1024 then
      .word (s.coreSec (x / 64)) (match s.team? (x / 64) (x % 64) with
        | some t => t.bar (off % 128 / 8)
        | none => 0)
    else .bad
  | 5 => if off < 16 * 4096 then .word (s.psec (off / 4096)) (s.quotaWord (off / 4096) (off % 4096 / 8)) else .bad
  | 6 =>
    if off < 64 + 65535 * 64 then .word false (if s.bufail 43 then Config.failedLog off else s.logWord sec off) else .bad
  | 7 =>
    if off < 16 * 2 ^ 36 then .word (s.psec (off / 2 ^ 36)) (s.contextWord (off / 2 ^ 36) (off % 2 ^ 36)) else .bad
  | _ => .bad

/-- Who reads or writes a register, as its error-log entry names it (R435). -/
structure Issuer where
  sec : Bool
  part : Nat := 0xFF
  launch : Nat := 0xFFFFFFFF
  team : Nat := 0xFFFFFFFF
  fid : Nat := 0xFFFFFFFF
  pc : DWord := 0

/-- The log entry of an ignored write or a bad read. -/
def Issuer.entry (w : Issuer) (cause : Nat) (addr detail : DWord) : LogEntry :=
  { platformEntry cause w.part addr detail with
    launch := w.launch, team := w.team, fid := w.fid, pc := w.pc }

/-- Reads one aligned readback word as a reader sees it: an unassigned place, and secure state read from the
non-secure world, give zero and make one log entry (R65, R66, R412). DEDUCED, log entry 58. -/
def State.readback (s : State) (who : Issuer) (a : DWord) : DWord × State :=
  match s.readbackWord who.sec (fieldOf a 56 8) (fieldOf a 0 56) with
  | .bad => (0, s.addLog (who.entry 0x0405 a 0))
  | .word secure w =>
    if secure && !who.sec then (0, s.addLog (who.entry 0x0405 a 0)) else (w, s)

end Sys2Proof.Machine
end

