-- ==== Sys2Proof/Machine/Partition.lean ====
section
/-! DEFINITION. The partitions' commands (R95 to R102): the room of a context, halting, saving, restoring
with its refills, the partition reset (R21, R379), and the resolution of recoverable faults (R108). -/

namespace Sys2Proof.Machine

/-! ### PCTL fields (R89) -/

/-- Sets PCTL.STATE. -/
def State.setPstate (s : State) (k st : Nat) : State := s.setRfield (pidx k 0) 27 3 st

/-- Sets PCTL.ERR. -/
def State.setPerr (s : State) (k e : Nat) : State := s.setRfield (pidx k 0) 24 3 e

/-- PCTL.EN. -/
def State.pen (s : State) (k : Nat) : Bool := bitAt (s.reg (pidx k 0)) 31

/-! ### The room of a context (R100) -/

/-- The worst-case bytes of a team's context, its directory entry included. -/
def Launch.contextBytes (l : Launch) : Nat :=
  let cores := if l.paircore then 2 else 1
  let regw := (l.charge false).regw + (l.charge true).regw
  let fibres := l.groups * l.wv
  16 + 4096 + cores * (3072 + l.acc * (1024 + 128) + l.hamper * 1024) + regw * 1024 + l.scratch * 1024
    + 768 * l.groups + (if l.prot then 64 else 32) * fibres + 8 * (l.groups * l.width) + 16 * 16 * l.width
    + 16 * fibres + 16 * 16

/-- The worst-case context of partition k. -/
def State.contextBytes (s : State) (k : Nat) : Nat :=
  (s.teams.filter fun t => decide (t.part = k)).foldl (fun n t => n + t.launch.contextBytes) 64

/-- The shadow SRAM that contexts may use (R6, R67, R100). -/
def shadowBytes : Nat := 16 * 2 ^ 26 - 2 ^ 22

/-- Shadow SRAM and spill space together, the log's 4 MiB apart (R6, R67, R100). -/
def State.contextSpace (s : State) : Nat :=
  shadowBytes + (if bitAt (s.reg 0x00E) 0 then 2 ^ 26 else 0)

/-- The bytes of a new context that do not fit the free shadow SRAM (R100). -/
def State.spillOf (s : State) (room : Nat) : Nat :=
  room - Nat.min room (shadowBytes - s.parts.foldl (fun n p => n + (p.2.room - p.2.spill)) 0)

/-- Where n bytes go in the spill region: the lowest place beside the other contexts. DESIGN CHOICE, log entry 84. Where no
hole between them is long enough though the sum fits, the bytes stand at the region's end, over those of another context:
the spec does not say how a context is split. DESIGN CHOICE, log entry 95. -/
def State.spillPlace (s : State) (n : Nat) : Nat :=
  let used := (s.parts.filter fun p => decide (0 < p.2.spill)).map fun p => (p.2.spillAt, p.2.spill)
  ((0 :: used.map fun u => u.1 + u.2).filter fun a =>
    decide (a + n ≤ 2 ^ 26) && !used.any fun u => overlaps u.1 u.2 a n).foldl Nat.min (2 ^ 26 - n)

/-- Writes the bytes of a saved context that stand in the spill region (R100). -/
def State.spillContext (s : State) (k : Nat) : State :=
  let p := s.part k
  let regions := s.contextRegions k
  (numsFrom (p.room - p.spill) (regionLen regions)).foldl (fun s i =>
    s.writeHome (2 ^ 26 * s.rfield 0x00E 26 30 + p.spillAt + (i - (p.room - p.spill)))
      [(regionWord regions (i / 8 * 8)).extractLsb' (8 * (i % 8)) 8]) s

/-- The bytes that contexts have reserved. -/
def State.reserved (s : State) : Nat := s.parts.foldl (fun n p => n + p.2.room) 0

/-! ### Commands -/

/-- PREEMPT (R95, R97, R100). -/
def State.preempt (s : State) (k : Nat) : State :=
  if s.pstate k ≠ 1 then s.setPerr k 2
  else if s.contextSpace < s.reserved + s.contextBytes k then s.setPerr k 1
  else
    let n := s.contextBytes k
    ((s.setPart k { s.part k with room := n, spill := s.spillOf n, spillAt := s.spillPlace (s.spillOf n) }).setPerr k 0).setPstate k 2

/-- RESUME (R95): restoring begins once the context's cores have room. -/
def State.resume (s : State) (k : Nat) : State :=
  if s.pstate k ≠ 4 then s.setPerr k 2 else (s.setPart k { s.part k with resuming := true }).setPerr k 0

/-- Whether some collective of the device is in progress, a PUBLISH only when asked (R45, R403). -/
def State.collecting (s : State) (publish : Bool) : Bool :=
  (List.range 16).any fun k =>
    match (s.part k).coll with
    | some c => !publish || decide (c.kind = 1)
    | none => false

/-- The Larder engine ends REDEEMING slots of partition k with FAILED (R379): every slot while the Larder is enabled, and
those of the redeems that ran or were queued. -/
def State.failRedeems (s : State) (k : Nat) (slots : List Nat) : State :=
  (((if s.larderOff k then [] else List.range (s.rfield (pidx k 13) 0 25)) ++ slots).eraseDups).foldl
    (fun s i => s.slotWrite k { slot := i, act := .fail }) s

/-- Discards the teams, launches and contexts of partition k (R21, R379): pins and PENDING slots are given
back, holds released, relaunches that wait are logged; stores that were issued are performed. The bound graph stays, and
a RELOC_RANGE failure is kept until its next bind (R88). DEDUCED, log entry 47. -/
def State.discardPart (s : State) (k : Nat) : State :=
  let mine := s.teams.filter fun t => decide (t.part = k)
  let s1 := mine.foldl (fun s t => s.killTeam t) s
  let s2 := (s1.part k).saved.foldl (fun s t => (s.unpinTeam t).freePending t.core k (s.version t) t.pending) s1
  let redeems := ((s2.insts.filter fun i => decide (i.part = k)).filterMap (·.redeem)
    ++ (s2.part k).children.filterMap (·.redeem)).map fun ws => fieldOf (ws.getD 1 0) 0 32
  let s3 := (s2.insts.filter fun i => decide (i.part = k)).foldl (fun s i =>
      let s' := (s.performInst i.id).flushRelaunchLog i.id
      match i.version with
      | some v => if i.holds then s'.releaseHold v else s'
      | none => s') s2
  let s4 := (s3.part k).children.foldl (fun s c =>
      match c.version with
      | some v => s.releaseHold v
      | none => s) s3
  let s5 := { s4 with insts := s4.insts.filter fun i => decide (i.part ≠ k)
                      orphans := s4.orphans.filter fun t => decide (t.part ≠ k) }
  let p := s5.part k
  let s6 := s5.setPart k { p with children := [], images := p.images.filter (·.reloc.isSome), faults := [], saved := [], recorded := []
                                  resuming := false, room := 0, spill := 0, fqFull := false, coll := none, collIndex := 0
                                  collQueue := [] }
  (s6.failRedeems k redeems).settleBusy k

/-- RESET (R95). DEDUCED, log entry 47. -/
def State.resetPart (s : State) (k : Nat) : State :=
  if s.pstate k = 1 ∨ s.pstate k = 4 then ((s.setPstate k 6).discardPart k).setPerr k 0 else s.setPerr k 2

/-- A command of PCTL.CMD. -/
def State.command (s : State) (k cmd : Nat) : State :=
  match cmd with
  | 1 => s.preempt k
  | 2 => s.resume k
  | 3 => s.resetPart k
  | _ => s

/-- A write of EN (R96): the state, and whether the write was ignored and is logged. In RESETTING a write that would
change EN is ignored and logged, and one that would not is neither: R433's test is applied to the row of R96, which says
'ignored' of 0 and 'ignored and logged' of 1. DESIGN CHOICE, log entry 73. -/
def State.writeEn (s : State) (k : Nat) (en : Bool) : State × Bool :=
  let st := s.pstate k
  if st = 6 then (s, en != s.pen k)
  else
    let s1 := s.setRfield (pidx k 0) 31 1 (if en then 1 else 0)
    (if st = 0 ∧ en = true then s1.setPstate k 1 else s1, false)

/-! ### Halting and saving -/

/-- Whether a group has stopped (R97), with the results that it has named in flight written. -/
def Group.stopped (t : Team) (g : Group) (clk : Nat) : Bool :=
  g.halts t && g.hist.all fun e => !e.named || decide (e.due ≤ clk)

/-- PARTITION_HALTED (R97): the last core of a STOPPING partition has halted. -/
def State.halted (s : State) (k : Nat) : State :=
  let mine := s.teams.filter fun t => decide (t.part = k)
  if s.pstate k = 2 ∧ (mine.all fun t => t.groups.all fun g => g.stopped t s.clk) = true then
    (s.setPart k { s.part k with savedAt := s.clk, saveNs := s.time }).setPstate k 3
  else s

/-- A group as its context holds it: its results are written, its loads performed, its loop buffer is gone, and an instruction that waits in its
issue issues again, from its first check (R97, R98, R282). DEDUCED, log entry 47. -/
def Group.asSaved (g : Group) : Group :=
  { g with hist := [], buf := [], half := [], late := [], positions := none, seeks := .none, wait := if g.wait = .watermark ∨ g.wait = .drain ∨ g.wait = .engine then .none else g.wait }

/-- CONTEXT_SAVE_COMPLETE (R95, R98, R100). DEDUCED, log entry 47. -/
def State.saveDone (s : State) (k : Nat) : State :=
  if s.pstate k ≠ 3 then s
  else
    let p := s.part k
    let mine := (s.teams.filter fun t => decide (t.part = k)).map fun t => { t with groups := t.groups.map Group.asSaved }
    let ns := s.time - p.saveNs
    let s1 := { s with teams := s.teams.filter fun t => decide (t.part ≠ k) }
    let s2 := s1.setPart k { p with saved := mine, saveNs := ns }
    (((s2.setRfield (pidx k 0) 32 32 (Nat.min ns (2 ^ 32 - 1))).setPstate k 4).spillContext k).raise 5

/-! ### Restoring -/

/-- The hardware limits of a core (R71, R91): 64 teams, 128 groups, 65,536 register words, 256 KiB of
scratchpad, 256 tiles and 512 KiB of Hamper. -/
def coreLimit : Charge := { teams := 64, groups := 128, regw := 2 ^ 32, words := 65536, scratch := 256, acc := 256, hamper := 512 }

/-- Whether charges of a partition fit a core under its quotas and the hardware's limits (R85, R91). -/
def State.coreFits (s : State) (k core : Nat) (c : Charge) : Bool :=
  ((s.usage (fun t => decide (t.part = k)) core).add c).fits (quotaOf (s.reg (pidx k 1)))
    && ((s.usage (fun _ => true) core).add c).fits coreLimit

/-- The slots of a core that teams hold. -/
def State.slotsUsed (s : State) (core : Nat) : List Nat :=
  (s.teams.filter fun t => decide (t.core = core) || (t.launch.paircore && decide (t.core + 1 = core))).map (·.slot)

/-- A free team slot on every core of a list: the wanted one, or the lowest. -/
def State.freeTeamSlot (s : State) (cores : List Nat) (want : Nat) : Option Nat :=
  let used := cores.flatMap s.slotsUsed
  if want < 64 ∧ used.contains want = false then some want
  else (List.range 64).find? fun i => !used.contains i

/-- Gives a restored team's parked fibres free Attic slots (R99, R125). -/
def State.reseat (s : State) (t : Team) : Team :=
  t.attic.foldl (fun t p => t.park (s.atticUsed p.core) p) { t with attic := [] }

/-- Whether a place of the team's Hamper lies in a range that its context holds (R98). -/
def Team.savedPlace (t : Team) (place : Nat) : Bool :=
  (List.range 32).any fun i =>
    let key := place / 2 ^ 20 * 32 + i
    (t.hrec key).saved && decide (t.hbyteAt key 0 ≤ place) && decide (place < t.hbyteAt key 0 + (t.hrec key).hlen)

/-- A team's Hamper as it stands at restore (R98, R102): the saved ranges, and a free value for every other byte of its
allocation, clean and of no key: no byte of a range that is landed again is kept. DESIGN CHOICE, log entry 91. -/
def Team.reloadHamper (t : Team) (free : Nat) : Team :=
  let places := (List.range t.coresOf.length).flatMap fun half => numsFrom (2 ^ 20 * half) (2 ^ 20 * half + 1024 * t.launch.hamper)
  { t with
    hbytes := places.filterMap fun p =>
      let b := if t.savedPlace p then sget 0 t.hbytes p else Config.lostHamper free p
      if b = 0 then none else some (p, b)
    hpoison := t.hpoison.filter fun x => t.savedPlace (32 * x.1)
    hkeys := t.hkeys.filter fun x => t.savedPlace (32 * x.1)
    errors := t.errors.filter fun e =>
      match e with
      | .hamper core _ off _ => t.savedPlace (2 ^ 20 * (core - t.core) + off)
      | _ => true }

/-- Puts a restored team back on its core. -/
def State.restoreTeam (s : State) (t : Team) : State :=
  let slot := (s.freeTeamSlot t.coresOf t.slot).getD t.slot
  { s with teams := s.teams ++ [s.slotted (s.reseat { t.reloadHamper s.free with slot := slot })], free := s.free + 1 }

/-- RESTORE_START (R95): once every core that the context names has room. DEDUCED, log entry 47. -/
def State.restoreStart (s : State) (k : Nat) : State :=
  let p := s.part k
  let cores := (p.saved.flatMap Team.coresOf).eraseDups
  let fits := cores.all fun c =>
    s.coreFits k c (p.saved.foldl (fun a t => a.add (t.chargeOn c)) {}) && (s.coreSec c == s.psec k) && s.ready (dieOf c)
  if s.pstate k = 4 ∧ p.resuming = true ∧ fits = true then
    let s1 := p.saved.foldl (fun s t => s.restoreTeam t) s
    (s1.setPart k { p with saved := [], resuming := false }).setPstate k 5
  else s

/-- The refills of a restored team (R102): each held range with LV = 1 and CW = 0 is landed again, under its
watermark register when that is still in flight, or else under the record. A copy of no bytes lands none. STATUS of a
gather's register counts again from 0 with its rows, where R102 names COUNT, STATE and FADDR alone. DESIGN CHOICE, log entry
91. -/
def Team.refillAll (t : Team) : Team :=
  (List.range (32 * t.coresOf.length)).foldl (fun t key =>
    let r := t.hrec key
    if !(r.held && r.lv && !r.cw) || decide ((t.refill key).total = 0) then t
    else
      let c := t.copy r.lk
      let into := match c.dst with
        | some d => decide (d.space = .hamper) && decide (d.hrec = key)
        | none => false
      if c.running && into then
        t.setCopy r.lk { c with st := .landing, count := 0, status := 0, faddr := 0, faultVa := none
                                cover := [], bad := [], pages := [], index := none, part := 0 }
      else t.setHrec key { r.setRefill true false 0 with cover := [], rbad := [], index := none, part := 0 }) t

/-! ### Recoverable faults (R108) -/

/-- The 64 KiB block of an address. -/
def blockOf (va : DWord) : Nat := va.toNat / 2 ^ 16

/-- A team after the resolution of a block. -/
def Team.resolve (t : Team) (block : Nat) (abort : Bool) : Team :=
  let att := t.attic.map fun p =>
    if p.st = .fault ∧ blockOf p.fault = block then { p with st := .formable, abort := abort } else p
  let hit := fun (v : Option DWord) => match v with | some a => decide (blockOf a = block) | none => false
  let t1 := (t.copies.filter fun c => decide (c.2.st = .frozen) && hit c.2.faultVa).foldl (fun t c =>
    if abort then t.copyFail c.1 c.2 c.2.faddr
    else t.setCopy c.1 { c.2 with st := .landing, faddr := 0, faultVa := none }) { t with attic := att }
  (t1.hrecs.filter fun r => hit r.2.faultVa).foldl (fun t r =>
    t.setHrec r.1 (if abort then r.2.setRefill false true r.2.rcount else { r.2 with faultVa := none })) t1

/-- Logs the copies of an exited team that a resolution fails (R298). -/
def State.logAborted (s : State) (t u : Team) : State :=
  (t.copies.filter fun c => decide (c.2.st = .frozen) && decide ((u.copy c.1).st = .failed)).foldl
    (fun s c => s.logLateFail t c.2.core c.2.faddr) s

/-- Resolves every wait of partition k on a block now (R108). -/
def State.resolveNow (s : State) (k block : Nat) (abort : Bool) : State :=
  let s1 := (s.orphans.filter fun t => decide (t.part = k)).foldl (fun s t =>
    (s.logAborted t (t.resolve block abort)).putOrphan (t.resolve block abort)) s
  let s2 := (s1.teams.filter fun t => decide (t.part = k)).foldl (fun s t =>
    let u := t.resolve block abort
    let s' := s.logAborted t u
    if u.exiting then s'.leaveTeam u else s'.putTeam u) s1
  let p := s2.part k
  s2.setPart k { p with faults := p.faults.filter fun f => decide (f.block ≠ block) }

/-- A write to FRESk (R108): while the partition is SAVING or SAVED the resolution is recorded. DEDUCED, log entry 38. -/
def State.resolveFault (s : State) (k : Nat) (v : DWord) : State :=
  let block := fieldOf v 16 40
  let abort := bitAt v 63
  if !s.waitsOn k block then s
  else if s.pstate k = 3 ∨ s.pstate k = 4 then
    let p := s.part k
    s.setPart k { p with recorded := (p.recorded.filter fun r => decide (r.1 ≠ block)) ++ [(block, abort)] }
  else s.resolveNow k block abort

/-- Advances the PARKED values of a team (R125, R146). -/
def Team.advanceParked (t : Team) (n : Nat) : Team :=
  { t with attic := t.attic.map fun f => { f with parked := f.parked + n, count := f.count + n } }

/-- CONTEXT_RESTORE_COMPLETE (R95, R102, R108, R146): PARKED values advance by the clocks between halt and
restore, recorded resolutions act, and the Hamper is refilled. -/
def State.restoreDone (s : State) (k : Nat) : State :=
  if s.pstate k ≠ 5 then s
  else
    let p := s.part k
    let dt := s.clk - p.savedAt
    let mine := fun (f : Team → Team) (t : Team) => if t.part = k then f t else t
    let s1 := { s with teams := s.teams.map (mine fun t => t.advanceParked dt) }
    let s2 := s1.setPart k { p with recorded := [], room := 0, spill := 0 }
    let s3 := p.recorded.foldl (fun s r => s.resolveNow k r.1 r.2) s2
    ({ s3 with teams := s3.teams.map (mine Team.refillAll) }.setPstate k 1).raise 5

/-- PARTITION_RESET_COMPLETE (R95), once the Larder engine has written every slot that it owes (R369, R379). -/
def State.resetDone (s : State) (k : Nat) : State :=
  if s.pstate k ≠ 6 ∨ !(s.part k).slotsDue.isEmpty then s
  else ((s.setRfield (pidx k 0) 31 1 0).setPstate k 0).raise 5

end Sys2Proof.Machine
end

