-- ==== Sys2Proof/Machine/Registers.lean ====
section
/-! DEFINITION. Writes of state registers (R4, R5, R413, R419, R433): who may write each one, what its
fields store, and what a write starts. -/

namespace Sys2Proof.Machine

/-- What a register write comes to: it has applied, some of it was ignored (and is to be logged), or it is
held with the state that records it. -/
inductive RegOut where
  | done (s : State)
  | ignored (s : State)
  | held (s : State)

/-- A write that a condition may ignore in part. -/
def RegOut.judged (s : State) (ignored : Bool) : RegOut := if ignored then .ignored s else .done s

/-- Whether a writer is the secure world. -/
def Writer.isSec (w : Writer) : Bool := decide (w = .secure)

/-- Whether a writer may write the registers of partition k: the secure world, or the partition's own
world when that is non-secure (R75, R89, R157, R358, R413, R62). -/
def State.mayWrite (s : State) (w : Writer) (k : Nat) : Bool :=
  match w with
  | .secure => true
  | .part j => decide (j = k) && !s.psec k
  | .mgmt => !s.psec k

/-- Fields of a written value: each keeps its place, and a maximum saturates it. -/
def keepFields (v : DWord) (fs : List (Nat × Nat × Nat)) : DWord :=
  fs.foldl (fun w f => setField w f.1 f.2.1 (Nat.min (fieldOf v f.1 f.2.1) f.2.2)) 0

/-- Stores a value whole. -/
def State.store (s : State) (i : Nat) (v : DWord) : RegOut := .done (s.setReg i v)

/-- Stores a value that a condition refuses: a changed one is ignored, a present one takes effect (R433). -/
def State.storeUnless (s : State) (i : Nat) (locked : Bool) (v : DWord) : RegOut :=
  if locked then .judged s (decide (v ≠ s.reg i)) else s.store i v

/-! ### Registers with effects -/

/-- Recomputes OWNERHASH, the ticket digest of the OWNER bytes (R45). -/
def State.hashOwners (s : State) : State :=
  s.setReg 0x00A (digest ((List.range 256).map fun h => BitVec.ofNat 8 (s.rfield (0x300 + h) 0 8)))

/-- Applies a write of TOPOCNT, a TOPO entry, an OWNER entry or STEP (R45, R403). -/
def State.applyShared (s : State) (i : Nat) (v : DWord) : State :=
  if i = 0x009 then
    let n := fieldOf v 0 9
    s.setReg i (BitVec.ofNat 64 (if n = 0 then 1 else Nat.min n 256))
  else if i = 0x013 then s.setReg i v
  else if i < 0x300 then s.setReg i (keepFields v [(15, 1, 1), (8, 4, 15), (0, 8, 255)])
  else (s.setReg i (keepFields v [(0, 8, 255)])).hashOwners

/-- The collectives in progress, or the PUBLISHes only, by partition and index. -/
def State.inProgress (s : State) (publish : Bool) : List (Nat × Nat) :=
  (List.range 16).filterMap fun k =>
    match (s.part k).coll with
    | some c => if !publish || decide (c.kind = 1) then some (k, c.index) else none
    | none => none

/-- Applies the held writes whose collectives have completed: those that were in progress when each arrived, whatever
has begun since (R45, R403). DEDUCED, log entry 54. -/
def State.applyHeld (s : State) : State :=
  let ready := fun (w : HeldWrite) => !w.waits.any (s.inProgress false).contains
  (s.heldWrites.filter ready).foldl (fun s w => s.applyShared w.reg w.value)
    { s with heldWrites := s.heldWrites.filter fun w => !ready w }

/-- A write that a collective in progress holds. DEDUCED, log entry 57. -/
def State.writeShared (s : State) (i : Nat) (v : DWord) : RegOut :=
  match s.inProgress (decide (i = 0x013)) with
  | [] => .done (s.applyShared i v)
  | cs => .held { s with heldWrites := s.heldWrites ++ [{ reg := i, value := v, waits := cs }] }

/-- A write of MSCCFG (R27, R31): FLUSH, or any write of SIZE while the cache is enabled, sets BUSY; the size applies
when the flush ends. DEDUCED, log entry 57. -/
def State.writeMsc (s : State) (v : DWord) : State :=
  let size := Nat.min (fieldOf v 0 6) 48
  if bitAt v 31 || bitAt (s.reg 0x004) 30 || decide (s.rfield 0x004 0 6 ≠ 0) then
    { s.setRfield 0x004 30 1 1 with mscSize := size }
  else s.setRfield 0x004 0 6 size

/-- A write of TRCFGk (R36, R354). -/
def State.writeRing (s : State) (i : Nat) (v : DWord) : RegOut :=
  let k := i - 0x058
  let cur := s.reg i
  let n := Nat.min (Nat.max (fieldOf v 0 5) 4) 20
  let on := bitAt cur 5
  let part := fieldOf v 6 4
  let bad := on && (decide (n ≠ fieldOf cur 0 5) || decide (part ≠ fieldOf cur 6 4))
  let w := if on then cur else BitVec.ofNat 64 (n + part * 2 ^ 6)
  let s1 := s.setReg i (setField w 5 1 (fieldOf v 5 1))
  .judged (if !on && bitAt v 5 then { s1 with rings := sset {} s1.rings k {} } else s1) bad

/-- A write of INTEN (R26): a bit that sets while its event is pending sends the message once. -/
def State.writeInten (s : State) (v : DWord) : State :=
  let new := v &&& 0xFFFF
  let fresh := (List.range 16).filter fun e =>
    bitAt new e && !bitAt (s.reg 0x0E8) e && bitAt (s.reg 0x0E9) e
  fresh.foldl State.sendMessage (s.setReg 0x0E8 new)

/-- A write of TLBINVk (R164): BUSY sets and the entries go. -/
def State.tlbInvalidate (s : State) (k : Nat) (v : DWord) : State :=
  (s.dropTranslations k (if bitAt v 62 then none else some (fieldOf v 16 40))).setReg (pidx k 11) 0x8000000000000000

/-- A write of GCTLk (R75, R76, R81); a failed scheduler discards it (R18). A write of 1 to BIND while BIND is 1 is ignored and logged as R76 says, though it
leaves the field at its present value and R433 makes no entry for such a write. DESIGN CHOICE, log entry 75. -/
def State.writeBind (s : State) (k : Nat) (v : DWord) : RegOut :=
  let g := s.reg (pidx k 9)
  let p := s.part k
  let checking := p.pendingBind.isSome
  let hold := fun (b : Bool) => RegOut.held (s.setPart k { p with heldBind := some b })
  if s.bufail 41 then .done (s.foldBufail 41)
  else if bitAt v 31 then
    if bitAt g 31 then .ignored s
    else if bitAt g 30 then hold true
    else .done (s.startBind k)
  else if checking then hold false
  else if !bitAt g 31 then .done s
  else
    let s1 := s.setReg (pidx k 9) (setField g 31 1 0)
    .done ((s1.setPart k { p with graph := p.graph.map fun gr => { gr with dispatching := false } }).settleBusy k)

/-- A write of PCTLk (R89, R95, R96): SEC changes only while the partition is OFF. EN acts before the command of the same
write: the spec gives the two no order. DESIGN CHOICE, log entry 94. -/
def State.writePctl (s : State) (k : Nat) (v : DWord) : RegOut :=
  let sec := bitAt v 30
  let badSec := (sec != s.psec k) && decide (s.pstate k ≠ 0)
  let s1 := if badSec then s else s.setRfield (pidx k 0) 30 1 (if sec then 1 else 0)
  let r := s1.writeEn k (bitAt v 31)
  .judged ((r.1.command k (fieldOf v 0 4)).applyHeld) (badSec || r.2)

/-- The maxima of PQ's fields (R89, R90). -/
def pqFields : List (Nat × Nat × Nat) :=
  [(46, 10, 512), (37, 9, 256), (28, 9, 256), (19, 9, 256), (7, 8, 128), (0, 7, 64)]

/-- A write of register j of partition k by a writer that may make it. -/
def State.writePart (s : State) (k j : Nat) (v : DWord) : RegOut :=
  let i := pidx k j
  let bound := bitAt (s.reg (pidx k 9)) 31 || bitAt (s.reg (pidx k 9)) 30
  let larder := bitAt (s.reg (pidx k 12)) 0
  match j with
  | 0 => s.writePctl k v
  | 1 => s.store i (keepFields v pqFields)
  | 2 => s.store i v
  | 3 => s.store i (keepFields v [(6, 50, 2 ^ 50)])
  | 4 => s.store i (setField (keepFields v [(5, 1, 1)]) 0 5 (Nat.min (Nat.max (fieldOf v 0 5) 4) 16))
  | 5 => .done (s.resolveFault k v)
  | 6 | 7 => s.storeUnless i bound (keepFields v [(6, 50, 2 ^ 50)])
  | 8 => s.storeUnless i bound (keepFields v [(32, 13, 4096), (0, 16, 2 ^ 16)])
  | 9 => s.writeBind k v
  | 10 => s.store i (keepFields v [(8, 48, 2 ^ 48), (0, 1, 1)])
  | 11 =>
    if bitAt (s.reg i) 63 then .held (s.setPart k { s.part k with heldTlb := (s.part k).heldTlb ++ [v] })
    else .done (s.tlbInvalidate k v)
  | 12 =>
    let w := keepFields v [(7, 49, 2 ^ 49), (0, 1, 1)]
    if larder && decide (fieldOf w 7 49 ≠ s.rfield i 7 49) then .ignored (s.setRfield i 0 1 (fieldOf w 0 1))
    else s.store i w
  | 13 => s.storeUnless i larder (keepFields v [(0, 25, 2 ^ 24)])
  | 14 => s.storeUnless i larder v
  | _ => .ignored s

/-- A write of a device-wide register by the secure world. EVICT sets BUSY and starts an eviction whatever the slot holds:
R57 does not say what it does to an empty slot or a BUSY one. DESIGN CHOICE, log entry 78. -/
def State.writeSecure (s : State) (i : Nat) (v : DWord) : RegOut :=
  if i = 0x002 then s.store i (BitVec.ofNat 64 (Nat.min (Nat.max (fieldOf v 0 16) 4000) 10000))
  else if i = 0x004 then .done (s.writeMsc v)
  else if i < 0x008 then s.store i (keepFields v [(30, 26, 2 ^ 26), (0, 14, 2 ^ 14)])
  else if i = 0x008 then
    let w := keepFields v [(0, 8, 255)]
    if s.devidLocked then .judged s (decide (w ≠ s.reg i)) else .done { s.setReg i w with devidLocked := true }
  else if i = 0x009 then s.writeShared i v
  else if i = 0x00B ∨ i = 0x00D then s.store i (v &&& 0xFFFF)
  else if i = 0x00C then s.store i (v &&& 0xFFFFFFFF)
  else if i = 0x00E then
    s.storeUnless i ((List.range 16).any fun k => decide (3 ≤ s.pstate k) && decide (s.pstate k ≤ 5))
      (keepFields v [(26, 30, 2 ^ 30), (0, 1, 1)])
  else if i = 0x00F then s.store i (keepFields v [(40, 24, 2 ^ 24), (16, 24, 2 ^ 24)])
  else if i = 0x010 then
    s.storeUnless i (decide (s.rfield i 32 7 ≠ 0)) (setField (s.reg i) 0 32 (fieldOf v 0 32))
  else if i = 0x011 then s.store i (keepFields v [(8, 6, 63), (0, 5, 16)])
  else if i = 0x012 then s.store i (v &&& 0xFFFF)
  else if i = 0x013 then s.writeShared i v
  else if i ≤ 0x01B then s.store i (keepFields v [(20, 5, 8), (15, 5, 16), (10, 5, 16), (5, 5, 16), (0, 5, 16)])
  else if i < 0x028 then .ignored s
  else if i < 0x038 then s.store i v
  else if i < 0x048 then
    let w := setField (keepFields v [(31, 33, 2 ^ 33), (0, 24, 2 ^ 24)]) 24 7 (s.rfield i 24 7)
    s.storeUnless i (decide (s.rfield i 24 7 ≠ 0)) w
  else if i < 0x058 then s.storeUnless i (bitAt (s.reg (i + 16)) 5) (keepFields v [(6, 58, 2 ^ 58)])
  else if i < 0x068 then s.writeRing i v
  else if i < 0x0A8 then s.store i (keepFields v [(62, 2, 3), (0, 58, 2 ^ 58)])
  else if i < 0x0E8 then .done (if bitAt v 4 then s.setRfield i 5 1 1 else s)
  else if 0x200 ≤ i ∧ i < 0x400 then s.writeShared i v
  else .ignored s

/-- Whether a register is read only (R4). DEDUCED, log entry 57. -/
def regReadOnly (i : Nat) : Bool :=
  decide (i ≤ 1) || decide (i = 3) || decide (i = 0x00A) || (decide (0x01C ≤ i) && decide (i < 0x028))
    || decide (0x4000 ≤ i)

/-- A write of register i (R413): one to no register, to a read-only one, or by a writer that its entry does
not letIssue, is ignored. DEDUCED, log entry 57. -/
def State.writeReg (s : State) (w : Writer) (i : Nat) (v : DWord) : RegOut :=
  if !regAssigned i || regReadOnly i then .ignored s
  else if i = 0x0E8 then .done (s.writeInten v)
  else if i = 0x0E9 then .done (s.setReg i (s.reg i &&& ~~~v))
  else
    match regPart i with
    | some k => if s.mayWrite w k then s.writePart k ((i - 0x100) % 16) v else .ignored s
    | none => if w.isSec then s.writeSecure i v else .ignored s

/-- Whether a write of a register is still held there (R45, R76, R164, R403). -/
def State.holdsReg (s : State) (i : Nat) : Bool :=
  match regPart i with
  | some k => if i = pidx k 9 then (s.part k).heldBind.isSome else !(s.part k).heldTlb.isEmpty
  | none => s.heldWrites.any fun w => decide (w.reg = i)

/-- Writes the readback address of a state register (R413): another space is ignored. -/
def State.writeAddr (s : State) (w : Writer) (a v : DWord) : RegOut :=
  if fieldOf a 56 8 = 0 then s.writeReg w (fieldOf a 0 56 / 8) v else .ignored s

/-- The state after a write that a management command or an event makes, with its log entry when some of it
was ignored, and whether that was so. DEDUCED, log entry 57. -/
def RegOut.settle (r : RegOut) (who : Issuer) (a v : DWord) : State × Bool :=
  match r with
  | .done s => (s, false)
  | .held s => (s, false)
  | .ignored s => (s.addLog (who.entry 0x0402 a v), true)

end Sys2Proof.Machine
end

