-- ==== Sys2Proof/Machine/Platform.lean ====
section
/-! DEFINITION. The events of the package, the ports and the links (R6 to R51, R149): resets, clocks and power,
readiness, host accesses, the memory-side cache, fill lines and Korben packets. -/

namespace Sys2Proof.Machine

/-! ### Register writes as events -/

/-- Whom an event's register write names in the log (R435). -/
def Writer.issuer : Writer → Issuer
  | .secure => { sec := true }
  | .part k => { sec := false, part := k }
  | .mgmt => { sec := false }

/-- The request's writer writes a state register (R413): a part that is ignored is logged. -/
def State.writeAs (s : State) (i : Nat) (v : DWord) : State :=
  let w := s.request.writer
  ((s.writeReg w i v).settle w.issuer (BitVec.ofNat 64 (8 * i)) v).1

/-- A register write as an event. -/
def regEvent (s : State) (i : Nat) (v : DWord) : Res := .next (s.writeAs i v)

/-- The partition a request names. -/
def Request.part (q : Request) : Nat := q.k % 16

/-- Changes a function's READY and BUFAIL bits in one step, and raises the event of a change (R16, R17, R26). -/
def State.setBits (s : State) (fn : Nat) (ready bufail : Bool) : State :=
  let s1 := (s.setRfield 0x000 fn 1 (if ready then 1 else 0)).setRfield 0x001 fn 1 (if bufail then 1 else 0)
  if s.ready fn = ready ∧ s.bufail fn = bufail then s1 else s1.raise 7

/-! ### Resets (R21, R22) -/

/-- Host memory: the part of device physical space from 2^55 on (R149). -/
def hostPart (m : Memory) : Memory := sslice m (2 ^ 55) (2 ^ 56)

/-- What no reset of the device reaches: the inputs, the memories outside it, its one-time storage, and the
model's own counters. The dirty lines of the L2s are discarded. -/
def State.outside (s0 : State) : State :=
  let s := s0.discardDirty
  { State.reset with
    agenda := s.agenda, request := s.request, free := s.free, beat := s.beat, clk := s.clk
    mem := hostPart s.mem, poison := sslice s.poison (2 ^ 50) (2 ^ 51)
    pool := s.pool, poolPoison := s.poolPoison, otpFloor := s.otpFloor, otpRaises := s.otpRaises
    messages := s.messages, hostReply := s.hostReply, poolReply := s.poolReply }

/-- COLD_RESET (R21): everything clears. DESIGN CHOICE, log entry 3. DEDUCED, log entry 61. -/
def execColdReset (s : State) : Res := .next s.outside

/-- The RETRY fields of KLSTAT0 to KLSTAT11, as stored. -/
def State.retries (s : State) : Sparse DWord :=
  (List.range 12).foldl (fun m j => sset 0 m (0x01C + j) (sget 0 s.regs (0x01C + j) &&& 0xFFFFFFFF00000000)) []

/-- The warm reset (R21, R22): what it keeps stands as it was, HBM as it stands beneath the dirty lines of the L2s, and host
writes are discarded until the log is ready again, together with those that an earlier reset began to count. The traps of
teams that waited to be placed again are logged, since the teams go (R116, R122). DEDUCED, log entry 61. -/
def State.warmReset (s0 : State) : State :=
  let s := s0.relaunchLog.foldl (fun s e => s.addLog e.2.2) s0
  { s.outside with
    regs := s.retries, mem := s.discardDirty.mem, poison := s.discardDirty.poison, seals := s.seals, time := s.time
    log := s.log, logHead := s.logHead, logTail := s.logTail, logDropped := s.logDropped, logLost := s.logLost
    decoders := s.decoders, options := s.options, masks := s.masks, pba := s.pba, config := s.config
    response := s.response, capacityEvents := s.capacityEvents, flitReplays := s.flitReplays, remotes := s.remotes, relays := s.relays
    resetDiscards := some (s.resetDiscards.getD (0, 0)) }

/-- PERST_WARM_RESET (R21). DEDUCED, log entry 61. -/
def execPerstWarmReset (s : State) : Res := .next s.warmReset

/-- FUNCTION_LEVEL_RESET (R21): port 0's configuration space, mailbox and host transactions clear, and its READY
bit until it is usable again. DEDUCED, log entry 61. -/
def execFunctionLevelReset (s : State) : Res :=
  let s1 := { s with decoders := [], options := s.options.filter fun o => decide (o.1 ≠ 0), masks := 0, pba := 0
                     config := [], response := none, spdm := {}, hostReply := none }
  .next (s1.setBits 24 false (s.bufail 24))

/-! ### Clocks and power (R8 to R15) -/

/-- TIMESTAMP_TICK (R10). -/
def execTimestampTick (s : State) : Res := .next { s with time := s.time + 10 }

/-- CURRENT_LIMITER_HOLD (R12, R15): matrix issue is held on the named dies at this clock, and HOLDS counts the
microsecond once. DESIGN CHOICE, log entry 70. -/
def execCurrentLimiterHold (s : State) : Res :=
  let us := s.time / 1000
  let s1 := { s with holdClk := some s.clk, holdDies := BitVec.ofNat 8 s.request.k, holdUs := some us }
  .next (if s.holdUs = some us then s1
    else s1.setRfield 0x003 32 32 (Nat.min (s.rfield 0x003 32 32 + 1) (2 ^ 32 - 1)))

/-- Sets the arithmetic clock; THR says that it is below 2.1 GHz (R15). -/
def State.setFreq (s : State) (mhz : Nat) : State :=
  (s.setRfield 0x003 0 16 mhz).setRfield 0x003 16 1 (if mhz < 2100 then 1 else 0)

/-- GOVERNOR_STEP_DOWN (R13). DESIGN CHOICE, log entry 70. -/
def execGovernorStepDown (s : State) : Res := .next (s.setFreq (Nat.max (s.rfield 0x003 0 16 - 100) 1200))

/-- GOVERNOR_STEP_UP (R13). DESIGN CHOICE, log entry 70. -/
def execGovernorStepUp (s : State) : Res := .next (s.setFreq (Nat.min (s.rfield 0x003 0 16 + 100) 2100))

/-! ### Readiness (R16 to R19) -/

/-- Whether a function is a CXL port or a Korben link (R16). -/
def isLink (fn : Nat) : Bool := decide (24 ≤ fn) && decide (fn < 40)

/-- The die that holds a function (R6), as the source of its entries (R435). R6 places no scheduler: the model puts it
on IO die 0. DESIGN CHOICE, log entry 76. -/
def functionDie (fn : Nat) : Nat :=
  if fn < 8 then fn
  else if fn < 24 then 0x10 + (fn - 8)
  else if fn = 24 ∨ fn = 25 ∨ (28 ≤ fn ∧ fn < 34) ∨ fn = 42 then 0x20
  else if fn = 43 then 0x10
  else if fn = 41 then 0x20
  else 0x21

/-- The log entry of a function's failure (R17, R18, R43, R59, R435). DEDUCED, log entry 60. -/
def bufailEntry (fn : Nat) : LogEntry :=
  { platformEntry 0x0403 0xFF 0 (BitVec.ofNat 64 fn) with
    die := functionDie fn
    unit := if fn < 24 then 0xFFFF else if fn < 28 then fn - 24 else if fn < 40 then fn - 28 else 0xFFFF }

/-- Sets the WIDTH of a Korben link's KLSTAT (R42). -/
def State.setWidth (s : State) (j w : Nat) : State := s.setRfield (0x01C + j) 10 2 w

/-- The binds that a scheduler which never became ready holds are discarded (R18). -/
def State.discardBinds (s : State) : State :=
  (List.range 16).foldl (fun s k =>
    if (s.part k).pendingBind.isSome then
      (s.setPart k { s.part k with pendingBind := none, heldBind := none }).setReg (pidx k 9) 0
    else s) s

/-- A function fails (R16 to R18, R22, R43): its BUFAIL bit sets and the failure is logged; a failed Korben link is
down, and the packets held for it are discarded; with a failed log a warm reset counts host writes no more. DEDUCED, log
entry 59. -/
def State.failFunction (s : State) (fn : Nat) : State :=
  let s1 := (s.setBits fn false true).addLog (bufailEntry fn)
  if 28 ≤ fn ∧ fn < 40 then
    { s1.setWidth (fn - 28) 3 with
      remotes := s1.remotes.filter fun r => decide (r.link ≠ fn - 28)
      relays := s1.relays.filter fun r => decide (r.1 ≠ fn - 28) }
  else if fn = 41 then s1.discardBinds
  else if fn = 43 then { s1 with resetDiscards := none }
  else s1

/-- Marks every fill line as snooped, so that the scheduler reads it again (R19). -/
def Graph.resnoop (g : Graph) : Graph :=
  { g with edges := g.edges.map fun e => if e.source then { e with snooped := true } else e }

/-- What a trained Korben link shows: its width and its peer (R42); the packets that it relays go on (R44). -/
def State.linkUp (s : State) (j : Nat) : State :=
  let q := s.request
  let s1 := ((s.setWidth j (q.e % 3)).setRfield (0x01C + j) 16 8 (fieldOf q.value 0 8)).setRfield (0x01C + j) 12 4 q.num
  { s1 with relays := s1.relays.filter fun r => decide (r.1 ≠ j) }

/-- A function becomes ready (R16, R18, R19, R22, R418). DEDUCED, log entry 59. -/
def State.becomeReady (s : State) (fn : Nat) : State :=
  let s1 := s.setBits fn true false
  if fn < 8 then { s1 with dieClk := sset 0 s1.dieClk fn s1.clk }
  else if 28 ≤ fn ∧ fn < 40 then s1.linkUp (fn - 28)
  else if fn = 41 then
    { s1 with parts := s1.parts.map fun p => (p.1, { p.2 with graph := p.2.graph.map Graph.resnoop }) }
  else if fn = 43 then
    let s2 := { s1 with resetDiscards := none }
    match s.resetDiscards with
    | some (a, n + 1) =>
      s2.addLog { platformEntry 0x0404 0xFF (BitVec.ofNat 64 a) 1 with unit := 0, folded := n }
    | _ => s2
  else s1

/-- The target number of an image's trailer for a function (R59). -/
def imageTarget (fn : Nat) : Nat := if fn = 42 then 1 else 2

/-- The SVN of an image that passes every check of its trailer (R59). DESIGN CHOICE, log entry 16. DEDUCED, log entry 59. -/
def State.verifyImage (s : State) (target : Nat) (bs : List Byte) : Option Nat :=
  let n := bs.length - 192
  let tr := bs.drop n
  let svn := leWord ((tr.drop 6).take 2)
  if 192 ≤ bs.length && decide (wordAt tr 0 = 0x44584639) && decide (tr.getD 4 0 = BitVec.ofNat 8 target)
      && decide (tr.getD 5 0 = 0) && decide (leWord ((tr.drop 8).take 8) = n)
      && decide (sha384 (bs.take n) = BitVec.ofNat 384 (leWord ((tr.drop 0x10).take 48)))
      && signatureHolds Config.fusedKey (tr.take 64) ((tr.drop 0x40).take 96)
      && decide (sget 0 s.otpFloor target ≤ svn) && ((tr.drop 0xA0).take 32).all (fun b => decide (b = 0))
  then some svn else none

/-- FUNCTION_INIT_COMPLETE (R16, R17, R59): the request says whether the function's own initialisation
succeeded, and brings the image of the management core or the scheduler, which the security controller checks. DEDUCED, log entry 59. -/
def execFunctionInitComplete (s : State) : Res :=
  let fn := s.request.k
  let q := s.request
  if 44 ≤ fn ∨ s.ready fn = true ∨ s.bufail fn = true then .next s
  else if !q.ok then .next (s.failFunction fn)
  else if fn = 41 ∨ fn = 42 then
    if s.bufail 40 then .next (s.failFunction fn)
    else if !s.ready 40 then .next s
    else
      match s.verifyImage (imageTarget fn) q.bytes with
      | none => .next (s.failFunction fn)
      | some v =>
        if fn = 41 ∧ ((List.range 8).any s.ready) = false then .next s
        else
          .next ({ s with svn := sset 0 s.svn (imageTarget fn) v
                          images := sset none s.images (imageTarget fn) (some (sha384 (q.bytes.take (q.bytes.length - 192)))) }.becomeReady fn)
  else .next (s.becomeReady fn)

/-- TRAIN_TIMEOUT (R17). -/
def execTrainTimeout (s : State) : Res :=
  let fn := s.request.k
  .next (if isLink fn && !s.ready fn && !s.bufail fn then s.failFunction fn else s)

/-- The link of a port or Korben link goes down: READY clears, and it retrains (R17, R43). -/
def State.dropLink (s : State) (fn : Nat) : State :=
  if isLink fn && s.ready fn then
    let s1 := s.setBits fn false false
    if 28 ≤ fn then s1.setWidth (fn - 28) 3 else s1
  else s

/-- LINK_DOWN (R17). -/
def execLinkDown (s : State) : Res := .next (s.dropLink s.request.k)

/-- LINK_RETRAIN_COMPLETE (R17, R43). -/
def execLinkRetrainComplete (s : State) : Res :=
  let fn := s.request.k
  .next (if !isLink fn || s.ready fn || s.bufail fn then s
    else if s.request.ok then s.becomeReady fn else s.failFunction fn)

/-- LATE_TRAINING (R17). -/
def execLateTraining (s : State) : Res :=
  let fn := s.request.k
  .next (if isLink fn && s.bufail fn then s.becomeReady fn else s)

/-! ### Port 0 (R23 to R26, R149) -/

/-- The device physical address of a host access under the decoders (R24). -/
def State.decodeHost (s : State) (h : HostReq) : Option Nat :=
  ((List.range 2).find? fun i =>
    let d : Decoder := sget {} s.decoders i
    d.en && decide (d.base ≤ h.hpa) && decide (h.hpa + h.len ≤ d.base + d.size)).map fun i =>
      let d : Decoder := sget {} s.decoders i
      d.dpa + (h.hpa - d.base)

/-- Whether a host access may not reach an address (R24, R55): not HBM, the carve-out, the secure world, or a
port of the other world. DEDUCED, log entry 62. -/
def State.hostRefused (s : State) (pa n : Nat) : Bool :=
  decide (s.carve < pa + n) || s.regionSec pa || (s.portSec 0 != s.regionSec pa)

/-- A host read that completes as failed. -/
def State.failRead (s : State) (n : Nat) : State := { s with hostReply := some (List.replicate n 0, true) }

/-- The 64-byte units that a range touches, as their sectors (R25). -/
def unitSectors (pa n : Nat) : List Nat := numsFrom (pa / 64 * 2) ((pa + n - 1) / 64 * 2 + 2)

/-- The sectors of the 64-byte units that a range covers whole (R25). -/
def wholeUnits (pa n : Nat) : List Nat := numsFrom ((pa + 63) / 64 * 2) ((pa + n) / 64 * 2)

/-- Host reads or host writes, as an episode of refused ones counts them. -/
def HostReq.way (h : HostReq) : Nat := if h.write then 1 else 0

/-- A host access that reaches HBM (R24, R25): it ends an episode of refused ones of its kind. DEDUCED, log entry 62. -/
def State.hostAccess (s0 : State) (h : HostReq) (pa : Nat) : State :=
  let s := { s0 with hostEpisode := sset 0 s0.hostEpisode h.way 0 }
  if h.write then
    let s1 := s.writeHome pa h.data
    if h.poison then (unitSectors pa h.len).foldl (fun s n => s.setPoison n true) s1 else s1
  else { s with hostReply := some (s.homeBytes pa h.len, (unitSectors pa h.len).any s.homePoison) }

/-- Folds a further event into the log entry of a sequence number (R67). -/
def State.foldSeq (s : State) (n : Nat) : State :=
  { s with log := s.log.map fun e => if e.seq = n then { e with folded := e.folded + 1 } else e }

/-- A host access that completes as failed (R24, R435): the first of an episode makes a log entry, and the others fold
into it until an access of the kind succeeds or the entry is acknowledged. DEDUCED, log entry 62. DESIGN CHOICE, log
entry 85. -/
def State.discardHost (s : State) (h : HostReq) (pa : Nat) : State :=
  let e := { platformEntry 0x0404 0xFF (BitVec.ofNat 64 pa) (BitVec.ofNat 64 h.way) with unit := 0 }
  let s1 := if h.write then s else s.failRead h.len
  let last := sget 0 s.hostEpisode h.way
  if 0 < last ∧ s.logTail < last then s1.foldSeq (last - 1)
  else
    let s2 := s1.addLog e
    { s2 with hostEpisode := sset 0 s2.hostEpisode h.way (if s2.logHead = s.logHead then 0 else s2.logHead) }

/-- HOST_MEM_ACCESS (R18, R22, R24, R25, R58). An access that a function holds stays with the host. -/
def execHostMemAccess (s : State) : Res :=
  match s.request.host with
  | none => .next s
  | some h =>
    match s.decodeHost h with
    | none => .next s
    | some pa =>
      match s.resetDiscards with
      | some (a, n) =>
        .next (if h.write then { s with resetDiscards := some (if n = 0 then pa else a, n + 1) } else s.failRead h.len)
      | none =>
        let fail := fun (fns : List Nat) => (fns.filter s.bufail).foldl State.foldBufail (if h.write then s else s.failRead h.len)
        if s.bufail 24 then .next (fail [24])
        else if !s.ready 24 then .next s
        else if s.hostRefused pa h.len then .next (s.discardHost h pa)
        else if s.targetFailed pa then .next (fail (s.functionsOf pa))
        else if s.targetHeld pa then .next s
        else .next (s.hostAccess h pa)

/-- INTEN_WRITE (R26). -/
def execIntenWrite (s : State) : Res := regEvent s 0x0E8 s.request.value

/-- INTPEND_CLEAR (R26). -/
def execIntpendClear (s : State) : Res := regEvent s 0x0E9 s.request.value

/-- The rows of R23's table whose option a port supports, from row 0: those that its DVSEC capabilities advertise and a
partner may enable. DEDUCED, log entry 64. -/
def portOptions (port : Nat) : List Nat :=
  if port = 0 then [0, 1, 2, 4, 5, 6, 7, 12, 13]
  else if port < 4 then [0, 1, 2, 4, 5, 10, 11, 12, 13]
  else []

/-- CONFIGURATION_SPACE_WRITE (R23, R24, R26): an unsupported option stays off, and a vector whose mask clears
sends the message that the mask held back. PRESUMED, log entry 63. DEDUCED, log entry 64. -/
def execConfigurationSpaceWrite (s : State) : Res :=
  match s.request.config with
  | none => .next s
  | some (.decoder i base size dpa en) =>
    .next (if i < 2 then { s with decoders := sset {} s.decoders i { base := base, size := size, dpa := dpa, en := en } } else s)
  | some (.option port i en) =>
    let off := s.options.filter fun j => decide (j ≠ (port, i))
    .next { s with options := if en && (portOptions port).contains i then off ++ [(port, i)] else off }
  | some (.vectorMask v mask) =>
    let bit : BitVec 16 := BitVec.ofNat 16 (2 ^ v)
    if mask then .next { s with masks := s.masks ||| bit }
    else
      let s1 := { s with masks := s.masks &&& ~~~bit, pba := s.pba &&& ~~~bit }
      .next (if s.pba &&& bit = 0 then s1 else { s1 with messages := s1.messages ++ [v] })
  | some (.other off v) => .next { s with config := sset 0 s.config off v }

/-- DYNAMIC_CAPACITY_EVENT (R23): reported, and not acted on. DEDUCED, log entry 64. -/
def execDynamicCapacityEvent (s : State) : Res :=
  let q := s.request
  .next (if 1 ≤ q.k ∧ q.k ≤ 3 then { s with capacityEvents := s.capacityEvents ++ [(q.k, q.bytes)] } else s)

/-- The host writes one byte of its own memory: beneath a dirty line that port 0 could not write back. -/
def State.hostByte (s : State) (pa : Nat) (b : Byte) : State :=
  if s.l2Dirty.any fun l => decide (l.line = pa / 128) then
    { s with l2Dirty := s.l2Dirty.map fun l => if l.line = pa / 128 then { l with cells := sset 0 l.cells pa b } else l }
  else { s with mem := sset 0 s.mem pa b }

/-- The host's write snoops away the fill lines that it meets: the scheduler reads each again, for every edge that
shares it (R33). -/
def State.snoopLines (s : State) (hpa n : Nat) : State :=
  { s with parts := s.parts.map fun p => (p.1, { p.2 with graph := p.2.graph.map fun g =>
      { g with edges := g.edges.map fun x =>
          if x.source && overlaps x.fillLine.toNat 64 hpa n then { x with snooped := true } else x } }) }

/-- The host writes bytes of its own memory (R25, R33, R149): the F9 gives up its lines, a dirty one written back, and
a unit that carries poison is poisoned whole, as one written whole without is not. -/
def State.hostWrites (s : State) (hpa : Nat) (bs : List Byte) (bad : Bool) : State :=
  let pa := 2 ^ 55 + hpa
  let s1 := (numsFrom (pa / 128) ((pa + bs.length - 1) / 128 + 1)).foldl State.writeBackLine s
  let s2 := ((List.range bs.length).foldl (fun s i => s.hostByte (pa + i) (bs.getD i 0)) s1).snoopLines hpa bs.length
  let secs := if bad then unitSectors pa bs.length else wholeUnits pa bs.length
  { s2 with poison := secs.foldl (fun m n => sset false m n bad) s2.poison }

/-- CXL_CACHE_SNOOP (R25, R33, R149): the host takes a line that the F9 may hold and writes it, the request says
whether poisoned. -/
def execCxlCacheSnoop (s : State) : Res :=
  let q := s.request
  .next (if q.bytes.isEmpty then s else s.hostWrites (fieldOf q.addr 0 55) q.bytes q.ok)

/-! ### The memory-side cache (R27 to R31) -/

/-- MSC_FLUSH (R27). -/
def execMscFlush (s : State) : Res := regEvent s 0x004 (setField s.request.value 31 1 1)

/-- MSC_RESIZE (R31). -/
def execMscResize (s : State) : Res := regEvent s 0x004 s.request.value

/-- Whether a posted store goes to the pool. -/
def Posted.toPool (p : Posted) : Bool := decide (2 ^ 40 ≤ p.pa) && decide (p.pa < 2 ^ 55)

/-- Whether every dirty pool line, and every line that a posted store is to make dirty, can leave for its port now (R29). -/
def State.canFlush (s : State) : Bool :=
  ((s.poolL2 ++ s.msc).all fun l => l.dirty.all fun d => !s.down (s.portOf (d * 32)))
    && s.posted.all fun p => !p.toPool || !s.down (s.portOf p.pa)

/-- Writes back and drops every pool line of the L2s and then of the memory-side cache (R27): the pool stores issued before
are performed first. -/
def State.flushPool (s0 : State) : State :=
  let s := s0.performWhere Posted.toPool
  let s1 := s.poolL2.foldl (fun s l => if l.dirty.isEmpty then s else s.cleanPoolLine l) s
  { s1.msc.foldl (fun s l => s.mscWriteBack l (s.mscBase l)) s1 with poolL2 := [], msc := [] }

/-- MSC_FLUSH_COMPLETE (R27, R31): the flush is done, a new size applies, and BUSY clears. -/
def execMscFlushComplete (s : State) : Res :=
  .next (if bitAt (s.reg 0x004) 30 && s.canFlush then (s.flushPool.setRfield 0x004 0 6 s.mscSize).setRfield 0x004 30 1 0
    else s)

/-- MSC_MISS_FILL (R29). -/
def execMscMissFill (s : State) : Res :=
  let pa := fieldOf s.request.addr 0 56
  .next (if (s.poolPort pa).isSome && !s.targetHeld pa && !s.targetFailed pa then s.mscFill pa else s)

/-! ### Fill lines (R33, R34) -/

/-- FILL_LINE_SNOOP (R33): the host writes PRODUCED, and the F9 gives up its copy of the line; the request says whether
the unit is poisoned. -/
def execFillLineSnoop (s : State) : Res :=
  let q := s.request
  match s.edge? q.part q.e with
  | none => .next s
  | some x =>
    .next (if x.source then s.hostWrites x.fillLine.toNat (bytes64 q.value) q.ok else s)

/-- A source edge after a reading of its fill line (R33, R34): FILL is what is produced and not yet granted, and
an overfull edge counts as empty. DEDUCED, log entry 43. -/
def Edge.refill (x : Edge) (produced : DWord) : Edge :=
  let fill := (produced - x.consumed).toNat
  let granted := (x.head - x.consumed).toNat
  let y := { x with produced := produced, snooped := false }
  if x.slotcnt < fill then { y with fill := 0, beyond := true } else { y with fill := fill - granted, beyond := false }

/-- FILL_LINE_REREAD (R33, R34): the slots read after it are ordered behind it. A poisoned line is not taken: the edge
stays snooped. DESIGN CHOICE, log entry 80. -/
def execFillLineReread (s : State) : Res :=
  let q := s.request
  let k := q.part
  match s.edge? k q.e with
  | none => .next s
  | some x =>
    let pa := 2 ^ 55 + x.fillLine.toNat
    if !(x.source && x.snooped && s.ready 24 && s.ready 41) || s.homePoisoned pa 8 then .next s
    else
      let y := x.refill (BitVec.ofNat 64 (leWord (s.homeBytes pa 8)))
      let s1 := { s.setEdge k q.e y with l1 := s.l1.filter fun l => decide (l.part ≠ k) }
      let s2 := if y.beyond && !x.beyond then s1.addLog (platformEntry 0x0401 k x.fillLine y.produced) else s1
      .next (s2.writeBack k q.e)

/-! ### Korben links (R40 to R49) -/

/-- FLIT_CRC_FAIL (R43): the flit is replayed; after eight failed replays in a row the link retrains. The request
says whether this replay is accepted. The count stays while the link is down. DEDUCED, log entry 59. DESIGN CHOICE, log
entry 82. -/
def execFlitCrcFail (s : State) : Res :=
  let j := s.request.k
  let n := sget 0 s.flitReplays j
  if 12 ≤ j ∨ s.ready (28 + j) = false then .next s
  else if n = 8 then .next ({ s with flitReplays := sset 0 s.flitReplays j 0 }.dropLink (28 + j))
  else
    let s1 := s.setRfield (0x01C + j) 32 32 (Nat.min (s.rfield (0x01C + j) 32 32 + 1) (2 ^ 32 - 1))
    .next { s1 with flitReplays := sset 0 s1.flitReplays j (if s.request.ok then 0 else n + 1) }

/-- Writes the enabled bytes of a packet. -/
def State.putEnabled (s : State) (pa : Nat) : List (Option Byte) → State
  | [] => s
  | none :: r => s.putEnabled (pa + 1) r
  | some b :: r => (s.putByte pa b).putEnabled (pa + 1) r

/-- Lands the sectors of a packet with their poison bits (R41, R119). -/
def State.landPacket (s : State) (pa : Nat) (p : Packet) : State :=
  let n := p.data.length
  let s1 := (s.touch pa n).putEnabled pa p.data
  (List.range ((n + 31) / 32)).foldl (fun s i =>
    let bs := (p.data.drop (32 * i)).take 32
    if bitAt (p.poison.setWidth 64) i then s.setPoison (pa / 32 + i) true
    else if bs.length = 32 && bs.all Option.isSome then s.setPoison (pa / 32 + i) false
    else s) s1

/-- The log entry of a packet that its owner discards (R55, R435). DEDUCED, log entry 67. -/
def packetEntry (p : Packet) (cause detail : Nat) : LogEntry :=
  { platformEntry cause p.part (BitVec.ofNat 64 p.addr) (BitVec.ofNat 64 detail) with
    cls := 1, unit := p.link, die := if p.link < 6 then 0x20 else 0x21 }

/-- A remote store or RED is applied at its owner (R48, R55, R120). DEDUCED, log entry 67. -/
def State.applyPacket (s : State) (p : Packet) : State :=
  match s.xlateWalk (s.linkSec p.link) p.part none (BitVec.ofNat 64 p.addr) .write false with
  | .ok pa leaf lost =>
    let s1 := s.noteKeyEmpty pa leaf p.part p.link false
    if lost then s1
    else
      match p.red with
      | none => (s1.rekey (keyOf leaf) true pa p.data.length).landPacket pa p
      | some (op, wide, ftz) =>
        let v : DWord := BitVec.ofNat 64 (leWord (p.data.map (·.getD 0)))
        (s1.rekey (keyOf leaf) true pa (aopSize wide)).applyRed p.part pa op wide ftz v (BitVec.ofNat 64 p.addr) 0
  | .held => s
  | .world => s.addLog (packetEntry p 0x0201 0)
  | .page d _ => s.addLog (packetEntry p 0x0200 d)
  | .recoverable r => s.addLog (packetEntry p 0x0200 r)
  | _ => s.addLog (packetEntry p 0x0113 0)

/-- Whether a packet has the form that a link carries (R40): a remote store of at most 8 aligned sectors, or a RED. -/
def Packet.formed (p : Packet) : Bool :=
  match p.red with
  | none => decide (p.addr % 32 = 0) && decide (p.data.length ≤ 256)
  | some (_, wide, _) => decide (p.data.length = aopSize wide) && decide (p.addr % aopSize wide = 0)

/-- A packet for another device goes on over the link that this device's TOPO names (R41, R44, R46): a link that is
down holds it, a failed one discards it and counts it, and one that is up leaves no trace of it. A packet for which TOPO
names no link stays. DESIGN CHOICE, log entry 77. -/
def State.relayPacket (s : State) (p : Packet) : State :=
  let link := (s.hop p.dest).getD 12
  if 12 ≤ link || s.down (28 + link) then { s with relays := s.relays ++ [(link, p)] }
  else if s.bufail (28 + link) then s.foldBufail (28 + link)
  else s

/-- KORBEN_PACKET_RECEIVE (R40, R41, R44, R46). DEDUCED, log entry 67. -/
def execKorbenPacketReceive (s : State) : Res :=
  match s.request.packet with
  | none => .next s
  | some p =>
    .next (if 12 ≤ p.link || !s.ready (28 + p.link) || !p.formed then s
      else if p.dest = s.rfield 0x008 0 8 then s.applyPacket p
      else s.relayPacket p)

/-- TOPO_WRITE (R45): a write of TOPOCNT, or of TOPO entry e. -/
def execTopoWrite (s : State) : Res :=
  let q := s.request
  regEvent s (if q.ok then 0x009 else 0x200 + q.e % 256) q.value

/-- OWNER_WRITE (R45). -/
def execOwnerWrite (s : State) : Res := regEvent s (0x300 + s.request.e % 256) s.request.value

/-- STEP_WRITE (R403). -/
def execStepWrite (s : State) : Res := regEvent s 0x013 s.request.value

/-- RING_ENABLE (R36, R354). -/
def execRingEnable (s : State) : Res :=
  let i := 0x058 + s.request.k % 16
  regEvent s i (setField s.request.value 5 1 1)

/-- RING_TAIL_POLL (R357): the engine of an enabled ring reads TAIL again. -/
def execRingTailPoll (s : State) : Res :=
  let k := s.request.k % 16
  .next (if bitAt (s.reg (0x058 + k)) 5 && s.port0 then
      { s with rings := sset {} s.rings k { s.ring k with tseen := s.ringTail k } } else s)

/-- REGISTER_WRITE (R413, R433). -/
def execRegisterWrite (s : State) : Res := regEvent s s.request.e s.request.value

end Sys2Proof.Machine
end

