-- ==== Sys2Proof/Machine/MemInstr.lean ====
section
/-! DEFINITION. Loads, stores, atomics and fences (R262 to R271). -/

namespace Sys2Proof.Machine

/-! ### MODM (R198) -/

/-- The width code; 4 without MODM. -/
def memW (m : Mods) : Nat := match m.m with | some x => x.w.toNat | none => 4
/-- The ordering code. -/
def memOrd (m : Mods) : Nat := match m.m with | some x => x.ord.toNat | none => 0
/-- The scope code. -/
def memScope (m : Mods) : Nat := match m.m with | some x => x.scope.toNat | none => 0
/-- The hint. -/
def memHint (m : Mods) : Nat := match m.m with | some x => x.hint.toNat | none => 0
/-- The atomic operation code. -/
def memAop (m : Mods) : Nat := match m.m with | some x => x.aop.toNat | none => 0
/-- The displacement. -/
def memDisp (m : Mods) : BitVec 11 := match m.m with | some x => x.disp | none => 0

/-- The bytes of a width code (R265). -/
def widthBytes (w : Nat) : Nat :=
  if w ≤ 1 then 1 else if w ≤ 3 then 2 else if w = 4 then 4 else if w = 5 then 8 else 16

/-- The registers of a width code. -/
def widthRegs (w : Nat) : Nat := if w ≤ 4 then 1 else if w = 5 then 2 else 4

/-- An acquire at any scope. -/
def isAcq (m : Mods) : Bool := memOrd m = 1 || memOrd m = 3
/-- An acquire at DEVICE or SYSTEM scope. -/
def acqWide (m : Mods) : Bool := (memOrd m = 1 || memOrd m = 3) && decide (2 ≤ memScope m)
/-- A release at any scope. -/
def isRel (m : Mods) : Bool := memOrd m = 2 || memOrd m = 3
/-- A release at DEVICE or SYSTEM scope. -/
def relWide (m : Mods) : Bool := isRel m && decide (2 ≤ memScope m)
/-- A release at SYSTEM scope. -/
def relSys (m : Mods) : Bool := isRel m && decide (memScope m = 3)

/-! ### Addresses (R265) -/

/-- The global address of a lane. -/
def Ctx.gAddr (c : Ctx) (ln : Lane) (w : W3) : DWord :=
  c.b64 ln w + (c.l32 ln w.a).signExtend 64 + (memDisp w.m).signExtend 64

/-- The scratchpad offset of a lane. -/
def Ctx.sAddr (c : Ctx) (ln : Lane) (w : W3) : DWord :=
  (c.b32 ln w + c.l32 ln w.a + (memDisp w.m).signExtend 32).setWidth 64

/-- The address of a uniform access. -/
def Ctx.uAddr (c : Ctx) (w : W3) : DWord := c.u w.a + c.u w.b + (memDisp w.m).signExtend 64

/-! ### Data -/

/-- The words of n registers of a lane operand as bytes. -/
def Ctx.dataBytes (c : Ctx) (ln : Lane) (code : BitVec 6) (size : Nat) : List Byte :=
  ((bytes32 (c.laneWord ln code 0) ++ bytes32 (c.laneWord ln code 1) ++ bytes32 (c.laneWord ln code 2)
    ++ bytes32 (c.laneWord ln code 3)).take size)

/-- The register words that a load of a width code fills from its bytes (R267). -/
def loadWords (w : Nat) (bs : List Byte) : List Word :=
  if w = 0 then [((bs.getD 0 0).signExtend 32)]
  else if w = 1 then [((bs.getD 0 0).setWidth 32)]
  else if w = 2 then [((BitVec.ofNat 16 (leWord bs)).signExtend 32)]
  else if w = 3 then [((BitVec.ofNat 16 (leWord bs)).setWidth 32)]
  else (List.range (widthRegs w)).map fun i => wordAt bs (4 * i)

/-- Passes the instruction, with its recoverable lanes parked at it (R106, R266). -/
def Ctx.finishPark (c : Ctx) (s : State) (stall words kind : Nat) (ps : List FaultLane) : State :=
  let s1 := { s with clk := Nat.max s.clk c.clk }
  let g := c.g.retire c.clk stall words
  if ps.isEmpty then s1.put c.t g else s1.parkFault c.t g c.g.pc kind ps

/-! ### The order of checks (R266) -/

/-- A lane memory instruction up to its bounds: operands, the comparison of R110, DET_ATOMIC, ALIGN and
the bounds; then `body` with the accesses of the executing visible lanes. DEDUCED, log entry 21. -/
def memLane (s : State) (w : W3) (scr : Bool) (size nb nc : Nat) (extra : Lane → List Loc) (sdcKind : Nat)
    (cmp : Ctx → Lane → List DWord) (pre : Ctx → List Acc → Option Trap)
    (body : State → Ctx → List Acc → Res) : Res :=
  let gd := guard3 w
  laneRun s gd w.m (fun ln => w3Locs w 1 nb nc ln ++ extra ln) fun s c =>
    let addr := fun ln => if scr then c.sAddr ln w else c.gAddr ln w
    let accs := (c.execVisible gd).map fun ln => ({ ln := ln, addr := addr ln } : Acc)
    let d := c.differing gd fun ln => addr ln :: cmp c ln
    if d ≠ 0 then c.trap s (sdcTrap sdcKind d (accAddr (accs.filter fun a => bitAt d a.ln.pos)))
    else
      match pre c accs with
      | some tr => c.trap s tr
      | none =>
        match alignTrap accs size with
        | some tr => c.trap s tr
        | none =>
          match (if scr then scratchTrap c.t accs size else highTrap accs) with
          | some tr => c.trap s tr
          | none => body s c accs

/-- No check before ALIGN. -/
def noPre : Ctx → List Acc → Option Trap := fun _ _ => none

/-- Nothing compared beside the address. -/
def noCmp : Ctx → Lane → List DWord := fun _ _ => []

/-- Steps 6 and 7 for global lane accesses: translation, then the table, then `body` with the lanes that
go on and those that park. DEDUCED, log entry 21. -/
def Ctx.judge (c : Ctx) (s : State) (accs : List Acc) (acc : Access) (remoteOk store : Bool) (size : Nat)
    (body : List (Acc × Dest) → List FaultLane → Res) : Res :=
  let xs := c.xlates s accs acc remoteOk
  match xlatTrap xs with
  | some tr => c.trap s tr
  | none =>
    if xs.any fun p => decide (p.2 = .held) then c.wait s .held
    else
      let go := goingLanes xs
      let ms := go.map fun p =>
        (p.1, if store then c.t.storeMeets .global 0 p.1.addr.toNat size else c.t.loadMeets .global 0 p.1.addr.toNat size)
      match tableTrap ms with
      | some tr => c.trap s tr
      | none =>
        if ms.any fun p => decide (p.2 = .stall) then c.wait s .watermark
        else body go (parkingLanes xs)

/-- Step 7 for scratchpad accesses. -/
def Ctx.judgeScratch (c : Ctx) (s : State) (accs : List Acc) (store : Bool) (size : Nat) (body : Res) : Res :=
  let ms := accs.map fun a =>
    (a, if store then c.t.storeMeets .scratch 0 a.addr.toNat size else c.t.loadMeets .scratch 0 a.addr.toNat size)
  match tableTrap ms with
  | some tr => c.trap s tr
  | none => if ms.any fun p => decide (p.2 = .stall) then c.wait s .watermark else body

/-- POISON at a register load (R120). -/
def poisonTrap (l : List Acc) (kind : Nat) : Trap :=
  { cause := 0x0300, mask := accMask l, addr := accAddr l, kind := kind }

/-! ### Loads -/

/-- The way in which a load is performed. DEDUCED, log entry 32. -/
def Ctx.loadVia (c : Ctx) (m : Mods) : LoadVia :=
  if acqWide m || decide (memHint m = 3) then .home else c.t.plainVia

/-- What an acquire does at its scope (R172, R175). -/
def Ctx.acquireFor (c : Ctx) (s : State) (m : Mods) : State :=
  if acqWide m then s.acquire c.t c.g else if isAcq m then s.observeBy c.t c.g else s

/-- What one lane's read gives: its bytes and whether they are poisoned. -/
structure LaneRead where
  acc : Acc
  data : List Byte
  bad : Bool
  deriving DecidableEq, Repr

/-- Prepares one lane's read. -/
def State.prepLane (s : State) (t : Team) (core size : Nat) (via : LoadVia) (p : Acc × Dest) : State :=
  match p.2 with
  | .local pa leaf _ => s.readPrep t core [p.1.ln.fid] (keyOf leaf) pa size via
  | .remote _ => s

/-- One lane's read, once prepared. -/
def State.laneRead (s : State) (t : Team) (core size : Nat) (p : Acc × Dest) : LaneRead :=
  match p.2 with
  | .local pa leaf lost =>
    { acc := p.1, data := s.teamBytes t core (keyOf leaf) pa size
      bad := lost || (s.teamPoison t core (keyOf leaf) pa size).isSome }
  | .remote _ => { acc := p.1, data := [], bad := false }

/-- The reads of several lanes, in order. -/
def State.readLanes (s : State) (t : Team) (core size : Nat) (via : LoadVia) : List (Acc × Dest) → State × List LaneRead
  | [] => (s, [])
  | p :: rest =>
    let s1 := s.prepLane t core size via p
    let r := s1.readLanes t core size via rest
    (r.1, s1.laneRead t core size p :: r.2)

/-- The bytes of a lane's load: of a 16-byte load whose first halves were read before, that half as it was then (R169). -/
def Group.withHalf (g : Group) (x : LaneRead) : List Byte :=
  match g.half.find? fun h => decide (h.1 = x.acc.ln.fid) && decide (h.2.1 = x.acc.addr) with
  | some h => h.2.2 ++ x.data.drop 8
  | none => x.data

/-- A global lane load up to the lanes that go on and those that park (R263 to R266). -/
def ldRun (w : W3) (s : State) (f : State → Ctx → List (Acc × Dest) → List FaultLane → Res) : Res :=
  let size := widthBytes (memW w.m)
  memLane s w false size 2 0 (fun _ => []) 0 noCmp noPre fun s c accs =>
    c.judge s accs .read false false size (f s c)

/-- The first halves of a 16-byte load are read, as accesses of their own (R169): the instruction's own turn reads the
second halves. DEDUCED, log entry 6. -/
def readHalves (w : W3) (s : State) : Res :=
  ldRun w s fun s c go parks =>
    let s1 := c.afterXlat s go
    let r := (c.acquireFor s1 w.m).readLanes c.t c.g.core 8 (c.loadVia w.m) go
    if memW w.m ≠ 6 ∨ parks.isEmpty = false ∨ r.2.any (·.bad) = true then .next s
    else .next (r.1.put c.t { c.g with half := r.2.map fun x => (x.acc.ln.fid, x.acc.addr, x.data) })

/-- LD (R263 to R268). -/
def execLd (w : W3) (s : State) : Res :=
  ldRun w s fun s c go parks =>
    let s1 := c.afterXlat s go
    let r := (c.acquireFor s1 w.m).readLanes c.t c.g.core (widthBytes (memW w.m)) (c.loadVia w.m) go
    match (r.2.filter (·.bad)).map (·.acc) with
    | bad@(_ :: _) => c.trap s1 (poisonTrap bad 0)
    | [] =>
      let c1 := r.2.foldl (fun c1 x => c1.bothSides x.acc.ln w.d (loadWords (memW w.m) (c.g.withHalf x))) c
      .next (c1.finishPark r.1 w.s.toNat w.m.words 0 parks)

/-- LDS (R263 to R267). -/
def execLds (w : W3) (s : State) : Res :=
  let size := widthBytes (memW w.m)
  memLane s w true size 1 0 (fun _ => []) 0 noCmp noPre fun s c accs =>
    c.judgeScratch s accs false size <|
      match scratchErrors c.t accs size with
      | e@(_ :: _) => trapRes s (dropScratchErrors c.t e size) c.g
          { cause := 0x0302, mask := accMask e, addr := accAddr e, kind := 1 }
      | [] =>
        match accs.filter fun a => c.t.scratchBad a.addr.toNat size with
        | bad@(_ :: _) => c.trap s (poisonTrap bad 0)
        | [] =>
          let s1 := c.acquireFor s w.m
          let c1 := accs.foldl (fun c1 a =>
            c1.bothSides a.ln w.d (loadWords (memW w.m) (c.t.scratchBytes a.addr.toNat size))) c
          .next (c1.finish s1 w.s.toNat w.m.words)

/-! ### Stores -/

/-- A release in a CONTAIN team closes the buffer's entries; at SYSTEM scope what follows it waits for the remote ones
before it (R49, R113, R174). DEDUCED, log entry 37. -/
def Ctx.closeFor (c : Ctx) (m : Mods) : Ctx :=
  if isRel m && c.t.launch.contain then { c with t := if relSys m then c.t.closeSystem else c.t.closeEntries } else c

/-- What a release does before an access that is performed at once (R113, R174, R176): the buffer's entries close,
and at DEVICE or SYSTEM scope the stores that the fibres have made or observed are performed. DEDUCED, log entry 37. -/
def Ctx.beforeRelease (c : Ctx) (s : State) (m : Mods) : State × Ctx :=
  (if relWide m then s.release c.t c.g else s, c.closeFor m)

/-- Whether a lane's access goes to another device. -/
def Dest.isRemote : Dest → Bool
  | .remote _ => true
  | .local _ _ _ => false

/-- Issues the stores of a group (R112, R151, R267). A releasing store stands posted behind all that its fibre has
made or observed (R174); one to a remote block leaves only after those are performed. DEDUCED, log entry 6. -/
def Ctx.storeLanes (c : Ctx) (s : State) (m : Mods) (l : List (Acc × Dest × List Byte)) (f : State → Ctx → Res) : Res :=
  let nol1 := decide (memHint m = 3)
  if c.t.launch.contain then
    let puts := putsOf l
    let s1 := if nol1 then puts.foldl (fun s p => s.l1DropRange c.g.core false p.addr p.data.length) s else s
    c.withBuffer (s1.sbEffect c.t fun t => t.bufferStores puts) f
  else
    let s1 := if relWide m && l.any (fun p => p.2.1.isRemote) then s.release c.t c.g else s
    f (s1.storeDirect c.t c.g.core l nol1 (relWide m)) c

/-- ST (R263 to R268). -/
def execSt (w : W3) (s : State) : Res :=
  let size := widthBytes (memW w.m)
  memLane s w false size 2 0 (fun ln => laneLocs ln w.d (widthRegs (memW w.m))) 1
    (fun c ln => [BitVec.ofNat 64 (leWord ((c.dataBytes ln w.d size).take 8)),
      BitVec.ofNat 64 (leWord ((c.dataBytes ln w.d size).drop 8))]) noPre fun s c accs =>
    c.judge s accs .write true true size fun go parks =>
      if relSys w.m && s.remotePending c.t then c.wait s .held
      else
        (c.closeFor w.m).storeLanes (c.afterXlat s go) w.m (go.map fun p => (p.1, p.2, c.dataBytes p.1.ln w.d size)) fun s2 c2 =>
          .next (c2.finishPark s2 w.s.toNat w.m.words 1 parks)

/-- STS (R263 to R267). -/
def execSts (w : W3) (s : State) : Res :=
  let size := widthBytes (memW w.m)
  memLane s w true size 1 0 (fun ln => laneLocs ln w.d (widthRegs (memW w.m))) 1
    (fun c ln => [BitVec.ofNat 64 (leWord ((c.dataBytes ln w.d size).take 8)),
      BitVec.ofNat 64 (leWord ((c.dataBytes ln w.d size).drop 8))]) noPre fun s c accs =>
    c.judgeScratch s accs true size <|
      if relSys w.m && s.remotePending c.t then c.wait s .held
      else
        let r := c.beforeRelease s w.m
        let c1 : Ctx := { r.2 with
          t := r.2.t.putScratchAll (accs.map fun a => (a.addr.toNat, c.dataBytes a.ln w.d size)) }
        .next (c1.finish r.1 w.s.toNat w.m.words)

/-! ### Uniform loads and stores -/

/-- The value of a uniform load (R267). -/
def uniLoad (w : Nat) (bs : List Byte) : DWord :=
  if w = 0 then (bs.getD 0 0).signExtend 64
  else if w = 2 then (BitVec.ofNat 16 (leWord bs)).signExtend 64
  else BitVec.ofNat 64 (leWord bs)

/-- LDU (R263 to R267). -/
def execLdu (w : W3) (s : State) : Res :=
  let size := widthBytes (memW w.m)
  uniInstr (point := some 0) s (guardY w) w.m w.s.toNat (uniLocs w.a ++ uniLocs w.b) fun s c =>
    let a := c.uAddr w
    if a.toNat % size ≠ 0 then c.trap s { cause := 0x0108, mask := c.g.activeMask, addr := a }
    else
      c.withRead s 0 (c.groupRead (c.acquireFor s w.m) 0 (c.loadVia w.m) a size) fun s1 bs =>
        .next ((c.setS 0 w.d.toNat (uniLoad (memW w.m) bs)).finish s1 w.s.toNat w.m.words)

/-- STU (R263 to R267). -/
def execStu (w : W3) (s : State) : Res :=
  let size := widthBytes (memW w.m)
  uniInstr (point := some 1) s (guardY w) w.m w.s.toNat (uniLocs w.a ++ uniLocs w.b ++ uniLocs w.d) fun s c =>
    let a := c.uAddr w
    let mask := c.g.activeMask
    if a.toNat % size ≠ 0 then c.trap s { cause := 0x0108, mask := mask, addr := a }
    else
      match s.xlate (s.coreSec c.g.core) c.g.core c.t.part (s.version c.t) a .write true with
      | .held => c.wait s .held
      | .recoverable r => c.parkGroup s 1 a r
      | x =>
        let fid := match c.g.active with | p :: _ => p.2 | [] => 0
        let acc : Acc := { ln := { pos := 0, fid := fid, wid := 0, side := 0 }, addr := a }
        match goingLanes [(acc, x)] with
        | [] =>
          match x.trap? mask a with
          | some tr => c.trap s tr
          | none => c.wait s .held
        | go@(_ :: _) =>
          match c.t.storeMeets .global 0 a.toNat size with
          | .conflict k kind => c.trap s { cause := 0x0109, mask := mask, addr := a, detail := entryDetail k kind }
          | _ =>
            if relSys w.m && s.remotePending c.t then c.wait s .held
            else
              (c.closeFor w.m).storeLanes (c.afterXlat s go) w.m
                  (go.map fun p => (p.1, p.2, (bytes64 (c.u w.d)).take size)) fun s2 c2 =>
                .next (c2.finish s2 w.s.toNat w.m.words)

/-! ### Atomics -/

/-- DET_ATOMIC (R270). -/
def detTrap (m : Mods) (c : Ctx) (l : List Acc) : Option Trap :=
  if c.t.launch.det && decide (9 ≤ memAop m) && !l.isEmpty then some { cause := 0x010E, mask := accMask l, addr := accAddr l } else none

/-- The operand of an atomic at its width. -/
def Ctx.operandAt (c : Ctx) (ln : Lane) (code : BitVec 6) (wide : Bool) : DWord :=
  if wide then c.l64 ln code else (c.l32 ln code).setWidth 64

/-- The third source of an atomic at its width; absent 0. -/
def Ctx.thirdAt (c : Ctx) (ln : Lane) (m : Mods) (wide : Bool) : DWord :=
  if wide then c.c64 ln m 0 else (c.c32 ln m 0).setWidth 64

/-- The words of a value at a width. -/
def valueWords (wide : Bool) (v : DWord) : List Word :=
  if wide then [v.setWidth 32, (v >>> 32).setWidth 32] else [v.setWidth 32]

/-- One read-modify-write at the home L2 through a key id: the old value and the state (R56, R269). -/
def State.rmwHome (s : State) (key pa size : Nat) (f : DWord → Option DWord) : DWord × State :=
  let s1 := s.rekey key false pa size
  let old : DWord := BitVec.ofNat 64 (leWord (s1.homeBytes pa size))
  match f old with
  | some v => (old, (s1.rekey key true pa size).writeHome pa (leBytes size v.toNat))
  | none => (old, s1)

/-- The lanes' read-modify-writes at their homes, in ascending lane order; a write through an empty key
slot is discarded. -/
def rmwLanes (s : State) (size : Nat) (f : Lane → DWord → Option DWord) :
    List (Acc × Dest) → List (Lane × DWord) × State
  | [] => ([], s)
  | p :: rest =>
    match p.2 with
    | .local pa leaf _ =>
      let r := s.rmwHome (keyOf leaf) pa size (f p.1.ln)
      let q := rmwLanes r.2 size f rest
      ((p.1.ln, r.1) :: q.1, q.2)
    | .remote _ => rmwLanes s size f rest

/-- Whether a lane's read-modify-write would consume poison. -/
def homeBad (s : State) (size : Nat) (p : Acc × Dest) : Bool :=
  match p.2 with
  | .local pa _ lost => lost || s.homePoisoned pa size
  | .remote _ => false

/-- A global atomic that is performed at the home L2 at once (R172, R269, R270): in a CONTAIN team the
buffer drains first and the team is restartable no longer, where some lane goes on (R115). -/
def Ctx.atomicNow (c : Ctx) (s : State) (m : Mods) (size : Nat) (go : List (Acc × Dest)) (drainFirst : Bool)
    (f : Lane → DWord → Option DWord) (k : State → Ctx → List (Lane × DWord) → Res) : Res :=
  if relSys m && s.remotePending c.t then c.wait s .held
  else
    let r := c.beforeRelease (c.afterXlat s go) m
    let perform := fun (s1 : State) (c1 : Ctx) =>
      let s3 := go.foldl (fun s p => s.prepLane c1.t c1.g.core size .home p) (c1.acquireFor s1 m)
      match (go.filter (homeBad s3 size)).map (·.1) with
      | bad@(_ :: _) => c1.trap s1 (poisonTrap bad 0)
      | [] =>
        let q := rmwLanes s3 size f go
        k q.2 c1 q.1
    if drainFirst && !go.isEmpty then
      r.2.withBuffer (r.1.drain r.2.t) fun s1 c1 => perform s1 { c1 with t := { c1.t with restartable := false } }
    else perform r.1 r.2

/-- A global atomic that returns its old value. -/
def atomicReturn (s : State) (w : W3) (nd : Bool) (f : Ctx → Lane → Bool → DWord → Option DWord) : Res :=
  let wide := decide (memW w.m = 5)
  let size := aopSize wide
  let regs := widthRegs (memW w.m)
  memLane s w false size 2 regs (fun ln => if nd then laneLocs ln w.d regs else []) 2
    (fun c ln => [c.thirdAt ln w.m wide] ++ (if nd then [c.operandAt ln w.d wide] else [])) (detTrap w.m) fun s c accs =>
    c.judge s accs .write false true size fun go parks =>
      c.atomicNow s w.m size go c.t.launch.contain (fun ln => f c ln wide) fun s1 c1 olds =>
        let c2 := olds.foldl (fun c2 p => c2.bothSides p.1 w.d (valueWords wide p.2)) c1
        .next (c2.finishPark s1 w.s.toNat w.m.words 1 parks)

/-- ATOM (R263 to R270). -/
def execAtom (w : W3) (s : State) : Res :=
  atomicReturn s w false fun c ln wide old =>
    some (aopResult c.t.launch.ftz (memAop w.m) wide old (c.thirdAt ln w.m wide))

/-- CAS (R263 to R270). -/
def execCas (w : W3) (s : State) : Res :=
  atomicReturn s w true fun c ln wide old =>
    if old = c.operandAt ln w.d wide then some (c.thirdAt ln w.m wide) else none

/-- The lanes' read-modify-writes in the scratchpad, in ascending lane order. -/
def rmwScratch (t : Team) (size : Nat) (f : Lane → DWord → DWord) : List Acc → List (Lane × DWord) × Team
  | [] => ([], t)
  | a :: rest =>
    let old : DWord := BitVec.ofNat 64 (leWord (t.scratchBytes a.addr.toNat size))
    let q := rmwScratch (t.putScratch a.addr.toNat (leBytes size (f a.ln old).toNat)) size f rest
    ((a.ln, old) :: q.1, q.2)

/-- ATOMS (R263 to R270). -/
def execAtoms (w : W3) (s : State) : Res :=
  let wide := decide (memW w.m = 5)
  let size := aopSize wide
  memLane s w true size 1 (widthRegs (memW w.m)) (fun _ => []) 2 (fun c ln => [c.thirdAt ln w.m wide]) (detTrap w.m)
    fun s c accs =>
      c.judgeScratch s accs true size <|
        if relSys w.m && s.remotePending c.t then c.wait s .held
        else
          match scratchErrors c.t accs size with
          | e@(_ :: _) => trapRes s (dropScratchErrors c.t e size) c.g
              { cause := 0x0302, mask := accMask e, addr := accAddr e, kind := 1 }
          | [] =>
            match accs.filter fun a => c.t.scratchBad a.addr.toNat size with
            | bad@(_ :: _) => c.trap s (poisonTrap bad 0)
            | [] =>
              let r := c.beforeRelease s w.m
              let s1 := c.acquireFor r.1 w.m
              let q := rmwScratch r.2.t size
                (fun ln old => aopResult c.t.launch.ftz (memAop w.m) wide old (c.thirdAt ln w.m wide)) accs
              let c2 := q.1.foldl (fun c2 p => c2.bothSides p.1 w.d (valueWords wide p.2)) { r.2 with t := q.2 }
              .next (c2.finish s1 w.s.toNat w.m.words)

/-- RED (R263 to R270): under CONTAIN each lane's operation enters the store buffer. -/
def execRed (w : W3) (s : State) : Res :=
  let wide := decide (memW w.m = 5)
  let size := aopSize wide
  memLane s w false size 2 0 (fun ln => laneLocs ln w.d (widthRegs (memW w.m))) 2
    (fun c ln => [c.operandAt ln w.d wide]) (detTrap w.m) fun s c accs =>
    c.judge s accs .write true true size fun go parks =>
      let aop := memAop w.m
      if c.t.launch.contain then
        if relSys w.m && s.remotePending c.t then c.wait s .held
        else
          let r := (c.afterXlat s go, c.closeFor w.m)
          let es := go.filterMap fun p => match p.2 with
            | .local pa leaf lost => if lost then none
              else some (SbEntry.red none pa p.1.addr aop wide (c.operandAt p.1.ln w.d wide) c.g.core p.1.ln.fid (keyOf leaf))
            | .remote o => some (SbEntry.red (some o) p.1.addr.toNat p.1.addr aop wide (c.operandAt p.1.ln w.d wide) c.g.core p.1.ln.fid 0)
          r.2.withBuffer (r.1.sbEffect r.2.t fun t => { t with sb := t.sb ++ es }) fun s2 c2 =>
            .next (c2.finishPark s2 w.s.toNat w.m.words 1 parks)
      else
        c.atomicNow s w.m size go false
          (fun ln old => some (aopResult c.t.launch.ftz aop wide old (c.operandAt ln w.d wide))) fun s1 c1 _ =>
            let s2 := go.foldl (fun s p => match p.2 with
              | .remote o =>
                let v := c.operandAt p.1.ln w.d wide
                s.sendRemote c.t o p.1.ln.fid p.1.addr.toNat (leBytes size v.toNat) (some (aop, wide, v))
              | .local _ _ _ => s) s1
            .next (c1.finishPark s2 w.s.toNat w.m.words 1 parks)

/-! ### Fences -/

/-- A fence of a group at a scope code (R175, R176, R178, R271): the buffer's entries close and the fibres observe their
team's stores; at DEVICE and SYSTEM scope the stores that they have made or observed, those among them, are performed
and the L1 gives up the partition's lines. DEDUCED, log entry 37. -/
def State.fence (s : State) (t : Team) (g : Group) (scope : Nat) : State × Team :=
  let t1 := if !t.launch.contain then t else if scope = 3 then t.closeSystem else t.closeEntries
  (if 2 ≤ scope then ((s.observeBy t g).release t g).acquire t g else s.observeBy t g, t1)

/-- A group with some of its fibres. -/
def Group.only (g : Group) (fids : List Nat) : Group :=
  { g with lanes := g.lanes.map fun x => match x with | some f => if fids.contains f then some f else none | none => none }

/-- A fence instruction: it acts for the executing lanes, and at SYSTEM scope waits for the team's remote
stores (R49). -/
def fenceInstr (s : State) (w : W3) (scope : Nat) : Res :=
  laneRun s (guard3 w) w.m (fun _ => []) fun s c =>
    if (c.execVisible (guard3 w)).isEmpty then .next (c.finish s w.s.toNat w.m.words)
    else if decide (scope = 3) && s.remotePending c.t then c.wait s .held
    else
      let r := s.fence c.t (c.g.only ((c.execVisible (guard3 w)).map (·.fid))) scope
      .next (({ c with t := r.2 } : Ctx).finish r.1 w.s.toNat w.m.words)

/-- FENCE.T (R271). -/
def execFenceT (w : W3) (s : State) : Res := fenceInstr s w 1
/-- FENCE.D (R271). -/
def execFenceD (w : W3) (s : State) : Res := fenceInstr s w 2
/-- FENCE.S (R271). -/
def execFenceS (w : W3) (s : State) : Res := fenceInstr s w 3

end Sys2Proof.Machine
end

