-- ==== Sys2Proof/Machine/Optimizer.lean ====
section
/-! DEFINITION. The AdamW step and the owner of an address (R396 to R398), weight tiles (R393 to R395), the
collectives and PUBLISH (R399 to R406), and the step counters (R407). -/

namespace Sys2Proof.Machine

/-! ### OPTAW (R396, R397) -/

/-- The exact sum of two values; none when it is invalid (∞ − ∞). An exact zero takes its sign of R235. -/
def FVal.plus (a b : FVal) : Option FVal :=
  match a, b with
  | .nan n s, _ => some (.nan n s)
  | _, .nan n s => some (.nan n s)
  | .inf n, .inf k => if n = k then some (.inf n) else none
  | .inf n, .fin _ _ _ => some (.inf n)
  | .fin _ _ _, .inf n => some (.inf n)
  | .fin n m e, .fin k p h =>
    let q := min e h
    let t := sumAt q [.fin n m e, .fin k p h]
    if t = 0 then some (.fin (zeroSign .rne [.fin n m e, .fin k p h]) 0 0) else some (.fin (decide (t < 0)) t.natAbs q)

/-- The hyperparameters of OPTAW as F32 encodings, in register order. -/
def hyper (ws : List DWord) : List Nat := ws.flatMap fun w => [fieldOf w 0 32, fieldOf w 32 32]

/-- One AdamW step: (w, m, v, g) to (wn, mn, vn, y), with the sticky bits of every step (R397). -/
def adamw (ftz : Bool) (hs : List Nat) (w m v g : Nat) : List Word × BitVec 7 :=
  let r : Rounding := { f := f32, mode := .rne, ftz := ftz }
  let d := f32.decode ftz
  let h := fun (i : Nat) => d (hs.getD i 0)
  let one := d f32.oneBits
  let eta := h 0
  let lam := h 1
  let b1 := h 2
  let b2 := h 3
  let gs := fMul r (h 5) (d g)
  let k1 := fAdd r one (b1.modify false true)
  let k2 := fAdd r one (b2.modify false true)
  let mn := withSnan [b1, d m] (r.sumOf [b1.mul (d m), (d k1.1).mul (d gs.1)])
  let vn := withSnan [b2, d v] (r.sumOf [b2.mul (d v), ((d k2.1).mul (d gs.1)).bind (·.mul (d gs.1))])
  let mh := fMul r (d mn.1) (h 6)
  let vh := fMul r (d vn.1) (h 7)
  let root := fSqrt r (d vh.1)
  let q := fAdd r (d root.1) (h 4)
  let y := fDiv r (d mh.1) (d q.1)
  let inner := (lam.mul (d w)).bind fun x => (d y.1).plus x
  let step := (inner.bind fun x => eta.mul x).map fun x => x.modify false true
  let wn := withSnan [eta, lam, d w] (r.sumOf [some (d w), step])
  ([wn.1, mn.1, vn.1, y.1].map (BitVec.ofNat 32),
   [gs, k1, k2, mn, vn, mh, vh, root, q, y, wn].foldl (fun b x => b ||| x.2) 0)

/-- OPTAW (R397): every input is read before any output is written. -/
def execOptaw (w : W3) (s : State) : Res :=
  let hl : List Loc := (List.range 4).map fun i => .s (w.b.toNat + i)
  laneInstr s (guard3 w) w.m w.s.toNat (fun ln => laneLocs ln w.a 4 ++ hl) fun c =>
    let hs := hyper ((List.range 4).map fun i => c.s (w.b.toNat + i))
    c.mapSticky (guard3 w) 0 w.d fun ln =>
      let x := fun (i : Nat) => (c.laneWord ln w.a i).toNat
      adamw c.t.launch.ftz hs (x 0) (x 1) (x 2) (x 3)

/-! ### SHARD (R398) -/

/-- The hash value of an address (R47). -/
def ownerHash (va : DWord) : Nat :=
  fieldOf va 16 8 ^^^ fieldOf va 24 8 ^^^ fieldOf va 32 8 ^^^ fieldOf va 40 8 ^^^ fieldOf va 48 8

/-- The word of SHARD. -/
def State.shardWord (s : State) (va : DWord) : Word :=
  let o := s.ownerOf va
  BitVec.ofNat 32 ((if s.inTopo o then 0 else 2 ^ 31) + ownerHash va * 2 ^ 16
    + (if o = s.rfield 0x008 0 8 then 2 ^ 8 else 0) + o)

/-- SHARD (R398). -/
def execShard (w : W3) (s : State) : Res :=
  laneInstr s (guard3 w) w.m w.s.toNat (fun ln => laneLocs ln w.a 2) fun c =>
    c.mapLanes (guard3 w) 0 w.d fun ln => [s.shardWord (c.l64 ln w.a)]

/-! ### WPST (R393 to R395) -/

/-- A translated row of a copy: its place among the rows, its address and where it goes. -/
structure RowAt where
  row : Nat
  pa : Nat
  leaf : DWord
  lost : Bool

/-- The first outcome of the rows' translations that stops a WPST, a fault of the shards last (R394, steps 5
and 6). -/
def rowStop (xs : List (DWord × Xlat)) : Option (DWord × Xlat) :=
  let bad := fun (f : Xlat → Bool) => xs.find? fun p => f p.2
  match bad fun x => match x with
      | .page _ _ | .world | .recoverable _ | .held => true
      | _ => false with
  | some p => some p
  | none =>
    match bad fun x => match x with | .shardRemote | .remote _ => true | _ => false with
    | some p => some p
    | none => bad fun x => decide (x = .shardNodev)

/-- The elements of a tile as bytes: row r, column c, `esz` bytes each. -/
def tileElem (bs : List Byte) (esz r c : Nat) : List Byte := (bs.drop ((16 * r + c) * esz)).take esz

/-- The bytes of row x of a copy; in the transposed copy it is column x of the tile. -/
def tileRow (bs : List Byte) (esz : Nat) (trans : Bool) (x : Nat) : List Byte :=
  (List.range 16).flatMap fun y => if trans then tileElem bs esz y x else tileElem bs esz x y

/-- The one row that remains where the 16 rows of a copy stand at one address: the manual gives no order
among them, so each element is taken from a free row. DESIGN CHOICE, log entry 12. -/
def lastRowBytes (bs : List Byte) (esz : Nat) (trans : Bool) (fresh : Nat) : List Byte :=
  (List.range 16).flatMap fun y =>
    let x := (Config.lastRow fresh y).toNat
    if trans then tileElem bs esz y x else tileElem bs esz x y

/-- One write of a WPST: the key id of its page, its address and its bytes. -/
structure TileWrite where
  key : Nat
  pa : Nat
  data : List Byte

/-- The writes of one copy. DESIGN CHOICE, log entry 12. -/
def copyWrites (rows : List RowAt) (bs : List Byte) (esz pitch : Nat) (trans : Bool) (fresh : Nat) :
    List TileWrite :=
  (rows.filter fun r => !r.lost).map fun r =>
    TileWrite.mk (keyOf r.leaf) r.pa (if pitch = 0 then lastRowBytes bs esz trans fresh else tileRow bs esz trans r.row)

/-- The bytes of the writes of a WPST. -/
def tileBytes (writes : List TileWrite) : List (Nat × Byte) := byteWrites (writes.map fun w => (w.pa, w.data))

/-- The key id under which a WPST writes a byte. -/
def tileKey (writes : List TileWrite) (pa : Nat) : Nat :=
  ((writes.find? fun w => decide (w.pa ≤ pa) && decide (pa < w.pa + w.data.length)).map (·.key)).getD 0

/-- The store-buffer entries of a WPST: one closed entry for each destination sector (R394). DEDUCED, log entry 55. -/
def wpstEntries (writes : List TileWrite) : List SbEntry :=
  let cells := tileBytes writes
  ((cells.map fun c => c.1 / 32).eraseDups).map fun n =>
    let here := cells.filter fun c => decide (c.1 / 32 = n)
    .sector none n here false (if here.length = 32 then some false else none) (tileKey writes ((here.map (·.1)).headD 0))

/-- The entries of a WPST enter the buffer: the open entries of its sectors close, so that a later store stands behind it
(R113, R394). DEDUCED, log entry 55. -/
def Team.bufferTile (t : Team) (writes : List TileWrite) : Team :=
  let es := wpstEntries writes
  let hit := fun (n : Nat) => es.any fun e => match e with
    | .sector none m _ _ _ _ => decide (m = n)
    | _ => false
  { t with sb := (t.sb.map fun e => match e with
      | .sector none n b o p key => .sector none n b (o && !hit n) p key
      | e => e) ++ es }

/-- Performs the writes of a WPST at every home together (R395): the core's earlier stores to the bytes are
performed first, and the lines leave its L1. DEDUCED, log entry 55. -/
def State.performTile (s : State) (core : Nat) (pair : Bool) (writes : List TileWrite) : State :=
  let meets := fun (p : Posted) => writes.any fun w => p.meets core w.pa w.data.length
  (runsOf (tileBytes writes)).foldl (fun s r => (s.writeHome r.1 r.2).l1DropRange core pair r.1 r.2.length)
    (writes.foldl (fun s w => s.rekey w.key true w.pa w.data.length) (s.performWhere meets))

/-- Whether two inclusive ranges meet. -/
def spansMeet (a an b bn : Nat) : Bool := decide (a ≤ bn) && decide (b ≤ an)

/-- WPST (R393 to R395). DESIGN CHOICE, log entry 12. DEDUCED, log entry 55. -/
def execWpst (w : WE) (s : State) : Res :=
  uniInstr s (guardYX w.m) w.m 0 ((List.range 4).map fun i => .s (w.a.toNat + i)) (point := none) fun s c =>
    let d := fun (i : Nat) => c.s (w.a.toNat + i)
    let esz := match w.sub.toNat % 4 with | 0 => 2 | 1 => 1 | _ => 4
    let am := c.g.activeMask
    let row := 16 * esz
    let plain := (d 0).toNat
    let trans := (d 1).toNat
    let pp := fieldOf (d 2) 0 32
    let tp := fieldOf (d 2) 32 32
    let src := fieldOf (d 3) 0 32
    let plainEnd := plain + 15 * pp + row - 1
    let transEnd := trans + 15 * tp + row - 1
    let rows := (List.range 16).map fun r => (plain + r * pp, r)
    let cols := (List.range 16).map fun r => (trans + r * tp, r)
    let offending : Option Nat :=
      match ((rows ++ cols).map (·.1)).filter (· % row ≠ 0) ++ (if src % 32 ≠ 0 then [src] else []) with
      | [] => none
      | x :: xs => some (xs.foldl Nat.min x)
    let high := if 2 ^ 56 ≤ plainEnd then some plain else if 2 ^ 56 ≤ transEnd then some trans else none
    if fieldOf (d 3) 32 32 ≠ 0 || spansMeet plain plainEnd trans transEnd then c.illegal s 2
    else if c.uniDiffers then c.sdcUni s 1
    else
      match offending with
      | some a => c.trap s { cause := 0x0108, mask := am, addr := BitVec.ofNat 64 a }
      | none =>
        match high with
        | some a => c.trap s (pageTrap am (BitVec.ofNat 64 (Nat.max a (if a < 2 ^ 56 then 2 ^ 56 else a))) 4 none)
        | none =>
          if 1024 * c.t.launch.scratch < src + 256 * esz then c.trap s (pageTrap am (BitVec.ofNat 64 src) 5 none)
          else
            let xl := fun (l : List (Nat × Nat)) => l.map fun r =>
              let a : DWord := BitVec.ofNat 64 r.1
              (a, s.xlate (s.coreSec c.g.core) c.g.core c.t.part (s.version c.t) a .write false)
            let xs := xl (rows ++ cols)
            match rowStop xs with
            | some (a, .held) => let _ := a; c.wait s .held
            | some (a, .recoverable r) => c.parkGroup s 1 a r
            | some (a, x) =>
              (match x.trap? am a with
               | some tr => c.trap s tr
               | none => c.wait s .held)
            | none =>
              let at_ := fun (l : List (Nat × Nat)) => l.filterMap fun r =>
                match s.xlate (s.coreSec c.g.core) c.g.core c.t.part (s.version c.t) (BitVec.ofNat 64 r.1) .write false with
                | .ok pa leaf lost => some ({ row := r.2, pa := pa, leaf := leaf, lost := lost } : RowAt)
                | _ => none
              let free := match c.t.loadMeets .scratch 0 src (256 * esz) with
                | .failed _ | .stall => false
                | _ => true
              match (rows ++ cols).findSome? fun r =>
                  match c.t.storeMeets .global 0 r.1 row with
                  | .conflict k kind => if free then some (r.1, k, kind) else none
                  | _ => none with
              | some (a, k, kind) =>
                c.trap s { cause := 0x0109, mask := am, addr := BitVec.ofNat 64 a, detail := entryDetail k kind }
              | none =>
                c.withScratch s src (256 * esz) fun c bs =>
                  let s1 := xs.foldl (fun s x => match x.2 with
                    | .ok pa leaf _ =>
                      (s.tlbFill c.g.core c.t.part (s.version c.t) x.1).noteKeyEmpty pa leaf c.t.part c.g.core
                    | _ => s) s
                  let writes := copyWrites (at_ rows) bs esz pp false s.free ++ copyWrites (at_ cols) bs esz tp true s.free
                  let s2 := { s1 with free := s1.free + 1 }
                  if c.t.launch.contain then
                    c.withBuffer (s2.sbEffect c.t fun t => t.bufferTile writes) fun s3 c3 =>
                      .next (c3.finish s3 0 w.m.words)
                  else .next (c.finish (s2.performTile c.g.core c.t.launch.paircore writes) 0 w.m.words)

/-! ### The topology (R46) -/

/-- The entries of the topology, by position. -/
def State.topo (s : State) : List DWord := (List.range (s.rfield 0x009 0 9)).map fun j => s.reg (0x200 + j)

/-- This device's position, when the topology is valid (R46). -/
def State.self? (s : State) : Option Nat :=
  let es := s.topo
  let dev := fun (e : DWord) => fieldOf e 0 8
  let me := s.rfield 0x008 0 8
  let self := es.findIdx? fun e => decide (dev e = me)
  let hops := (List.range 256).all fun j =>
    let e := s.reg (0x200 + j)
    !bitAt e 15 || decide (some j = self) || decide (fieldOf e 8 4 < 12)
  if (es.all fun e => bitAt e 15) && (es.map dev).Nodup && hops then self else none

/-- The position of a device. -/
def State.posOf (s : State) (dev : Nat) : Option Nat := s.topo.findIdx? fun e => decide (fieldOf e 0 8 = dev)

/-! ### Starting a collective -/

/-- A collective as its issue describes it. -/
structure CollIssue where
  kind : Nat
  form : Nat
  shape : List Nat
  stage : DWord := 0
  src : List (Nat × Nat)          -- virtual ranges as address and length
  dst : List (Nat × Nat)
  read : Bool := true             -- this device reads its source (R401)

/-- The trap of the range lock table for the ranges of a collective, or a wait (R402). -/
def Ctx.collTable (c : Ctx) (i : CollIssue) : Option (Option Trap) :=
  let am := c.g.activeMask
  let at_ := fun (a : Nat) => (BitVec.ofNat 64 a : DWord)
  let src := if i.read then i.src else []
  match src.findSome? fun r => match c.t.loadMeets .global 0 r.1 r.2 with
      | .failed k => some ({ cause := 0x010A, mask := am, addr := at_ r.1, detail := entryDetail k 1 } : Trap)
      | _ => none with
  | some tr => some (some tr)
  | none =>
    match i.dst.findSome? fun r => match c.t.storeMeets .global 0 r.1 r.2 with
        | .conflict k kind => some ({ cause := 0x0109, mask := am, addr := at_ r.1, detail := entryDetail k kind } : Trap)
        | _ => none with
    | some tr => some (some tr)
    | none =>
      if src.any fun r => decide (c.t.loadMeets .global 0 r.1 r.2 = .stall) then some none else none

/-- Translates the parts of ranges for a collective: physical pieces, or the first outcome that stops. -/
def Ctx.collMap (c : Ctx) (s : State) (acc : Access) (ps : List Piece) :
    List (Nat × Nat) → Sum (DWord × Xlat) (List Piece × State)
  | [] => .inr (ps, s)
  | (va, n) :: rest =>
    let a : DWord := BitVec.ofNat 64 va
    match s.xlate (s.coreSec c.g.core) c.g.core c.t.part (s.version c.t) a acc false with
    | .ok pa leaf lost =>
      c.collMap ((s.tlbFill c.g.core c.t.part (s.version c.t) a).noteKeyEmpty pa leaf c.t.part c.g.core) acc
        (ps ++ [{ pa := pa, n := n, lost := lost, key := keyOf leaf }]) rest
    | x => .inl (a, x)

/-- What a translation that stops a collective leads to (R402, item 2). -/
def Ctx.collStop (c : Ctx) (s : State) (kind : Nat) (p : DWord × Xlat) : Res :=
  match p.2 with
  | .held => c.wait s .held
  | .recoverable r => c.parkGroup s kind p.1 r
  | x =>
    match x.trap? c.g.activeMask p.1 with
    | some tr => c.trap s tr
    | none => c.wait s .held

/-- The collective starts: the group waits on it (R399). -/
def Ctx.startColl (c : Ctx) (s : State) (w : WE) (i : CollIssue) (src dst : List Piece) : Res :=
  let k := c.t.part
  let p := s.part k
  let coll : Collective :=
    { core := c.g.core, inst := c.t.inst, team := c.t.index, num := c.g.num, dest := w.d.toNat, words := w.m.words
      kind := i.kind, form := i.form, shape := i.shape, stage := i.stage, index := p.collIndex
      src := if i.read then src else [], dst := dst }
  c.wait (s.setPart k { p with coll := some coll }) .collective

/-- COLL and PUBLISH from their topology check on (R399, R402, R404): translation, the commit of a CONTAIN
team, the range lock table, and the start. -/
def Ctx.collective (c : Ctx) (s : State) (w : WE) (i : CollIssue) (extra : State → Option Trap) : Res :=
  let am := c.g.activeMask
  match s.self? with
  | none => c.trap s { cause := 0x0111, mask := am }
  | some _ =>
    match (i.src ++ i.dst).find? fun r => decide (2 ^ 56 < r.1 + r.2) with
    | some r => c.trap s (pageTrap am (BitVec.ofNat 64 (if r.1 < 2 ^ 56 then 2 ^ 56 else r.1)) 4 none)
    | none =>
      match c.collMap s .read [] (partsOf i.src) with
      | .inl p => c.collStop s 3 p
      | .inr (sp, s1) =>
        match c.collMap s1 .write [] (partsOf i.dst) with
        | .inl p => c.collStop s1 4 p
        | .inr (dp, s2) =>
          match extra s2 with
          | some tr => c.trap s2 tr
          | none =>
            let go := fun (s : State) (c : Ctx) =>
              match c.collTable i with
              | some (some tr) => c.trap s tr
              | some none => c.wait s .watermark
              | none => if s.remotePending c.t then c.wait s .held else c.startColl s w i sp dp
            if c.t.launch.contain then
              c.withBuffer (s2.drain c.t.closeEntries) fun s3 c3 => go s3 { c3 with t := { c3.t with restartable := false } }
            else go s2 c

/-- The groups that stand at the collective engine of partition k, in the order in which they have reached it (R399): one
that has gone is in it no longer. DEDUCED, log entry 54. -/
def State.engineQueue (s : State) (k : Nat) : List (Nat × Nat × Nat) :=
  (s.part k).collQueue.filter fun x => s.teams.any fun t => decide (t.inst = x.1) && decide (t.index = x.2.1)
    && t.groups.any fun g => decide (g.num = x.2.2) && [Wait.engine, .held, .watermark, .drain].contains g.wait

/-- The queue of partition k's collective engine becomes another. -/
def State.setQueue (s : State) (k : Nat) (q : List (Nat × Nat × Nat)) : State :=
  if (s.part k).collQueue = q then s else s.setPart k { s.part k with collQueue := q }

/-- The engine has served a group: it leaves the queue, unless it waits in its collective's issue, where it keeps its
place. -/
def State.served (s : State) (k : Nat) (me : Nat × Nat × Nat) (rest : List (Nat × Nat × Nat)) : State :=
  let stays := match s.curGroup? with
    | some (_, g) => [Wait.held, .watermark, .drain].contains g.wait
    | none => false
  s.setQueue k (if stays then me :: rest else rest)

/-- Goes on when no collective of the partition is in flight and no group has reached the engine before (R399). -/
def Ctx.whenFree (c : Ctx) (s : State) (f : Res) : Res :=
  let k := c.t.part
  let me := (c.t.inst, c.t.index, c.g.num)
  let q := s.engineQueue k
  let behind := fun (_ : Unit) => c.wait (s.setQueue k (if q.contains me then q else q ++ [me])) .engine
  match (s.part k).coll with
  | some x =>
    if x.inst = c.t.inst ∧ x.team = c.t.index ∧ x.num = c.g.num ∧ c.g.wait = .collective then c.wait s .collective
    else behind ()
  | none =>
    if (q.head?.getD me) ≠ me then behind ()
    else
      match f with
      | .next s1 => .next (s1.served k me (q.filter fun x => decide (x ≠ me)))
      | r => r

/-- COLL (R400 to R402). -/
def execColl (w : WE) (s : State) : Res :=
  uniInstr s (guardYX w.m) w.m 0 ((List.range 4).map fun i => .s (w.a.toNat + i)) (point := none) fun s c =>
    let d := fun (i : Nat) => c.s (w.a.toNat + i)
    let form := w.sub.toNat % 4
    let blk := fieldOf (d 2) 0 32
    let root := fieldOf (d 2) 32 8
    let tag := fieldOf (d 3) 0 16
    let n := s.rfield 0x009 0 9
    let all := n * blk
    let srcLen := if form = 0 ∨ form = 3 then blk else all
    let dstLen := if form = 0 ∨ form = 2 then all else blk
    let src := (d 0).toNat
    let dst := (d 1).toNat
    let isRoot := match s.self? with | some p => decide (p = root) | none => false
    c.whenFree s <|
      if fieldOf (d 2) 40 24 ≠ 0 || fieldOf (d 3) 16 48 ≠ 0 || blk % 32 ≠ 0 || blk = 0 || (form ≠ 3 && root ≠ 0)
          || n ≤ root || 2 ^ 40 ≤ all || spansMeet src (src + srcLen - 1) dst (dst + dstLen - 1) then c.illegal s 2
      else if c.uniDiffers then c.sdcUni s 7
      else
        c.collective s w
          { kind := 0, form := form, shape := [blk, root, tag]
            src := [(src, srcLen)], dst := [(dst, dstLen)], read := decide (form ≠ 3) || isRoot } fun _ => none

/-- The staging blocks that this device owns, as addresses (R405). -/
def State.ownBlocks (s : State) (stage : DWord) (n : Nat) : List DWord :=
  ((List.range n).map fun i => stage + BitVec.ofNat 64 (2 ^ 16 * i)).filter fun a =>
    decide (s.ownerOf a = s.rfield 0x008 0 8)

/-- The base of the live weight range in bytes (R165). -/
def State.vwinBase (s : State) : Nat := 2 ^ 26 * s.rfield 0x00F 16 24

/-- The length of the live weight range in bytes. -/
def State.vwinLen (s : State) : Nat := 2 ^ 26 * s.rfield 0x00F 40 24

/-- Whether some byte of the live range lies in the other world (R404). -/
def State.liveCross (s : State) (sec : Bool) : Bool :=
  (List.range (s.vwinLen / 2 ^ 21)).any fun i => s.regionSec (s.vwinBase + 2 ^ 21 * i) != sec

/-- PUBLISH with or without SKIP (R404). -/
def runPublish (skip : Bool) (w : WE) (s : State) : Res :=
  uniInstr s (guardYX w.m) w.m 0 ((List.range 2).map fun i => .s (w.a.toNat + i)) (point := none) fun s c =>
    let stage := c.s w.a.toNat
    let d1 := c.s (w.a.toNat + 1)
    let n := fieldOf d1 0 32
    c.whenFree s <|
      if fieldOf d1 32 32 ≠ 0 || stage.toNat % 2 ^ 16 ≠ 0 || 2 ^ 16 * n ≠ s.vwinLen then c.illegal s 2
      else if c.uniDiffers then c.sdcUni s 7
      else
        c.collective s w
          { kind := 1, form := if skip then 1 else 0, shape := [n], stage := stage
            src := (s.ownBlocks stage n).map fun a => (a.toNat, 2 ^ 16), dst := [] } fun s =>
          if s.liveCross (s.psec c.t.part) then
            some { cause := 0x0201, mask := c.g.activeMask, addr := BitVec.ofNat 64 s.vwinBase }
          else none

/-- PUBLISH (R404 to R406). -/
def execPublish (w : WE) (s : State) : Res := runPublish false w s
/-- PUBLISH.SKIP (R404 to R406). -/
def execPublishSkip (w : WE) (s : State) : Res := runPublish true w s

/-! ### STEPRD (R407) -/

/-- STEPRD (R407). DEDUCED, log entry 56. -/
def execSteprd (w : W3) (s : State) : Res :=
  uniInstr s (guardY w) w.m w.s.toNat (uniLocs w.a) fun s c =>
    let answer := fun (v : DWord) => Host.Outcome.next ((c.setS 0 w.d.toNat v).finish s w.s.toNat w.m.words)
    match (c.u w.a).toNat with
    | 0 => answer (s.reg 0x013)
    | 1 => answer (s.reg 0x010)
    | 2 => answer (BitVec.ofNat 64 (s.part c.t.part).collIndex)
    | _ => c.illegal s 2

/-! ### Completing a collective (R401 to R405) -/

/-- Whether accesses to a piece are lost now: they were at its translation, or its key slot is empty, or a
function that it reaches has failed (R18, R58). -/
def State.pieceLost (s : State) (p : Piece) : Bool :=
  p.lost || (decide (p.pa < 2 ^ 40) && !s.keyLoaded p.key) || s.targetFailed p.pa

/-- Whether accesses to a piece are held: by a function it reaches, or by an eviction of its key (R18, R58). -/
def State.pieceHeld (s : State) (p : Piece) : Bool :=
  s.targetHeld p.pa || (decide (p.pa < 2 ^ 40) && bitAt (s.reg (0x0A8 + p.key)) 5)

/-- The bytes of a collective's source with a poison mark each, under the issuing core's own stores (R183,
R402). -/
def State.collSource (s : State) (core : Nat) (src : List Piece) : Marked :=
  src.flatMap fun p => (List.range p.n).map fun i =>
    if s.pieceLost p then (0, true) else (s.coreHomeByte core (p.pa + i), s.coreHomePoison core ((p.pa + i) / 32))

/-- Writes marked bytes at their home under a key id: a sector with a marked byte is poisoned, and one written whole
and clean loses its poison (R119, R401). -/
def State.landMarked (s : State) (key pa : Nat) (bs : Marked) : State :=
  (sectorParts pa bs).foldl (fun s p =>
    let s1 := (runsOf p.2.1).foldl (fun s r => s.putBytes r.1 r.2) s
    if p.2.2 then s1.setPoison p.1 true
    else if p.2.1.length = 32 then s1.setPoison p.1 false
    else s1) (s.rekey key true pa bs.length)

/-- Writes the result of a collective to its destination pieces. -/
def State.landColl (s : State) (bs : Marked) : List Piece → State
  | [] => s
  | p :: rest =>
    (if s.pieceLost p then s else s.landMarked p.key p.pa (bs.take p.n)).landColl (bs.drop p.n) rest

/-- The marked bytes of a contribution. -/
def Contribution.marked (c : Contribution) : Marked :=
  (List.range c.data.length).map fun i => (c.data.getD i 0, c.poison.getD i false)

/-- Whether the link over which a contribution arrives holds it (R18, R44). -/
def Contribution.waits (s : State) (c : Contribution) : Bool :=
  match c.via with
  | some l => s.down (28 + l)
  | none => false

/-- The failed link to which a contribution owes its poison: its own, or one elsewhere (R43). -/
def Contribution.broken (s : State) (c : Contribution) : Option Nat :=
  match c.via with
  | some l => if s.bufail (28 + l) then some l else c.failed
  | none => c.failed

/-- Whether a contribution arrives over a link of the other world than its partition (R55). -/
def Contribution.foreign (s : State) (k : Nat) (c : Contribution) : Bool :=
  match c.via with
  | some l => s.linkSec l != s.psec k
  | none => false

/-- A contribution as this device receives it: its own failed link or a link of the other world delivers every sector
poisoned (R43, R55). -/
def Contribution.received (s : State) (k : Nat) (c : Contribution) : Marked :=
  let lost := match c.via with
    | some l => s.bufail (28 + l)
    | none => false
  if lost || c.foreign s k then c.marked.map fun b => (b.1, true) else c.marked

/-- The log entry of poisoned collective data: the link and, as its detail, the collective's index (R43, R55). DEDUCED,
log entry 86. -/
def linkEntry (cause cls k link index : Nat) : LogEntry :=
  { platformEntry cause k 0 (BitVec.ofNat 64 index) with cls := cls, unit := link, die := if link < 6 then 0x20 else 0x21 }

/-- The entries that a collective's poisoned contributions make: one for each failed link, and one for each link of
the other world (R43, R55). DEDUCED, log entry 86. -/
def State.logLinks (s : State) (k index : Nat) (xs : List Contribution) : State :=
  let got := xs.filter fun x => !x.data.isEmpty
  let s1 := (got.filterMap (·.broken s)).eraseDups.foldl (fun s l => s.addLog (linkEntry 0x0303 2 k l index)) s
  (((got.filter (·.foreign s k)).filterMap (·.via)).eraseDups).foldl (fun s l => s.addLog (linkEntry 0x0201 1 k l index)) s1

/-- Block j of some marked bytes. -/
def blockAt (bs : Marked) (blk j : Nat) : Marked := (bs.drop (j * blk)).take blk

/-- The sum of one F32 element over the contributions, in position order (R50). -/
def sumElement (xs : List Marked) (e : Nat) : Marked :=
  let word := fun (bs : Marked) => leWord ((bs.drop (4 * e)).take 4 |>.map (·.1))
  let bad := xs.any fun bs => ((bs.drop (4 * e)).take 4).any (·.2)
  let v := match xs with
    | [] => 0
    | x :: rest => rest.foldl (fun a y => addF32 a (word y)) (word x)
  (leBytes 4 v).map fun b => (b, bad)

/-- The sectors of a reduced block that take poison: every byte of a sector that some contribution
poisons (R50). -/
def spreadPoison (bs : Marked) : Marked :=
  (List.range bs.length).map fun i =>
    ((bs.getD i (0, false)).1, ((bs.drop (i / 32 * 32)).take 32).any (·.2))

/-- The destination bytes of a COLL on position p (R401). `xs` holds the sources by position. -/
def collResult (form blk root p : Nat) (xs : List Marked) : Marked :=
  match form with
  | 0 => xs.flatMap fun x => x.take blk
  | 1 =>
    let mine := xs.map fun x => blockAt x blk p
    spreadPoison ((List.range (blk / 4)).flatMap fun e => sumElement mine e)
  | 2 => xs.flatMap fun x => blockAt x blk p
  | _ => (xs.getD root []).take blk

/-- The agreement words of this device's collective. -/
def State.agreement (s : State) (c : Collective) (pos : Nat) : Contribution :=
  { pos := pos, kind := c.kind, form := c.form, shape := c.shape, step := s.reg 0x013
    ver := BitVec.ofNat 32 (s.rfield 0x010 0 32), hash := s.reg 0x00A, index := c.index }

/-- The bits of s60 in which a contribution differs from another (R404). Instructions that differ in kind are
compared in their index alone beside it. DEDUCED, log entry 54. -/
def Contribution.differs (a b : Contribution) : Nat :=
  let bit := fun (n : Nat) (x : Bool) => if x then 2 ^ n else 0
  let index := bit 6 (decide (a.index ≠ b.index))
  if a.kind ≠ b.kind then 1 + index
  else if a.kind = 0 then bit 1 (decide (a.form ≠ b.form) || decide (a.shape ≠ b.shape)) + index
  else
    bit 1 (decide (a.shape ≠ b.shape)) + bit 2 (decide (a.form ≠ b.form)) + bit 3 (decide (a.step ≠ b.step))
      + bit 4 (decide (a.ver ≠ b.ver)) + bit 5 (decide (a.hash ≠ b.hash)) + index

/-- s60 of STEP_MISMATCH over the contributions in position order; 0 when they agree (R404): a bit is set where any two
of them differ. DEDUCED, log entry 54. -/
def mismatch (xs : List Contribution) : Nat :=
  match xs with
  | [] => 0
  | x :: rest =>
    let bits := xs.foldl (fun m z => xs.foldl (fun m y => m ||| z.differs y) m) 0
    match rest.find? fun y => decide (x.differs y ≠ 0) with
    | some y => bits + y.pos % 256 * 2 ^ 8
    | none => 0

/-- A piece of the live range or of a Cellar copy, as a PUBLISH of partition k reaches it under VDEPTH.KEYID: an access of
the other world, by the region or by the world for which its key slot was loaded, has no effect (R55, R377, R405). DEDUCED,
log entry 54. -/
def State.publishPiece (s : State) (k pa n : Nat) : Piece :=
  let key := s.rfield 0x011 8 6
  { pa := pa, n := n, key := key
    lost := s.regionSec pa != s.psec k
      || (decide (pa < 2 ^ 40) && s.keyLoaded key && (bitAt (s.reg (0x0A8 + key)) 6 != s.psec k)) }

/-- What the pieces of a PUBLISH leave in the log: one entry for those of the other world, and that of an empty key slot's
first access (R55, R58). DEDUCED, log entry 54. -/
def State.notePieces (s : State) (k : Nat) (ps : List Piece) : State :=
  let s1 := match ps.find? (·.lost) with
    | some p => s.addLog { platformEntry 0x0201 k (BitVec.ofNat 64 p.pa) 0 with cls := 1, die := 0x10 + stackOf p.pa }
    | none => s
  (ps.filter fun p => !p.lost).foldl (fun s p => s.noteAccess p.pa p.key k 0xFFFF false) s1

/-- The pieces of the Cellar copy into which a PUBLISH of partition k retires the current version, by HBM stacks; none
without a retire (R149, R377). -/
def State.retirePieces (s : State) (k : Nat) : List Piece :=
  if s.rfield 0x011 0 5 = 0 ∨ s.vwinLen = 0 then []
  else
    let base := 2 ^ 26 * s.rfield (0x038 + s.rfield 0x010 0 32 % 16) 0 24
    (List.range (s.vwinLen / 2 ^ 12)).map fun i => s.publishPiece k (base + 2 ^ 12 * i) (2 ^ 12)

/-- The retire of R377 for a PUBLISH of partition k, step by step; none while the entry's HOLD is not 0. -/
def State.retireVersion (s : State) (k : Nat) : Option State :=
  let v := s.rfield 0x010 0 32
  let depth := s.rfield 0x011 0 5
  let i := 0x038 + v % 16
  if depth = 0 ∨ s.vwinLen = 0 then (if s.rfield 0x010 32 7 = 0 then some s else none)
  else if s.rfield i 24 7 ≠ 0 then none
  else
    let s1 := s.setRfield i 31 1 0
    let base := 2 ^ 26 * s1.rfield i 0 24
    let s2 := (List.range (s1.vwinLen / 32)).foldl (fun s n =>
      let from_ := s.vwinBase + 32 * n
      let p := s.publishPiece k from_ 32
      let s0 := s.rekey p.key false from_ 32
      let gone := s.pieceLost p
      let bs : Marked := if gone then List.replicate 32 (0, true)
        else (s0.homeBytes from_ 32).map fun b => (b, s0.homePoison (from_ / 32))
      s0.landColl bs [s.publishPiece k (base + 32 * n) 32]) (s1.notePieces k (s.retirePieces k))
    let s3 := ((s2.setRfield i 32 32 v).setRfield i 31 1 1).setRfield i 24 7 (s2.rfield 0x010 32 7)
    let s4 := s3.setRfield 0x010 32 7 0
    some ((List.range 16).foldl (fun s j =>
      let e := 0x038 + j
      let age := ((v + 1) + 2 ^ 32 - s.rfield e 32 32) % 2 ^ 32
      if j ≠ v % 16 ∧ bitAt (s.reg e) 31 = true ∧ depth < age ∧ s.rfield e 24 7 = 0 then s.setRfield e 31 1 0 else s) s4)

/-- Block i of the live range, by HBM stacks (R149, R405). -/
def State.liveBlock (s : State) (k i : Nat) : List Piece :=
  (List.range 16).map fun j => s.publishPiece k (s.vwinBase + 2 ^ 16 * i + 2 ^ 12 * j) (2 ^ 12)

/-- Gathers the staging blocks into the live range (R405, step 3): the bytes of each block come from its
owner's contribution, in block order. A block whose owner is no device of TOPO is sent by none, and its bytes of the live
range stay. DESIGN CHOICE, log entry 98. -/
def State.gather (s : State) (k : Nat) (xs : List Marked) (stage : DWord) (n : Nat) : State :=
  let place := fun (i : Nat) => s.posOf (s.ownerOf (stage + BitVec.ofNat 64 (2 ^ 16 * i)))
  (List.range n).foldl (fun st i =>
    match place i with
    | none => st
    | some p =>
      let before := ((List.range i).filter fun j => decide (place j = some p)).length
      st.landColl (blockAt (xs.getD p []) (2 ^ 16) before) (s.liveBlock k i)) s

/-- Whether any sector of some pieces is poisoned. -/
def State.piecesPoisoned (s : State) (ps : List Piece) : Bool :=
  ps.any fun p => !s.pieceLost p && s.homePoisoned p.pa p.n

/-- The pieces of this device's memory that a collective reaches beside its source. -/
def State.collPieces (s : State) (k : Nat) (c : Collective) : List Piece :=
  if c.kind = 0 then c.dst
  else if c.form = 1 then []
  else (List.range (c.shape.getD 0 0)).flatMap (s.liveBlock k)

/-- What a collective does on this device once its peers agree: its state and the value of d; none while a
retire waits (R401, R405). DEDUCED, log entry 54. -/
def State.performColl (s : State) (k : Nat) (c : Collective) (pos : Nat) (xs : List Marked) : Option (State × DWord) :=
  if c.kind = 0 then
    let blk := c.shape.getD 0 0
    let s1 := s.landColl (collResult c.form blk (c.shape.getD 1 0) pos xs) c.dst
    some (s1, statusWord (if s1.piecesPoisoned c.dst then 1 else 0) (c.index % 2 ^ 56))
  else if c.form = 1 then
    let s1 := s.setRfield 0x013 32 32 (s.rfield 0x013 32 32 + 1)
    some (s1, statusWord 0 (s1.rfield 0x013 0 32))
  else
    match s.retireVersion k with
    | none => none
    | some s1 =>
      let n := c.shape.getD 0 0
      let s2 := (s1.notePieces k (s.collPieces k c)).gather k xs c.stage n
      let s3 := s2.setRfield 0x013 0 32 (s2.rfield 0x013 0 32 + 1)
      let s4 := s3.setRfield 0x010 0 32 (s3.rfield 0x010 0 32 + 1)
      some (s4, statusWord (if s4.piecesPoisoned (s.collPieces k c) then 1 else 0) (s4.rfield 0x013 0 32))

/-- The group of a collective in a team, waiting on it. -/
def Team.collGroup (t : Team) (c : Collective) : Option Group :=
  if t.inst = c.inst ∧ t.index = c.team then
    (t.group? c.num).bind fun g => if g.wait = .collective then some g else none
  else none

/-- A group with the result of its collective in the register the instruction names. -/
def Group.answered (g : Group) (c : Collective) (v : DWord) : Group :=
  { g with
    sregs := sset 0 g.sregs c.dest v
    hist := g.hist.filter fun e => decide (e.loc ≠ .s c.dest) }

/-- A collective ends: it counts, and the writes that it held apply (R45, R399, R403). -/
def State.endColl (s : State) (k : Nat) : State :=
  let p := s.part k
  (s.setPart k { p with coll := none, collIndex := p.collIndex + 1 }).applyHeld

/-- The team and the group that wait on a collective of a partition, resident or saved. -/
def State.collWaiter (s : State) (k : Nat) (c : Collective) : Option (Team × Group) :=
  (s.teams ++ (s.part k).saved).findSome? fun t => (t.collGroup c).map fun g => (t, g)

/-- What a collective performs before its results land: the core's own earlier stores to the bytes, and for a PUBLISH
the release of its group at SYSTEM scope (R402, R405). -/
def State.collRelease (s : State) (k : Nat) (c : Collective) : State :=
  let s1 := if c.kind = 0 then s else
    match s.collWaiter k c with
    | some (t, g) => s.release t g
    | none => s
  s1.performWhere fun p => (s.collPieces k c).any fun x => p.meets c.core x.pa x.n

/-- The group of a completed collective goes on with its result, as an acquire at SYSTEM scope; the group of a
saved context goes on when it is restored (R402). -/
def State.answerColl (s : State) (k : Nat) (c : Collective) (v : DWord) : State :=
  let s0 := match s.collWaiter k c with
    | some (t, g) => s.acquire t g
    | none => s
  let pass := fun (g : Group) => (g.answered c v).retire s.clk 0 c.words
  let on := fun (t : Team) => match t.collGroup c with
    | some g => t.putGroup (pass g)
    | none => t
  let p := s0.part k
  State.setPart { s0 with teams := s0.teams.map on } k { p with saved := p.saved.map on }

/-- COLLECTIVE_COMPLETE (R399, R402 to R405): the collective of partition `k` completes once the
contributions of every other position have arrived. A link that is down, or a target that holds accesses, holds it
(R18, R44); a peer's agreement of another index ends it at once (R399). From the agreement on a PUBLISH holds binds (R406).
DEDUCED, log entry 54. -/
def execCollectiveComplete (s : State) : Res :=
  let q := s.request
  match (s.part q.k).coll, s.self? with
  | some c, some pos =>
    let n := s.rfield 0x009 0 9
    let mine := s.agreement c pos
    let sk := c.src.foldl (fun s p => s.rekey p.key false p.pa p.n) s
    let src := sk.collSource c.core c.src
    let peers := q.contribs.filter fun x => decide (x.pos ≠ pos) && !x.waits s
    let at_ := fun (j : Nat) => if j = pos then some (mine, src)
      else (peers.find? fun x => decide (x.pos = j)).map fun x => (x, x.received s q.k)
    let xs := (List.range n).filterMap at_
    if xs.length ≠ n && !xs.any fun x => decide (x.1.index ≠ mine.index) then .next s
    else
      let bits := mismatch (xs.map (·.1))
      if bits ≠ 0 then
        if (s.part q.k).saved.any fun t => (t.collGroup c).isSome then .next s
        else
          let s1 := s.endColl q.k
          match s1.teams.findSome? fun t => (t.collGroup c).map fun g => (t, g) with
          | some (t, g) =>
            .next (s1.takeTrap t g { cause := 0x0112, mask := g.activeMask, detail := BitVec.ofNat 64 bits })
          | none => .next s1
      else
        let agreed := s.setPart q.k { s.part q.k with coll := some { c with agreed := true } }
        if (c.src ++ s.collPieces q.k c ++ (if c.kind = 1 ∧ c.form ≠ 1 then s.retirePieces q.k else [])).any s.pieceHeld then
          .next agreed
        else
        match (sk.collRelease q.k c).performColl q.k c pos (xs.map (·.2)) with
        | none => .next agreed
        | some (s1, v) =>
          let s2 := (s1.logLinks q.k c.index peers).answerColl q.k c v
          .next (if c.kind = 1 then (s2.endColl q.k).raise 8 else s2.endColl q.k)
  | _, _ => .next s

end Sys2Proof.Machine
end

