-- ==== Sys2Proof/Machine/System.lean ====
section
/-! DEFINITION. The system instructions (R408 to R418): entering and leaving the handler, reading and
writing state registers, invalidating code, ending speculation and teams, and reading time. -/

namespace Sys2Proof.Machine

/-! ### The handler (R410, R411) -/

/-- TRAP and BKPT raise their cause for every active lane as completed instructions (R410). -/
def raiseInstr (w : WI) (s : State) (cause : Nat) : Res :=
  uniInstr s (guardYX w.m) w.m w.s.toNat [] fun s c =>
    c.trap s { cause := cause, mask := c.g.activeMask, detail := w.imm.setWidth 64, completed := true, next := c.nextPc w.m }

/-- TRAP (R410). -/
def execTrap (w : WI) (s : State) : Res := raiseInstr w s 0x0115
/-- BKPT (R410). -/
def execBkpt (w : WI) (s : State) : Res := raiseInstr w s 0x0116

/-- ERET (R411). A bad target traps at the fetch that follows. -/
def execEret (w : W3) (s : State) : Res :=
  uniInstr s (guardY w) w.m w.s.toNat [] fun s c =>
    .next (s.put c.t (c.g.returnFromTrap c.clk w.s.toNat w.m.words))

/-! ### State registers (R412, R413) -/

/-- Whom a group's accesses to state registers name: its team's world and partition, its launch, and the
fibre of its lowest active lane. -/
def Ctx.issuer (c : Ctx) (s : State) : Issuer :=
  { sec := s.psec c.t.part, part := c.t.part, launch := s.launchIndex c.t, team := c.t.index
    fid := match c.g.active with | p :: _ => p.2 | [] => 0xFFFFFFFF
    pc := c.g.pc }

/-- The writer that a group's SWR counts as (R413). -/
def Ctx.writer (c : Ctx) (s : State) : Writer := if s.psec c.t.part then .secure else .part c.t.part

/-- ALIGN for a readback address (R412, R413). -/
def Ctx.badOffset (c : Ctx) (s : State) (a : DWord) : Res :=
  c.trap s { cause := 0x0108, mask := c.g.activeMask, addr := a }

/-- SRD (R412): a read of the error log is held while that function is not ready (R18). -/
def execSrd (w : W3) (s : State) : Res :=
  uniInstr s (guardY w) w.m w.s.toNat (uniLocs w.a) fun s c =>
    let a := c.u w.a
    if fieldOf a 0 3 ≠ 0 then c.badOffset s a
    else if s.logHeld a then c.wait s .held
    else
      let r := s.readback (c.issuer s) a
      .next ((c.setS 0 w.d.toNat r.1).finish r.2 w.s.toNat w.m.words)

/-- SWR (R413). A write that its register holds stands there, whatever becomes of the group, which issues nothing before
it has applied. The write may change the group's own team. DEDUCED, log entry 57. -/
def execSwr (w : W3) (s : State) : Res :=
  uniInstr s (guardY w) w.m w.s.toNat (uniLocs w.a ++ uniLocs w.b) fun s c =>
    let a := c.u w.a
    let v := c.u w.b
    let go := fun (s1 : State) (k : Ctx → Res) => match s1.curGroup? with
      | some (t, g) => k { c with t := t, g := g }
      | none => Host.Outcome.next s1
    let done := fun (s1 : State) => go s1 fun c1 =>
      .next (({ c1 with g := { c1.g with swr := false } } : Ctx).finish s1 w.s.toNat w.m.words)
    if fieldOf a 0 3 ≠ 0 then c.badOffset s a
    else if c.g.swr then (if s.holdsReg (fieldOf a 0 56 / 8) then c.wait s .held else done s)
    else
      match s.writeAddr (c.writer s) a v with
      | .held s1 => go s1 fun c1 => ({ c1 with g := { c1.g with swr := true } } : Ctx).wait s1 .held
      | r => done (r.settle (c.issuer s) a v).1

/-! ### Invalidating code (R414, R415) -/

/-- Drops the instruction lines of a partition that a range covers, in every core: every line for a length of
2^32 or more (R414). -/
def State.dropCode (s : State) (k : Nat) (base len : DWord) : State :=
  let first := base.toNat / 128
  let last := (base.toNat + len.toNat - 1) / 128
  let gone := fun (l : CodeLine) => decide (l.part = k)
    && (decide (2 ^ 32 ≤ len.toNat) || (decide (first ≤ l.vline) && decide (l.vline ≤ last)))
  { s with code := s.code.filter fun l => !gone l }

/-- ICINV (R414). -/
def execIcinv (w : W3) (s : State) : Res :=
  uniInstr s (guardY w) w.m w.s.toNat (uniLocs w.a ++ uniLocs w.b) fun s c =>
    let len := c.u w.b
    if len = 0 then .next (c.finish s w.s.toNat w.m.words)
    else .next (c.finish ((s.release c.t c.g).dropCode c.t.part (c.u w.a) len) w.s.toNat w.m.words)

/-! ### Ending speculation and the team (R416, R417) -/

/-- COMMIT (R416). -/
def execCommit (w : W3) (s : State) : Res :=
  uniInstr s (guardY w) w.m w.s.toNat [] fun s c =>
    if c.t.launch.contain then
      c.withBuffer (s.drain c.t) fun s1 c1 =>
        .next (({ c1 with t := { c1.t with restartable := false } } : Ctx).finish s1 w.s.toNat w.m.words)
    else if s.remotePending c.t then c.wait s .held
    else
      let r := s.fence c.t c.g 3
      .next (({ c with t := r.2 } : Ctx).finish r.1 w.s.toNat w.m.words)

/-- TEXIT (R417). -/
def execTexit (w : W3) (s : State) : Res :=
  uniInstr s (guardY w) w.m w.s.toNat [] fun s c => .next (s.texit c.t c.g)

/-! ### Time (R418) -/

/-- The value of a CLK selector for a core. DEDUCED, log entry 10. -/
def State.clkValue (s : State) (core clk : Nat) (sel : DWord) : Option DWord :=
  if sel = 0 then some (BitVec.ofNat 64 (({ s with clk := clk } : State).coreCount core))
  else if sel = 1 then some (BitVec.ofNat 64 s.time)
  else none

/-- CLK (R418). -/
def execClk (w : W3) (s : State) : Res :=
  uniInstr s (guardY w) w.m w.s.toNat (uniLocs w.a) fun s c =>
    match s.clkValue c.g.core c.clk (c.u w.a) with
    | some v => .next ((c.setS 0 w.d.toNat v).finish s w.s.toNat w.m.words)
    | none => c.illegal s 2

end Sys2Proof.Machine
end

