-- ==== Sys2Proof/Machine/Graphs.lean ====
section
/-! DEFINITION. Launch records and their checks (R69 to R71, R434), the binding of graphs (R75 to R77, R81), the
choice of the next node (R82, R83), the binding of kernel images (R87, R88, R428 to R432), dispatch (R73, R78,
R83) and the placement of teams (R72, R84 to R86, R116, R117, R123). -/

namespace Sys2Proof.Machine

/-! ### Launch records (R69) -/

/-- A 16-bit field of a record. -/
def halfAt (bs : List Byte) (off : Nat) : Nat := leWord ((bs.drop off).take 2)

/-- A byte of a record as a number. -/
def byteAt (bs : List Byte) (off : Nat) : Nat := (bs.getD off 0).toNat

/-- The launch of a record's 64 bytes. -/
def parseLaunch (bs : List Byte) : Launch :=
  let fl : DWord := BitVec.ofNat 64 (halfAt bs 0x2E)
  { entry := dwordAt bs 0, handler := dwordAt bs 8, args := dwordAt bs 0x10, image := dwordAt bs 0x18
    teams := (wordAt bs 0x20).toNat, fpt := halfAt bs 0x24
    width := 8 * 2 ^ (byteAt bs 0x26 % 4), window := 16 * (byteAt bs 0x27 + 1)
    scratch := halfAt bs 0x28, acc := halfAt bs 0x2A, hamper := halfAt bs 0x2C
    prot := bitAt fl 0, contain := bitAt fl 1, chk := bitAt fl 2, det := bitAt fl 3, ftz := bitAt fl 4
    dztrap := bitAt fl 5, paircore := bitAt fl 6
    prio := byteAt bs 0x30 % 8, part := byteAt bs 0x31
    ins := [0x32, 0x34, 0x36, 0x38].map (halfAt bs), outs := [0x3A, 0x3C, 0x3E].map (halfAt bs) }

/-- The offsets of a record's edge fields (R69). -/
def edgeFields : List Nat := [0x32, 0x34, 0x36, 0x38, 0x3A, 0x3C, 0x3E]

/-- The first failing test of a list, by its detail. -/
def firstBad (l : List (Bool × Nat)) : Option Nat := (l.find? (·.1)).map (·.2)

/-- An address that no instruction may stand at (R69). -/
def badEntry (x : DWord) : Bool := decide (fieldOf x 0 2 ≠ 0) || decide (fieldOf x 56 8 ≠ 0)

/-- Whether one team fits on an empty core, or an empty pair (R71). -/
def Launch.fitsEmpty (l : Launch) : Bool := (l.charge false).fits coreLimit && (l.charge true).fits coreLimit

/-- Whether some core has the world of partition k (R74, R92). -/
def State.worldHasCore (s : State) (k : Nat) : Bool := (List.range 1024).any fun c => s.coreSec c == s.psec k

/-- The checks of a launch record, in order (R434): a status and its detail. `edges` is the graph's edge count,
none for a child; `naming` is the field that a naming check of R77 fails. DEDUCED, log entry 45. -/
def State.checkRecord (s : State) (k : Nat) (bs : List Byte) (edges : Option Nat) (naming : Option Nat) :
    Option (Nat × DWord) :=
  let l := parseLaunch bs
  let ids := edgeFields.map fun o => (match edges with
    | none => decide (halfAt bs o ≠ 0xFFFF)
    | some n => decide (halfAt bs o ≠ 0xFFFF) && (decide (4096 ≤ halfAt bs o) || decide (n ≤ halfAt bs o)), o)
  let reserved := firstBad [(decide (2 ^ 7 ≤ halfAt bs 0x2E), 0x2E), (decide (8 ≤ byteAt bs 0x30), 0x30)]
  let shape := firstBad [(decide (l.teams = 0), 0x20), (decide (l.fpt = 0) || decide (1024 < l.fpt), 0x24),
    (decide (3 < byteAt bs 0x26), 0x26), (decide (2 < byteAt bs 0x27), 0x27), (decide (256 < l.scratch), 0x28),
    (decide (256 < l.acc), 0x2A), (decide (512 < l.hamper), 0x2C), (decide (15 < l.part), 0x31)]
  let entry := firstBad [(badEntry l.entry, 0), (badEntry l.handler, 8)]
  match reserved, shape, entry, firstBad ids, naming with
  | some d, _, _, _, _ => some (4, BitVec.ofNat 64 d)
  | _, some d, _, _, _ => some (1, BitVec.ofNat 64 d)
  | _, _, some d, _, _ => some (5, BitVec.ofNat 64 d)
  | _, _, _, some d, _ => some (6, BitVec.ofNat 64 d)
  | _, _, _, _, some d => some (6, BitVec.ofNat 64 d)
  | none, none, none, none, none =>
    if l.part ≠ k ∨ s.worldHasCore k = false then some (3, 0x31)
    else if l.fitsEmpty then none
    else some (1, 0x8000000000000020)

/-! ### Binding a graph (R76, R77) -/

/-- An edge descriptor as read (R77). -/
def parseEdge (va : DWord) (bs : List Byte) : Edge :=
  { desc := va, base := dwordAt bs 0, slotsz := (wordAt bs 8).toNat, slotcnt := (wordAt bs 0xC).toNat
    fill := (wordAt bs 0x10).toNat, free := (wordAt bs 0x14).toNat, head := dwordAt bs 0x18, tail := dwordAt bs 0x20
    needFill := halfAt bs 0x28, needFree := halfAt bs 0x2A, source := decide (byteAt bs 0x2C = 1)
    fillLine := dwordAt bs 0x30, retLine := dwordAt bs 0x38
    pubIdx := (dwordAt bs 0x20).toNat, relIdx := (dwordAt bs 0x18).toNat }

/-- The first failing field of an edge descriptor (R77, R79). DEDUCED, log entry 45. -/
def Edge.check (e : Edge) (bs : List Byte) (writable : Bool) : Option Nat :=
  let dev := decide (byteAt bs 0x2C = 0)
  firstBad [(decide (fieldOf e.base 0 6 ≠ 0), 0),
    (decide (e.slotsz % 64 ≠ 0) || decide (e.slotsz < 64) || decide (2 ^ 24 < e.slotsz), 8),
    (decide (e.slotcnt = 0) || decide (65536 < e.slotcnt), 0xC), (!writable, 0x10),
    (dev && (decide (e.slotcnt < e.fill + e.free) || decide (e.tail - e.head ≠ BitVec.ofNat 64 e.fill)), 0x10),
    (decide (e.slotcnt < e.needFill) || (dev && (decide (e.needFill = 0) != decide (e.needFree = 0))), 0x28),
    (decide (e.slotcnt < e.needFree) || (e.source && decide (e.needFree ≠ 0)), 0x2A),
    (decide (1 < byteAt bs 0x2C), 0x2C), (decide (leWord ((bs.drop 0x2D).take 3) ≠ 0), 0x2D),
    (if e.source then decide (fieldOf e.fillLine 0 6 ≠ 0) else dev && decide (e.fillLine ≠ 0), 0x30),
    (if e.source then decide (fieldOf e.retLine 0 6 ≠ 0) else dev && decide (e.retLine ≠ 0), 0x38)]

/-- What a table read comes to: the bytes, an unreadable or poisoned record, or a wait for a function. -/
inductive Table where
  | ok (bs : List Byte) (s : State)
  | bad (s : State)
  | wait

/-- The POISON entry of a structure that the scheduler reads (R73, R120, R434). -/
def poisonEntry (k : Nat) (addr : DWord) : LogEntry :=
  { platformEntry 0x0300 k addr (BitVec.ofNat 64 (0xFFFF * 2 ^ 32 + 0xFFFFFFFF)) with cls := 2 }

/-- The entry of a cross-world read of the scheduler (R55). DEDUCED, log entry 68. -/
def worldEntry (k : Nat) (addr : DWord) : LogEntry := { platformEntry 0x0201 k addr 0 with cls := 1 }

/-- Reads a record of n bytes for partition k. -/
def State.tableRead (s : State) (k : Nat) (ver : Option Word) (va : DWord) (n : Nat) (logs : Bool) : Table :=
  match s.schedGet k ver va n with
  | .ok bs none s1 => .ok bs s1
  | .ok _ (some off) s1 => .bad (if logs then s1.addLog (poisonEntry k (va + BitVec.ofNat 64 off)) else s1)
  | .fault .held _ => .wait
  | .fault .world a => .bad (s.addLog (worldEntry k a))
  | .fault _ _ => .bad s

/-- Reads the records of a table of n entries, each with its address; none while some function holds a read. DEDUCED, log entry 39. -/
def State.readTable (s : State) (k : Nat) (base : DWord) (i : Nat) :
    Nat → Option (List (DWord × Option (List Byte)) × State)
  | 0 => some ([], s)
  | n + 1 =>
    let va := base + BitVec.ofNat 64 (64 * i)
    match s.tableRead k none va 64 true with
    | .wait => none
    | .ok bs s1 => (s1.readTable k base (i + 1) n).map fun r => ((va, some bs) :: r.1, r.2)
    | .bad s1 => (s1.readTable k base (i + 1) n).map fun r => ((va, none) :: r.1, r.2)

/-- Whether a range lies wholly in present, writable pages of partition k (R79); none while a function or a key slot
holds an access to it (R18, R58). -/
def State.writableRange (s : State) (k : Nat) (va : DWord) (n : Nat) : Option Bool :=
  let xs := (blocksOf va.toNat n 2).map fun b => s.xlateWalk (s.psec k) k none (BitVec.ofNat 64 b.1) .write false
  if xs.any fun x => match x with | .held => true | _ => false then none
  else some (xs.all fun x => match x with | .ok _ _ _ => true | _ => false)

/-- The edges that records name so far as inputs and as outputs. -/
abbrev Named := List Nat × List Nat

/-- The naming checks of one record (R77, R434): the field that names an edge a second time, or a source edge as an
output, and the edges named after it. DEDUCED, log entry 45. -/
def nameEdges (sources : List Nat) (bs : List Byte) (nm : Named) : Option Nat × Named :=
  edgeFields.foldl (fun (x : Option Nat × Named) o =>
    let e := halfAt bs o
    if e = 0xFFFF then x
    else
      let isIn := decide (o < 0x3A)
      let bad := if isIn then x.2.1.contains e else x.2.2.contains e || sources.contains e
      (match x.1 with | some d => some d | none => if bad then some o else none,
       if isIn then (e :: x.2.1, x.2.2) else (x.2.1, e :: x.2.2))) (none, nm)

/-- The first failing node: its index, status and detail (R76, R434). -/
def State.checkNodes (s : State) (k edges : Nat) (sources : List Nat) (nm : Named) (i : Nat) :
    List (DWord × Option (List Byte)) → Option (Nat × Nat × DWord)
  | [] => none
  | (_, none) :: _ => some (i, 1, 0xFFFFFFFFFFFFFFFF)
  | (_, some bs) :: rest =>
    let r := nameEdges sources bs nm
    match s.checkRecord k bs (some edges) r.1 with
    | some (st, d) => some (i, st, d)
    | none => s.checkNodes k edges sources r.2 (i + 1) rest

/-- The first failing edge descriptor, if one fails (R76, R77, R434); none while the access to one is held (R18).
DEDUCED, log entry 45. -/
def State.checkEdges (s : State) (k i : Nat) :
    List (DWord × Option (List Byte)) → Option (Option (Nat × Nat × DWord))
  | [] => some none
  | (_, none) :: _ => some (some (0x80000000 + i, 6, 0xFFFFFFFFFFFFFFFF))
  | (va, some bs) :: rest =>
    match s.writableRange k va 64 with
    | none => none
    | some w =>
      match (parseEdge va bs).check bs w with
      | some d => some (some (0x80000000 + i, 6, BitVec.ofNat 64 d))
      | none => s.checkEdges k (i + 1) rest

/-- The fill lines that the graphs of other partitions hold (R34). -/
def State.fillLines (s : State) (k : Nat) : List DWord :=
  s.parts.flatMap fun p => if p.1 = k then [] else match p.2.graph with
    | some g => (g.edges.filter (·.source)).map (·.fillLine)
    | none => []

/-- An edge as a bind takes it (R33, R77): a source edge reads its two lines in host memory, poisoned or not. DEDUCED, log
entry 39. DESIGN CHOICE, log entry 80. -/
def State.takeEdge (s : State) (e : Edge) : Edge :=
  if e.source then
    let c : DWord := BitVec.ofNat 64 (leWord (s.homeBytes (2 ^ 55 + e.retLine.toNat) 8))
    { e with consumed := c, head := c, relIdx := c.toNat }.refill
      (BitVec.ofNat 64 (leWord (s.homeBytes (2 ^ 55 + e.fillLine.toNat) 8)))
  else e

/-- Ends partition k's bind with a failure (R76). -/
def State.bindFails (s : State) (k index status : Nat) (detail : DWord) : State :=
  let s1 := s.setReg (pidx k 9) (BitVec.ofNat 64 (2 ^ 32 * index + status))
  let s2 := s1.setPart k { s1.part k with pendingBind := none, heldBind := none }
  (s2.addLog (statusEntry status k index 0 detail)).raise 2

/-- Ends partition k's bind with a graph (R34, R76, R87): the images of the last one are bound no more. A write of 0 that
the check has held then unbinds it. -/
def State.bindDone (s : State) (k : Nat) (nodes : List Launch) (edges : List Edge) : State :=
  let p := s.part k
  let g : Graph := { nodes := nodes, edges := edges }
  let s1 := s.setPart k { p with graph := some (g.refresh s.clk), pendingBind := none, heldBind := none, images := [] }
  let s2 := ((List.range edges.length).filter fun e => match edges[e]? with | some x => x.source | none => false).foldl
    (fun s e => s.writeBack k e) (s1.setReg (pidx k 9) 0x80000000)
  let s3 := ((edges.filter fun x => x.source && x.beyond).foldl (fun s x =>
    s.addLog (platformEntry 0x0401 k x.fillLine x.produced)) s2).raise 2
  if p.heldBind = some false then
    match s3.writeBind k 0 with
    | .done s4 | .ignored s4 | .held s4 => s4
  else s3

/-- GRAPH_BIND_COMPLETE (R33, R34, R76): the tables are copied and checked; the bind waits while a function holds one
of its reads. DEDUCED, log entry 45. -/
def State.bindComplete (s : State) (k : Nat) : State :=
  match (s.part k).pendingBind with
  | none => s
  | some (nodeBase, edgeBase, cnt) =>
    let ne := fieldOf cnt 32 13
    if !s.ready 41 then s
    else
      match s.readTable k nodeBase 0 (fieldOf cnt 0 16) with
      | none => s
      | some (ns, s1) =>
        match s1.readTable k edgeBase 0 ne with
        | none => s
        | some (es, s2) =>
          let parsed := es.map fun x => parseEdge x.1 (x.2.getD [])
          let sources := (List.range ne).filter fun e => match parsed[e]? with | some x => x.source | none => false
          match s2.checkNodes k ne sources ([], []) 0 ns with
          | some (i, st, d) => s2.bindFails k i st d
          | none =>
            match s2.checkEdges k 0 es with
            | none => s
            | some (some (i, st, d)) => s2.bindFails k i st d
            | some none =>
              let lines := s2.fillLines k ++ (parsed.filter (·.source)).map (·.fillLine)
              if 1024 < lines.eraseDups.length then s2.bindFails k 0 9 0
              else if sources.isEmpty || s2.ready 24 then
                s2.bindDone k (ns.map fun x => parseLaunch (x.2.getD [])) (parsed.map s2.takeEdge)
              else if s2.bufail 24 then s2.bindFails k (0x80000000 + sources.headD 0) 6 0xFFFFFFFFFFFFFFFF
              else s

/-- GRAPH_BIND (R76). -/
def execGraphBind (s : State) : Res := regEvent s (pidx s.request.part 9) 0x80000000
/-- GRAPH_UNBIND (R76, R81). -/
def execGraphUnbind (s : State) : Res := regEvent s (pidx s.request.part 9) 0
/-- GRAPH_BIND_COMPLETE (R76). -/
def execGraphBindComplete (s : State) : Res := .next (s.bindComplete s.request.part)

/-! ### Aging (R82) -/

/-- The effective priority after a wait (R82). DEDUCED, log entry 46. -/
def effective (prio wait lim : Nat) : Nat := if lim = 0 then prio else Nat.min 7 (prio + (wait - 1) / lim)

/-- A child's own priority. -/
def Child.base (c : Child) : Nat :=
  match c.node with
  | some l => l.prio
  | none => byteAt c.bytes 0x30 % 8

/-- The effective priorities of partition k's ready nodes and pending children at this clock (R82). DEDUCED, log entry
46. A write of AGELIM during a wait makes each one anew, from the whole wait. DESIGN CHOICE, log entry 93. -/
def State.age (s : State) (k : Nat) : State :=
  let lim := s.rfield 0x00C 0 32
  let p := s.part k
  let aged := fun (g : Graph) => { g with ready := g.nodes.zipIdx.map fun n =>
    let r := g.ready.getD n.2 {}
    if r.ready then { r with prio := effective n.1.prio (s.clk - r.since) lim } else r }
  s.setPart k { p with
    graph := p.graph.map aged
    children := p.children.map fun c => { c with prio := effective c.base (s.clk - c.since) lim } }

/-- AGING_INTERVAL (R82). -/
def execAgingInterval (s : State) : Res := .next (s.age s.request.part)

/-! ### Binding an image (R87, R88, R428 to R432) -/

/-- A section of an image: offset and length (R428). -/
abbrev Section := Nat × Nat

/-- Whether a section extends beyond the image, or overlaps the header or an earlier section (R429). -/
def badSection (len : Nat) (before : List Section) (x : Section) : Bool :=
  decide (len < x.1 + x.2) || (decide (x.2 ≠ 0) && ((0, 64) :: before).any fun b =>
    decide (b.2 ≠ 0) && decide (x.1 < b.1 + b.2) && decide (b.1 < x.1 + x.2))

/-- The sections of an image header: code, data and relocation entries. -/
def sectionsOf (h : List Byte) : Section × Section × Section :=
  let n := fun (o : Nat) => (wordAt h o).toNat
  ((n 0x10, n 0x14), (n 0x18, n 0x1C), (n 0x20, 16 * n 0x24))

/-- The offending field of an image header (R429). DEDUCED, log entry 45. -/
def badHeader (h : List Byte) (image : DWord) : Option Nat :=
  let x := sectionsOf h
  let len := (wordAt h 0x28).toNat
  let al := byteAt h 6
  firstBad [(decide (wordAt h 0 ≠ 0x4B475744), 0), (decide (halfAt h 4 ≠ 1), 4),
    (decide (al < 6) || decide (30 < al) || decide (image.toNat % 2 ^ al ≠ 0), 6), (decide (byteAt h 7 ≠ 0), 7),
    (decide (x.1.1 % 4 ≠ 0) || badSection len [] x.1, 0x10), (decide (x.1.2 % 4 ≠ 0), 0x14),
    (badSection len [x.1] x.2.1, 0x18),
    (decide (x.2.2.1 % 16 ≠ 0) || badSection len [x.1, x.2.1] x.2.2, 0x20),
    (decide (wordAt h 0x2C ≠ 0), 0x2C), ((h.drop 0x30).any (fun b => decide (b ≠ 0)), 0x30)]

/-- A relocation entry (R430). -/
structure Reloc where
  off : Nat
  type : Nat
  abs : Bool
  target : DWord

/-- Bytes that a relocation's field occupies. -/
def Reloc.size (r : Reloc) : Nat := if r.type = 1 then 8 else 4

/-- Whether a field lies wholly inside a section. -/
def Reloc.inside (r : Reloc) (x : Section) : Bool := decide (x.1 ≤ r.off) && decide (r.off + r.size ≤ x.1 + x.2)

/-- A relocation entry of 16 bytes; none when it is malformed (R429). -/
def parseReloc (code data : Section) (bs : List Byte) : Option Reloc :=
  let w := dwordAt bs 0
  let r : Reloc := { off := fieldOf w 0 32, type := fieldOf w 32 8, abs := bitAt w 40, target := dwordAt bs 8 }
  if fieldOf w 41 23 = 0 ∧ 1 ≤ r.type ∧ r.type ≤ 7 ∧ (r.inside code || r.inside data) = true then some r else none

/-- The target of a relocation (R430). -/
def Reloc.value (r : Reloc) (delta : DWord) : DWord := if r.abs then r.target else r.target + delta

/-- Whether a signed value lies in a range. -/
def within (x : DWord) (lo hi : Int) : Bool := decide (lo ≤ x.toInt) && decide (x.toInt ≤ hi)

/-- The place and width of a relocation's bits in its field, and the value that goes there; none when it does not
fit (R430). -/
def Reloc.write (r : Reloc) (image delta : DWord) : Option (Nat × Nat × Nat) :=
  let t := r.value delta
  let d := t - (image + BitVec.ofNat 64 r.off)
  let fit := fun (b : Bool) (lo n : Nat) (v : DWord) => if b then some (lo, n, fieldOf v 0 n) else none
  match r.type with
  | 1 => fit (decide (fieldOf t 56 8 = 0)) 0 64 t
  | 2 => fit (decide (t.toNat < 2 ^ 32)) 0 32 t
  | 3 => fit (within t (-(2 ^ 31)) (2 ^ 31 - 1)) 0 32 t
  | 4 => fit (decide (fieldOf d 0 2 = 0) && within d (-(65536 * 4)) (65535 * 4)) 0 17 (d.sshiftRight 2)
  | 5 => fit (within d (-(2 ^ 31)) (2 ^ 31 - 1)) 0 32 d
  | 6 => fit (within t (-256) 255) 3 9 t
  | _ => fit (within t (-1024) 1023) 0 11 t

/-- Reads and checks the relocation entries of an image in order; a bad one is named by its offset. -/
inductive Relocs where
  | ok (rs : List Reloc) (s : State)
  | bad (off : Nat) (s : State)
  | wait

/-- The relocation entries from offset `off` on (R429). DEDUCED, log entry 45. -/
def State.readRelocs (s : State) (k : Nat) (image : DWord) (code data : Section) (off : Nat) (acc : List Reloc) :
    Nat → Relocs
  | 0 => .ok acc s
  | n + 1 =>
    match s.tableRead k none (image + BitVec.ofNat 64 off) 16 false with
    | .wait => .wait
    | .bad s1 => .bad off s1
    | .ok bs s1 =>
      match parseReloc code data bs with
      | none => .bad off s1
      | some r =>
        match s1.writableRange k (image + BitVec.ofNat 64 r.off) r.size with
        | none => .wait
        | some false => .bad off s1
        | some true => s1.readRelocs k image code data (off + 16) (acc ++ [r]) n

/-- Writes one relocated field, leaving the other bits of its word (R431). -/
def State.putReloc (s : State) (k : Nat) (image delta : DWord) (r : Reloc) : State :=
  let va := image + BitVec.ofNat 64 r.off
  match r.write image delta, s.schedGet k none va r.size with
  | some (lo, n, v), .ok bs _ s1 =>
    let w := setField (BitVec.ofNat 64 (leWord bs)) lo n v
    (blocksOf va.toNat r.size 2).foldl (fun s b =>
      (s.schedPut k none (BitVec.ofNat 64 b.1) (((leBytes r.size w.toNat).drop (b.1 - va.toNat)).take b.2)).1) s1
  | _, _ => s

/-- The detail of RELOC_RANGE (R88): the lowest offending field. -/
def relocRange (image delta : DWord) (rs : List Reloc) : Option DWord :=
  let low := (rs.filter fun r => (r.write image delta).isNone).foldl
    (fun (m : Option Reloc) r => match m with
      | some x => if r.off < x.off then some r else some x
      | none => some r) none
  low.map fun r => BitVec.ofNat 64 (2 ^ 56 * r.type + r.off)

/-- What a dispatch finds as it binds its image. -/
inductive Bound where
  | ok (img : Image) (s : State)
  | bad (off : Nat) (s : State)
  | wait

/-- Drops the loop buffers of a partition that hold code of a range (R87). -/
def State.dropBuffers (s : State) (k : Nat) (base : DWord) (len : Nat) : State :=
  let f := fun (g : Group) =>
    if base.toNat < g.bufPc.toNat + 4 * g.buf.length ∧ g.bufPc.toNat < base.toNat + len then { g with buf := [] } else g
  { s with teams := s.teams.map fun t => if t.part = k then { t with groups := t.groups.map f } else t }

/-- The image of a launch, bound now if no launch of the partition has bound it before (R87, R88, R429 to R431). DEDUCED, log entry 45. -/
def State.bindImage (s : State) (k : Nat) (image : DWord) : Bound :=
  match (s.part k).images.find? fun i => decide (i.va = image) with
  | some i => .ok i s
  | none =>
    match s.tableRead k none image 64 false with
    | .wait => .wait
    | .bad s1 => .bad 0 s1
    | .ok h s1 =>
      match badHeader h image with
      | some d => .bad d s1
      | none =>
        let x := sectionsOf h
        let delta := image - dwordAt h 8
        match s1.readRelocs k image x.1 x.2.1 x.2.2.1 [] (x.2.2.2 / 16) with
        | .wait => .wait
        | .bad off s2 => .bad off s2
        | .ok rs s2 =>
          let bad := relocRange image delta rs
          let img : Image := { va := image, code := x.1.1, size := x.1.2, reloc := bad }
          let base := image + BitVec.ofNat 64 x.1.1
          let s3 := if bad.isSome then s2
            else ((rs.foldl (fun s r => s.putReloc k image delta r) s2).dropCode k base (BitVec.ofNat 64 x.1.2)).dropBuffers
              k base x.1.2
          .ok img (s3.setPart k { s3.part k with images := (s3.part k).images ++ [img] })

/-- Whether an address lies inside the code section of an image (R87). -/
def Image.holds (i : Image) (x : DWord) : Bool :=
  decide (i.va.toNat + i.code ≤ x.toNat) && decide (x.toNat < i.va.toNat + i.code + i.size)

/-! ### The core of a team (R85, R86) -/

/-- Whether a core may take a team of partition k with a charge (R85). -/
def State.eligible (s : State) (k core : Nat) (c : Charge) : Bool :=
  s.ready (dieOf core) && (s.coreSec core == s.psec k) && s.coreFits k core c

/-- Whether the core, or the pair that starts at it, may take a team of a launch. -/
def State.placeable (s : State) (k : Nat) (l : Launch) (core : Nat) : Bool :=
  s.eligible k core (l.charge false) && (!l.paircore || s.eligible k (core + 1) (l.charge true))

/-- The resident groups of a core. -/
def State.groupsAt (s : State) (core : Nat) : Nat := (s.usage (fun _ => true) core).groups

/-- The core for a team (R86): of the placeable ones that a test admits, the one with the fewest resident groups and
the lowest number, or the pair. -/
def State.bestCore (s : State) (k : Nat) (l : Launch) (f : Nat → Bool) : Option Nat :=
  let cores := if l.paircore then (List.range 512).map (2 * ·) else List.range 1024
  let load := fun (c : Nat) => s.groupsAt c + (if l.paircore then s.groupsAt (c + 1) else 0)
  (cores.filter fun c => f c && s.placeable k l c).foldl (fun (m : Option Nat) c => match m with
    | some b => if load c < load b then some c else some b
    | none => some c) none

/-! ### Dispatch (R73, R78, R83, R91) -/

/-- A candidate for dispatch: a node by its index, or a pending child. -/
inductive Pick where
  | node (i : Nat) (l : Launch)
  | child (c : Child)

/-- A candidate with its effective priority, the clock since which it waits and its launch index (R83). -/
structure Cand where
  prio : Nat
  since : Nat
  index : Nat
  pick : Pick

/-- Whether a candidate comes before another (R83). -/
def Cand.before (a b : Cand) : Bool :=
  decide (b.prio < a.prio) || (decide (a.prio = b.prio) && (decide (a.since < b.since)
    || (decide (a.since = b.since) && decide (a.index < b.index))))

/-- The candidates of partition k. A node whose firing edge's last change still stands to be written back keeps its place
and its wait, and is none yet: a grant's access proceeds after the one before it (R18, R78, R82). -/
def State.cands (s : State) (k : Nat) : List Cand :=
  let p := s.part k
  let nodes := match p.graph with
    | some g =>
      if g.halted || !g.dispatching then []
      else g.nodes.zipIdx.filterMap fun n =>
        let r := g.ready.getD n.2 {}
        if r.ready && !g.grantHeld n.1 then some { prio := r.prio, since := r.since, index := n.2, pick := .node n.2 n.1 } else none
    | none => []
  nodes ++ p.children.map fun c => { prio := c.prio, since := c.since, index := c.index, pick := .child c }

/-- The candidate that R83 chooses. -/
def State.choose (s : State) (k : Nat) : Option Cand :=
  (s.cands k).foldl (fun (m : Option Cand) c => match m with
    | some b => if c.before b then some c else some b
    | none => some c) none

/-- The launch of a candidate, with the status of a child record that fails its checks (R84). -/
def State.pickLaunch (s : State) (k : Nat) : Pick → Launch × Option (Nat × DWord)
  | .node _ l => (l, none)
  | .child c =>
    match c.node with
    | some l => (l, none)
    | none => (parseLaunch c.bytes, s.checkRecord k c.bytes none none)

/-- Grants an instance its slots on one firing edge (R78). -/
def State.grant (s : State) (k e : Nat) (output : Bool) : State × List Grant :=
  match s.edge? k e with
  | none => (s, [])
  | some x =>
    if x.streaming then (s, [])
    else if output then
      ((s.setEdge k e { x with tail := x.tail + BitVec.ofNat 64 x.needFree, free := x.free - x.needFree }).writeBack k e,
       [{ edge := e, first := x.tail.toNat, count := x.needFree, output := true }])
    else
      ((s.setEdge k e { x with head := x.head + BitVec.ofNat 64 x.needFill, fill := x.fill - x.needFill }).writeBack k e,
       [{ edge := e, first := x.head.toNat, count := x.needFill, output := false }])

/-- Grants an instance its slots on every firing edge (R78). -/
def State.grantAll (s : State) (k : Nat) (l : Launch) : State × List Grant :=
  let named := (l.ins.map fun e => (e, false)) ++ l.outs.map fun e => (e, true)
  (named.filter fun x => decide (x.1 ≠ 0xFFFF)).foldl (fun (r : State × List Grant) x =>
    let q := r.1.grant k x.1 x.2
    (q.1, r.2 ++ q.2)) (s, [])

/-- A dispatched node waits anew, with its own priority (R82). -/
def State.restartWait (s : State) (k i : Nat) (l : Launch) : State :=
  let p := s.part k
  let again := fun (g : Graph) => Graph.refresh { g with ready := g.ready.set i { prio := l.prio } } s.clk
  s.setPart k { p with graph := p.graph.map again }

/-- Takes a candidate: a node's slots are granted, a child leaves the queue, and the instance stands. -/
def State.takePick (s : State) (k : Nat) (c : Cand) (l : Launch) : State × Nat :=
  let id := s.nextInst
  let new : Inst :=
    { id := id, part := k, index := c.index, launch := l, vcur := BitVec.ofNat 32 (s.rfield 0x010 0 32) }
  match c.pick with
  | .node i _ =>
    let g := s.grantAll k l
    let s1 := g.1.restartWait k i l
    ({ s1 with nextInst := id + 1, insts := s1.insts ++ [{ new with grants := g.2 }] }, id)
  | .child x =>
    let p := s.part k
    let s1 := s.setPart k { p with children := p.children.filter fun y => decide (y.index ≠ x.index) }
    ({ s1 with nextInst := id + 1, insts := s1.insts ++
        [{ new with isChild := true, version := x.version, redeem := x.redeem, holds := x.version.isSome }] }, id)

/-- The start values s3 to s15 of an instance, or BAD_ARGS, or a wait (R72, R73, R385). -/
inductive Start where
  | ok (ws : List DWord) (s : State)
  | bad (s : State)
  | wait

/-- Reads the argument block once, at dispatch (R73). -/
def State.readArgs (s : State) (k : Nat) (i : Inst) : Start :=
  match i.redeem with
  | some ws => .ok ws s
  | none =>
    let a := i.launch.args
    if a = 0 then .ok (List.replicate 13 0) s
    else if fieldOf a 0 3 ≠ 0 then .bad s
    else
      match s.tableRead k i.version a 96 true with
      | .wait => .wait
      | .bad s1 => .bad s1
      | .ok bs s1 => .ok (a :: (List.range 12).map fun j => dwordAt bs (8 * j)) s1

/-- The judgements at an instance's dispatch, in order (R434): the image, the code section, RELOC_RANGE and the
argument block. None while a function holds a read. DEDUCED, log entry 44. -/
def State.judgeInst (s : State) (id : Nat) : Option State :=
  match s.inst? id with
  | none => some s
  | some i =>
    let l := i.launch
    match s.bindImage i.part l.image with
    | .wait => none
    | .bad off s1 => some (s1.failInstance id 0xB l.image (BitVec.ofNat 64 off))
    | .ok img s1 =>
      if !img.holds l.entry then some (s1.failInstance id 5 0 0)
      else if l.handler ≠ 0 ∧ img.holds l.handler = false then some (s1.failInstance id 5 0 8)
      else
        match img.reloc with
        | some d => some (s1.failInstance id 8 0 d)
        | none =>
          match s1.readArgs i.part i with
          | .wait => none
          | .bad s2 => some (s2.failInstance id 7 0 0)
          | .ok ws s2 => some (s2.putInst { i with args := ws })

/-- Whether teams of partition k may be placed (R19, R96). -/
def State.placing (s : State) (k : Nat) : Bool := decide (s.pstate k = 1) && s.pen k && s.ready 41

/-- Whether some instance of partition k has a team that waits for room (R85). -/
def State.teamsWait (s : State) (k : Nat) : Bool :=
  s.insts.any fun i => decide (i.part = k) && (decide (i.placed < i.launch.teams) || !i.relaunch.isEmpty)

/-- Whether a team of a launch exceeds the partition's quotas on every core (R91). DEDUCED, log entry 44. -/
def State.overQuota (s : State) (k : Nat) (l : Launch) : Bool :=
  let q := quotaOf (s.reg (pidx k 1))
  !((l.charge false).fits q && (l.charge true).fits q)

/-- INSTANCE_DISPATCH (R83, R91): the chosen candidate is dispatched once a team of it has room; one that can never run
fails. DEDUCED, log entry 44. -/
def State.dispatch (s0 : State) (k : Nat) : State :=
  let s := s0.age k
  if !s.placing k || s.teamsWait k then s
  else
    match s.choose k with
    | none => s
    | some c =>
      let x := s.pickLaunch k c.pick
      let l := x.1
      match x.2 with
      | some (st, d) => let r := s.takePick k c l; r.1.failInstance r.2 st 0 d
      | none =>
        if s.overQuota k l then let r := s.takePick k c l; r.1.failInstance r.2 2 0 0
        else if !s.worldHasCore k then let r := s.takePick k c l; r.1.failInstance r.2 3 0 0x31
        else if (s.bestCore k l fun _ => true).isNone then s
        else
          let r := s.takePick k c l
          (r.1.judgeInst r.2).getD s

/-- INSTANCE_DISPATCH (R83). -/
def execInstanceDispatch (s : State) : Res := .next (s.dispatch s.request.part)

/-! ### Placement (R72, R85, R86, R116, R117, R123, R144) -/

/-- The fibres of group g of a new team, by visible lane (R123). -/
def Launch.lanesOf (l : Launch) (g : Nat) : List (Option Nat) :=
  (List.range l.wv).map fun i => if g * l.wv + i < l.fpt then some (g * l.wv + i) else none

/-- The group g of a new team (R123, R127). -/
def newGroup (l : Launch) (core clk g : Nat) (sargs : List DWord) : Group :=
  let x : Group :=
    { num := g, core := if l.paircore then core + g % 2 else core, pc := l.entry, lanes := l.lanesOf g
      sregs := ssetList 0 [] 0 sargs, nextIssue := clk + 1, runStart := clk }
  { x with formed := x.activeMask }

/-- A team at its start (R72, R123, R144). -/
def newTeam (i : Inst) (index core slot clk : Nat) : Team :=
  let l := i.launch
  let sargs : List DWord :=
    [BitVec.ofNat 64 index, BitVec.ofNat 64 l.teams, BitVec.ofNat 64 l.fpt] ++ i.args
  { core := core, slot := slot, part := i.part, inst := i.id, index := index, launch := l, sargs := sargs
    groups := (List.range l.groups).map fun g => newGroup l core clk g sargs
    live := List.range l.fpt, restartable := l.contain, cores := [core] }

/-- Places a team on a core: its groups take an issue slot (R130) and it acquires at DEVICE scope there (R73, R79, R84). DEDUCED, log entry 44. -/
def State.seat (s : State) (t : Team) : State :=
  let s1 := s.l1Drop t.core t.part t.launch.paircore
  { s1 with teams := s1.teams ++ [s.slotted t] }

/-- The slot for a team on a core or pair. DEDUCED, log entry 32. DEDUCED, log entry 44. -/
def State.slotFor (s : State) (l : Launch) (core : Nat) : Option Nat :=
  s.freeTeamSlot (if l.paircore then [core, core + 1] else [core]) s.request.slot

/-- Places the next relaunched team of partition k (R116, R117): on a core that it has not used in this instance, or
else on the one it last used. Its trap is logged now, with that core. DEDUCED, log entry 24. -/
def State.placeRelaunch (s : State) (k : Nat) : State :=
  match s.insts.find? fun i => decide (i.part = k) && !i.relaunch.isEmpty with
  | none => s
  | some i =>
    match i.relaunch with
    | [] => s
    | t :: rest =>
      let last := t.cores.getLastD 0
      let core := match s.bestCore k t.launch fun c => !t.cores.contains c with
        | some c => some c
        | none => if s.placeable k t.launch last then some last else none
      match core.bind fun c => (s.slotFor t.launch c).map fun sl => (c, sl) with
      | none => s
      | some (c, sl) =>
        let mine := fun (e : Nat × Nat × LogEntry) => decide (e.1 = i.id) && decide (e.2.1 = t.index)
        let s1 := { s.putInst { i with relaunch := rest } with relaunchLog := s.relaunchLog.filter fun e => !mine e }
        let s2 := (s.relaunchLog.filter mine).foldl (fun s e =>
          s.addLog { e.2.2 with detail := setField e.2.2.detail 0 32 c }) s1
        let new := newTeam i t.index c sl s.clk
        s2.seat { new with relaunches := t.relaunches, cores := t.cores ++ [c], ranges := t.ranges }

/-- Places the next team of partition k (R85): relaunched ones first, then in dispatch order. DEDUCED, log entry 44. -/
def State.placeNext (s : State) (k : Nat) : State :=
  if s.insts.any fun i => decide (i.part = k) && !i.relaunch.isEmpty then s.placeRelaunch k
  else
    match s.insts.find? fun i => decide (i.part = k) && decide (i.placed < i.launch.teams) with
    | none => s
    | some i =>
      match (s.bestCore k i.launch fun _ => true).bind fun c => (s.slotFor i.launch c).map fun sl => (c, sl) with
      | none => s
      | some (c, sl) => (s.putInst { i with placed := i.placed + 1 }).seat (newTeam i i.placed c sl s.clk)

/-- TEAM_PLACE (R85). -/
def execTeamPlace (s : State) : Res :=
  .next (if s.placing s.request.part then s.placeNext s.request.part else s)

/-- TEAM_RELAUNCH (R116, R117): the killed team is placed again. -/
def execTeamRelaunch (s : State) : Res :=
  .next (if s.placing s.request.part then s.placeRelaunch s.request.part else s)

/-- INSTANCE_COMPLETE (R79): every instance of the partition that nothing holds any more. -/
def execInstanceComplete (s : State) : Res :=
  .next ((s.insts.filter fun i => decide (i.part = s.request.part)).foldl (fun s i => s.checkInstance i.id) s)

end Sys2Proof.Machine
end

