-- ==== Sys2Proof/Machine/Management.lean ====
section
/-! DEFINITION. The management path (R61 to R64), key slots (R57, R58, R63) and SPDM (R60). -/

namespace Sys2Proof.Machine

/-! ### Vendor commands (R61, R62) -/

/-- Whether a command acts as the secure world (R61): it came inside the SPDM session. -/
def State.inSession (s : State) : Bool := s.request.ok && s.spdm.session

/-- The writer that a management command counts as (R61, R62). -/
def State.commander (s : State) : Writer := if s.inSession then .secure else .mgmt

/-- A response with a status. -/
def State.respond (s : State) (status : Nat) (data : List DWord := []) : State :=
  { s with response := some { status := status, data := data } }

/-- The functions that serve a vendor command, of which one has failed: the command completes as failed (R18). -/
def State.failCommand (s : State) : State :=
  ([24, 42].filter s.bufail).foldl State.foldBufail { s with response := some { failed := true } }

/-- Names the request that the response answers: its opcode, and over MCTP its header (R62). -/
def State.answers (s : State) (op : Nat) (header : Option Word) : State :=
  { s with response := s.response.map fun r => { r with opcode := op, header := header } }

/-- Whether a message is a request of an opcode: the mailbox names it in its command register, and an MCTP message in
its header (R62). -/
def Request.carries (q : Request) (op : Nat) : Bool :=
  match q.header with
  | none => true
  | some h => decide (h.extractLsb' 0 16 = BitVec.ofNat 16 op)

/-- A vendor command of an opcode (R62): the management core serves it while it and port 0 are ready, and a command that
reads a held function waits for it (R18). The mailbox calls a payload of the wrong length invalid input; over MCTP, where
the model answers it with RANGE or as `bad` says, the header's last byte must be zero too. DEDUCED, log entry 65. DESIGN
CHOICE, log entry 88. -/
def command (s : State) (op len : Nat) (f : List Byte → State) (bad : State := s.respond 3)
    (held : List Byte → Bool := fun _ => false) : Res :=
  let q := s.request
  .next (if !q.carries op then s
    else if s.bufail 42 || s.bufail 24 then s.failCommand.answers op q.header
    else if !s.ready 42 || !s.ready 24 then s
    else if q.header.any fun h => decide (2 ^ 24 ≤ h.toNat) || decide (q.bytes.length ≠ len) then
      bad.answers op q.header
    else if q.bytes.length ≠ len then { s with response := some { invalid := true } }.answers op q.header
    else if held q.bytes then s
    else (f q.bytes).answers op q.header)

/-- The bytes of a response (R62): its status and its data, after the MCTP message type, the vendor's identifier and the
request's header. PRESUMED, log entry 88. -/
def Response.message (r : Response) : List Byte :=
  let body := BitVec.ofNat 8 r.status :: List.replicate 7 0 ++ r.data.flatMap bytes64
  match r.header with
  | none => body
  | some h => 0x7E :: (Config.vendorId.extractLsb' 8 8) :: (Config.vendorId.extractLsb' 0 8) :: leBytes 4 h.toNat ++ body

/-- Words of state from a readback address upward, as the commander reads them (R62, R65, R66). -/
def State.readWords (s : State) (who : Issuer) (a : DWord) : Nat → List DWord × State
  | 0 => ([], s)
  | n + 1 =>
    let r := s.readback who a
    let rest := r.2.readWords who (a + 8) n
    (r.1 :: rest.1, rest.2)

/-- Whether a STATE_READ names no word, too many or a misaligned one (R62). -/
def badRead (bs : List Byte) : Bool :=
  decide (fieldOf (dwordAt bs 0) 0 3 ≠ 0) || decide (wordAt bs 8 = 0) || decide (256 < (wordAt bs 8).toNat)

/-- Whether a STATE_READ reads a word of the error log while its function is down (R18, R66). -/
def State.readWaits (s : State) (bs : List Byte) : Bool :=
  !badRead bs && (List.range (wordAt bs 8).toNat).any fun i => s.logHeld (dwordAt bs 0 + BitVec.ofNat 64 (8 * i))

/-- STATE_READ (R62). -/
def execStateRead (s : State) : Res :=
  command s 0xC900 12 (fun bs =>
    if badRead bs then s.respond 3
    else
      let r := s.readWords s.commander.issuer (dwordAt bs 0) (wordAt bs 8).toNat
      r.2.respond 0 r.1) (held := s.readWaits)

/-- STATE_WRITE (R62, R413). -/
def execStateWrite (s : State) : Res :=
  command s 0xC901 16 fun bs =>
    let a := dwordAt bs 0
    let v := dwordAt bs 8
    if fieldOf a 0 3 ≠ 0 then s.respond 3
    else
      let r := (s.writeAddr s.commander a v).settle s.commander.issuer a v
      r.1.respond (if r.2 then 5 else 0)

/-- HEAD, TAIL and DROPPED of the error log (R67). -/
def State.logHeader (s : State) : List DWord :=
  [BitVec.ofNat 64 s.logHead, BitVec.ofNat 64 s.logTail, BitVec.ofNat 64 s.logDropped]

/-- LOG_READ (R62, R66). -/
def execLogRead (s : State) : Res :=
  command s 0xC902 12 fun bs =>
    let first := (dwordAt bs 0).toNat
    let n := (wordAt bs 8).toNat
    if !s.ready 43 then s.respond 4
    else if n = 0 ∨ 32 < n ∨ s.logHead < first ∨ first + 65535 < s.logHead then s.respond 3
    else
      let es := (List.range (Nat.min n (s.logHead - first))).filterMap fun j => s.log[first + j]?
      s.respond 0 (s.logHeader ++ es.flatMap fun e =>
        (List.range 8).map fun j => dwordAt (s.entryFor s.inSession e) (8 * j))

/-- LOG_ACK (R62, R68). -/
def execLogAck (s : State) : Res :=
  command s 0xC903 8 fun bs =>
    let t := (dwordAt bs 0).toNat
    if !s.ready 43 then s.respond 4
    else if t < s.logTail ∨ s.logHead < t then s.respond 3
    else { s with logTail := t }.respond 0 [BitVec.ofNat 64 t]

/-! ### Keys (R57, R58, R63) -/

/-- A KEY_LOAD refused with a status: nothing changes, and one entry of the security controller, on IO die 1, says so
(R6, R63). DEDUCED, log entry 65. The entry's address field, which R435 gives to the slot, holds 0xFF where the payload
was not read. DESIGN CHOICE, log entry 99. -/
def State.refuseKey (s : State) (status slot : Nat) : State :=
  (s.addLog { platformEntry 0x0402 0xFF (BitVec.ofNat 64 slot) (BitVec.ofNat 64 (slot * 256 + status)) with
    die := functionDie 40 }).respond status

/-- Loads a slot (R57, R58, R63): its empty episode ends, and the accesses
after it use the new keys (`State.rekey`). DESIGN CHOICE, log entry 5. -/
def State.loadKey (s : State) (slot : Nat) (sec : Bool) (data tweak : BitVec 256) : State :=
  { s with keys := sset {} s.keys slot { dataKey := data, tweakKey := tweak } }.setReg (0x0A8 + slot)
    (if sec then 0xC0 else 0x80)

/-- A 256-bit key at a payload offset. -/
def keyAt (bs : List Byte) (off : Nat) : BitVec 256 := BitVec.ofNat 256 (leWord ((bs.drop off).take 32))

/-- A KEY_LOAD whose header or length is wrong, refused with its payload unread (R62, R63). DESIGN CHOICE, log entry 88. -/
def State.badKeyLoad (s : State) : State :=
  if !s.inSession then s.refuseKey 1 0xFF else if !s.ready 40 then s.refuseKey 4 0xFF else s.refuseKey 3 0xFF

/-- A command for the session alone whose header or length is wrong (R62). DESIGN CHOICE, log entry 88. -/
def State.badSecure (s : State) : State := s.respond (if s.inSession then 3 else 1)

/-- KEY_LOAD (R62, R63). DEDUCED, log entry 65. -/
def execKeyLoad (s : State) : Res :=
  command s 0xC904 72 (bad := s.badKeyLoad) fun bs =>
    let slot := (bs.getD 0 0).toNat
    let w := s.reg (0x0A8 + slot)
    if !s.inSession then s.refuseKey 1 0xFF
    else if !s.ready 40 then s.refuseKey 4 slot
    else if 63 < slot ∨ 1 < (bs.getD 1 0).toNat ∨ ((bs.drop 2).take 6).any (fun b => decide (b ≠ 0)) = true
        ∨ keyAt bs 8 = keyAt bs 0x28 then s.refuseKey 3 slot
    else if bitAt w 7 || bitAt w 5 then s.refuseKey 2 slot
    else (s.loadKey slot (bitAt ((bs.getD 1 0).setWidth 64) 0) (keyAt bs 8) (keyAt bs 0x28)).respond 0

/-- KEY_EVICT (R57, R58). -/
def execKeyEvict (s : State) : Res := regEvent s (0x0A8 + s.request.e % 64) 0x10

/-- Writes back the dirty lines of HBM whose sectors stand under a pair of keys (R58). -/
def State.cleanKey (s : State) (pair : BitVec 512) : State :=
  (s.l2Dirty.filter fun l => (numsFrom (l.line * 4) (l.line * 4 + 4)).any fun n => decide (sget none s.seals n = some pair)).foldl
    (fun s l => s.writeBackLine l.line) s

/-- Whether the write-back of a pool line of a key waits for a port (R18, R29, R58). -/
def State.evictHeld (s : State) (i : Nat) : Bool :=
  (s.poolL2.any fun l => decide (l.key = i) && !l.dirty.isEmpty && s.poolHeld (l.line * 128))
    || s.msc.any fun l => decide (l.key = i) && !l.dirty.isEmpty && s.down (s.portOf (s.mscBase l))

/-- The pool lines that the L2s and the memory-side cache hold under a key are written back and go (R56, R58). -/
def State.evictPoolKey (s : State) (i : Nat) : State :=
  let s1 := (s.poolL2.filter fun l => decide (l.key = i) && !l.dirty.isEmpty).foldl State.cleanPoolLine s
  let s2 := (s1.msc.filter fun l => decide (l.key = i)).foldl (fun s l => s.mscWriteBack l (s.mscBase l)) s1
  { s2 with poolL2 := s2.poolL2.filter fun l => decide (l.key ≠ i) || s2.postedOn l.line
            msc := s2.msc.filter fun l => decide (l.key ≠ i) }

/-- KEY_EVICT_COMPLETE (R58): the lines tagged with the slot's key are written back, once no port holds one, and go;
LOADED and BUSY clear, and the empty episode of a slot that held a key begins. DEDUCED, log entry 65. -/
def execKeyEvictComplete (s : State) : Res :=
  let i := s.request.e % 64
  let w := s.reg (0x0A8 + i)
  let k : KeySlot := sget {} s.keys i
  let s0 := s.performWhere fun p => decide (p.key = i)
  .next (if bitAt w 5 && !s0.evictHeld i then
      let s1 := (s0.cleanKey k.pair).evictPoolKey i
      ({ s1 with l1 := s1.l1.filter fun l => decide (l.key ≠ i)
                 code := s1.code.filter fun l => decide (l.key ≠ i)
                 keys := sset {} s1.keys i { logged := k.logged && !bitAt w 7 } }).setReg (0x0A8 + i) (w &&& 0x40)
    else s)

/-! ### Firmware and resets (R64) -/

/-- WARM_RESET (R64): the response is sent, then the warm reset starts. -/
def execWarmReset (s : State) : Res :=
  command s 0xC905 0 (bad := s.badSecure) fun _ => if s.inSession then (s.respond 0).warmReset else s.respond 1

/-- FLOOR_RAISE (R64). DEDUCED, log entry 65. -/
def execFloorRaise (s : State) : Res :=
  command s 0xC906 1 (bad := s.badSecure) fun bs =>
    let t := (bs.getD 0 0).toNat
    let floor := sget 0 s.otpFloor t
    let svn := sget 0 s.svn t
    if !s.inSession then s.respond 1
    else if !s.ready 40 then s.respond 4
    else if t ≠ 1 ∧ t ≠ 2 then s.respond 3
    else if svn ≤ floor then s.respond 0 [BitVec.ofNat 64 floor]
    else if 64 ≤ sget 0 s.otpRaises t then s.respond 3
    else
      { s with otpFloor := sset 0 s.otpFloor t svn, otpRaises := sset 0 s.otpRaises t (sget 0 s.otpRaises t + 1) }.respond
        0 [BitVec.ofNat 64 svn]

/-! ### SPDM (R60) -/

/-- An SPDM response: its code and the words that stand for its payload. -/
def State.spdmAnswer (s : State) (p : Spdm) (code : Nat) (ws : List DWord := []) : State :=
  { s with spdm := { p with answer := some (code, ws) } }

/-- An SPDM request, which port 0 serves once the requests before it have been made; otherwise it answers ERROR
with UnexpectedRequest. A request to a failed port gets no response and is counted (R18). PRESUMED, log entry 66. -/
def spdmRequest (s : State) (due : Spdm → Bool) (f : Spdm → State) : Res :=
  .next (if s.bufail 24 then ({ s with spdm := { s.spdm with answer := none } } : State).foldBufail 24
    else if !s.ready 24 then s else if due s.spdm then f s.spdm else s.spdmAnswer s.spdm 0x7F [4])

/-- GET_VERSION (R60): a new negotiation begins. PRESUMED, log entry 66. -/
def execGetVersion (s : State) : Res :=
  spdmRequest s (fun _ => true) fun p =>
    s.spdmAnswer { p with version := true, caps := false, algs := false, exchanged := false } 0x04 [0x1300]

/-- GET_CAPABILITIES (R60). -/
def execGetCapabilities (s : State) : Res :=
  spdmRequest s (fun p => p.version && !p.algs) fun p => s.spdmAnswer { p with caps := true } 0x61

/-- NEGOTIATE_ALGORITHMS (R60). The request says whether the requester offers ECDSA on brainpoolP384r1 with
SHA-384. -/
def execNegotiateAlgorithms (s : State) : Res :=
  spdmRequest s (fun p => p.caps) fun p =>
    if s.request.ok then s.spdmAnswer { p with algs := true } 0x63 else s.spdmAnswer p 0x7F [1]

/-- A 384-bit digest as six words. -/
def digestWords (d : BitVec 384) : List DWord := (List.range 6).map fun i => (d >>> (64 * i)).setWidth 64

/-- GET_DIGESTS (R60): the digest of the certificate chain. PRESUMED, log entry 66. -/
def execGetDigests (s : State) : Res :=
  spdmRequest s (fun p => p.algs) fun p => s.spdmAnswer p 0x01 (digestWords (sha384 Config.certChain))

/-- GET_CERTIFICATE (R60): a portion of the certificate chain, the lengths of the portion and of what remains before
it. PRESUMED, log entry 66. -/
def execGetCertificate (s : State) : Res :=
  spdmRequest s (fun p => p.algs) fun p =>
    let rest := Config.certChain.drop s.request.num
    let part := rest.take s.request.e
    if Config.certChain.length ≤ s.request.num then s.spdmAnswer p 0x7F [1]
    else s.spdmAnswer p 0x02 (BitVec.ofNat 64 part.length :: BitVec.ofNat 64 (rest.length - part.length) ::
      part.map (·.setWidth 64))

/-- CHALLENGE (R60): the digest of the certificate chain and the signature that proves its key. PRESUMED, log entry 66. -/
def execChallenge (s : State) : Res :=
  spdmRequest s (fun p => p.algs) fun p =>
    ({ s with free := s.free + 1 } : State).spdmAnswer p 0x03
      (digestWords (sha384 Config.certChain) ++ (List.range 12).map fun i => ((Config.proof s.free) >>> (64 * i)).setWidth 64)

/-- The bytes that measurement 4 digests (R60): WCORE, WIO, WREG, DEVID, TOPOCNT, TOPO and the OWNER table. DESIGN CHOICE, log entry 16. -/
def State.worldBytes (s : State) : List Byte :=
  (numsFrom 0x028 0x038 ++ [0x00B] ++ numsFrom 0x068 0x0A8 ++ [0x008, 0x009] ++ numsFrom 0x200 0x300
    ++ numsFrom 0x300 0x400).flatMap fun i => bytes64 (s.reg i)

/-- A measurement by its index (R60): the security controller's ROM, the images that run, and the world registers. A
function that runs no image has an empty one. DESIGN CHOICE, log entry 16. -/
def State.measure (s : State) (i : Nat) : List DWord :=
  digestWords (if i = 4 then sha384 s.worldBytes
    else if i = 1 then Config.romMeasurement
    else (sget none s.images (i - 1)).getD 0)

/-- GET_MEASUREMENTS (R60): index 0 asks for the count and 255 for all. PRESUMED, log entry 66. -/
def execGetMeasurements (s : State) : Res :=
  spdmRequest s (fun p => p.algs) fun p =>
    let i := s.request.e
    if i = 0 then s.spdmAnswer p 0x60 [4]
    else if i = 255 then s.spdmAnswer p 0x60 ([1, 2, 3, 4].flatMap s.measure)
    else if i ≤ 4 then s.spdmAnswer p 0x60 (s.measure i)
    else s.spdmAnswer p 0x7F [1]

/-- KEY_EXCHANGE (R60). -/
def execKeyExchange (s : State) : Res :=
  spdmRequest s (fun p => p.algs) fun p => s.spdmAnswer { p with exchanged := true } 0x64

/-- FINISH (R60): a secure session stands when the requester's proof holds, as the request says. PRESUMED, log entry 66. -/
def execFinish (s : State) : Res :=
  spdmRequest s (fun p => p.exchanged) fun p =>
    let q := { p with exchanged := false }
    if s.request.ok then s.spdmAnswer { q with session := true } 0x65 else s.spdmAnswer q 0x7F [6]

end Sys2Proof.Machine
end

