-- ==== Sys2Proof/Machine/Events.lean ====
section
/-! DEFINITION. The events of the cores and the partitions: fetches, the former (R137 to R141), result writes
and accesses performed (R133, R170), drains of exiting teams (R114), the matrix unit's steps (R325), soft errors
(R119, R121), page walks and invalidations (R163, R164), the partitions' commands (R95, R96, R108) and the fault
queues (R107). -/

namespace Sys2Proof.Machine

/-- The group that a request names. -/
def Request.pos (q : Request) : Pos := { core := q.core, slot := q.slot, num := q.num }

/-! ### Fetching and issuing -/

/-- RUN_FETCH (R131): the run of a group that may issue, when the loop buffer does not hold it. -/
def execRunFetch (s : State) : Res :=
  let s0 := { s with cur := some s.request.pos }
  match s0.curGroup? with
  | none => .next s
  | some (t, g) =>
    .next (if t.cut || !s0.issues t g || !g.wordsAt.isEmpty || decide (24 ≤ g.issued) || !g.abort.isEmpty then s
      else (s0.fetchRun t g).1)

/-- RING_ENGINE_PUBLISH (R355): the engine performs the TOKPUB at which a group stands. DESIGN CHOICE, log entry 69. -/
def execRingEnginePublish (s : State) : Res :=
  match s.prepare s.request.pos with
  | .ready (.tokpub w) s1 => s1.issueRes (execTokpub w s1)
  | _ => .next s

/-- MATRIX_K_STEP (R325): one K step of the matrix instruction at which a group stands. DEDUCED, log entry 48. DESIGN CHOICE, log entry 69. -/
def execMatrixKStep (s : State) : Res :=
  match s.prepare s.request.pos with
  | .ready (.mma w) s1 => s1.issueRes (runProduct w s1 false false 1)
  | .ready (.mmak w) s1 => s1.issueRes (runProduct w s1 true false 1)
  | .ready (.mmam w) s1 => s1.issueRes (runProduct w s1 false true 1)
  | .ready (.mmap w) s1 => s1.issueRes (runPairProduct w s1 1)
  | _ => .next s

/-- Lets the clock reach the earliest result that a group has in flight, and writes what is then due (R133). -/
def Group.landResults (g : Group) (clk : Nat) : Nat × Group :=
  match g.hist with
  | [] => (clk, g)
  | e :: r =>
    let due := Nat.max clk (r.foldl (fun n x => Nat.min n x.due) e.due)
    (due, { g with hist := landDue due [] g.hist })

/-- RESULT_WRITE (R133). DESIGN CHOICE, log entry 9. -/
def execResultWrite (s : State) : Res :=
  match ({ s with cur := some s.request.pos } : State).curGroup? with
  | none => .next s
  | some (t, g) =>
    let r := g.landResults s.clk
    .next ({ s with clk := r.1 }.put t r.2)

/-- The n-th remote store or RED reaches its owner (R44, R48, R49): the link that it was issued toward is ready, and
none of its fibre to that owner stands before it. -/
def State.performRemote (s : State) (n : Nat) : State :=
  match s.remotes[n]? with
  | none => s
  | some r =>
    if decide (r.link < 12) && s.ready (28 + r.link) && !(s.remotes.take n).any (fun a => a.before r) then { s with remotes := s.remotes.eraseIdx n } else s

/-- ACCESS_PERFORMED (R169, R170, R184): a posted store reaches its home L2, one byte of a posted landing does, or a
remote store reaches its owner. DESIGN CHOICE, log entry 69. -/
def execAccessPerformed (s : State) : Res :=
  let q := s.request
  .next (if q.e = 0 then s.performPosted q.num else if q.e = 1 then s.performRemote q.num else s.performByte q.num q.k)

/-! ### The former (R137 to R141) -/

/-- Fibres that the former can seat together: their team, where they go on, since when the oldest waits, whether
they come from a completed rejoin, and their records, ascending by fibre id. -/
structure Formable where
  team : Team
  pc : DWord
  oldest : Nat
  rejoin : Option (BitVec 16)
  fibres : List Parked

/-- Puts a record in its place by fibre id. -/
def insertFid (p : Parked) : List Parked → List Parked
  | [] => [p]
  | q :: r => if p.fid ≤ q.fid then p :: q :: r else q :: insertFid p r

/-- Records ascending by fibre id. -/
def byFid (ps : List Parked) : List Parked := ps.foldr insertFid []

/-- The earliest PARKED value. -/
def oldestOf (ps : List Parked) : Nat :=
  match ps with
  | [] => 0
  | p :: r => r.foldl (fun n q => Nat.min n q.parked) p.parked

/-- The groups of completed rejoins that a team can form on a core at a clock (R140): of the fibres that wait from before
it, those that go on where the lowest one does. DEDUCED, log entry 28. -/
def Team.rejoinGroups (t : Team) (core clk : Nat) : List Formable :=
  (t.rejoins.filter (·.complete)).filterMap fun r =>
    match byFid (t.attic.filter fun p =>
      decide (p.core = core) && decide (p.st = .rejoin) && p.released && decide (p.tag = r.tag)) with
    | [] => none
    | p :: ps =>
      if (p :: ps).all fun q => decide (q.parked < clk) then
        some { team := t, pc := p.pc, oldest := 0, rejoin := some r.tag
               fibres := (p :: ps).filter fun q => decide (q.pc = p.pc) }
      else none

/-- The candidates of a team on a core at a clock (R137): each PC of its FORMABLE records, parked before it, with Wv
fibres or one that has waited FORMWAIT clocks. DEDUCED, log entry 28. -/
def State.formGroups (s : State) (t : Team) (core clk : Nat) : List Formable :=
  let fs := t.attic.filter fun p => decide (p.core = core) && decide (p.st = .formable) && decide (p.parked < clk)
  ((fs.map (·.pc)).eraseDups.map fun pc =>
      let ps := byFid (fs.filter fun p => decide (p.pc = pc))
      ({ team := t, pc := pc, oldest := oldestOf ps, rejoin := none, fibres := ps } : Formable)).filter fun c =>
    decide (t.launch.wv ≤ c.fibres.length) || decide (s.formWait ≤ clk - c.oldest)

/-- The order in which the former serves: the oldest first, the lower team slot on a tie (R137), and then the
lower PC. DEDUCED, log entry 28. -/
def Formable.before (a b : Formable) : Bool :=
  decide (a.oldest < b.oldest) || (decide (a.oldest = b.oldest) &&
    (decide (a.team.slot < b.team.slot) || (decide (a.team.slot = b.team.slot) && a.pc.ult b.pc)))

/-- The first of some candidates under an order. DEDUCED, log entry 28. -/
def firstFormable : List Formable → Option Formable
  | [] => none
  | a :: r => some (r.foldl (fun x y => if y.before x then y else x) a)

/-- What the former of a core serves at a clock: completed rejoins first, then the oldest candidate. DEDUCED, log entry 28. DEDUCED, log entry 46. -/
def State.formable (s : State) (core clk : Nat) : Option Formable :=
  let ts := s.teams.filter fun t => t.coresOf.contains core && (t.freeRecord core).isSome && decide (s.pstate t.part = 1)
  match firstFormable (ts.flatMap fun t => t.rejoinGroups core clk) with
  | some c => some c
  | none => firstFormable (ts.flatMap fun t => s.formGroups t core clk)

/-- Fibres held at RJOIN open entries or arrive at them, in ascending PARKED (R140). DEDUCED, log entry 29. -/
def Team.admitHeld (t : Team) (p : Parked) : Team :=
  let r := t.arrive p.fid p.tag p.base p.mask
  match r.2 with
  | .rejoin => { r.1 with attic := r.1.attic.map fun q => if q.fid = p.fid then { q with st := .rejoin } else q }
  | _ => t

/-- The held fibres, ascending by PARKED and then by fibre id. -/
def Team.heldFibres (t : Team) : List Parked :=
  let before := fun (a b : Parked) => decide (a.parked < b.parked) || (decide (a.parked = b.parked) && decide (a.fid ≤ b.fid))
  (t.attic.filter fun p => decide (p.st = .rejoinHeld)).foldr
    (fun p l => l.takeWhile (fun q => !before p q) ++ p :: l.dropWhile (fun q => !before p q)) []

/-- A completed entry closes when its last fibre is formed, and the held fibres then arrive (R140). DEDUCED, log entry 29. -/
def Team.closeRejoin (t : Team) (tag : BitVec 16) : Team :=
  if t.attic.any fun p => decide (p.st = .rejoin) && decide (p.tag = tag) then t
  else
    let t1 := { t with rejoins := t.rejoins.filter fun r => decide (r.tag ≠ tag) }
    (t1.heldFibres.foldl Team.admitHeld t1).judgeRejoins

/-- A newly formed group (R127): zero registers but the launch arguments, its fibres from lane 0 upward, with the
results that they have in flight, of which none is named any more (R133). It issues from the clock after its forming (R137), from
the issue slot in which it is formed (R130). -/
def formedGroup (t : Team) (num core islot clk : Nat) (pc : DWord) (ps : List Parked) : Group :=
  let aborts := ps.filter (·.abort)
  let x : Group :=
    { num := num, core := core, pc := pc, sregs := ssetList 0 [] 0 t.sargs, nextIssue := clk + 1, islot := islot, runStart := clk
      lanes := (List.range t.launch.wv).map fun i => (ps[i]?).map (·.fid)
      hist := (ps.flatMap (·.hist)).map fun e => { e with named := false }
      synced := (ps.filter (·.synced)).map (·.fid), abort := aborts.map (·.fid), abortVa := aborts.foldl (fun m p => sset 0 m p.fid p.fault) [] }
  { x with formed := x.activeMask }

/-- Whether an error site is the Attic record of a fibre. -/
def ErrorSite.inAttic (e : ErrorSite) (fid : Nat) : Bool :=
  match e with
  | .attic _ _ f _ => decide (f = fid)
  | _ => false

/-- Forms one group at a clock (R137, R140); an Attic record that cannot be corrected raises UECC in the lanes that it was to
fill (R121). DEDUCED, log entry 28. -/
def State.form (s : State) (core clk : Nat) (c : Formable) (num : Nat) : State :=
  let t := c.team
  let ps := c.fibres.take t.launch.wv
  let fids := ps.map (·.fid)
  let g := formedGroup t num core (s.issueSlot core) clk c.pc ps
  let hit := t.errors.filter fun e => fids.any e.inAttic
  let t1 := { t with groups := t.groups ++ [g]
                     attic := t.attic.filter fun p => !fids.contains p.fid
                     errors := t.errors.filter fun e => !hit.contains e }
  let t2 := match c.rejoin with
    | some tag => t1.closeRejoin tag
    | none => t1
  let s1 := s.putTeam t2
  if hit.isEmpty then s1
  else
    let bad := g.active.filter fun p => hit.any fun e => e.inAttic p.2
    s1.takeTrap t2 g { cause := 0x0302, mask := maskOf (bad.map (·.1)), kind := 4 }

/-- The former of a core at a clock: it forms at most one group (R137). -/
def State.formAt (s : State) (core clk : Nat) : State :=
  match s.formable core clk with
  | none => s
  | some c =>
    match c.team.freeRecord core with
    | none => s
    | some n => s.form core clk c n

/-- The group at a position gives up its record if it is partial, waits at a barrier that has not let it pass or for a
queue, and must park (R138). DEDUCED, log entry 30. -/
def State.parkPartial (s : State) (pos : Pos) : State :=
  match ({ s with cur := some pos } : State).curGroup? with
  | none => s
  | some (t, g) =>
    if ((decide (g.wait = .barrier) && !g.barPass) || decide (g.wait = .pop)) && decide (s.pstate t.part = 1) && s.mustPark t g
      then s.parkGroupAt t g g.pc else s

/-- The partial groups of a core that must park do so (R138). -/
def State.parkAll (s : State) (core : Nat) : State :=
  (s.teams.filter fun t => t.coresOf.contains core && !t.attic.isEmpty).foldl (fun s t =>
    (t.groups.filter fun g => decide (g.core = core)).foldl (fun s g =>
      s.parkPartial { core := t.core, slot := t.slot, num := g.num }) s) s

/-- The former of a core at each of n clocks after `clk`: it forms a group, and the partial groups that must park then do
(R137, R138). DEDUCED, log entry 30. -/
def State.formFor (s : State) (core : Nat) : Nat → Nat → State
  | 0, _ => s
  | n + 1, clk => ((({ s with clk := clk + 1 } : State).formAt core (clk + 1)).parkAll core).formFor core n (clk + 1)

/-- The former of a core acts at every clock that has passed since it last did, or since the oldest of its fibres
parked (R137, R139). -/
def State.formCore (s : State) (core : Nat) : State :=
  match (s.teams.flatMap fun t => t.attic.filter fun p => decide (p.core = core)) with
  | [] => s
  | p :: ps =>
    let from_ := Nat.max (sget 0 s.formClk core) (oldestOf (p :: ps))
    if from_ < s.clk then
      { s.formFor core (s.clk - from_) from_ with formClk := sset 0 s.formClk core s.clk, clk := s.clk }
    else s

/-- FORM_GROUP (R137): a clock passes, at which the former of a core acts. -/
def execFormGroup (s : State) : Res :=
  let core := s.request.core
  let s1 := { s with clk := s.clk + 1, formClk := sset 0 s.formClk core (s.clk + 1) }
  .next (if (s.formable core (s.clk + 1)).isSome then s1.formAt core (s.clk + 1) else s)

/-- PARK_PARTIAL_GROUP (R138). -/
def execParkPartialGroup (s : State) : Res := .next (s.parkPartial s.request.pos)

/-! ### The drain of an exiting team (R114, R118) -/

/-- STORE_BUFFER_DRAIN: the drain of a CONTAIN team that has exited; the team is done once its release at SYSTEM
scope is. DEDUCED, log entry 33. -/
def State.drainExit (s : State) (t : Team) : State :=
  let none' : Group := { num := 0, core := t.core, pc := 0, lanes := [] }
  match s.drain t with
  | .held s1 t1 => s1.putTeam t1
  | .done s1 t1 => if s1.remotePending t1 then s1.putTeam t1 else s1.leaveTeam { t1 with drained := true }
  | .bad s1 t1 =>
    let tr := bufferTrap none'
    if t.restartable then (s1.putTeam t1).startRelaunch t1 none' tr
    else
      ((s1.putTeam t1).addLog (s1.trapEntry t1 none' tr (class2Detail t1 none' tr true 0xFFFFFFFF) 0)).failInstance
        t1.inst 0x0D 0 0

/-- STORE_BUFFER_DRAIN (R114): of a team that waits for it to end its exit. -/
def execStoreBufferDrain (s : State) : Res :=
  let q := s.request
  match s.team? q.core q.slot with
  | none => .next s
  | some t =>
    .next (if t.exiting && t.launch.contain && !t.drained && !(t.copies.any fun c => c.2.running) then s.drainExit t else s)

/-! ### Soft errors (R119, R121) -/

/-- The log entry of an error in memory (R119, R122). DEDUCED, log entry 23. -/
def memoryErrorEntry (pa : Nat) : LogEntry :=
  { platformEntry 0x0302 0xFF (BitVec.ofNat 64 pa) 0x0006FFFFFFFFFFFF with
    cls := 2, die := if pa < 2 ^ 40 then 0x10 + stackOf pa else homeDie pa }

/-- A clean cached copy of a sector is discarded, to be fetched again (R119): that of the L2, or else that of the
memory-side cache. -/
def State.dropClean (s : State) (pa : Nat) : State :=
  if (s.poolL2Line pa).isSome then
    { s with poolL2 := s.poolL2.filter fun l => !(decide (l.line = pa / 128) && l.dirty.isEmpty) }
  else
    match s.mscLine pa with
    | some m => { s with msc := s.msc.filter fun l => !(decide (l.line = m.line) && l.dirty.isEmpty) }
    | none => s

/-- An error in HBM, an L2 or the memory-side cache (R119): a word that can be corrected is; a clean cached copy
is discarded; else the sector is poisoned. DEDUCED, log entry 23. -/
def State.memoryError (s : State) (pa : Nat) (dirty correctable : Bool) : State :=
  if correctable then s
  else
    (if dirty then
      if 2 ^ 40 ≤ pa ∧ pa < 2 ^ 55 then (s.touch (pa / 32 * 32) 32).setPoison (pa / 32) true
      else { s with poison := sset false s.poison (pa / 32) true }
     else s.dropClean pa).addLog (memoryErrorEntry pa)

/-- An error in a team's storage (R121): an uncorrectable word waits for its next read. DEDUCED, log entry 23. -/
def State.teamError (s : State) (core slot : Nat) (e : ErrorSite) (correctable : Bool) : State :=
  match s.team? core slot with
  | none => s
  | some t => if correctable then s else s.putTeam { t with errors := t.errors ++ [e] }

/-- SOFT_ERROR (R119, R121). An error that no check sees changes the word itself (R109). DEDUCED, log entry 23. -/
def execSoftError (s : State) : Res :=
  match s.request.site with
  | none => .next s
  | some e =>
    .next (match e with
      | .memory pa dirty c => s.memoryError pa dirty c
      | .register core slot wid reg flip detected =>
        if detected then s.teamError core slot e false
        else
          match s.team? core slot with
          | none => s
          | some t => s.putTeam { t with win := smod 0 t.win (wid * 64 + reg) (· ^^^ flip) }
      | .predicate core slot wid flip =>
        match s.team? core slot with
        | none => s
        | some t => s.putTeam { t with preds := smod 1 t.preds wid (· ^^^ flip) }
      | .scratch core slot _ c => s.teamError core slot e c
      | .tile core slot _ c => s.teamError core slot e c
      | .hamper core slot _ c => s.teamError core slot e c
      | .attic core slot _ c => s.teamError core slot e c
      | .storeBuffer core slot _ c => s.teamError core slot e c
      | .uniform core slot _ => s.teamError core slot e false)

/-! ### Translation (R163, R164) -/

/-- Whether an access through a page, as a core of a partition makes it, ends in no fault (R55, R92, R160): only then does
the walk leave a translation. -/
def State.walkHolds (s : State) (core k : Nat) (ver : Option Word) (va : DWord) : Bool :=
  match s.xlate (s.coreSec core) core k ver va .read true with
  | .ok _ _ _ | .remote _ | .shardNodev | .held => true
  | _ => false

/-- PAGE_WALK (R163): a walk that ends in no fault fills the TLBs. -/
def execPageWalk (s : State) : Res :=
  let q := s.request
  let ver : Option Word := if q.ok then some (q.value.setWidth 32) else none
  .next (if fieldOf q.addr 56 8 = 0 && s.walkHolds q.core q.part ver q.addr then s.tlbFill q.core q.part ver q.addr
    else s)

/-- TLB_INVALIDATE (R164). -/
def execTlbInvalidate (s : State) : Res := regEvent s (pidx s.request.part 11) s.request.value

/-- TLB_INVALIDATE_COMPLETE (R164): BUSY clears, and a held write is performed. -/
def State.tlbInvalidateDone (s : State) (k : Nat) : State :=
  let s1 := s.setReg (pidx k 11) 0
  match (s.part k).heldTlb with
  | [] => s1
  | v :: vs => (s1.setPart k { s1.part k with heldTlb := vs }).tlbInvalidate k v

/-- TLB_INVALIDATE_COMPLETE (R164). -/
def execTlbInvalidateComplete (s : State) : Res :=
  let k := s.request.part
  .next (if bitAt (s.reg (pidx k 11)) 63 then s.tlbInvalidateDone k else s)

/-! ### Partitions (R95 to R102, R108) -/

/-- PCTL_EN_WRITE (R96): the register's write without a command. DEDUCED, log entry 47. -/
def execPctlEnWrite (s : State) : Res := regEvent s (pidx s.request.part 0) (setField s.request.value 0 4 0)

/-- A write of PCTL.CMD that keeps the other fields. DEDUCED, log entry 47. -/
def commandEvent (s : State) (cmd : Nat) : Res :=
  let i := pidx s.request.part 0
  regEvent s i (setField (s.reg i) 0 4 cmd)

/-- PREEMPT (R95, R97, R100). -/
def execPreempt (s : State) : Res := commandEvent s 1
/-- RESUME (R95). -/
def execResume (s : State) : Res := commandEvent s 2
/-- RESET (R95). -/
def execReset (s : State) : Res := commandEvent s 3

/-- PARTITION_HALTED (R97). -/
def execPartitionHalted (s : State) : Res := .next (s.halted s.request.part)
/-- CONTEXT_SAVE_COMPLETE (R95, R98). -/
def execContextSaveComplete (s : State) : Res := .next (s.saveDone s.request.part)
/-- RESTORE_START (R95). -/
def execRestoreStart (s : State) : Res := .next (s.restoreStart s.request.part)
/-- CONTEXT_RESTORE_COMPLETE (R95, R102, R108, R146). -/
def execContextRestoreComplete (s : State) : Res := .next (s.restoreDone s.request.part)
/-- PARTITION_RESET_COMPLETE (R95). -/
def execPartitionResetComplete (s : State) : Res := .next (s.resetDone s.request.part)
/-- FAULT_RESOLVE (R108). -/
def execFaultResolve (s : State) : Res := regEvent s (pidx s.request.part 5) s.request.value

/-! ### The fault queue (R107) -/

/-- The bytes of a fault entry. -/
def FaultWait.bytes (f : FaultWait) (seq : DWord) : List Byte :=
  bytes64 f.va ++ leBytes 2 f.core ++ leBytes 1 f.kind ++ leBytes 1 f.reason ++ leBytes 4 f.team ++ leBytes 4 f.launch
    ++ leBytes 4 f.who ++ bytes64 seq

/-- Writes the entry of a fault, or lets it wait while the ring is full; a function that has failed takes the write in
vain (R18, R107, R435). DEDUCED, log entry 38. DEDUCED, log entry 39. -/
def State.writeFault (s : State) (k : Nat) (f : FaultWait) : State :=
  let base := s.rfield (pidx k 3) 6 50 * 64
  let n := 2 ^ s.rfield (pidx k 4) 0 5
  let head := dwordAt (s.homeBytes base 8) 0
  let tail := dwordAt (s.homeBytes (base + 8) 8) 0
  let at_ := base + 64 + 32 * (head.toNat % n)
  let p := s.part k
  let written := p.faults.map fun x => if x.block = f.block then { x with written := true } else x
  let failed := ((s.functionsOf base ++ s.functionsOf at_).filter s.bufail).eraseDups
  if s.targetHeld base || s.targetHeld at_ then s
  else if !failed.isEmpty then (failed.foldl State.foldBufail s).setPart k { p with faults := written }
  else if n ≤ (head - tail).toNat then
    if p.fqFull then s
    else (s.setPart k { p with fqFull := true }).addLog (platformEntry 0x0407 k f.va head)
  else
    let s1 := (s.writeHome at_ (f.bytes head)).writeHome base (bytes64 (head + 1))
    (s1.setPart k { p with fqFull := false, faults := written }).raise 1

/-- FAULT_ENTRY_WRITE (R107): the first fault of the partition that has no entry yet. -/
def execFaultEntryWrite (s : State) : Res :=
  let k := s.request.part
  .next (match (s.part k).faults.find? fun f => !f.written with
    | none => s
    | some f => s.writeFault k f)

end Sys2Proof.Machine
end

