-- ==== Sys2Proof/Machine/Special.lean ====
section
/-! DEFINITION. The special functions (R240). The manual bounds a result and does not fix it: the
result is the free value that Config names, where that value meets the bound against a reference
computed here in fixed point, and the correctly rounded reference otherwise. -/

namespace Sys2Proof.Machine

/-- The fractional bits of the reference. -/
def refBits : Nat := 320
/-- π at that scale. -/
def piFix : Nat := 0x3243f6a8885a308d313198a2e03707344a4093822299f31d0082efa98ec4e6c89452821e638d01377
/-- ln 2 at that scale. -/
def ln2Fix : Nat := 0xb17217f7d1cf79abc9e3b39803f2f6af40f343267298b62d8a0d175b8baafa2be7b876206debac98

/-- The product of two fixed-point numbers. -/
def mulFix (a b : Int) : Int := a * b / 2 ^ refBits

/-- Σ of a Taylor series whose next term is the last times z over the next divisors. -/
def taylor (z : Int) (div : Nat → Nat) : Nat → Nat → Int → Int
  | 0, _, _ => 0
  | fuel + 1, n, term => term + taylor z div fuel (n + 1) (mulFix term z / (div n : Int))

/-- e^z for 0 ≤ z ≤ 1. -/
def expFix (z : Int) : Int := taylor z (fun n => n + 1) 90 0 (2 ^ refBits)

/-- Squares a number n times. -/
def squareFix (z : Int) : Nat → Int
  | 0 => z
  | n + 1 => squareFix (mulFix z z) n

/-- Σ t^(2n+1) / (2n+1). -/
def atanhFix (t2 : Int) : Nat → Nat → Int → Int
  | 0, _, _ => 0
  | fuel + 1, n, p => p / (n : Int) + atanhFix t2 fuel (n + 2) (mulFix p t2)

/-- ln y for 1 ≤ y < 2. -/
def lnFix (y : Int) : Int :=
  let t := (y - 2 ^ refBits) * 2 ^ refBits / (y + 2 ^ refBits)
  2 * atanhFix (mulFix t t) 110 1 t

/-- An exact value at the reference's scale, truncated below it. -/
def toFix (m : Nat) (e : Int) : Nat :=
  if 0 ≤ e + refBits then m * 2 ^ (e + refBits).toNat else m / 2 ^ (-(e + refBits)).toNat

/-- x modulo 2π, for x ≥ 0. -/
def modTwoPi (x : Nat) : Nat := x % (2 * piFix)

/-- sin z and cos z for 0 ≤ z < 2π. -/
def sinFix (z : Int) : Int := taylor (-(mulFix z z)) (fun n => (2 * n + 2) * (2 * n + 3)) 70 0 z
/-- The cosine. -/
def cosFix (z : Int) : Int := taylor (-(mulFix z z)) (fun n => (2 * n + 1) * (2 * n + 2)) 70 0 (2 ^ refBits)

/-- The special functions. -/
inductive SpecialFn where
  | rcp | rsq | exp2 | log2 | sin | cos | tanh
  deriving DecidableEq, Repr

/-- The number that names a function to Config. -/
def SpecialFn.code : SpecialFn → Nat
  | .rcp => 0 | .rsq => 1 | .exp2 => 2 | .log2 => 3 | .sin => 4 | .cos => 5 | .tanh => 6

/-- A reference: the sign, a significand and an exponent close to the exact real result. -/
structure SpecialRef where
  neg : Bool
  m : Nat
  e : Int
  deriving DecidableEq, Repr

/-- A signed fixed-point number as a reference. -/
def refOfFix (x : Int) (e : Int) : SpecialRef :=
  { neg := decide (x < 0), m := x.natAbs, e := e - refBits }

/-- The reference of a function at a finite nonzero value `(-1)^neg m 2^e`. DEDUCED, log entry 11. -/
def SpecialFn.ref (fn : SpecialFn) (neg : Bool) (m : Nat) (e : Int) : SpecialRef :=
  match fn with
  | .rcp => { neg := neg, m := 2 ^ 200 / m, e := -200 - e }
  | .rsq =>
    let odd := decide (e % 2 ≠ 0)
    let m2 := if odd then 2 * m else m
    let e2 := if odd then e - 1 else e
    { neg := false, m := isqrt (2 ^ 400 / m2) 201 0, e := -200 - e2 / 2 }
  | .exp2 =>
    -- x = n + f with 0 ≤ f < 1
    let x : Int := (if neg then -1 else 1) * (toFix m e : Int)
    let n := x / 2 ^ refBits
    let f := x - n * 2 ^ refBits
    refOfFix (expFix (mulFix f ln2Fix)) n
  | .log2 =>
    let len : Int := bitLen m
    let y := toFix m (1 - len)
    refOfFix ((len - 1 + e) * 2 ^ refBits + lnFix y * 2 ^ refBits / ln2Fix) 0
  | .sin =>
    let v := sinFix (modTwoPi (toFix m e))
    refOfFix (if neg then -v else v) 0
  | .cos => refOfFix (cosFix (modTwoPi (toFix m e))) 0
  | .tanh =>
    let x := toFix m e
    let v : Int :=
      if 64 * 2 ^ refBits ≤ x then 2 ^ refBits - 1
      else
        let g := squareFix (expFix (2 * x / 2 ^ 8)) 8
        (g - 2 ^ refBits) * 2 ^ refBits / (g + 2 ^ refBits)
    refOfFix (if neg then -v else v) 0

/-- A bound as a multiple of 2^-31 of an ulp, or an absolute power of two in the same unit. -/
def SpecialFn.ulps (fn : SpecialFn) : Nat :=
  match fn with
  | .rcp | .rsq => 1
  | _ => 2

/-- Whether an F32 value lies within the bound of R240 of the reference. The bound is taken a
little short, so that the reference's own error cannot let a value outside it pass. DEDUCED, log entry 11. -/
def SpecialFn.within (fn : SpecialFn) (x : FVal) (r : SpecialRef) (v : FVal) : Bool :=
  match v with
  | .fin n m e =>
    let q := min (min e r.e) (-400)
    let a : Int := (if n then -1 else 1) * ((m * 2 ^ (e - q).toNat : Nat) : Int)
    let b : Int := (if r.neg then -1 else 1) * ((r.m * 2 ^ (r.e - q).toNat : Nat) : Int)
    let top : Int := (bitLen r.m : Int) - 1 + r.e
    let ulp : Int := max (top - 23) (-149)
    let inner := match x with
      | .fin _ p h => decide (-1 ≤ (bitLen p : Int) - 1 + h) && decide ((bitLen p : Int) - 1 + h < 1)
      | _ => false
    let limit : Nat :=
      match fn with
      | .sin | .cos => 2 ^ (-21 - q).toNat
      | .log2 => if inner then 2 ^ (-22 - q).toNat else 2 * 2 ^ (ulp - q).toNat
      | f => f.ulps * 2 ^ (ulp - q).toNat
    decide ((a - b).natAbs ≤ limit - limit / 2 ^ 30)
      && (match fn with | .tanh => decide (v.cmp (.fin false 1 0) ≤ 0) && decide (0 ≤ v.cmp (.fin true 1 0)) | _ => true)
  | _ => false

/-- A free result within the bound: Config's value when it meets the bound, and the rounded reference
otherwise. The bits UF, OF and NX follow from the result. DEDUCED, log entry 11. -/
def SpecialFn.free (fn : SpecialFn) (ftz : Bool) (x : FVal) (bits : Word) (neg : Bool) (m : Nat) (e : Int) :
    Nat × BitVec 7 :=
  let r := fn.ref neg m e
  let own := (Config.special fn.code bits).toNat
  let own := if own % 2 ^ 31 = 0 then (if r.neg then 2 ^ 31 else 0) else own
  let rounded := f32.round .rne ftz r.neg r.m r.e true
  if fn.within x r (f32.decode false own) then
    if own / 2 ^ 23 % 256 = 0 then
      ((if ftz then own / 2 ^ 31 * 2 ^ 31 else own), stUF ||| stNX)
    else (own, stNX)
  else (rounded.1, rounded.2 ||| stNX)

/-- Whether `m × 2^e` is a power of two, and its exponent. -/
def pow2Exp (m : Nat) (e : Int) : Option Int :=
  if m = 2 ^ (bitLen m - 1) then some ((bitLen m : Int) - 1 + e) else none

/-- A special function at a value, with its exact cases and special values (R240). `x` is the operand
after MODA and FTZ, `bits` its encoding. DEDUCED, log entry 11. -/
def SpecialFn.eval (fn : SpecialFn) (ftz : Bool) (x : FVal) (bits : Word) : Nat × BitVec 7 :=
  let r : Rounding := { f := f32, mode := .rne, ftz := ftz }
  match x with
  | .nan _ sg => (f32.nanBits, stIf sg stNV)
  | .inf n =>
    match fn with
    | .rcp => r.fin n 0 0 false
    | .rsq => if n then r.nan true else r.fin false 0 0 false
    | .exp2 => if n then r.fin false 0 0 false else r.inf false 0
    | .log2 => if n then r.nan true else r.inf false 0
    | .sin | .cos => r.nan true
    | .tanh => r.fin n 1 0 false
  | .fin n m e =>
    if m = 0 then
      match fn with
      | .rcp => r.inf n stFZ
      | .rsq => r.inf n stFZ
      | .exp2 => r.fin false 1 0 false
      | .log2 => r.inf true stFZ
      | .sin => r.fin n 0 0 false
      | .cos => r.fin false 1 0 false
      | .tanh => r.fin n 0 0 false
    else
      match fn with
      | .rcp =>
        match pow2Exp m e with
        | some k => r.fin n 1 (-k) false
        | none => fn.free ftz x bits n m e
      | .rsq =>
        if n then r.nan true
        else
          match pow2Exp m e with
          | some k => if k % 2 = 0 then r.fin false 1 (-(k / 2)) false else fn.free ftz x bits n m e
          | none => fn.free ftz x bits n m e
      | .exp2 =>
        let tooBig := decide (10 ≤ (bitLen m : Int) - 1 + e)
        if tooBig then r.fin false 1 (if n then -400 else 400) true
        else if decide (0 ≤ e) || decide (m % 2 ^ (-e).toNat = 0) then
          let k : Int := (if n then -1 else 1) * ((if 0 ≤ e then m * 2 ^ e.toNat else m / 2 ^ (-e).toNat : Nat) : Int)
          r.fin false 1 k false
        else fn.free ftz x bits n m e
      | .log2 =>
        if n then r.nan true
        else
          match pow2Exp m e with
          | some k => r.fin (decide (k < 0)) k.natAbs 0 false
          | none => fn.free ftz x bits n m e
      | .sin => fn.free ftz x bits n m e
      | .cos => fn.free ftz x bits n m e
      | .tanh => fn.free ftz x bits n m e

end Sys2Proof.Machine
end

