-- ==== Sys2Proof/Machine/FloatArith.lean ====
section
/-! DEFINITION. The floating-point, conversion, random-number and predicate instructions (R235 to
R246). -/

namespace Sys2Proof.Machine

/-- How an instruction of the issuing launch rounds into a format (R196, R236). -/
def Ctx.rounding (c : Ctx) (f : FFmt) (m : Mods) : Rounding :=
  { f := f, mode := rmodeOf m .rne, ftz := c.t.launch.ftz, scale := scaleOf m, clamp := clampOf m }

/-- Operand a as a value of a format, after FTZ and MODA. -/
def Ctx.fa (c : Ctx) (f : FFmt) (m : Mods) (x : Nat) : FVal := (f.decode c.t.launch.ftz x).modify (aaOf m) (naOf m)
/-- Operand b. -/
def Ctx.fb (c : Ctx) (f : FFmt) (m : Mods) (x : Nat) : FVal := (f.decode c.t.launch.ftz x).modify (abOf m) (nbOf m)
/-- Operand c. -/
def Ctx.fc (c : Ctx) (f : FFmt) (m : Mods) (x : Nat) : FVal := (f.decode c.t.launch.ftz x).modify false (ncOf m)

/-- A 32-bit float instruction: d ← op a b c, an absent c reading −0 (R225). -/
def float3 (s : State) (w : W3) (lat : Nat) (op : Rounding → FVal → FVal → FVal → Nat × BitVec 7) : Res :=
  laneInstr s (guard3 w) w.m w.s.toNat (w3Locs w 1 1 1) fun c =>
    c.mapSticky (guard3 w) lat w.d fun ln =>
      let r := op (c.rounding f32 w.m) (c.fa f32 w.m (c.l32 ln w.a).toNat) (c.fb f32 w.m (c.b32 ln w).toNat)
        (c.fc f32 w.m (c.c32 ln w.m 0x80000000).toNat)
      ([BitVec.ofNat 32 r.1], r.2)

/-- Whether MODX supplies a third source (R197). -/
def hasC (m : Mods) : Bool := match m.x with | some x => x.hc | none => false

/-- The operation of a fused multiply-add: without a third source it equals the product in every bit (R237). -/
def fmaOf (m : Mods) : Rounding → FVal → FVal → FVal → Nat × BitVec 7 :=
  if hasC m then fFma else fun r a b _ => fMul r a b

/-- FADD.F32 (R237). -/
def execFaddF32 (w : W3) (s : State) : Res := float3 s w 4 fun r a b _ => fAdd r a b
/-- FSUB.F32 (R237). -/
def execFsubF32 (w : W3) (s : State) : Res := float3 s w 4 fun r a b _ => fAdd r a (b.modify false true)
/-- FMUL.F32 (R237). -/
def execFmulF32 (w : W3) (s : State) : Res := float3 s w 4 fun r a b _ => fMul r a b
/-- FMULZ.F32 (R238). -/
def execFmulzF32 (w : W3) (s : State) : Res := float3 s w 4 fun r a b _ => fMulz r a b
/-- FFMA.F32 (R237). -/
def execFfmaF32 (w : W3) (s : State) : Res := float3 s w 4 (fmaOf w.m)
/-- FMIN.F32 (R239). -/
def execFminF32 (w : W3) (s : State) : Res := float3 s w 4 fun r a b _ => fMinMax r false a b
/-- FMAX.F32 (R239). -/
def execFmaxF32 (w : W3) (s : State) : Res := float3 s w 4 fun r a b _ => fMinMax r true a b
/-- FDIV.F32 (R237). -/
def execFdivF32 (w : W3) (s : State) : Res := float3 s w 0 fun r a b _ => fDiv r a b
/-- FSQRT.F32 (R237). -/
def execFsqrtF32 (w : W3) (s : State) : Res := float3 s w 0 fun r a _ _ => fSqrt r a

/-- FCMP.F32 (R239). -/
def execFcmpF32 (w : WC) (s : State) : Res :=
  let w3 : W3 := { d := w.d, a := w.a, b := w.b, f := 0, s := w.s, m := w.m }
  laneInstr s (guardX w.m) w.m w.s.toNat (w3Locs w3 1 1 0) fun c =>
    c.mapPred (guardX w.m) 4 w.d.toNat fun ln =>
      fCond w.cond.toNat (c.fa f32 w.m (c.l32 ln w.a).toNat) (c.fb f32 w.m (c.b32 ln w3).toNat)

/-- FCLASS.F32 (R239). -/
def execFclassF32 (w : W3) (s : State) : Res := lane3 s w 4 0 fun a _ _ => plain (fClass a)

/-- A special function (R240): the rounding mode is ignored, and CLAMP applies to the result. -/
def special (s : State) (w : W3) (fn : SpecialFn) : Res :=
  laneInstr s (guard3 w) w.m w.s.toNat (w3Locs w 1 0 0) fun c =>
    c.mapSticky (guard3 w) 0 w.d fun ln =>
      let x := c.fa f32 w.m (c.l32 ln w.a).toNat
      let r := fn.eval c.t.launch.ftz x (BitVec.ofNat 32 (f32.encodeExact x))
      ([BitVec.ofNat 32 (f32.clampBits (clampOf w.m) r.1)], r.2)

/-- FRCP.F32 (R240). -/
def execFrcpF32 (w : W3) (s : State) : Res := special s w .rcp
/-- FRSQ.F32 (R240). -/
def execFrsqF32 (w : W3) (s : State) : Res := special s w .rsq
/-- FEXP2.F32 (R240). -/
def execFexp2F32 (w : W3) (s : State) : Res := special s w .exp2
/-- FLOG2.F32 (R240). -/
def execFlog2F32 (w : W3) (s : State) : Res := special s w .log2
/-- FSIN.F32 (R240). -/
def execFsinF32 (w : W3) (s : State) : Res := special s w .sin
/-- FCOS.F32 (R240). -/
def execFcosF32 (w : W3) (s : State) : Res := special s w .cos
/-- FTANH.F32 (R240). -/
def execFtanhF32 (w : W3) (s : State) : Res := special s w .tanh

/-- An F32 encoding converted exactly to F64 (R190). DEDUCED, log entry 72. -/
def f32to64 (x : Word) : DWord := BitVec.ofNat 64 (f64.encodeExact (f32.decode false x.toNat))

/-- A 64-bit F64 lane operand; the literal is an FP32 value (R190, R241). DEDUCED, log entry 72. -/
def Ctx.d64 (c : Ctx) (ln : Lane) (code : BitVec 6) : DWord :=
  if code = 63 then f32to64 c.lit else c.l64 ln code

/-- The b operand of an F64 instruction. DEDUCED, log entry 72. -/
def Ctx.db64 (c : Ctx) (ln : Lane) (w : W3) : DWord := if isUb w.m then c.u w.b else c.d64 ln w.b

/-- The c operand of an F64 instruction, −0 when absent (R225). -/
def Ctx.dc64 (c : Ctx) (ln : Lane) (m : Mods) : DWord :=
  match m.x with
  | some x => if x.hc then c.d64 ln x.c else 0x8000000000000000
  | none => 0x8000000000000000

/-- The two words of a 64-bit value, the low one first. -/
def wordsOf64 (v : DWord) : List Word := [v.setWidth 32, (v >>> 32).setWidth 32]

/-- An F64 instruction (R241). -/
def double3 (s : State) (w : W3) (op : Rounding → FVal → FVal → FVal → Nat × BitVec 7) : Res :=
  laneInstr s (guard3 w) w.m w.s.toNat (w3Locs w 2 2 2) fun c =>
    c.mapSticky (guard3 w) 8 w.d fun ln =>
      let r := op (c.rounding f64 w.m) (c.fa f64 w.m (c.d64 ln w.a).toNat) (c.fb f64 w.m (c.db64 ln w).toNat)
        (c.fc f64 w.m (c.dc64 ln w.m).toNat)
      (wordsOf64 (BitVec.ofNat 64 r.1), r.2)

/-- DADD.F64 (R241). -/
def execDaddF64 (w : W3) (s : State) : Res := double3 s w fun r a b _ => fAdd r a b
/-- DMUL.F64 (R241). -/
def execDmulF64 (w : W3) (s : State) : Res := double3 s w fun r a b _ => fMul r a b
/-- DFMA.F64 (R241). -/
def execDfmaF64 (w : W3) (s : State) : Res := double3 s w (fmaOf w.m)

/-- A paired 16-bit instruction (R242): both elements in the format, their sticky bits together. -/
def half3 (s : State) (w : W3) (f : FFmt) (op : Rounding → FVal → FVal → FVal → Nat × BitVec 7) : Res :=
  laneInstr s (guard3 w) w.m w.s.toNat (w3Locs w 1 1 1) fun c =>
    c.mapSticky (guard3 w) 4 w.d fun ln =>
      let el (i : Nat) : Nat × BitVec 7 :=
        op (c.rounding f w.m) (c.fa f w.m (fieldOf (c.l32 ln w.a) (16 * i) 16))
          (c.fb f w.m (fieldOf (c.b32 ln w) (16 * i) 16))
          (c.fc f w.m (fieldOf (c.c32 ln w.m 0x80008000) (16 * i) 16))
      ([BitVec.ofNat 16 (el 1).1 ++ BitVec.ofNat 16 (el 0).1], (el 0).2 ||| (el 1).2)

/-- HADD2.F16 (R242). -/
def execHadd2F16 (w : W3) (s : State) : Res := half3 s w f16 fun r a b _ => fAdd r a b
/-- HADD2.BF16 (R242). -/
def execHadd2BF16 (w : W3) (s : State) : Res := half3 s w bf16 fun r a b _ => fAdd r a b
/-- HMUL2.F16 (R242). -/
def execHmul2F16 (w : W3) (s : State) : Res := half3 s w f16 fun r a b _ => fMul r a b
/-- HMUL2.BF16 (R242). -/
def execHmul2BF16 (w : W3) (s : State) : Res := half3 s w bf16 fun r a b _ => fMul r a b
/-- HFMA2.F16 (R242). -/
def execHfma2F16 (w : W3) (s : State) : Res := half3 s w f16 (fmaOf w.m)
/-- HFMA2.BF16 (R242). -/
def execHfma2BF16 (w : W3) (s : State) : Res := half3 s w bf16 (fmaOf w.m)

/-- CFMA (R243): complex multiply-add on pairs, the real part low; each component is exact and rounded
once. -/
def execCfma (w : W3) (s : State) : Res :=
  laneInstr s (guard3 w) w.m w.s.toNat (w3Locs w 2 2 2) fun c =>
    c.mapSticky (guard3 w) 4 w.d fun ln =>
      let part (x : DWord) (i : Nat) : Nat := fieldOf x (32 * i) 32
      let a := c.l64 ln w.a
      let b := c.b64 ln w
      let d := c.c64 ln w.m 0x8000000080000000
      let ar := c.fa f32 w.m (part a 0)
      let ai := c.fa f32 w.m (part a 1)
      let br := c.fb f32 w.m (part b 0)
      let bi := c.fb f32 w.m (part b 1)
      let cr := c.fc f32 w.m (part d 0)
      let ci := c.fc f32 w.m (part d 1)
      let r := c.rounding f32 w.m
      let re := withSnan [ar, ai, br, bi, cr] (r.sumOf [ar.mul br, (ai.mul bi).map (·.modify false true), some cr])
      let im := withSnan [ar, ai, br, bi, ci] (r.sumOf [ar.mul bi, ai.mul br, some ci])
      ([BitVec.ofNat 32 re.1, BitVec.ofNat 32 im.1], re.2 ||| im.2)

/-! ### CVT (R244) -/

/-- The format of a floating type code 0 to 3. -/
def cvtFmt (t : Nat) : FFmt := if t = 0 then f32 else if t = 1 then f16 else if t = 2 then bf16 else f64

/-- The bounds of an integer type code 4 to 7. -/
def cvtBounds (t : Nat) : Int × Int :=
  if t = 4 then (-2147483648, 2147483647) else if t = 5 then (0, 4294967295)
  else if t = 6 then (-9223372036854775808, 9223372036854775807) else (0, 18446744073709551615)

/-- Rounds an exact value to an integer, and whether it is inexact. -/
def roundInt (mode : RMode) (neg : Bool) (m : Nat) (e : Int) : Int × Bool :=
  let r := roundAt mode neg m e 0 false
  ((if neg then -1 else 1) * (r.1 : Int), r.2)

/-- Float to integer: the nearest bound with NV outside the range, 0 with NV for a NaN (R244). -/
def cvtToInt (mode : RMode) (dt : Nat) (v : FVal) : Int × BitVec 7 :=
  let bd := cvtBounds dt
  match v with
  | .nan _ _ => (0, stNV)
  | .inf n => (if n then bd.1 else bd.2, stNV)
  | .fin n m e =>
    let t := roundInt mode n m e
    if t.1 < bd.1 then (bd.1, stNV) else if bd.2 < t.1 then (bd.2, stNV) else (t.1, stIf t.2 stNX)

/-- Integer to integer: rounded when SCALE is negative, saturated to the destination (R244). -/
def cvtIntInt (mode : RMode) (dt : Nat) (n : Bool) (m : Nat) (e : Int) : Int × BitVec 7 :=
  let bd := cvtBounds dt
  let t := roundInt mode n m e
  let y := min (max t.1 bd.1) bd.2
  (y, stIf t.2 stNX ||| stIf (decide (y ≠ t.1)) stSAT)

/-- The exact value of an integer source. -/
def intVal (t : Nat) (x : DWord) : FVal :=
  let i : Int :=
    if t = 4 then (x.setWidth 32).toInt else if t = 5 then (x.setWidth 32).toNat
    else if t = 6 then x.toInt else x.toNat
  .fin (decide (i < 0)) i.natAbs 0

/-- The exact value of CVT's source after NA and AA; an integer zero has no sign. -/
def Ctx.cvtSource (c : Ctx) (st : Nat) (m : Mods) (x : DWord) : FVal :=
  if st < 4 then c.fa (cvtFmt st) m (x.toNat % 2 ^ (cvtFmt st).width)
  else
    match (intVal st x).modify (aaOf m) (naOf m) with
    | .fin n k e => .fin (n && decide (k ≠ 0)) k e
    | v => v

/-- CVT of one value: the destination's bits and the sticky bits. -/
def Ctx.cvt (c : Ctx) (dt st : Nat) (m : Mods) (x : DWord) : DWord × BitVec 7 :=
  let v := c.cvtSource st m x
  if dt < 4 then
    let r := c.rounding (cvtFmt dt) m
    let y := match v with
      | .nan _ sg => r.nan sg
      | .inf n => r.inf n 0
      | .fin n k e => r.fin n k e false
    (BitVec.ofNat 64 y.1, y.2)
  else
    let v' := match v with
      | .fin n k e => FVal.fin n k (e + scaleOf m)
      | u => u
    if st < 4 then
      let y := cvtToInt (rmodeOf m .rz) dt v'
      (BitVec.ofInt 64 y.1, y.2 ||| stIf v.isSnan stNV)
    else
      match v' with
      | .fin n k e =>
        let y := cvtIntInt (rmodeOf m .rz) dt n k e
        (BitVec.ofInt 64 y.1, y.2)
      | _ => (0, 0)

/-- CVT (R244); b holds the types. -/
def execCvt (w : W3) (s : State) : Res :=
  let dt := w.b.toNat / 8
  let st := w.b.toNat % 8
  laneInstr s (guard3 w) w.m w.s.toNat (fun ln => laneLocs ln w.a (wordsOfType st)) fun c =>
    c.mapSticky (guard3 w) 4 w.d fun ln =>
      let x : DWord :=
        if st = 3 then c.d64 ln w.a
        else if wordsOfType st = 2 then c.l64 ln w.a else (c.l32 ln w.a).setWidth 64
      let r := c.cvt dt st w.m x
      (if wordsOfType dt = 2 then wordsOf64 r.1 else [r.1.setWidth 32], r.2)

/-! ### RNDP (R245) -/

/-- One round of Philox4x32 on (x0, x1, x2, x3). -/
def philoxRound (k0 k1 : Word) (x : Word × Word × Word × Word) : Word × Word × Word × Word :=
  let p : DWord := x.1.setWidth 64 * 0xD2511F53
  let q : DWord := x.2.2.1.setWidth 64 * 0xCD9E8D57
  let h0 : Word := (p >>> 32).setWidth 32
  let h1 : Word := (q >>> 32).setWidth 32
  (h1 ^^^ x.2.1 ^^^ k0, q.setWidth 32, h0 ^^^ x.2.2.2 ^^^ k1, p.setWidth 32)

/-- The remaining rounds, the key stepping before each but the first. -/
def philox : Nat → Word → Word → Word × Word × Word × Word → Word × Word × Word × Word
  | 0, _, _, x => x
  | n + 1, k0, k1, x => philox n (k0 + 0x9E3779B9) (k1 + 0xBB67AE85) (philoxRound k0 k1 x)

/-- RNDP (R245). -/
def execRndp (w : W3) (s : State) : Res :=
  let b1 : BitVec 6 := w.b + 1
  laneInstr s (guard3 w) w.m w.s.toNat (fun ln => laneLocs ln w.a 4 ++ uniLocs w.b ++ uniLocs b1) fun c =>
    c.mapLanes (guard3 w) 0 w.d fun ln =>
      let k := c.s w.b.toNat
      let x := philox 10 (k.setWidth 32) ((k >>> 32).setWidth 32)
        (c.laneWord ln w.a 0, c.laneWord ln w.a 1, c.laneWord ln w.a 2, (c.s b1.toNat).setWidth 32)
      [x.1, x.2.1, x.2.2.1, x.2.2.2]

/-! ### Predicates (R246) -/

/-- A predicate instruction: p[d] ← op p[a] p[b]. -/
def pred3 (s : State) (w : W3) (two : Bool) (op : Bool → Bool → Bool) : Res :=
  let loc (ln : Lane) (i : BitVec 6) : List Loc := if i = 0 then [] else [.p ln.wid i.toNat]
  laneInstr s (guard3 w) w.m w.s.toNat (fun ln => loc ln w.a ++ (if two then loc ln w.b else [])) fun c =>
    c.mapPred (guard3 w) 1 w.d.toNat fun ln => (op (c.p ln.wid w.a.toNat) (c.p ln.wid w.b.toNat), 0)

/-- PAND (R246). -/
def execPand (w : W3) (s : State) : Res := pred3 s w true fun a b => a && b
/-- POR (R246). -/
def execPor (w : W3) (s : State) : Res := pred3 s w true fun a b => a || b
/-- PXOR (R246). -/
def execPxor (w : W3) (s : State) : Res := pred3 s w true fun a b => a != b
/-- PNOT (R246). -/
def execPnot (w : W3) (s : State) : Res := pred3 s w false fun a _ => !a

/-- The locations of a whole predicate word. -/
def predLocs (ln : Lane) : List Loc := (List.range 63).map fun i => .p ln.wid (i + 1)

/-- PMOVW (R246): the predicate word, or the sticky word, cleared by .STKC. -/
def execPmovw (w : W3) (s : State) : Res :=
  laneInstr s (guard3 w) w.m w.s.toNat (fun ln => if w.b = 57 then predLocs ln else []) fun c =>
    let c' := c.mapLanes (guard3 w) 1 w.d fun ln =>
      wordsOf64 (if w.b = 57 then c.predWord ln.wid else (sget 0 c.t.sticky ln.wid).setWidth 64)
    if w.b = 63 ∧ c.lit = 2 then
      (c.exec (guard3 w)).foldl (fun c ln => { c with t := { c.t with sticky := sset 0 c.t.sticky ln.wid 0 } }) c'
    else c'

/-- Writes the predicates of a word that a mask names. -/
def Ctx.setPreds (c : Ctx) (wid : Nat) (v m : DWord) : Nat → Ctx
  | 0 => c
  | n + 1 => (if bitAt m n then c.setP 1 wid n (bitAt v n) else c).setPreds wid v m n

/-- PLDW (R246). -/
def execPldw (w : W3) (s : State) : Res :=
  laneInstr s (guard3 w) w.m w.s.toNat (w3Locs w 2 2 0) fun c =>
    ((c.exec (guard3 w)).map fun ln => (ln, c.l64 ln w.a, c.b64 ln w)).foldl
      (fun c p => c.setPreds p.1.wid p.2.1 p.2.2 64) c

end Sys2Proof.Machine
end

