-- ==== Sys2Proof/Machine/IntArith.lean ====
section
/-! DEFINITION. The integer, logic, shift and select lane instructions (R230 to R234). -/

namespace Sys2Proof.Machine

/-- SHL by an unsigned 32-bit amount (R232). -/
def shlW (a n : Word) : Word := if n.toNat < 32 then a <<< n.toNat else 0
/-- SHR (R232). -/
def shrW (a n : Word) : Word := if n.toNat < 32 then a >>> n.toNat else 0
/-- SAR (R232). -/
def sarW (a n : Word) : Word := a.sshiftRight (if n.toNat < 32 then n.toNat else 31)
/-- ROTL by n mod 32 (R232). -/
def rotlW (a n : Word) : Word := a.rotateLeft (n.toNat % 32)

/-- The count of 1 bits among the low n. -/
def popBits {k : Nat} (a : BitVec k) : Nat → Nat
  | 0 => 0
  | n + 1 => (if bitAt a n then 1 else 0) + popBits a n

/-- The count of leading zeros of the low n bits. -/
def clzBits {k : Nat} (a : BitVec k) : Nat → Nat
  | 0 => 0
  | n + 1 => if bitAt a n then 0 else 1 + clzBits a n

/-- Bit i moved to bit 31 − i (R232). -/
def brevW (a : Word) : Word := a.reverse

/-- BFX (R233). -/
def bfx (signed : Bool) (a ctl : Word) : Word :=
  let p := fieldOf ctl 0 5
  let n := Nat.min (fieldOf ctl 8 6) 32
  let wide : DWord := if signed then a.signExtend 64 else a.setWidth 64
  let f := fieldOf wide p n
  if n = 0 then 0
  else if signed && f.testBit (n - 1) then BitVec.ofInt 32 ((f : Int) - 2 ^ n) else BitVec.ofNat 32 f

/-- BFI (R233). -/
def bfi (a ctl c : Word) : Word :=
  let p := fieldOf ctl 0 5
  let n := Nat.min (fieldOf ctl 8 6) 32
  let m : Word := BitVec.ofNat 32 ((2 ^ n - 1) * 2 ^ p)
  (c &&& ~~~m) ||| ((a <<< p) &&& m)

/-- One byte of PERM (R233). -/
def permByte (x : DWord) (sel : Word) (i : Nat) : Byte :=
  let k := fieldOf sel (4 * i) 4
  let e : Byte := x.extractLsb' (8 * (k % 8)) 8
  if 8 ≤ k then (if e.msb then 0xFF else 0) else e

/-- PERM (R233). -/
def perm (a sel c : Word) : Word :=
  let x : DWord := c ++ a
  permByte x sel 3 ++ permByte x sel 2 ++ permByte x sel 1 ++ permByte x sel 0

/-- The quotient, the remainder and the bad case of a division (R231). -/
def divRem (signed : Bool) (a b : Word) : Word × Word × Bool :=
  if b = 0 then (0xFFFFFFFF, a, true)
  else if signed then
    if a = 0x80000000 ∧ b = 0xFFFFFFFF then (0x80000000, 0, true)
    else (BitVec.ofInt 32 (a.toInt.tdiv b.toInt), BitVec.ofInt 32 (a.toInt.tmod b.toInt), false)
  else (BitVec.ofNat 32 (a.toNat / b.toNat), BitVec.ofNat 32 (a.toNat % b.toNat), false)

/-- A division instruction with its DIV_ZERO trap (R231): `rem` chooses the remainder. -/
def divide (s : State) (w : W3) (signed rem : Bool) : Res :=
  laneTrapAfter s w 0
    (fun a b =>
      let r := divRem signed a b
      (if rem then r.2.1 else r.1, stIf r.2.2 stDZ))
    (fun c =>
      let bad := (c.exec (guard3 w)).filter fun ln => (divRem signed (c.l32 ln w.a) (c.b32 ln w)).2.2
      if c.t.launch.dztrap && !bad.isEmpty then
        some { cause := 0x0107, mask := maskOf (bad.map (·.pos)), completed := true
               next := c.g.pc + BitVec.ofNat 64 (4 * w.m.words) }
      else none)

/-- IADD.I32 (R230). -/
def execIaddI32 (w : W3) (s : State) : Res := lane3 s w 1 0 fun a b _ => intResult (satOf w.m) (a.toInt + b.toInt)
/-- IADD.I32 of an immediate (R230). -/
def execIaddI32Li (w : WI) (s : State) : Res := laneI s w 1 fun a b => intResult (satOf w.m) (a.toInt + b.toInt)
/-- ISUB.I32 (R230). -/
def execIsubI32 (w : W3) (s : State) : Res := lane3 s w 1 0 fun a b _ => intResult (satOf w.m) (a.toInt - b.toInt)
/-- IMUL.I32 (R230). -/
def execImulI32 (w : W3) (s : State) : Res := lane3 s w 4 0 fun a b _ => intResult (satOf w.m) (a.toInt * b.toInt)
/-- IMUL.I32 of an immediate (R230). -/
def execImulI32Li (w : WI) (s : State) : Res := laneI s w 4 fun a b => intResult (satOf w.m) (a.toInt * b.toInt)
/-- IMULH.I32 (R230). -/
def execImulhI32 (w : W3) (s : State) : Res :=
  lane3 s w 4 0 fun a b _ => plain (BitVec.ofInt 32 ((a.toInt * b.toInt) / 2 ^ 32))
/-- IMULH.N32 (R230). -/
def execImulhN32 (w : W3) (s : State) : Res :=
  lane3 s w 4 0 fun a b _ => plain (BitVec.ofNat 32 (a.toNat * b.toNat / 2 ^ 32))
/-- IMAD.I32 (R230). -/
def execImadI32 (w : W3) (s : State) : Res :=
  lane3 s w 4 0 fun a b c => intResult (satOf w.m) (a.toInt * b.toInt + c.toInt)
/-- IABS.I32 (R230). -/
def execIabsI32 (w : W3) (s : State) : Res := lane3 s w 1 0 fun a _ _ => intResult (satOf w.m) (a.toInt.natAbs : Int)
/-- IDIV.I32 (R231). -/
def execIdivI32 (w : W3) (s : State) : Res := divide s w true false
/-- IDIV.N32 (R231). -/
def execIdivN32 (w : W3) (s : State) : Res := divide s w false false
/-- IREM.I32 (R231). -/
def execIremI32 (w : W3) (s : State) : Res := divide s w true true
/-- IREM.N32 (R231). -/
def execIremN32 (w : W3) (s : State) : Res := divide s w false true
/-- IMIN.I32 (R230). -/
def execIminI32 (w : W3) (s : State) : Res := lane3 s w 1 0 fun a b _ => plain (if b.slt a then b else a)
/-- IMIN.N32 (R230). -/
def execIminN32 (w : W3) (s : State) : Res := lane3 s w 1 0 fun a b _ => plain (if b.ult a then b else a)
/-- IMAX.I32 (R230). -/
def execImaxI32 (w : W3) (s : State) : Res := lane3 s w 1 0 fun a b _ => plain (if a.slt b then b else a)
/-- IMAX.N32 (R230). -/
def execImaxN32 (w : W3) (s : State) : Res := lane3 s w 1 0 fun a b _ => plain (if a.ult b then b else a)
/-- AND (R232). -/
def execAnd (w : W3) (s : State) : Res := lane3 s w 1 0 fun a b _ => plain (a &&& b)
/-- AND of an immediate (R232). -/
def execAndLi (w : WI) (s : State) : Res := laneI s w 1 fun a b => plain (a &&& b)
/-- OR (R232). -/
def execOr (w : W3) (s : State) : Res := lane3 s w 1 0 fun a b _ => plain (a ||| b)
/-- OR of an immediate (R232). -/
def execOrLi (w : WI) (s : State) : Res := laneI s w 1 fun a b => plain (a ||| b)
/-- XOR (R232). -/
def execXor (w : W3) (s : State) : Res := lane3 s w 1 0 fun a b _ => plain (a ^^^ b)
/-- XOR of an immediate (R232). -/
def execXorLi (w : WI) (s : State) : Res := laneI s w 1 fun a b => plain (a ^^^ b)
/-- SHL (R232). -/
def execShl (w : W3) (s : State) : Res := lane3 s w 1 0 fun a b _ => plain (shlW a b)
/-- SHL by an immediate (R232). -/
def execShlLi (w : WI) (s : State) : Res := laneI s w 1 fun a b => plain (shlW a b)
/-- SHR (R232). -/
def execShr (w : W3) (s : State) : Res := lane3 s w 1 0 fun a b _ => plain (shrW a b)
/-- SHR by an immediate (R232). -/
def execShrLi (w : WI) (s : State) : Res := laneI s w 1 fun a b => plain (shrW a b)
/-- SAR (R232). -/
def execSar (w : W3) (s : State) : Res := lane3 s w 1 0 fun a b _ => plain (sarW a b)
/-- SAR by an immediate (R232). -/
def execSarLi (w : WI) (s : State) : Res := laneI s w 1 fun a b => plain (sarW a b)
/-- ROTL (R232). -/
def execRotl (w : W3) (s : State) : Res := lane3 s w 1 0 fun a b _ => plain (rotlW a b)
/-- ROTL by an immediate (R232). -/
def execRotlLi (w : WI) (s : State) : Res := laneI s w 1 fun a b => plain (rotlW a b)
/-- POPC (R232). -/
def execPopc (w : W3) (s : State) : Res := lane3 s w 1 0 fun a _ _ => plain (BitVec.ofNat 32 (popBits a 32))
/-- CLZ (R232). -/
def execClz (w : W3) (s : State) : Res := lane3 s w 1 0 fun a _ _ => plain (BitVec.ofNat 32 (clzBits a 32))
/-- BREV (R232). -/
def execBrev (w : W3) (s : State) : Res := lane3 s w 1 0 fun a _ _ => plain (brevW a)
/-- BFX.I32 (R233). -/
def execBfxI32 (w : W3) (s : State) : Res := lane3 s w 1 0 fun a b _ => plain (bfx true a b)
/-- BFX.N32 (R233). -/
def execBfxN32 (w : W3) (s : State) : Res := lane3 s w 1 0 fun a b _ => plain (bfx false a b)
/-- BFI (R233). -/
def execBfi (w : W3) (s : State) : Res := lane3 s w 1 0 fun a b c => plain (bfi a b c)
/-- PERM (R233). -/
def execPerm (w : W3) (s : State) : Res := lane3 s w 1 0 fun a b c => plain (perm a b c)

/-- SEL (R234): [5:3] names the selector predicate; the guard comes only from MODX (R225). -/
def execSel (w : W3) (s : State) : Res :=
  let sel (ln : Lane) : List Loc := if w.f = 0 then [] else [.p ln.wid w.f.toNat]
  laneInstr s (guardX w.m) w.m w.s.toNat (fun ln => w3Locs w 1 1 0 ln ++ sel ln) fun c =>
    c.mapLanes (guardX w.m) 1 w.d fun ln => [if c.p ln.wid w.f.toNat then c.l32 ln w.a else c.b32 ln w]

/-- MOV (R234). -/
def execMov (w : W3) (s : State) : Res := lane3 s w 1 0 fun a _ _ => plain a
/-- MOV of an immediate (R234). -/
def execMovLi (w : WI) (s : State) : Res := laneI s w 1 fun _ b => plain b

/-- MOV.U (R234): b names an s-register without MODX.UB. -/
def execMovU (w : W3) (s : State) : Res :=
  laneInstr s (guard3 w) w.m w.s.toNat (fun _ => uniLocs w.b) fun c =>
    c.mapLanes (guard3 w) 1 w.d fun _ => [(c.u w.b).setWidth 32]

/-- ICMP.I32 (R234). -/
def execIcmpI32 (w : WC) (s : State) : Res :=
  laneC s w 1 fun a b => (intCond w.cond.toNat a.toInt b.toInt, 0)
/-- ICMP.N32 (R234). -/
def execIcmpN32 (w : WC) (s : State) : Res :=
  laneC s w 1 fun a b => (intCond w.cond.toNat a.toNat b.toNat, 0)

end Sys2Proof.Machine
end

