-- ==== Sys2Proof/Machine/Queues.lean ====
section
/-! DEFINITION. Queues (R220 to R223) and child launches (R224). -/

namespace Sys2Proof.Machine

/-- EDGE_MODE with a reason (R223). -/
def Ctx.edgeTrap (c : Ctx) (s : State) (code reason : Nat) : Res :=
  c.trap s { cause := 0x0110, mask := c.g.activeMask, detail := BitVec.ofNat 64 (code + reason * 16) }

/-- A queue instruction on a streaming edge, after the checks on its direction, its edge and its count
(R220, R223). DEDUCED, log entry 43. -/
def queueInstr (w : WE) (s : State) (output : Bool) (f : State → Ctx → Nat → Nat → Edge → Nat → Res) : Res :=
  uniInstr (point := some (if output then 5 else 7)) s (guardYX w.m) w.m 0 (uniLocs w.a) fun s c =>
    let code := w.sub.toNat % 8
    let e := c.t.launch.edge code
    if decide (4 ≤ code) != output then c.edgeTrap s code 7
    else if e = 0xFFFF then c.edgeTrap s code 2
    else
      match s.edge? c.t.part e with
      | none => c.edgeTrap s code 2
      | some x =>
        if !x.streaming then c.edgeTrap s code 1
        else if x.slotcnt < (c.u w.a).toNat then c.edgeTrap s code 4
        else f s c code e x (c.u w.a).toNat

/-- Hands out again the next range that a relaunch has kept (R221): its first index and the team. DEDUCED, log entry 43. -/
def Team.replayRange (t : Team) (code : Nat) (taken : Bool) (n : Nat) : Option (Nat × Team) :=
  match t.ranges.find? fun r => decide (r.edge = code) && (r.taken == taken) && r.replay with
  | none => none
  | some r =>
    let again : List QRange := if n < r.count
      then [{ r with count := n, replay := false }, { r with first := r.first + n, count := r.count - n }]
      else [{ r with replay := false }]
    some (r.first, { t with ranges := t.ranges.flatMap fun q => if q = r then again else [q] })

/-- QPUSH.RES and QPOP.TAKE past their checks (R220, R221). `avail` slots can be drawn from index `idx`, none while the
edge's last change is not written back (R79); `draw` moves the edge's counters. -/
def Ctx.takeSlots (c : Ctx) (s : State) (d : BitVec 6) (code n avail idx : Nat) (taken : Bool) (m : Mods)
    (draw : State → State) (wait : Res) : Res :=
  let done := fun (s : State) (t : Team) (v : Nat) =>
    Host.Outcome.next ((({ c with t := t } : Ctx).setS 0 d.toNat (BitVec.ofNat 64 v)).finish
      (if taken then s.acquire t c.g else s) 0 m.words)
  if n = 0 then done s c.t idx
  else
    match c.t.replayRange code taken n with
    | some (first, t) => if 32 < t.ranges.length then c.edgeTrap s code 6 else done s t first
    | none =>
      if 32 ≤ c.t.ranges.length then c.edgeTrap s code 6
      else if avail < n then wait
      else done (draw s) { c.t with ranges := c.t.ranges ++ [{ edge := code, first := idx, count := n, taken := taken }] } idx

/-- QPUSH.RES (R220, R221). -/
def execQpushRes (w : WE) (s : State) : Res :=
  queueInstr w s true fun s c code e x n =>
    c.takeSlots s w.d code n (if x.wbDue then 0 else x.free) x.tail.toNat false w.m
      (fun s => (s.setEdge c.t.part e { x with tail := x.tail + BitVec.ofNat 64 n, free := x.free - n }).writeBack c.t.part e)
      (c.wait s .queue)

/-- QPOP.TAKE (R220, R221). -/
def execQpopTake (w : WE) (s : State) : Res :=
  queueInstr w s false fun s c code e x n =>
    c.takeSlots s w.d code n (if x.wbDue then 0 else x.fill) x.head.toNat true w.m
      (fun s => (s.setEdge c.t.part e { x with head := x.head + BitVec.ofNat 64 n, fill := x.fill - n }).writeBack c.t.part e)
      (c.waitOrPark s .pop)

/-- Slots of an edge whose publication stands in the buffer. DEDUCED, log entry 43. -/
def Team.pushed (t : Team) (code : Nat) : Nat :=
  t.sb.foldl (fun n e => match e with
    | .push k m => if k = code then n + m else n
    | _ => n) 0

/-- QPUSH.PUB (R220, R221): a release at DEVICE scope. -/
def execQpushPub (w : WE) (s : State) : Res :=
  queueInstr w s true fun s c code _ _ n =>
    if c.t.outstanding code false - c.t.pushed code < n then c.edgeTrap s code 5
    else if n = 0 then .next (c.finish s 0 w.m.words)
    else
      let s1 := s.release c.t c.g
      if c.t.launch.contain then
        c.withBuffer (s1.sbEffect c.t.closeEntries fun t => { t with sb := t.sb ++ [.push code n] }) fun s2 c2 =>
          .next (c2.finish s2 0 w.m.words)
      else
        let r := s1.publishLowest c.t code n
        .next (({ c with t := r.2 } : Ctx).finish r.1 0 w.m.words)

/-- QPOP.REL (R220, R221): in a CONTAIN team it is deferred to the drain. -/
def execQpopRel (w : WE) (s : State) : Res :=
  queueInstr w s false fun s c code _ _ n =>
    if c.t.outstanding code true - sget 0 c.t.relLater code < n then c.edgeTrap s code 5
    else if n = 0 then .next (c.finish s 0 w.m.words)
    else if c.t.launch.contain then
      .next (({ c with t := { c.t with relLater := smod 0 c.t.relLater code (· + n) } } : Ctx).finish s 0 w.m.words)
    else
      let r := s.releaseLowest c.t code n
      .next (({ c with t := r.2 } : Ctx).finish r.1 0 w.m.words)

/-- The first index granted to an instance on a firing edge in a direction (R77, R78). -/
def State.grantOf (s : State) (t : Team) (e : Nat) (output : Bool) : Nat :=
  match s.inst? t.inst with
  | some i => ((i.grants.find? fun g => decide (g.edge = e) && (g.output == output)).map (·.first)).getD 0
  | none => 0

/-- The value of a QPEEK selector (R222). -/
def peekValue (s : State) (c : Ctx) (code e sel : Nat) (x : Edge) (b : DWord) : DWord :=
  match sel with
  | 0 => BitVec.ofNat 64 (s.grantOf c.t e (decide (4 ≤ code)))
  | 1 => x.base + BitVec.ofNat 64 (x.slotsz * (b.toNat % x.slotcnt))
  | 2 => BitVec.ofNat 64 x.fill
  | 3 => BitVec.ofNat 64 x.free
  | 4 => BitVec.ofNat 64 x.slotcnt
  | 5 => BitVec.ofNat 64 x.slotsz
  | _ => if code < 4 then x.head else x.tail

/-- QPEEK (R222, R223). -/
def execQpeek (w : WE) (s : State) : Res :=
  let code := w.sub.toNat % 8
  let sel := w.sub.toNat / 8
  uniInstr s (guardYX w.m) w.m 0 (if sel = 1 then uniLocs w.b else []) fun s c =>
    let e := c.t.launch.edge code
    match (if e = 0xFFFF then none else s.edge? c.t.part e) with
    | none => c.edgeTrap s code 2
    | some x =>
      if sel = 0 ∧ x.streaming = true then c.edgeTrap s code 3
      else .next ((c.setS 1 w.d.toNat (peekValue s c code e sel x (c.u w.b))).finish s 0 w.m.words)

/-- LAUNCH (R74, R84, R224): a full queue is also logged. The refused child has no launch index, and its entry carries
0xFFFFFFFF. DESIGN CHOICE, log entry 92. -/
def execLaunch (w : WE) (s : State) : Res :=
  uniInstr s (guardYX w.m) w.m 0 (uniLocs w.a) fun s c =>
    let a := c.u w.a
    if a.toNat % 64 ≠ 0 then c.trap s { cause := 0x0108, mask := c.g.activeMask, addr := a }
    else
      c.withRead s 0 (c.groupRead s 0 c.t.plainVia a 64) fun s1 bs =>
        let s2 := s1.release c.t c.g
        if c.t.launch.contain then
          c.withBuffer (s2.sbEffect c.t.closeEntries fun t => { t with sb := t.sb ++ [.launch bs] }) fun s3 c3 =>
            .next ((c3.setS 0 w.d.toNat 0xFFFFFFFF00000000).finish s3 0 w.m.words)
        else if s2.childFull c.t.part then
          .next ((c.setS 0 w.d.toNat 0x0A).finish (s2.addLog { platformEntry 0x0A c.t.part 0 0 with launch := 0xFFFFFFFF }) 0 w.m.words)
        else
          .next ((c.setS 0 w.d.toNat (BitVec.ofNat 64 (2 ^ 32 * (s2.childIndex c.t.part)))).finish
            (s2.queueChild c.t.part bs none none none) 0 w.m.words)

end Sys2Proof.Machine
end

