-- ==== Sys2Proof/Machine/Uniform.lean ====
section
/-! DEFINITION. The uniform arithmetic instructions (R247, R248). -/

namespace Sys2Proof.Machine

/-- SSHL, SSHR and SSAR amounts of 64 and more (R247). -/
def shlD (a n : DWord) : DWord := if n.toNat < 64 then a <<< n.toNat else 0
/-- Right shift with zeros. -/
def shrD (a n : DWord) : DWord := if n.toNat < 64 then a >>> n.toNat else 0
/-- Right shift with the sign. -/
def sarD (a n : DWord) : DWord := a.sshiftRight (if n.toNat < 64 then n.toNat else 63)

/-- SADD (R247). -/
def execSadd (w : W3) (s : State) : Res := uni3 s w fun a b _ => a + b
/-- SADD of an immediate (R247). -/
def execSaddYi (w : WI) (s : State) : Res := uniI s w fun a b => a + b
/-- SSUB (R247). -/
def execSsub (w : W3) (s : State) : Res := uni3 s w fun a b _ => a - b
/-- SMUL (R247). -/
def execSmul (w : W3) (s : State) : Res := uni3 s w fun a b _ => a * b
/-- SMAD (R247). -/
def execSmad (w : W3) (s : State) : Res := uni3 s w fun a b c => a * b + c
/-- SAND (R247). -/
def execSand (w : W3) (s : State) : Res := uni3 s w fun a b _ => a &&& b
/-- SAND of an immediate (R247). -/
def execSandYi (w : WI) (s : State) : Res := uniI s w fun a b => a &&& b
/-- SOR (R247). -/
def execSor (w : W3) (s : State) : Res := uni3 s w fun a b _ => a ||| b
/-- SOR of an immediate (R247). -/
def execSorYi (w : WI) (s : State) : Res := uniI s w fun a b => a ||| b
/-- SXOR (R247). -/
def execSxor (w : W3) (s : State) : Res := uni3 s w fun a b _ => a ^^^ b
/-- SXOR of an immediate (R247). -/
def execSxorYi (w : WI) (s : State) : Res := uniI s w fun a b => a ^^^ b
/-- SSHL (R247). -/
def execSshl (w : W3) (s : State) : Res := uni3 s w fun a b _ => shlD a b
/-- SSHL by an immediate (R247). -/
def execSshlYi (w : WI) (s : State) : Res := uniI s w fun a b => shlD a b
/-- SSHR (R247). -/
def execSshr (w : W3) (s : State) : Res := uni3 s w fun a b _ => shrD a b
/-- SSHR by an immediate (R247). -/
def execSshrYi (w : WI) (s : State) : Res := uniI s w fun a b => shrD a b
/-- SSAR (R247). -/
def execSsar (w : W3) (s : State) : Res := uni3 s w fun a b _ => sarD a b
/-- SSAR by an immediate (R247). -/
def execSsarYi (w : WI) (s : State) : Res := uniI s w fun a b => sarD a b
/-- SMIN.I64 (R247). -/
def execSminI64 (w : W3) (s : State) : Res := uni3 s w fun a b _ => if b.slt a then b else a
/-- SMIN.N64 (R247). -/
def execSminN64 (w : W3) (s : State) : Res := uni3 s w fun a b _ => if b.ult a then b else a
/-- SMAX.I64 (R247). -/
def execSmaxI64 (w : W3) (s : State) : Res := uni3 s w fun a b _ => if a.slt b then b else a
/-- SMAX.N64 (R247). -/
def execSmaxN64 (w : W3) (s : State) : Res := uni3 s w fun a b _ => if a.ult b then b else a

/-- SSEL (R247): [5:3] names the selector; the guard comes only from MODX. -/
def execSsel (w : W3) (s : State) : Res :=
  let sel : List Loc := if w.f = 0 then [] else [.g w.f.toNat]
  uniWrite s (guardYX w.m) w.m w.s.toNat (y3Locs w ++ sel) 1 w.d.toNat fun c =>
    if c.gp w.f.toNat then c.u w.a else c.u w.b

/-- SCMP.I64 (R247). -/
def execScmpI64 (w : WC) (s : State) : Res := uniC s w fun a b => intCond w.cond.toNat a.toInt b.toInt
/-- SCMP.N64 (R247). -/
def execScmpN64 (w : WC) (s : State) : Res := uniC s w fun a b => intCond w.cond.toNat a.toNat b.toNat
/-- SMOV (R247); b is null. -/
def execSmov (w : W3) (s : State) : Res :=
  uniWrite s (guardY w) w.m w.s.toNat (uniLocs w.a) 1 w.d.toNat fun c => c.u w.a
/-- SMOV of an immediate (R247); a is null. -/
def execSmovYi (w : WI) (s : State) : Res :=
  uniWrite s (guardYX w.m) w.m w.s.toNat [] 1 w.d.toNat fun _ => imm64 w.imm
/-- SPOPC (R247). -/
def execSpopc (w : W3) (s : State) : Res :=
  uniWrite s (guardY w) w.m w.s.toNat (uniLocs w.a) 1 w.d.toNat fun c => BitVec.ofNat 64 (popBits (c.u w.a) 64)
/-- SCLZ (R247). -/
def execSclz (w : W3) (s : State) : Res :=
  uniWrite s (guardY w) w.m w.s.toNat (uniLocs w.a) 1 w.d.toNat fun c => BitVec.ofNat 64 (clzBits (c.u w.a) 64)

/-- The lane that SLANE reads: the lowest active one, or the lane of an index, when active (R248). -/
def slaneLane (c : Ctx) (side : Nat) (j : DWord) : Option Lane :=
  if j = 0xFFFFFFFFFFFFFFFF then (lanesOn c.t c.g side).head?
  else (lanesOn c.t c.g side).find? fun ln => decide (ln.pos = j.toNat)

/-- The value of SLANE on one side (R248). -/
def slaneValue (c : Ctx) (w : W3) (side : Nat) : DWord :=
  match slaneLane c side (c.u w.b) with
  | some ln => (c.l32 ln w.a).setWidth 64
  | none => 0

/-- SLANE (R248): it waits for a lane register that END named and meets an uncorrectable word of it (R121, R135). Under PROT the two executions of the uniform pipe are compared (R109, R110). DEDUCED, log entry 20. -/
def execSlane (w : W3) (s : State) : Res :=
  uniInstr s (guardY w) w.m w.s.toNat (uniLocs w.b) fun s0 c0 =>
    let lanes := c0.t.sides.flatMap fun sd => (slaneLane c0 sd (c0.u w.b)).toList
    let locs := lanes.flatMap fun ln => laneLocs ln w.a 1
    let c := { c0 with clk := namedDue locs c0.g.hist c0.clk }
    let s := { s0 with clk := c.clk }
    let read := fun (e : ErrorSite) => locs.any fun l => match l with | .v wid r => e.isReg wid r | _ => false
    if c.t.launch.chk && locs.any c.early then c.trap s { cause := 0x0101, mask := c.g.activeMask }
    else if c.t.errors.any read then
      trapRes s { c.t with errors := c.t.errors.filter fun e => !read e } c.g
        { cause := 0x0302, mask := maskOf (lanes.map (·.pos)), kind := 0 }
    else if c.t.launch.prot && decide (slaneValue c w 0 ≠ slaneValue c w 1) then
      c.trap s (sdcTrap 7 (maskOf ((slaneLane c 0 (c.u w.b)).toList.map (·.pos))) 0)
    else .next ((c.setS 0 w.d.toNat (slaneValue c w 0)).finish s w.s.toNat w.m.words)

end Sys2Proof.Machine
end

