-- ==== Sys2Proof/Machine/Dispatch.lean ====
section
/-! DEFINITION. The dispatch of every constructor of `Instr` to its meaning. -/

namespace Sys2Proof.Machine

/-- What one instruction or event does. -/
def exec (i : Instr) (s : State) : Host.Outcome State Fault Refusal :=
  match i with
  | .nop w => Sys2Proof.Machine.execNop w s
  | .iaddI32 w => Sys2Proof.Machine.execIaddI32 w s
  | .iaddI32Li w => Sys2Proof.Machine.execIaddI32Li w s
  | .isubI32 w => Sys2Proof.Machine.execIsubI32 w s
  | .imulI32 w => Sys2Proof.Machine.execImulI32 w s
  | .imulI32Li w => Sys2Proof.Machine.execImulI32Li w s
  | .imulhI32 w => Sys2Proof.Machine.execImulhI32 w s
  | .imulhN32 w => Sys2Proof.Machine.execImulhN32 w s
  | .imadI32 w => Sys2Proof.Machine.execImadI32 w s
  | .iabsI32 w => Sys2Proof.Machine.execIabsI32 w s
  | .idivI32 w => Sys2Proof.Machine.execIdivI32 w s
  | .idivN32 w => Sys2Proof.Machine.execIdivN32 w s
  | .iremI32 w => Sys2Proof.Machine.execIremI32 w s
  | .iremN32 w => Sys2Proof.Machine.execIremN32 w s
  | .iminI32 w => Sys2Proof.Machine.execIminI32 w s
  | .iminN32 w => Sys2Proof.Machine.execIminN32 w s
  | .imaxI32 w => Sys2Proof.Machine.execImaxI32 w s
  | .imaxN32 w => Sys2Proof.Machine.execImaxN32 w s
  | .andL w => Sys2Proof.Machine.execAnd w s
  | .andLi w => Sys2Proof.Machine.execAndLi w s
  | .orL w => Sys2Proof.Machine.execOr w s
  | .orLi w => Sys2Proof.Machine.execOrLi w s
  | .xorL w => Sys2Proof.Machine.execXor w s
  | .xorLi w => Sys2Proof.Machine.execXorLi w s
  | .shl w => Sys2Proof.Machine.execShl w s
  | .shlLi w => Sys2Proof.Machine.execShlLi w s
  | .shr w => Sys2Proof.Machine.execShr w s
  | .shrLi w => Sys2Proof.Machine.execShrLi w s
  | .sar w => Sys2Proof.Machine.execSar w s
  | .sarLi w => Sys2Proof.Machine.execSarLi w s
  | .rotl w => Sys2Proof.Machine.execRotl w s
  | .rotlLi w => Sys2Proof.Machine.execRotlLi w s
  | .popc w => Sys2Proof.Machine.execPopc w s
  | .clz w => Sys2Proof.Machine.execClz w s
  | .brev w => Sys2Proof.Machine.execBrev w s
  | .bfxI32 w => Sys2Proof.Machine.execBfxI32 w s
  | .bfxN32 w => Sys2Proof.Machine.execBfxN32 w s
  | .bfi w => Sys2Proof.Machine.execBfi w s
  | .perm w => Sys2Proof.Machine.execPerm w s
  | .sel w => Sys2Proof.Machine.execSel w s
  | .mov w => Sys2Proof.Machine.execMov w s
  | .movLi w => Sys2Proof.Machine.execMovLi w s
  | .movU w => Sys2Proof.Machine.execMovU w s
  | .icmpI32 w => Sys2Proof.Machine.execIcmpI32 w s
  | .icmpN32 w => Sys2Proof.Machine.execIcmpN32 w s
  | .faddF32 w => Sys2Proof.Machine.execFaddF32 w s
  | .fsubF32 w => Sys2Proof.Machine.execFsubF32 w s
  | .fmulF32 w => Sys2Proof.Machine.execFmulF32 w s
  | .fmulzF32 w => Sys2Proof.Machine.execFmulzF32 w s
  | .ffmaF32 w => Sys2Proof.Machine.execFfmaF32 w s
  | .fminF32 w => Sys2Proof.Machine.execFminF32 w s
  | .fmaxF32 w => Sys2Proof.Machine.execFmaxF32 w s
  | .fcmpF32 w => Sys2Proof.Machine.execFcmpF32 w s
  | .fclassF32 w => Sys2Proof.Machine.execFclassF32 w s
  | .fdivF32 w => Sys2Proof.Machine.execFdivF32 w s
  | .frcpF32 w => Sys2Proof.Machine.execFrcpF32 w s
  | .frsqF32 w => Sys2Proof.Machine.execFrsqF32 w s
  | .fsqrtF32 w => Sys2Proof.Machine.execFsqrtF32 w s
  | .fexp2F32 w => Sys2Proof.Machine.execFexp2F32 w s
  | .flog2F32 w => Sys2Proof.Machine.execFlog2F32 w s
  | .fsinF32 w => Sys2Proof.Machine.execFsinF32 w s
  | .fcosF32 w => Sys2Proof.Machine.execFcosF32 w s
  | .ftanhF32 w => Sys2Proof.Machine.execFtanhF32 w s
  | .daddF64 w => Sys2Proof.Machine.execDaddF64 w s
  | .dmulF64 w => Sys2Proof.Machine.execDmulF64 w s
  | .dfmaF64 w => Sys2Proof.Machine.execDfmaF64 w s
  | .hadd2F16 w => Sys2Proof.Machine.execHadd2F16 w s
  | .hadd2BF16 w => Sys2Proof.Machine.execHadd2BF16 w s
  | .hmul2F16 w => Sys2Proof.Machine.execHmul2F16 w s
  | .hmul2BF16 w => Sys2Proof.Machine.execHmul2BF16 w s
  | .hfma2F16 w => Sys2Proof.Machine.execHfma2F16 w s
  | .hfma2BF16 w => Sys2Proof.Machine.execHfma2BF16 w s
  | .cfma w => Sys2Proof.Machine.execCfma w s
  | .cvt w => Sys2Proof.Machine.execCvt w s
  | .rndp w => Sys2Proof.Machine.execRndp w s
  | .pand w => Sys2Proof.Machine.execPand w s
  | .por w => Sys2Proof.Machine.execPor w s
  | .pxor w => Sys2Proof.Machine.execPxor w s
  | .pnot w => Sys2Proof.Machine.execPnot w s
  | .pmovw w => Sys2Proof.Machine.execPmovw w s
  | .pldw w => Sys2Proof.Machine.execPldw w s
  | .shfl w => Sys2Proof.Machine.execShfl w s
  | .vote w => Sys2Proof.Machine.execVote w s
  | .matchx w => Sys2Proof.Machine.execMatch w s
  | .redx w => Sys2Proof.Machine.execRedx w s
  | .fredx w => Sys2Proof.Machine.execFredx w s
  | .scanx w => Sys2Proof.Machine.execScanx w s
  | .bcast w => Sys2Proof.Machine.execBcast w s
  | .elect w => Sys2Proof.Machine.execElect w s
  | .qscale w => Sys2Proof.Machine.execQscale w s
  | .cvtnPack w => Sys2Proof.Machine.execCvtnPack w s
  | .cvtnExp w => Sys2Proof.Machine.execCvtnExp w s
  | .ld w => Sys2Proof.Machine.execLd w s
  | .st w => Sys2Proof.Machine.execSt w s
  | .lds w => Sys2Proof.Machine.execLds w s
  | .sts w => Sys2Proof.Machine.execSts w s
  | .atom w => Sys2Proof.Machine.execAtom w s
  | .atoms w => Sys2Proof.Machine.execAtoms w s
  | .red w => Sys2Proof.Machine.execRed w s
  | .cas w => Sys2Proof.Machine.execCas w s
  | .fenceT w => Sys2Proof.Machine.execFenceT w s
  | .fenceD w => Sys2Proof.Machine.execFenceD w s
  | .fenceS w => Sys2Proof.Machine.execFenceS w s
  | .lcpy w => Sys2Proof.Machine.execLcpy w s
  | .optaw w => Sys2Proof.Machine.execOptaw w s
  | .shard w => Sys2Proof.Machine.execShard w s
  | .jmpi w => Sys2Proof.Machine.execJmpi w s
  | .calli w => Sys2Proof.Machine.execCalli w s
  | .fork w => Sys2Proof.Machine.execFork w s
  | .fend w => Sys2Proof.Machine.execFend w s
  | .sadd w => Sys2Proof.Machine.execSadd w s
  | .saddYi w => Sys2Proof.Machine.execSaddYi w s
  | .ssub w => Sys2Proof.Machine.execSsub w s
  | .smul w => Sys2Proof.Machine.execSmul w s
  | .smad w => Sys2Proof.Machine.execSmad w s
  | .sand w => Sys2Proof.Machine.execSand w s
  | .sandYi w => Sys2Proof.Machine.execSandYi w s
  | .sor w => Sys2Proof.Machine.execSor w s
  | .sorYi w => Sys2Proof.Machine.execSorYi w s
  | .sxor w => Sys2Proof.Machine.execSxor w s
  | .sxorYi w => Sys2Proof.Machine.execSxorYi w s
  | .sshl w => Sys2Proof.Machine.execSshl w s
  | .sshlYi w => Sys2Proof.Machine.execSshlYi w s
  | .sshr w => Sys2Proof.Machine.execSshr w s
  | .sshrYi w => Sys2Proof.Machine.execSshrYi w s
  | .ssar w => Sys2Proof.Machine.execSsar w s
  | .ssarYi w => Sys2Proof.Machine.execSsarYi w s
  | .sminI64 w => Sys2Proof.Machine.execSminI64 w s
  | .sminN64 w => Sys2Proof.Machine.execSminN64 w s
  | .smaxI64 w => Sys2Proof.Machine.execSmaxI64 w s
  | .smaxN64 w => Sys2Proof.Machine.execSmaxN64 w s
  | .ssel w => Sys2Proof.Machine.execSsel w s
  | .scmpI64 w => Sys2Proof.Machine.execScmpI64 w s
  | .scmpN64 w => Sys2Proof.Machine.execScmpN64 w s
  | .smov w => Sys2Proof.Machine.execSmov w s
  | .smovYi w => Sys2Proof.Machine.execSmovYi w s
  | .spopc w => Sys2Proof.Machine.execSpopc w s
  | .sclz w => Sys2Proof.Machine.execSclz w s
  | .slane w => Sys2Proof.Machine.execSlane w s
  | .bra w => Sys2Proof.Machine.execBra w s
  | .br w => Sys2Proof.Machine.execBr w s
  | .brg w => Sys2Proof.Machine.execBrg w s
  | .call w => Sys2Proof.Machine.execCall w s
  | .ret w => Sys2Proof.Machine.execRet w s
  | .rjoin w => Sys2Proof.Machine.execRjoin w s
  | .yield w => Sys2Proof.Machine.execYield w s
  | .endRun w => Sys2Proof.Machine.execEndRun w s
  | .segset w => Sys2Proof.Machine.execSegset w s
  | .segget w => Sys2Proof.Machine.execSegget w s
  | .barInit w => Sys2Proof.Machine.execBarInit w s
  | .barArv w => Sys2Proof.Machine.execBarArv w s
  | .barWt w => Sys2Proof.Machine.execBarWt w s
  | .barSync w => Sys2Proof.Machine.execBarSync w s
  | .qpushRes w => Sys2Proof.Machine.execQpushRes w s
  | .qpushPub w => Sys2Proof.Machine.execQpushPub w s
  | .qpopTake w => Sys2Proof.Machine.execQpopTake w s
  | .qpopRel w => Sys2Proof.Machine.execQpopRel w s
  | .qpeek w => Sys2Proof.Machine.execQpeek w s
  | .launch w => Sys2Proof.Machine.execLaunch w s
  | .ldu w => Sys2Proof.Machine.execLdu w s
  | .stu w => Sys2Proof.Machine.execStu w s
  | .bcpy w => Sys2Proof.Machine.execBcpy w s
  | .gath w => Sys2Proof.Machine.execGath w s
  | .layx w => Sys2Proof.Machine.execLayx w s
  | .wmrd w => Sys2Proof.Machine.execWmrd w s
  | .wmwait w => Sys2Proof.Machine.execWmwait w s
  | .cpycan w => Sys2Proof.Machine.execCpycan w s
  | .pin w => Sys2Proof.Machine.execPin w s
  | .unpin w => Sys2Proof.Machine.execUnpin w s
  | .hres w => Sys2Proof.Machine.execHres w s
  | .hrel w => Sys2Proof.Machine.execHrel w s
  | .hstat w => Sys2Proof.Machine.execHstat w s
  | .mma w => Sys2Proof.Machine.execMma w s
  | .mmak w => Sys2Proof.Machine.execMmak w s
  | .aclr w => Sys2Proof.Machine.execAclr w s
  | .ald w => Sys2Proof.Machine.execAld w s
  | .ast w => Sys2Proof.Machine.execAst w s
  | .achk w => Sys2Proof.Machine.execAchk w s
  | .pair w => Sys2Proof.Machine.execPair w s
  | .unpair w => Sys2Proof.Machine.execUnpair w s
  | .mmap w => Sys2Proof.Machine.execMmap w s
  | .guide w => Sys2Proof.Machine.execGuide w s
  | .maskp w => Sys2Proof.Machine.execMaskp w s
  | .mmam w => Sys2Proof.Machine.execMmam w s
  | .tokpub w => Sys2Proof.Machine.execTokpub w s
  | .tkissue w => Sys2Proof.Machine.execTkissue w s
  | .tkstat w => Sys2Proof.Machine.execTkstat w s
  | .tkdrop w => Sys2Proof.Machine.execTkdrop w s
  | .tkfeed w => Sys2Proof.Machine.execTkfeed w s
  | .tkredeem w => Sys2Proof.Machine.execTkredeem w s
  | .tkbindVer w => Sys2Proof.Machine.execTkbindVer w s
  | .tkbindOut w => Sys2Proof.Machine.execTkbindOut w s
  | .wpst w => Sys2Proof.Machine.execWpst w s
  | .coll w => Sys2Proof.Machine.execColl w s
  | .publish w => Sys2Proof.Machine.execPublish w s
  | .publishSkip w => Sys2Proof.Machine.execPublishSkip w s
  | .steprd w => Sys2Proof.Machine.execSteprd w s
  | .trap w => Sys2Proof.Machine.execTrap w s
  | .eret w => Sys2Proof.Machine.execEret w s
  | .srd w => Sys2Proof.Machine.execSrd w s
  | .swr w => Sys2Proof.Machine.execSwr w s
  | .icinv w => Sys2Proof.Machine.execIcinv w s
  | .commit w => Sys2Proof.Machine.execCommit w s
  | .texit w => Sys2Proof.Machine.execTexit w s
  | .bkpt w => Sys2Proof.Machine.execBkpt w s
  | .clk w => Sys2Proof.Machine.execClk w s
  | .coldReset => Sys2Proof.Machine.execColdReset s
  | .perstWarmReset => Sys2Proof.Machine.execPerstWarmReset s
  | .functionLevelReset => Sys2Proof.Machine.execFunctionLevelReset s
  | .timestampTick => Sys2Proof.Machine.execTimestampTick s
  | .currentLimiterHold => Sys2Proof.Machine.execCurrentLimiterHold s
  | .governorStepDown => Sys2Proof.Machine.execGovernorStepDown s
  | .governorStepUp => Sys2Proof.Machine.execGovernorStepUp s
  | .functionInitComplete => Sys2Proof.Machine.execFunctionInitComplete s
  | .trainTimeout => Sys2Proof.Machine.execTrainTimeout s
  | .linkDown => Sys2Proof.Machine.execLinkDown s
  | .linkRetrainComplete => Sys2Proof.Machine.execLinkRetrainComplete s
  | .lateTraining => Sys2Proof.Machine.execLateTraining s
  | .hostMemAccess => Sys2Proof.Machine.execHostMemAccess s
  | .intenWrite => Sys2Proof.Machine.execIntenWrite s
  | .intpendClear => Sys2Proof.Machine.execIntpendClear s
  | .mscFlush => Sys2Proof.Machine.execMscFlush s
  | .mscResize => Sys2Proof.Machine.execMscResize s
  | .mscFlushComplete => Sys2Proof.Machine.execMscFlushComplete s
  | .mscMissFill => Sys2Proof.Machine.execMscMissFill s
  | .fillLineSnoop => Sys2Proof.Machine.execFillLineSnoop s
  | .fillLineReread => Sys2Proof.Machine.execFillLineReread s
  | .ringEnable => Sys2Proof.Machine.execRingEnable s
  | .ringEnginePublish => Sys2Proof.Machine.execRingEnginePublish s
  | .ringTailPoll => Sys2Proof.Machine.execRingTailPoll s
  | .flitCrcFail => Sys2Proof.Machine.execFlitCrcFail s
  | .korbenPacketReceive => Sys2Proof.Machine.execKorbenPacketReceive s
  | .topoWrite => Sys2Proof.Machine.execTopoWrite s
  | .ownerWrite => Sys2Proof.Machine.execOwnerWrite s
  | .keyEvict => Sys2Proof.Machine.execKeyEvict s
  | .keyEvictComplete => Sys2Proof.Machine.execKeyEvictComplete s
  | .getVersion => Sys2Proof.Machine.execGetVersion s
  | .getCapabilities => Sys2Proof.Machine.execGetCapabilities s
  | .negotiateAlgorithms => Sys2Proof.Machine.execNegotiateAlgorithms s
  | .getDigests => Sys2Proof.Machine.execGetDigests s
  | .getCertificate => Sys2Proof.Machine.execGetCertificate s
  | .challenge => Sys2Proof.Machine.execChallenge s
  | .getMeasurements => Sys2Proof.Machine.execGetMeasurements s
  | .keyExchange => Sys2Proof.Machine.execKeyExchange s
  | .finish => Sys2Proof.Machine.execFinish s
  | .stateRead => Sys2Proof.Machine.execStateRead s
  | .stateWrite => Sys2Proof.Machine.execStateWrite s
  | .logRead => Sys2Proof.Machine.execLogRead s
  | .logAck => Sys2Proof.Machine.execLogAck s
  | .keyLoad => Sys2Proof.Machine.execKeyLoad s
  | .warmReset => Sys2Proof.Machine.execWarmReset s
  | .floorRaise => Sys2Proof.Machine.execFloorRaise s
  | .graphBind => Sys2Proof.Machine.execGraphBind s
  | .graphBindComplete => Sys2Proof.Machine.execGraphBindComplete s
  | .graphUnbind => Sys2Proof.Machine.execGraphUnbind s
  | .agingInterval => Sys2Proof.Machine.execAgingInterval s
  | .instanceDispatch => Sys2Proof.Machine.execInstanceDispatch s
  | .teamPlace => Sys2Proof.Machine.execTeamPlace s
  | .instanceComplete => Sys2Proof.Machine.execInstanceComplete s
  | .pctlEnWrite => Sys2Proof.Machine.execPctlEnWrite s
  | .preempt => Sys2Proof.Machine.execPreempt s
  | .resume => Sys2Proof.Machine.execResume s
  | .reset => Sys2Proof.Machine.execReset s
  | .partitionHalted => Sys2Proof.Machine.execPartitionHalted s
  | .contextSaveComplete => Sys2Proof.Machine.execContextSaveComplete s
  | .restoreStart => Sys2Proof.Machine.execRestoreStart s
  | .contextRestoreComplete => Sys2Proof.Machine.execContextRestoreComplete s
  | .partitionResetComplete => Sys2Proof.Machine.execPartitionResetComplete s
  | .faultResolve => Sys2Proof.Machine.execFaultResolve s
  | .faultEntryWrite => Sys2Proof.Machine.execFaultEntryWrite s
  | .storeBufferDrain => Sys2Proof.Machine.execStoreBufferDrain s
  | .teamRelaunch => Sys2Proof.Machine.execTeamRelaunch s
  | .runFetch => Sys2Proof.Machine.execRunFetch s
  | .formGroup => Sys2Proof.Machine.execFormGroup s
  | .parkPartialGroup => Sys2Proof.Machine.execParkPartialGroup s
  | .pageWalk => Sys2Proof.Machine.execPageWalk s
  | .tlbInvalidate => Sys2Proof.Machine.execTlbInvalidate s
  | .tlbInvalidateComplete => Sys2Proof.Machine.execTlbInvalidateComplete s
  | .copyUnitLand => Sys2Proof.Machine.execCopyUnitLand s
  | .matrixKStep => Sys2Proof.Machine.execMatrixKStep s
  | .collectiveComplete => Sys2Proof.Machine.execCollectiveComplete s
  | .stepWrite => Sys2Proof.Machine.execStepWrite s
  | .registerWrite => Sys2Proof.Machine.execRegisterWrite s
  | .softError => Sys2Proof.Machine.execSoftError s
  | .resultWrite => Sys2Proof.Machine.execResultWrite s
  | .accessPerformed => Sys2Proof.Machine.execAccessPerformed s
  | .cxlCacheSnoop => Sys2Proof.Machine.execCxlCacheSnoop s
  | .configurationSpaceWrite => Sys2Proof.Machine.execConfigurationSpaceWrite s
  | .dynamicCapacityEvent => Sys2Proof.Machine.execDynamicCapacityEvent s

end Sys2Proof.Machine
end

