-- ==== Sys2Proof/Machine/Turns.lean ====
section
/-! DEFINITION. Turns: which agent acts next, what its turn does, and how an instruction is laid before a
group for the next turn (R4, R128, R131). -/

namespace Sys2Proof.Machine

/-! ### Loads that are performed late (R174)

The pairs LD–LD, LD–ST and LD–RMW are free: a load may be performed after accesses that follow it. A load that passes in a
`late` turn has a value already; an `again` turn performs it anew, until an instruction that reads or writes its registers,
that meets its bytes, or that orders it comes. -/

/-- Whether an operand code may name a register of a load's result, or its `last`. -/
def LateLoad.meets (l : LateLoad) (code : BitVec 6) : Bool :=
  decide (code.toNat = 56) || (decide (code.toNat < l.w.d.toNat + widthRegs (memW l.w.m)) && decide (l.w.d.toNat < code.toNat + 4))

/-- Whether the fields of a lane word leave a load's result alone. -/
def LateLoad.apart (l : LateLoad) (w : W3) : Bool :=
  !(l.meets w.d || l.meets w.a || (l.meets w.b && !(match w.m.x with | some x => x.ub | none => false))
    || (match w.m.x with | some x => x.hc && l.meets x.c | none => false))

/-- What an arithmetic lane instruction without a guard leaves of a load: nothing where it names its registers. -/
def LateLoad.pastLane (l : LateLoad) (i : Instr) : Option LateLoad :=
  let writes := fun (op : Nat) => match rowOf op 0 with
    | some r => decide (op < 0x55) && match r.d, r.f with
      | .dst _, .guard => true
      | .dst _, .none => true
      | _, _ => false
    | none => false
  match i.fields? with
  | some (op, .w3 w) => if writes op && decide (guard3 w = {}) && l.apart w then some { l with isLast := false } else none
  | some (op, .wi w) =>
    if writes op && decide (guardX w.m = {}) && !(l.meets w.d || l.meets w.a) then some { l with isLast := false } else none
  | _ => none

/-- What a memory instruction leaves of a load: nothing where it is a release, names its registers or may meet its bytes,
as their places in a page tell. -/
def LateLoad.pastMem (l : LateLoad) (t : Team) (g : Group) (clk : Nat) (w : W3) (writes : Bool) : Option LateLoad :=
  let c0 : Ctx := { t := t, g := g, clk := clk, lit := w.m.lit.getD 0 }
  let c := { c0 with clk := c0.issueClk (guard3 w) (w3Locs w 1 2 0) }
  let near := fun (a : DWord) => l.lanes.any fun x =>
    overlaps (x.2.toNat % 2 ^ 16) (widthBytes (memW l.w.m)) (a.toNat % 2 ^ 16) (widthBytes (memW w.m))
  if isRel w.m || !l.apart w || (writes && decide (guard3 w ≠ {})) || (lanesOn t g 0).any fun ln => near (c.gAddr ln w) then none
  else some (if writes then { l with isLast := false } else l)

/-- What an instruction leaves of a load that may still be performed later. DEDUCED, log entry 6. -/
def LateLoad.past (l : LateLoad) (t : Team) (g : Group) (clk : Nat) (i : Instr) : Option LateLoad :=
  match i with
  | .st w | .red w => l.pastMem t g clk w false
  | .ld w | .atom w | .cas w => l.pastMem t g clk w true
  | _ => l.pastLane i

/-- The loads of the issuing group that may still be performed after an instruction. -/
def State.settleLate (s : State) (i : Instr) : State :=
  match s.curGroup? with
  | none => s
  | some (t, g) =>
    if g.late.isEmpty then s else s.put t { g with late := g.late.filterMap fun l => l.past t g s.clk i }

/-- A plain load to v-registers that has passed in every lane may be performed again. -/
def State.noteLate (s : State) (w : W3) (t0 : Team) (g0 : Group) (clk : Nat) : State :=
  match s.curGroup? with
  | none => s
  | some (t, g) =>
    let c : Ctx := { t := t0, g := g0, clk := clk, lit := w.m.lit.getD 0 }
    if memOrd w.m = 0 ∧ w.d.toNat < 48 ∧ g.pc = g0.pc + BitVec.ofNat 64 (4 * w.m.words) ∧ g.lanes = g0.lanes then
      s.put t { g with late := g.late ++ [{ w := w, lanes := (c.execVisible (guard3 w)).map fun ln => (ln.fid, c.gAddr ln w) }] }
    else s

/-- The group at a position takes its turn with a plain load, which may then be performed again. DEDUCED, log entry 6. -/
def State.runLate (s : State) (pos : Pos) : Res :=
  match s.prepare pos with
  | .ready (.ld w) s1 =>
    let s2 := s1.settleLate (.ld w)
    (match exec (.ld w) s2, s2.curGroup? with
    | .next s3, some (t, g) => .next (s3.noteLate w t g s3.clk)
    | r, _ => r)
  | .ready _ _ => .next s
  | .spent s1 => .next s1

/-- Writes the result of a load that is performed again: its registers, and `last` while that is its result. -/
def Ctx.lateWords (c : Ctx) (l : LateLoad) (x : LaneRead) : Ctx :=
  let vs := loadWords (memW l.w.m) x.data
  c.t.sides.foldl (fun c sd =>
    let ln : Lane := { x.acc.ln with side := sd, wid := c.t.wid x.acc.ln.fid sd }
    if l.isLast then c.result 0 ln l.w.d vs else c.setWords 0 ln l.w.d.toNat vs) c

/-- A load is performed again, for the fibres that are still in its group; where a lane could not be performed now, its
value stands. DEDUCED, log entry 6. -/
def Ctx.performLate (c : Ctx) (s : State) (l : LateLoad) : State :=
  let size := widthBytes (memW l.w.m)
  let accs := (lanesOn c.t c.g 0).filterMap fun ln =>
    (l.lanes.find? fun x => decide (x.1 = ln.fid)).map fun x => ({ ln := ln, addr := x.2 } : Acc)
  let go := goingLanes (c.xlates s accs .read false)
  let r := (c.afterXlat s go).readLanes c.t c.g.core size (c.loadVia l.w.m) go
  if go.length = accs.length ∧ (go.all fun p => decide (c.t.loadMeets .global 0 p.1.addr.toNat size = .pass)) = true
      ∧ (r.2.any (·.bad)) = false then
    let c1 := r.2.foldl (fun c x => c.lateWords l x) c
    r.1.put c1.t c1.g
  else s.put c.t c.g

/-- The n-th of the loads of the group at a position that may be performed again is. DEDUCED, log entry 6. -/
def State.runAgain (s : State) (pos : Pos) (n : Nat) : State :=
  let s0 := { s with cur := some pos }
  match s0.curGroup? with
  | none => s
  | some (t, g) =>
    match g.late[n]? with
    | some l =>
      if s.pstate t.part = 1 then
        ({ t := t, g := { g with late := g.late.eraseIdx n }, clk := s.clk, lit := l.w.m.lit.getD 0 } : Ctx).performLate s0 l
      else s
    | none => s

/-- A half turn of the group at a position (R169): the first halves of the 16-byte load at which it stands are read. -/
def State.runHalf (s : State) (pos : Pos) : Res :=
  match s.prepare pos with
  | .ready (.ld w) s' => readHalves w s'
  | .ready _ _ => .next s
  | .spent s' => .next s'

/-- One turn of the group at a position: its instruction comes after the loads that may not be performed after it, and a
uniform one takes its slot's uniform issue of the clock (R130). -/
def State.runGroup (s : State) (pos : Pos) : Res :=
  match s.prepare pos with
  | .ready i s' => s'.issueRes (exec i (s'.settleLate i))
  | .spent s' => .next s'

/-- The cores whose former has fibres to seat. -/
def State.formingCores (s : State) : List Nat := ((s.teams.flatMap fun t => t.attic).map (·.core)).eraseDups

/-- The formers act at every clock that has passed, and partial groups that must park do so (R137 to R140). -/
def State.formAll (s : State) : State :=
  let s1 := s.formingCores.foldl State.formCore s
  s1.formingCores.foldl State.parkAll s1

/-- The clock that a turn waits for: the one at which its group may issue (R128, R132). -/
def State.attend (s : State) : Turn → State
  | .group core slot num =>
    match ({ s with cur := some { core := core, slot := slot, num := num } } : State).curGroup? with
    | some (t, g) => if s.issues t g then { s with clk := Nat.max s.clk g.nextIssue } else s
    | none => s
  | _ => s

/-- What the device does of itself before a turn: the formers act at the clocks that have passed (R137), and the
scheduler and the Larder engine perform what nothing holds any more (R18). -/
def State.upkeep (s : State) (a : Turn) : State := (s.attend a).formAll.retryEdges.retrySlots.retryRedeems

/-- Time passes. DESIGN CHOICE, log entry 9. -/
def State.passClocks (s : State) (n : Nat) : State := { s with clk := s.clk + n }

/-- A core's L1 gives up a line, which no rule makes it keep (R151). -/
def State.evictL1 (s : State) (core line : Nat) : State :=
  { s with l1 := s.l1.filter fun l => !(decide (l.core = core) && decide (l.line = line)) }

/-- A core's instruction cache gives up a line (R414). -/
def State.evictCode (s : State) (core line : Nat) : State :=
  { s with code := s.code.filter fun l => !(decide (l.core = core) && decide (l.vline = line)) }

/-- An L2 gives up a pool line (R30). -/
def State.evictPool (s : State) (line : Nat) : State :=
  match s.poolL2.find? fun l => decide (l.line = line) with
  | some l => s.evictPoolLine l
  | none => s

/-- Another agent on the pool reads or writes pool memory, behind the memory-side cache (R28, R168): a whole 64-byte unit
that it writes is poisoned no more (R25). DESIGN CHOICE, log entry 18. -/
def State.poolAccess (s : State) (write : Bool) (pa n : Nat) (data : List Byte) : State :=
  if pa < 2 ^ 40 ∨ 2 ^ 55 < pa + (if write then data.length else n) then s
  else if write then
    { s with pool := ssetList 0 s.pool pa data
             poolPoison := (wholeUnits pa data.length).foldl (fun m x => sset false m x false) s.poolPoison }
  else
    { s with poolReply := some ((List.range n).map fun i => sget 0 s.pool (pa + i), (sectorsOf pa n).any (sget false s.poolPoison)) }

/-- An event: a row of the opcode table without an encoding. The instructions with one reach `exec` only through
a group that has fetched them. DESIGN CHOICE, log entry 17. DESIGN CHOICE, log entry 18. -/
def State.runEvent (s : State) (i : Instr) (r : Request) : Res :=
  match i.fields? with
  | none => exec i { s with request := r }
  | some _ => .next s

/-- One turn. -/
def State.turn (s : State) : Turn → Res
  | .clocks n => .next (s.passClocks n)
  | .group core slot num => s.runGroup { core := core, slot := slot, num := num }
  | .half core slot num => s.runHalf { core := core, slot := slot, num := num }
  | .late core slot num => s.runLate { core := core, slot := slot, num := num }
  | .again core slot num n => .next (s.runAgain { core := core, slot := slot, num := num } n)
  | .event i r => s.runEvent i r
  | .evictL1 core line => .next (s.evictL1 core line)
  | .evictCode core line => .next (s.evictCode core line)
  | .evictTlb n => .next { s with tlb := s.tlb.eraseIdx n }
  | .evictPool line => .next (s.evictPool line)
  | .evictL2 line => .next (s.writeBackLine line)
  | .pool write pa n data => .next (s.poolAccess write pa n data)

/-- The events of partition k that the device makes of itself in the partition's present state. -/
def State.partTurns (s : State) (k : Nat) : List Turn :=
  let p := s.part k
  let ev := fun (b : Bool) (i : Instr) => if b then [Turn.event i { k := k }] else []
  ev p.pendingBind.isSome .graphBindComplete
    ++ ev (decide (s.pstate k = 1)) .instanceDispatch ++ ev (decide (s.pstate k = 1)) .teamPlace
    ++ ev (decide (s.pstate k = 2)) .partitionHalted ++ ev (decide (s.pstate k = 3)) .contextSaveComplete
    ++ ev p.resuming .restoreStart ++ ev (decide (s.pstate k = 5)) .contextRestoreComplete
    ++ ev (decide (s.pstate k = 6)) .partitionResetComplete ++ ev (p.faults.any fun f => !f.written) .faultEntryWrite
    ++ ev (bitAt (s.reg (pidx k 11)) 63) .tlbInvalidateComplete

/-- The turns that a team's groups, copies and exit could take. -/
def Team.turns (t : Team) : List Turn :=
  (t.groups.map fun g => Turn.group t.core t.slot g.num)
    ++ (t.copies.filter fun c => c.2.running).map fun c =>
      Turn.event .copyUnitLand { core := t.core, slot := t.slot, e := c.1 }

/-- The turns that the agents of the device could take of themselves. DESIGN CHOICE, log entry 1. -/
def State.candidates (s : State) : List Turn :=
  (s.teams.flatMap Team.turns)
    ++ ((s.teams.flatMap Team.coresOf).eraseDups.map fun c => Turn.event .formGroup { core := c })
    ++ ((s.teams.filter fun t => t.exiting && t.launch.contain).map fun t =>
          Turn.event .storeBufferDrain { core := t.core, slot := t.slot })
    ++ (s.orphans.flatMap fun t => t.copies.map fun c => Turn.event .copyUnitLand
          { ok := true, addr := BitVec.ofNat 64 t.inst, value := BitVec.ofNat 64 t.index, e := c.1 })
    ++ ((List.range 16).flatMap s.partTurns)
    ++ (if s.posted.isEmpty then [] else [Turn.event .accessPerformed {}])
    ++ (if s.remotes.isEmpty then [] else [Turn.event .accessPerformed { e := 1 }])
    ++ [.clocks 1]

/-- A turn, after the device's upkeep. -/
def State.serve (s : State) (a : Turn) : Res := (s.upkeep a).turn a

/-- The next turn: the agenda's, or else the agents in rotation. DESIGN CHOICE, log entry 1. -/
def State.takeTurn (s : State) : Res :=
  match s.agenda with
  | a :: rest => { s with agenda := rest }.serve a
  | [] =>
    let cs := s.candidates
    { s with beat := s.beat + 1 }.serve (cs.getD (s.beat % cs.length) (.clocks 1))

/-! ### An instruction where the next turn fetches it -/

/-- The address at which the installed group stands. DESIGN CHOICE, log entry 2. -/
def installPc : DWord := 0x400

/-- A launch of one team of one fibre under the widest window. DESIGN CHOICE, log entry 2. -/
def installLaunch : Launch := { entry := installPc, window := 48 }

/-- The group that issues next, with its lane positions. -/
def installGroup : Group :=
  { num := 0, core := 0, pc := installPc, lanes := installLaunch.lanesOf 0, formed := 1, positions := some 0 }

/-- Its team, of instance `id`, on core 0. DESIGN CHOICE, log entry 2. -/
def installTeam (id : Nat) : Team :=
  { core := 0, slot := 0, part := 0, inst := id, index := 0, launch := installLaunch
    groups := [installGroup], live := [0], cores := [0] }

/-- The registers under which a group of core 0 and partition 0 may fetch from page 0: die 0, stack 0 and the
security controller are ready, the partition translates and runs in the world of that page with key 0, and core 0 belongs to that
world. DESIGN CHOICE, log entry 2. -/
def State.installRegs (s : State) : State :=
  let s1 := (s.setReg 0x000 (s.reg 0x000 ||| 0x0000010000000101)).setReg 0x001 (s.reg 0x001 &&& ~~~0x0000010000000101)
  let sec := s1.regionSec 0
  let w : Nat := if sec then 1 else 0
  let s2 := s1.setReg (pidx 0 0) (BitVec.ofNat 64 (2 ^ 31 + w * 2 ^ 30 + 2 ^ 27))
  let s3 := (s2.setReg (pidx 0 2) (s2.reg (pidx 0 2) ||| 1)).setReg (pidx 0 10) (s2.reg (pidx 0 10) ||| 1)
  (s3.setReg 0x0A8 (BitVec.ofNat 64 (2 ^ 7 + w * 2 ^ 6))).setRfield 0x028 0 1 w

/-- Page 0 as a translation that the core holds: present, executable and writable, of the world of page 0. DESIGN CHOICE, log entry 2. -/
def State.installTlb (s : State) : TlbEntry :=
  { core := some 0, die := 0, part := 0, vpn := 0, bits := 16, ver := none
    leaf := if s.regionSec 0 then 0xC800000000000300 else 0xC000000000000300 }

/-- The words of an instruction stored at a free group's program counter, and that group's turn next; no other group of its
core waits in an issue slot. DESIGN CHOICE, log entry 2. -/
def State.install (s : State) (nbits w : Nat) : State :=
  let s1 := s.installRegs
  let bytes := (tableWords nbits w).flatMap fun x => leBytes 4 x.toNat
  let id := s.nextInst
  { s1 with
    mem := ssetList 0 s1.mem installPc.toNat bytes
    poison := sset false s1.poison 32 false
    code := s1.code.filter fun l => decide (l.core ≠ 0)
    tlb := s1.installTlb :: s1.tlb
    teams := installTeam id :: (s1.teams.filter fun t => !(decide (t.core = 0) && decide (t.slot = 0))).map fun t =>
      { t with groups := t.groups.map fun g => if g.core = 0 then { g with seeks := .none } else g }
    uniClk := sset 0 s1.uniClk 0 0
    insts := s1.insts ++ [{ id := id, part := 0, index := 0, launch := installLaunch, placed := 1 }]
    nextInst := id + 1
    agenda := .group 0 0 0 :: s1.agenda }

end Sys2Proof.Machine
end

