-- ==== Sys2Proof/Machine/Step.lean ====
section
/-! DEFINITION. The step of the device, and the placing of an instruction where the next step
fetches. -/

namespace Sys2Proof.Machine

/-- One step of the device: one turn of one agent. DESIGN CHOICE, log entry 1. -/
def step (s : State) : Host.Outcome State Fault Refusal := s.takeTurn

/-- The state with an instruction stored where the next step fetches it, and everything set that lets
a group of partition 0 run it. DESIGN CHOICE, log entry 2. -/
def State.withFetchWord (s : State) (nbits w : Nat) : State := s.install nbits w

end Sys2Proof.Machine
end

