-- ==== Sys2Proof/Safety.lean ====
section
/-! DEFINITION. The terms in which claims about the machine are stated: which group issues, the context in
which its instruction acts, what an instruction writes and what it leaves, and the invariant of the machine. -/

namespace Sys2Proof.Machine

/-! ### Who issues -/

/-- Group g of team t issues in s. -/
abbrev State.issuing (s : State) (t : Team) (g : Group) : Prop := s.curGroup? = some (t, g)

/-- The context in which a lane instruction acts: it issues once the results that END named and that it reads
have been written (R135). -/
def laneCtx (s : State) (t : Team) (g : Group) (gd : Guard) (m : Mods) (locs : Lane → List Loc) : Ctx :=
  { ctxFor s t g m with clk := (ctxFor s t g m).issueClk gd locs }

/-- The context in which a uniform instruction acts. -/
def uniCtx (s : State) (t : Team) (g : Group) (gd : Guard) (m : Mods) (locs : List Loc) : Ctx :=
  { ctxFor s t g m with clk := namedDue ((if gd.idx = 0 then [] else [.g gd.idx]) ++ locs) g.hist s.clk }

/-- The state in which an instruction has acted: its group and team stand in their places, at the clock of its
issue, and everything else is as before. -/
def State.acted (s : State) (clk : Nat) (t : Team) (g : Group) : State := { s with clk := clk }.put t g

/-! ### What an instruction leaves of its group -/

/-- The group has passed an instruction (R131, R132): the program counter passes its words, the run has one more
instruction, and of the rest only the values named by the fields that follow may differ. -/
structure Group.Passed (g g' : Group) (clk stall words : Nat) : Prop where
  pc : g'.pc = g.pc + BitVec.ofNat 64 (4 * words)
  issued : g'.issued = g.issued + 1
  stall : g'.nextIssue = clk + stall + 1
  wait : g'.wait = .none
  run : g'.buf = g.buf ∧ g'.bufPc = g.bufPc
  lanes : g'.num = g.num ∧ g'.core = g.core ∧ g'.lanes = g.lanes ∧ g'.formed = g.formed
  handler : g'.inHandler = g.inHandler

/-- A group at the start of a new run (R131, R134): its loop buffer is empty and the run's own values are gone. -/
structure Group.Jumped (g g' : Group) (clk stall : Nat) (target : DWord) : Prop where
  pc : g'.pc = target
  fresh : g'.buf = [] ∧ g'.issued = 0 ∧ g'.last = [] ∧ g'.temps = []
  stall : g'.nextIssue = clk + stall + 1
  wait : g'.wait = .none
  kept : g'.num = g.num ∧ g'.core = g.core ∧ g'.formed = g.formed ∧ g'.sregs = g.sregs ∧ g'.gpred = g.gpred ∧ g'.seg = g.seg

/-- What readers see of the locations that outlive a run is as before (R134). -/
def sameFlight (g g' : Group) (but : Loc → Prop := fun _ => False) : Prop :=
  ∀ l, l.runLocal = false → ¬ but l → ∀ k x, seenAt k l g'.hist x = seenAt k l g.hist x

/-- The group has gone to a target with all its fibres, and its registers and its team are as before. -/
def State.JumpsTo (s : State) (r : Res) (t : Team) (g : Group) (clk stall : Nat) (target : DWord) : Prop :=
  ∃ g', r = .next (s.acted clk t g') ∧ g.Jumped g' clk stall target ∧ g'.lanes = g.lanes ∧ g'.inHandler = g.inHandler ∧ sameFlight g g'

/-- The two sides of a protected launch agree on what a comparison point compares (R110). -/
def Ctx.Agree (c : Ctx) (gd : Guard) (f : Lane → List DWord) : Prop :=
  c.t.launch.prot = true → ∀ ln ∈ lanesOn c.t c.g 0,
    let sh : Lane := { ln with wid := c.t.wid ln.fid 1, side := 1 }
    c.guard gd ln = true ∨ c.guard gd sh = true → f ln = f sh

/-- The lanes of a group without some fibres. -/
def without (lanes : List (Option Nat)) (gone : Nat → Prop) [DecidablePred gone] : List (Option Nat) :=
  lanes.map fun l => l.bind fun f => if gone f then none else some f

/-- Fibres have parked after the Attic's records, each as FORMABLE at its own address (R125, R136). -/
def State.parksFormable (s : State) (core clk : Nat) (leave : List (Nat × DWord)) (attic attic' : List Parked) : Prop :=
  ∃ new, attic' = attic ++ new ∧ (new.map fun p => { p with slot := 0, hist := [] }) = leave.map fun x =>
    { fid := x.1, core := core, slot := 0, pc := x.2, st := .formable, parked := clk
      count := clk - sget 0 s.dieClk (core / 128) }

/-- A group waits on barrier `b` with no lane that holds a token of the phase in which `t'` has it (R219). -/
def Team.passesBar (t t' : Team) (b : Nat) (u : Group) : Prop :=
  ∃ d, u.barAt = some (b, d) ∧ u.wait = .barrier ∧
    ∀ ln ∈ lanesOn t u 0, barWaits b (t'.bar b) (sget 0 t.win (ln.wid * 64 + d)) = false

/-- The groups that wait on barrier `b` have been judged against its new word (R217, R218). -/
def Team.Judged (t t' : Team) (b : Nat) : Prop :=
  ∃ f : Group → Group, t'.groups = t.groups.map f ∧
    ∀ u, (t.passesBar t' b u → f u = { u with barPass := true }) ∧ (¬ t.passesBar t' b u → f u = u)

/-- A copy has arrived at barrier `b`, as one arrival of BAR.ARV, where `p` says that it arrives; else the barriers, the
store buffer and the groups are as before (R218, R286). -/
def Team.copyArrives (t t' : Team) (p : Prop) (b : Nat) : Prop :=
  (¬ p → t'.barriers = t.barriers ∧ t'.sb = t.sb ∧ t'.groups = t.groups) ∧
  (p → t.Judged t' b ∧ (t.launch.contain = false → t'.sb = t.sb) ∧
    ∀ i, t'.bar i = if i = b then barArrive (t.bar b) 1 else t.bar i)

/-- The link pair of every active lane holds a return address, and nothing else of the team has changed (R208). -/
def linked (t t' : Team) (g : Group) (ret : DWord) : Prop :=
  let lanes := t.sides.flatMap (lanesOn t g)
  let low := t.launch.window - 2
  t' = { t with win := t'.win, errors := t'.errors } ∧
  ∀ k, sget 0 t'.win k =
    if ∃ ln ∈ lanes, k = ln.wid * 64 + low then ret.setWidth 32
    else if ∃ ln ∈ lanes, k = ln.wid * 64 + (low + 1) then (ret >>> 32).setWidth 32
    else sget 0 t.win k

/-! ### What a lane instruction writes -/

/-- The locations that lanes write through a destination code of n words: registers, temporaries, `last` (R189). -/
def destLocs (ls : List Lane) (code : BitVec 6) (n : Nat) : List Loc :=
  ls.flatMap fun ln => .last ln.wid :: (List.range n).filterMap fun i =>
    if code.toNat + i < 48 then some (.v ln.wid (code.toNat + i))
    else if code.toNat + i < 56 then some (.q ln.wid (code.toNat + i - 48)) else none

/-- What the team and group hold at a location that lanes can write. -/
def holds (t : Team) (g : Group) : Loc → DWord
  | .v wid r => (sget 0 t.win (wid * 64 + r)).setWidth 64
  | .q wid i => ((sget none g.temps (wid * 8 + i)).getD 0).setWidth 64
  | .last wid => (sget none g.last wid).getD 0
  | .p wid i => if bitAt (t.predWord wid) i then 1 else 0
  | .s i => sget 0 g.sregs i
  | .g i => if bitAt g.gpred i then 1 else 0

/-- A location is as before: what it holds, and what a reader sees of it at every clock (R133). -/
def sameLoc (t t' : Team) (g g' : Group) (l : Loc) : Prop :=
  holds t' g' l = holds t g l ∧ ∀ k x, seenAt k l g'.hist x = seenAt k l g.hist x

/-- A result lands at a location (R132, R133): from `lat` clocks after the clock of issue a reader sees what the
location holds, and before that what it would have seen without the instruction. -/
def lands (clk lat : Nat) (t : Team) (g g' : Group) (l : Loc) : Prop :=
  ∀ k x, clk + 1 ≤ k → seenAt k l g'.hist x = if clk + lat ≤ k then x else seenAt k l g.hist (holds t g l)

/-- Lanes have written their results (R128, R189, R229): each lane of `ls` whose window no other lane of `ls` shares
holds, in the destination of code `d` and `n` words, in `last` and in its sticky word, what `f` gives it, and the
results land `lat` clocks after issue. Every lane is such a lane in the states that a run reaches. The rest is the
frame: no other register, temporary or sticky word has changed, nor any other field of the team and the group that a
lane result could reach. -/
structure Ctx.Written (c : Ctx) (lat : Nat) (d : BitVec 6) (n : Nat) (ls : List Lane) (f : Lane → List Word × BitVec 7)
    (t' : Team) (g' : Group) : Prop where
  results : ∀ pre ln post, ls = pre ++ ln :: post → (∀ l ∈ pre ++ post, l.wid ≠ ln.wid) →
    (∀ i v, (f ln).1[i]? = some v →
      (d.toNat + i < 48 → sget 0 t'.win (ln.wid * 64 + (d.toNat + i)) = v) ∧
      (48 ≤ d.toNat + i → d.toNat + i < 56 → sget none g'.temps (ln.wid * 8 + (d.toNat + i - 48)) = some v)) ∧
    sget none g'.last ln.wid = some (lastOf (f ln).1) ∧
    sget 0 t'.sticky ln.wid = sget 0 c.t.sticky ln.wid ||| (f ln).2 ∧
    ∀ l ∈ destLocs [ln] d n, lands c.clk lat c.t c.g g' l
  frame : ∀ l, l ∉ destLocs ls d n → (∀ w r, l = .v w r → r < 64) → (∀ w i, l = .q w i → i < 8) →
    sameLoc c.t t' c.g g' l
  sticky : ∀ wid, (∀ ln ∈ ls, ln.wid ≠ wid) → sget 0 t'.sticky wid = sget 0 c.t.sticky wid
  team : t' = { c.t with win := t'.win, sticky := t'.sticky, errors := t'.errors }
  group : g'.sregs = c.g.sregs ∧ g'.gpred = c.g.gpred ∧ g'.seg = c.g.seg ∧ g'.abort = c.g.abort ∧ g'.abortVa = c.g.abortVa

/-- A lane instruction of this guard, these operands and this destination completes with the words and sticky
bits that `f` gives each of the lanes that `sel` names, where its operands raise no trap and `ok` holds; it leaves
everything else, all of memory with it. -/
def LaneWrites (run : State → Res) (gd : Guard) (m : Mods) (stall lat : Nat) (d : BitVec 6) (n : Nat)
    (locs : Lane → List Loc) (f : Ctx → Lane → List Word × BitVec 7)
    (sel : Ctx → List Lane := fun c => c.exec gd) (ok : Ctx → Prop := fun _ => True) : Prop :=
  ∀ s t g, s.issuing t g →
    let c := laneCtx s t g gd m locs
    c.operandTrap gd locs = none → ok c →
    ∃ t' g', run s = .next (s.acted c.clk t' g') ∧ c.Written lat d n (sel c) (f c) t' g' ∧
      g.Passed g' c.clk stall m.words ∧ ∀ a, (s.acted c.clk t' g').homeByte a = s.homeByte a

/-- A lane instruction that writes a predicate completes: predicate `d` of each executing lane's fibre is as `f`
gives it and its other predicates are as before; predicate 0 keeps reading 1 (R123, R234, R239, R246). -/
def LaneSets (run : State → Res) (gd : Guard) (m : Mods) (stall lat d : Nat) (locs : Lane → List Loc)
    (f : Ctx → Lane → Bool × BitVec 7) : Prop :=
  ∀ s t g, s.issuing t g →
    let c := laneCtx s t g gd m locs
    c.operandTrap gd locs = none →
    ∃ t' g', run s = .next (s.acted c.clk t' g') ∧
      (∀ pre ln post, c.exec gd = pre ++ ln :: post → (∀ l ∈ pre ++ post, l.wid ≠ ln.wid) →
        (∀ i < 64, bitAt (t'.predWord ln.wid) i = if i = 0 then true else if i = d then (f c ln).1 else bitAt (t.predWord ln.wid) i) ∧
        sget 0 t'.sticky ln.wid = sget 0 t.sticky ln.wid ||| (f c ln).2 ∧
        (d ≠ 0 → lands c.clk lat t g g' (.p ln.wid d))) ∧
      (∀ wid, (∀ ln ∈ c.exec gd, ln.wid ≠ wid) →
        t'.predWord wid = t.predWord wid ∧ sget 0 t'.sticky wid = sget 0 t.sticky wid) ∧
      (∀ l, (∀ ln ∈ c.exec gd, l ≠ .p ln.wid d) → ∀ k x, seenAt k l g'.hist x = seenAt k l g.hist x) ∧
      t' = { t with preds := t'.preds, sticky := t'.sticky } ∧
      g.Passed g' c.clk stall m.words ∧ g'.sregs = g.sregs ∧ g'.gpred = g.gpred ∧ g'.seg = g.seg ∧
      g'.last = g.last ∧ g'.temps = g.temps ∧ ∀ a, (s.acted c.clk t' g').homeByte a = s.homeByte a

/-! ### What a uniform instruction writes -/

/-- What a uniform instruction does where its guard does not hold (R192): the program counter passes it, and
nothing else changes. -/
def UniPasses (run : State → Res) (gd : Guard) (m : Mods) (stall : Nat) (locs : List Loc) : Prop :=
  ∀ s t g, s.issuing t g →
    let c := uniCtx s t g gd m locs
    c.uniTrap gd locs = none → c.groupGuard gd = false →
    ∃ g', run s = .next (s.acted c.clk t g') ∧ g.Passed g' c.clk stall m.words ∧
      g'.sregs = g.sregs ∧ g'.gpred = g.gpred ∧ g'.seg = g.seg ∧ g'.last = g.last ∧ g'.temps = g.temps ∧ g'.hist = g.hist

/-- A uniform instruction completes with its value in s-register `d` where its guard holds and its two executions
agree (R109), and leaves every other register, every predicate and all of memory (R127, R247). -/
def UniWrites (run : State → Res) (gd : Guard) (m : Mods) (stall lat d : Nat) (locs : List Loc) (f : Ctx → DWord)
    (ok : Ctx → Prop := fun _ => True) : Prop :=
  UniPasses run gd m stall locs ∧
  ∀ s t g, s.issuing t g →
    let c := uniCtx s t g gd m locs
    c.uniTrap gd locs = none → c.groupGuard gd = true → c.uniDiffers = false → ok c →
    ∃ g', run s = .next (s.acted c.clk t g') ∧
      (∀ i, sget 0 g'.sregs i = if i = d then f c else sget 0 g.sregs i) ∧ lands c.clk lat t g g' (.s d) ∧
      (∀ l, l ≠ .s d → ∀ k x, seenAt k l g'.hist x = seenAt k l g.hist x) ∧
      g.Passed g' c.clk stall m.words ∧ g'.gpred = g.gpred ∧ g'.seg = g.seg ∧ g'.last = g.last ∧ g'.temps = g.temps ∧
      ∀ a, (s.acted c.clk t g').homeByte a = s.homeByte a

/-- A uniform compare completes: group predicate `d` is as `f` gives it and the others are as before; group
predicate 0 keeps reading 1 (R127, R247). -/
def UniSets (run : State → Res) (gd : Guard) (m : Mods) (stall lat d : Nat) (locs : List Loc) (f : Ctx → Bool) : Prop :=
  UniPasses run gd m stall locs ∧
  ∀ s t g, s.issuing t g →
    let c := uniCtx s t g gd m locs
    c.uniTrap gd locs = none → c.groupGuard gd = true → c.uniDiffers = false →
    ∃ g', run s = .next (s.acted c.clk t g') ∧
      (∀ i < 8, bitAt g'.gpred i = if i = 0 then bitAt g.gpred 0 else if i = d then f c else bitAt g.gpred i) ∧
      (d ≠ 0 → lands c.clk lat t g g' (.g d)) ∧
      (∀ l, l ≠ .g d → ∀ k x, seenAt k l g'.hist x = seenAt k l g.hist x) ∧
      g.Passed g' c.clk stall m.words ∧ g'.sregs = g.sregs ∧ g'.seg = g.seg ∧ g'.last = g.last ∧ g'.temps = g.temps ∧
      ∀ a, (s.acted c.clk t g').homeByte a = s.homeByte a

/-- The group has passed an instruction and all its registers are as before. -/
def Group.Only (g g' : Group) (clk stall words : Nat) : Prop :=
  g.Passed g' clk stall words ∧ g'.sregs = g.sregs ∧ g'.gpred = g.gpred ∧ g'.seg = g.seg ∧ g'.last = g.last ∧
  g'.temps = g.temps ∧ g'.hist = g.hist

/-- The group has passed an instruction that wrote s-register `d`, and its other registers are as before. -/
def Group.WroteS (g g' : Group) (t : Team) (clk stall words lat d : Nat) (v : DWord) : Prop :=
  g.Passed g' clk stall words ∧
  (∀ i, sget 0 g'.sregs i = if i = d then v else sget 0 g.sregs i) ∧ lands clk lat t g g' (.s d) ∧
  (∀ l, l ≠ .s d → ∀ k x, seenAt k l g'.hist x = seenAt k l g.hist x) ∧
  g'.gpred = g.gpred ∧ g'.seg = g.seg ∧ g'.last = g.last ∧ g'.temps = g.temps

/-- A uniform instruction passes where its guard does not hold, and where it holds, its operands raise no trap and its
two executions agree (R109), `post` says what it does at the clock of its issue (R192). -/
def UniRuns (run : State → Res) (gd : Guard) (m : Mods) (stall : Nat) (locs : List Loc)
    (post : State → Team → Group → Ctx → Res → Prop) : Prop :=
  UniPasses run gd m stall locs ∧
  ∀ s t g, s.issuing t g →
    let c := uniCtx s t g gd m locs
    c.uniTrap gd locs = none → c.groupGuard gd = true → c.uniDiffers = false → post { s with clk := c.clk } t g c (run s)

/-- A trap of every active lane that leaves the group at the instruction. -/
def State.traps (s : State) (t : Team) (g : Group) (r : Res) (cause : Nat) (addr detail : DWord) : Prop :=
  r = .next (s.takeTrap t g { cause := cause, mask := g.activeMask, addr := addr, detail := detail, completed := false })

/-! ### The form of memory -/

/-- The memory of the device and the pool behind its ports are in their canonical form. DESIGN CHOICE, log entry 4. -/
abbrev State.MemoryForm (s : State) : Prop := Memory.wf s.mem ∧ Memory.wf s.pool

/-! ### Accesses to memory -/

/-- The lane of the visible side beside a lane (R109). -/
def Team.visible (t : Team) (ln : Lane) : Lane := { ln with side := 0, wid := t.wid ln.fid 0 }

/-- The executing lanes with their shadows: one result goes to both sides of a lane (R109). -/
def Ctx.bothLanes (c : Ctx) (gd : Guard) : List Lane :=
  (c.execVisible gd).flatMap fun ln => c.t.sides.map fun sd => { ln with side := sd, wid := c.t.wid ln.fid sd }

/-- Where an access of the issuing group goes, when its translation neither traps nor waits (R160, R266). -/
def Ctx.reach (c : Ctx) (s : State) (acc : Access) (remoteOk : Bool) (a : DWord) : Option Dest :=
  match s.xlate (s.coreSec c.g.core) c.g.core c.t.part (s.version c.t) a acc remoteOk with
  | .ok pa leaf lost => some (.local pa leaf lost)
  | .remote o => some (.remote o)
  | _ => none

/-- The sectors of a range hold what the key of a slot encrypted, or what no key has (R56, R63). -/
def State.keyed (s : State) (key pa n : Nat) : Prop :=
  pa < 2 ^ 40 → s.keyLoaded key = true → ∀ sec ∈ sectorsOf pa n, ∀ old, sget none s.seals sec = some old → old = (sget {} s.keys key).pair

/-- The key of a slot has encrypted every sector of a range (R56, R63). -/
def State.sealed (s : State) (key pa n : Nat) : Prop :=
  pa < 2 ^ 40 → s.keyLoaded key = true → ∀ sec ∈ sectorsOf pa n, sget none s.seals sec = some (sget {} s.keys key).pair

/-- The executing lanes reach this device's memory under the keys that encrypted it, and lanes that share a sector
share a key (R56, R63). -/
structure Ctx.Keyed (c : Ctx) (s : State) (gd : Guard) (size : Nat) (dest : Lane → Dest) : Prop where
  slots : ∀ ln ∈ c.execVisible gd, ∀ pa leaf lost, dest ln = .local pa leaf lost → s.keyed (keyOf leaf) pa size
  shared : ∀ ln ∈ c.execVisible gd, ∀ ln' ∈ c.execVisible gd, ∀ pa leaf lost pa' leaf' lost',
    dest ln = .local pa leaf lost → dest ln' = .local pa' leaf' lost' →
    (∃ sec ∈ sectorsOf pa size, sec ∈ sectorsOf pa' size) → keyOf leaf = keyOf leaf'

/-- The global accesses of the executing lanes pass every check of R266: they are aligned, translate to `dest`, and
meet no range of a copy. -/
structure Ctx.Clear (c : Ctx) (s : State) (gd : Guard) (size : Nat) (addr : Lane → DWord) (acc : Access) (remoteOk store : Bool)
    (dest : Lane → Dest) : Prop where
  aligned : ∀ ln ∈ c.execVisible gd, (addr ln).toNat % size = 0 ∧ fieldOf (addr ln) 56 8 = 0
  reach : ∀ ln ∈ c.execVisible gd, c.reach s acc remoteOk (addr ln) = some (dest ln)
  free : ∀ ln ∈ c.execVisible gd,
    (if store then c.t.storeMeets .global 0 (addr ln).toNat size else c.t.loadMeets .global 0 (addr ln).toNat size) = .pass

/-- The scratchpad accesses of the executing lanes pass every check of R266. -/
structure Ctx.ScratchClear (c : Ctx) (gd : Guard) (size : Nat) (addr : Lane → DWord) (store : Bool) : Prop where
  aligned : ∀ ln ∈ c.execVisible gd, (addr ln).toNat % size = 0 ∧ (addr ln).toNat + size ≤ 1024 * c.t.launch.scratch
  free : ∀ ln ∈ c.execVisible gd,
    (if store then c.t.storeMeets .scratch 0 (addr ln).toNat size else c.t.loadMeets .scratch 0 (addr ln).toNat size) = .pass

/-- The lanes' accesses with where they go. -/
def Ctx.going (c : Ctx) (gd : Guard) (addr : Lane → DWord) (dest : Lane → Dest) : List (Acc × Dest) :=
  (c.execVisible gd).map fun ln => ({ ln := ln, addr := addr ln }, dest ln)

/-- The byte that several stores in lane order leave at an address: the last store that covers it (R267). -/
def lastStore (stores : List (Nat × List Byte)) (a : Nat) : Option Byte :=
  (stores.reverse.find? fun p => decide (p.1 ≤ a) && decide (a < p.1 + p.2.length)).bind fun p => p.2[a - p.1]?

/-- Nothing of a team's copies, poison or uncorrectable errors stands in the way of a read of its scratchpad, its
Hamper or its tiles. -/
def Team.Quiet (t : Team) : Prop := t.copies = [] ∧ t.errors = [] ∧ t.scratchPoison = [] ∧ t.hpoison = []

/-- An instruction has changed no tile but one: every other tile keeps its elements and its checksum words
(R318). -/
def otherTilesKept (t t' : Team) (half n : Nat) : Prop :=
  ∀ h m, 256 * h + m ≠ 256 * half + n → t'.tile h m = t.tile h m ∧ t'.checks h m = t.checks h m

/-- What a read of the Larder chapter gives: at the home L2, after the earlier stores of the group (R364). -/
def Ctx.ticketGot (c : Ctx) (s : State) (va : DWord) (n : Nat) : GroupGot :=
  c.groupRead (s.release c.t c.g) 2 .home va n

/-! ### Families of instructions of one shape -/

/-- A three-operand lane instruction of 32-bit operands; an absent c reads `cz` (R187, R225). -/
def Lane3 (mk : W3 → Instr) (lat : Nat) (f : Mods → Word → Word → Word → Word × BitVec 7) : Prop :=
  ∀ w, LaneWrites (exec (mk w)) (guard3 w) w.m w.s.toNat lat w.d 1 (w3Locs w 1 1 1)
    (fun c ln => let r := f w.m (c.l32 ln w.a) (c.b32 ln w) (c.c32 ln w.m 0); ([r.1], r.2))

/-- A lane instruction of an immediate, sign-extended from 9 bits (R187). -/
def LaneImm (mk : WI → Instr) (lat : Nat) (f : Mods → Word → Word → Word × BitVec 7) : Prop :=
  ∀ w, LaneWrites (exec (mk w)) (guardX w.m) w.m w.s.toNat lat w.d 1 (fun ln => laneLocs ln w.a 1)
    (fun c ln => let r := f w.m (c.l32 ln w.a) (w.imm.signExtend 32); ([r.1], r.2))

/-- The operand fields that a compare word shares with a three-operand word (R187). -/
def WC.operands (w : WC) : W3 := { d := w.d, a := w.a, b := w.b, f := 0, s := w.s, m := w.m }

/-- A lane compare of 32-bit operands; the condition is a field of its word (R187, R188). -/
def LaneCmp (mk : WC → Instr) (lat : Nat) (f : Ctx → Mods → Nat → Word → Word → Bool × BitVec 7) : Prop :=
  ∀ w, LaneSets (exec (mk w)) (guardX w.m) w.m w.s.toNat lat w.d.toNat (w3Locs (WC.operands w) 1 1 0)
    (fun c ln => f c w.m w.cond.toNat (c.l32 ln w.a) (c.b32 ln (WC.operands w)))

/-- The result of an exact integer (R230): saturated with the SAT bit under MODA.SAT, and its low 32 bits without. -/
def r230 (m : Mods) (exact : Int) (low : Word) : Word × BitVec 7 :=
  if satOf m then
    if exact < -2147483648 then (0x80000000, stSAT)
    else if 2147483647 < exact then (0x7FFFFFFF, stSAT)
    else (low, 0)
  else (low, 0)

/-- A condition 0 to 5 between integers (R188). -/
def r188 (cond : Nat) (a b : Int) : Bool :=
  [decide (a = b), decide (a ≠ b), decide (a < b), decide (a ≤ b), decide (a > b)].getD cond (decide (a ≥ b))

/-- A float lane instruction of one format's scalars in 32-bit operands (R236, R237), whose operation its word may choose:
one rounding under the launch's FTZ and the word's MODA. -/
def LaneFloatBy (mk : W3 → Instr) (lat : Nat) (op : W3 → Rounding → FVal → FVal → FVal → Nat × BitVec 7) : Prop :=
  ∀ w, LaneWrites (exec (mk w)) (guard3 w) w.m w.s.toNat lat w.d 1 (w3Locs w 1 1 1)
    (fun c ln =>
      let r := op w (c.rounding f32 w.m) (c.fa f32 w.m (c.l32 ln w.a).toNat) (c.fb f32 w.m (c.b32 ln w).toNat)
        (c.fc f32 w.m (c.c32 ln w.m 0x80000000).toNat)
      ([BitVec.ofNat 32 r.1], r.2))

/-- A float lane instruction of one operation. -/
abbrev LaneFloat (mk : W3 → Instr) (lat : Nat) (op : Rounding → FVal → FVal → FVal → Nat × BitVec 7) : Prop :=
  LaneFloatBy mk lat fun _ => op

/-- A uniform three-operand instruction (R192, R247). -/
def Uni3 (mk : W3 → Instr) (f : DWord → DWord → DWord → DWord) : Prop :=
  ∀ w, UniWrites (exec (mk w)) (guardY w) w.m w.s.toNat 1 w.d.toNat (y3Locs w) fun c => f (c.u w.a) (c.u w.b) (c.cU w.m)

/-- A uniform instruction of an immediate (R192, R247). -/
def UniImm (mk : WI → Instr) (f : DWord → DWord → DWord) : Prop :=
  ∀ w, UniWrites (exec (mk w)) (guardYX w.m) w.m w.s.toNat 1 w.d.toNat (uniLocs w.a) fun c => f (c.u w.a) (w.imm.signExtend 64)

/-- A uniform compare (R192, R247). -/
def UniCmp (mk : WC → Instr) (f : Nat → DWord → DWord → Bool) : Prop :=
  ∀ w, UniSets (exec (mk w)) (guardYX w.m) w.m w.s.toNat 1 w.d.toNat (uniLocs w.a ++ uniLocs w.b)
    fun c => f w.cond.toNat (c.u w.a) (c.u w.b)

/-! ### Lane collectives -/

/-- The member mask M of a collective (R252): operand b below the visible width. -/
def Ctx.members (c : Ctx) (w : W3) : DWord := maskOf ((List.range c.t.launch.wv).filter (bitAt (c.u w.b)))

/-- The members whose fibres have left the group since it was formed, X (R252). -/
def Ctx.exited (c : Ctx) (w : W3) : DWord := c.members w &&& c.g.formed &&& ~~~c.g.activeMask

/-- The contributors of a collective on every side: its executing members (R252, R254). -/
def Ctx.contributors (c : Ctx) (w : W3) : List Lane :=
  (c.exec (guardX w.m)).filter fun ln => bitAt (c.members w) ln.pos

/-- The contributors of a lane's segment, on its side, in ascending order (R253, R254). -/
def Ctx.peersOf (c : Ctx) (w : W3) (ln : Lane) : List Lane :=
  let z := c.g.segSize c.t.launch.wv
  (c.contributors w).filter fun q => decide (q.side = ln.side) && decide (q.pos / z = ln.pos / z)

/-- The locations that a collective reads: a of `na` words and c of `nc`. -/
def collectiveLocs (w : W3) (na nc : Nat) (ln : Lane) : List Loc := laneLocs ln w.a na ++ cLocs w.m ln nc

/-- A collective completes where no member has exited and no lane's operands raise a trap, whatever its guard: each contributor receives the n words that `f` computes from
the contributors of its segment, and no other lane is written (R252 to R255). -/
def LaneCollective (mk : W3 → Instr) (na nc n : W3 → Nat) (f : Ctx → W3 → List Lane → Lane → List Word × BitVec 7) : Prop :=
  ∀ w, LaneWrites (exec (mk w)) (guardX w.m) w.m w.s.toNat 0 w.d (n w) (collectiveLocs w (na w) (nc w))
    (fun c ln => f c w (c.peersOf w ln) ln) (fun c => c.contributors w) (fun c => c.exited w = 0 ∧ c.operandTrap {} (collectiveLocs w (na w) (nc w)) = none)

/-- The first words of a 64-bit value, low word first. -/
def loHi (v : DWord) : List Word := [v.setWidth 32, (v >>> 32).setWidth 32]

/-- The combination of two nodes of FREDX, where an empty one gives way (R260). -/
def fredxNode (ftz : Bool) (fn : Nat) (u v : Option Nat × BitVec 7) : Option Nat × BitVec 7 :=
  match u.1, v.1 with
  | some x, some y => let z := fredxComb ftz fn x y; (some z.1, z.2 ||| u.2 ||| v.2)
  | none, y => (y, u.2 ||| v.2)
  | x, none => (x, u.2 ||| v.2)

/-- The fixed tree of FREDX over the 2^k positions from `lo` (R260). -/
def fredxOver (ftz : Bool) (fn : Nat) (leaf : Nat → Option Nat) : Nat → Nat → Option Nat × BitVec 7
  | 0, lo => (leaf lo, 0)
  | k + 1, lo => fredxNode ftz fn (fredxOver ftz fn leaf k lo) (fredxOver ftz fn leaf k (lo + 2 ^ k))

/-- The value of an E3M5 block scale (R299): unsigned, 3 exponent bits of bias 3, 5 mantissa bits. -/
def e3m5 (code : Nat) : Rat :=
  if code / 32 = 0 then ((code % 32 : Nat) : Rat) / 128
  else ((32 + code % 32 : Nat) : Rat) * 2 ^ (code / 32) / 256

end Sys2Proof.Machine
end

