-- ==== Sys2Proof/WellFormed.lean ====
section
/-! DEFINITION. Well-formed instructions: an encoded instruction is well-formed under a window of
`win` registers when no ILLEGAL reason of R201 applies to it, and it carries a literal word exactly
when one of its fields reads it (R191); where two rows share an opcode, its sub bits are those of its own
row. The events of other agents carry no fields. -/

namespace Sys2Proof

/-- The literal of the fields is present exactly when a field names it. -/
def Fields.litOk (r : Row) (f : Fields) : Bool := f.mods.lit.isSome == f.usesLit r

/-- An instruction is well-formed under a window (R187 to R201): its fields are those of its own row. -/
def Instr.wf (win : Nat) (i : Instr) : Bool :=
  match i.fields? with
  | none => true
  | some (op, f) =>
    match rowOf op f.sub with
    | none => false
    | some r => f.litOk r && decide (r.make f = some i) && (f.reasons r win).isEmpty

/-- The well-formed instructions, as a proposition. -/
abbrev WellFormed (win : Nat) (i : Instr) : Prop := i.wf win = true

end Sys2Proof
end

