-- ==== Sys2Proof/Certificates/Slice0/Obligations.lean ====
section
/-! DEFINITION. The statements about the machine. Each docstring says which rule of the manual a statement
formalises. -/

open Sys2Proof Sys2Proof.Machine

/-! ### Lane arithmetic -/

/-- R230: the add, multiply, absolute, minimum and maximum instructions complete with the exact result's low 32 bits,
or saturated under SAT, and leave everything else. -/
def Obligations.IntegerArithmeticResults : Prop :=
  Lane3 .iaddI32 1 (fun m a b _ => r230 m (a.toInt + b.toInt) (a + b)) ∧
  LaneImm .iaddI32Li 1 (fun m a b => r230 m (a.toInt + b.toInt) (a + b)) ∧
  Lane3 .isubI32 1 (fun m a b _ => r230 m (a.toInt - b.toInt) (a - b)) ∧
  Lane3 .imulI32 4 (fun m a b _ => r230 m (a.toInt * b.toInt) (a * b)) ∧
  LaneImm .imulI32Li 4 (fun m a b => r230 m (a.toInt * b.toInt) (a * b)) ∧
  Lane3 .imadI32 4 (fun m a b c => r230 m (a.toInt * b.toInt + c.toInt) (a * b + c)) ∧
  Lane3 .iabsI32 1 (fun m a _ _ => r230 m a.toInt.natAbs (if a.toInt < 0 then -a else a)) ∧
  Lane3 .imulhI32 4 (fun _ a b _ => (BitVec.ofInt 32 (a.toInt * b.toInt / 2 ^ 32), 0)) ∧
  Lane3 .imulhN32 4 (fun _ a b _ => (BitVec.ofNat 32 (a.toNat * b.toNat / 2 ^ 32), 0)) ∧
  Lane3 .iminI32 1 (fun _ a b _ => (if b.toInt < a.toInt then b else a, 0)) ∧
  Lane3 .iminN32 1 (fun _ a b _ => (if b.toNat < a.toNat then b else a, 0)) ∧
  Lane3 .imaxI32 1 (fun _ a b _ => (if a.toInt < b.toInt then b else a, 0)) ∧
  Lane3 .imaxN32 1 (fun _ a b _ => (if a.toNat < b.toNat then b else a, 0))

/-- R232 and R233: the logic, shift, count and bit-field instructions complete with their results. -/
def Obligations.LogicAndShiftResults : Prop :=
  Lane3 .andL 1 (fun _ a b _ => (a &&& b, 0)) ∧ LaneImm .andLi 1 (fun _ a b => (a &&& b, 0)) ∧
  Lane3 .orL 1 (fun _ a b _ => (a ||| b, 0)) ∧ LaneImm .orLi 1 (fun _ a b => (a ||| b, 0)) ∧
  Lane3 .xorL 1 (fun _ a b _ => (a ^^^ b, 0)) ∧ LaneImm .xorLi 1 (fun _ a b => (a ^^^ b, 0)) ∧
  Lane3 .shl 1 (fun _ a n _ => (a <<< n.toNat, 0)) ∧ LaneImm .shlLi 1 (fun _ a n => (a <<< n.toNat, 0)) ∧
  Lane3 .shr 1 (fun _ a n _ => (a >>> n.toNat, 0)) ∧ LaneImm .shrLi 1 (fun _ a n => (a >>> n.toNat, 0)) ∧
  Lane3 .sar 1 (fun _ a n _ => (a.sshiftRight n.toNat, 0)) ∧ LaneImm .sarLi 1 (fun _ a n => (a.sshiftRight n.toNat, 0)) ∧
  Lane3 .rotl 1 (fun _ a n _ => (a.rotateLeft (n.toNat % 32), 0)) ∧
  LaneImm .rotlLi 1 (fun _ a n => (a.rotateLeft (n.toNat % 32), 0)) ∧
  Lane3 .popc 1 (fun _ a _ _ => (BitVec.ofNat 32 ((List.range 32).countP (bitAt a)), 0)) ∧
  Lane3 .clz 1 (fun _ a _ _ => (BitVec.ofNat 32 (if a = 0 then 32 else 31 - a.toNat.log2), 0)) ∧
  Lane3 .brev 1 (fun _ a _ _ => (a.reverse, 0)) ∧
  Lane3 .bfxI32 1 (fun _ a b _ => (bfx true a b, 0)) ∧ Lane3 .bfxN32 1 (fun _ a b _ => (bfx false a b, 0)) ∧
  Lane3 .bfi 1 (fun _ a b c => (bfi a b c, 0)) ∧ Lane3 .perm 1 (fun _ a b c => (perm a b c, 0))

/-- R231: a division completes with the quotient or the remainder of its operands and sets STICKY.DZ for a bad case,
where DZTRAP is clear or no executing lane has one; otherwise every lane is written first and then DIV_ZERO
traps as a completed instruction, naming the positions of the lanes with bad cases, be they visible or shadow lanes. -/
def Obligations.DivisionResults : Prop :=
  let bad : Bool → Word → Word → Bool := fun sg a b => b = 0 || (sg && a = 0x80000000 && b = 0xFFFFFFFF)
  let result : Bool → Bool → Word → Word → Word := fun sg rem a b =>
    if b = 0 then (if rem then a else 0xFFFFFFFF)
    else if sg then (if rem then a.srem b else a.sdiv b) else (if rem then a.umod b else a.udiv b)
  let badLanes : Bool → W3 → Ctx → List Lane := fun sg w c =>
    (c.exec (guard3 w)).filter fun ln => bad sg (c.l32 ln w.a) (c.b32 ln w)
  ∀ p ∈ [(Instr.idivI32, true, false), (Instr.idivN32, false, false), (Instr.iremI32, true, true), (Instr.iremN32, false, true)],
    let f : W3 → Ctx → Lane → List Word × BitVec 7 := fun w c ln =>
      ([result p.2.1 p.2.2 (c.l32 ln w.a) (c.b32 ln w)], if bad p.2.1 (c.l32 ln w.a) (c.b32 ln w) then stDZ else 0)
    (∀ w, LaneWrites (exec (p.1 w)) (guard3 w) w.m w.s.toNat 0 w.d 1 (w3Locs w 1 1 0) (f w)
      (ok := fun c => c.t.launch.dztrap = false ∨ badLanes p.2.1 w c = [])) ∧
    ∀ w s t g, s.issuing t g →
      let c := laneCtx s t g (guard3 w) w.m (w3Locs w 1 1 0)
      c.operandTrap (guard3 w) (w3Locs w 1 1 0) = none → t.launch.dztrap = true → badLanes p.2.1 w c ≠ [] →
      ∃ t' g', c.Written 0 w.d 1 (c.exec (guard3 w)) (f w c) t' g' ∧ g'.pc = g.pc ∧
        exec (p.1 w) s = .next ({ s with clk := c.clk }.takeTrap t' g'
          { cause := 0x107, mask := maskOf ((badLanes p.2.1 w c).map Lane.pos), addr := 0, detail := 0, completed := true
            next := g.pc + BitVec.ofNat 64 (4 * w.m.words) })

/-- R234: ICMP sets its predicate to the comparison, SEL selects by its predicate, MOV copies. A write of p0 is
discarded. -/
def Obligations.CompareSelectMoveResults : Prop :=
  LaneCmp .icmpI32 1 (fun _ _ k a b => (r188 k a.toInt b.toInt, 0)) ∧
  LaneCmp .icmpN32 1 (fun _ _ k a b => (r188 k a.toNat b.toNat, 0)) ∧
  Lane3 .mov 1 (fun _ a _ _ => (a, 0)) ∧
  LaneImm .movLi 1 (fun _ _ b => (b, 0)) ∧
  (∀ w, LaneWrites (exec (.movU w)) (guard3 w) w.m w.s.toNat 1 w.d 1 (fun _ => uniLocs w.b)
    fun c _ => ([(c.u w.b).setWidth 32], 0)) ∧
  ∀ w, LaneWrites (exec (.sel w)) (guardX w.m) w.m w.s.toNat 1 w.d 1
    (fun ln => w3Locs w 1 1 0 ln ++ if w.f = 0 then [] else [.p ln.wid w.f.toNat])
    fun c ln => ([if c.p ln.wid w.f.toNat then c.l32 ln w.a else c.b32 ln w], 0)

/-- R237 to R239: the F32 instructions complete with the once-rounded result and its sticky bits, FFMA without a third
source with that of FMUL; FMIN, FMAX and FCMP
compare, and FCLASS classifies the stored bits. -/
def Obligations.FloatResults : Prop :=
  LaneFloat .faddF32 4 (fun r a b _ => fAdd r a b) ∧ LaneFloat .fsubF32 4 (fun r a b _ => fAdd r a (b.modify false true)) ∧
  LaneFloat .fmulF32 4 (fun r a b _ => fMul r a b) ∧ LaneFloat .fmulzF32 4 (fun r a b _ => fMulz r a b) ∧
  LaneFloatBy .ffmaF32 4 (fun w => if hasC w.m then fFma else fun r a b _ => fMul r a b) ∧ LaneFloat .fdivF32 0 (fun r a b _ => fDiv r a b) ∧
  LaneFloat .fsqrtF32 0 (fun r a _ _ => fSqrt r a) ∧
  LaneFloat .fminF32 4 (fun r a b _ => fMinMax r false a b) ∧ LaneFloat .fmaxF32 4 (fun r a b _ => fMinMax r true a b) ∧
  Lane3 .fclassF32 4 (fun _ a _ _ => (fClass a, 0)) ∧
  LaneCmp .fcmpF32 4 (fun c m k a b => fCond k (c.fa f32 m a.toNat) (c.fb f32 m b.toNat))

/-- R227 and R240: each of FRCP.F32, FRSQ.F32, FEXP2.F32, FLOG2.F32, FSIN.F32, FCOS.F32 and FTANH.F32 completes: exec
answers a next state, for every group that issues it and every operand that raises no trap (R121, R133), whatever values
the device gives. The special functions write their exact cases and special values, and otherwise the value that the
device gives, which the model leaves free within the manual's bound (log entry 11).
Rests on the model's choices or readings of log entry 11. -/
def Obligations.SpecialFunctionResults : Prop :=
  (∀ (w : W3) (s : State) (t : Team) (g : Group), s.issuing t g →
    let c := laneCtx s t g (guard3 w) w.m (w3Locs w 1 0 0)
    let completes : (W3 → Instr) → Prop := fun mk => ∃ t' g', exec (mk w) s = .next (s.acted c.clk t' g') ∧
      g'.pc = g.pc + BitVec.ofNat 64 (4 * w.m.words)
    c.operandTrap (guard3 w) (w3Locs w 1 0 0) = none →
    completes .frcpF32 ∧ completes .frsqF32 ∧ completes .fexp2F32 ∧ completes .flog2F32 ∧ completes .fsinF32 ∧
    completes .fcosF32 ∧ completes .ftanhF32) ∧
  ∀ p ∈ [(Instr.frcpF32, SpecialFn.rcp), (Instr.frsqF32, .rsq), (Instr.fexp2F32, .exp2), (Instr.flog2F32, .log2),
      (Instr.fsinF32, .sin), (Instr.fcosF32, .cos), (Instr.ftanhF32, .tanh)],
    ∀ w, LaneWrites (exec (p.1 w)) (guard3 w) w.m w.s.toNat 0 w.d 1 (w3Locs w 1 0 0) fun c ln =>
      let x := c.fa f32 w.m (c.l32 ln w.a).toNat
      let r := p.2.eval c.t.launch.ftz x (BitVec.ofNat 32 (f32.encodeExact x))
      ([BitVec.ofNat 32 (f32.clampBits (clampOf w.m) r.1)], r.2)

/-- R241 to R245: the F64 pairs, the paired 16-bit elements, CFMA, CVT and RNDP complete with their results; a fused
multiply-add without a third source gives the product's.
Rests on the model's choices or readings of log entry 72. -/
def Obligations.WideHalfComplexAndRandomResults : Prop :=
  (let fused : W3 → Rounding → FVal → FVal → FVal → Nat × BitVec 7 := fun w => if hasC w.m then fFma else fun r a b _ => fMul r a b
  (∀ p ∈ [(Instr.daddF64, fun _ r a b _ => fAdd r a b), (Instr.dmulF64, fun _ r a b _ => fMul r a b), (Instr.dfmaF64, fused)],
    ∀ w, LaneWrites (exec (p.1 w)) (guard3 w) w.m w.s.toNat 8 w.d 2 (w3Locs w 2 2 2) fun c ln =>
      let r := p.2 w (c.rounding f64 w.m) (c.fa f64 w.m (c.d64 ln w.a).toNat) (c.fb f64 w.m (c.db64 ln w).toNat)
        (c.fc f64 w.m (c.dc64 ln w.m).toNat)
      (wordsOf64 (BitVec.ofNat 64 r.1), r.2)) ∧
  ∀ p ∈ [(Instr.hadd2F16, f16, fun _ r a b _ => fAdd r a b), (Instr.hadd2BF16, bf16, fun _ r a b _ => fAdd r a b),
      (Instr.hmul2F16, f16, fun _ r a b _ => fMul r a b), (Instr.hmul2BF16, bf16, fun _ r a b _ => fMul r a b),
      (Instr.hfma2F16, f16, fused), (Instr.hfma2BF16, bf16, fused)],
    ∀ w, LaneWrites (exec (p.1 w)) (guard3 w) w.m w.s.toNat 4 w.d 1 (w3Locs w 1 1 1) fun c ln =>
      let el := fun i : Nat => p.2.2 w (c.rounding p.2.1 w.m) (c.fa p.2.1 w.m (fieldOf (c.l32 ln w.a) (16 * i) 16))
        (c.fb p.2.1 w.m (fieldOf (c.b32 ln w) (16 * i) 16)) (c.fc p.2.1 w.m (fieldOf (c.c32 ln w.m 0x80008000) (16 * i) 16))
      ([BitVec.ofNat 16 (el 1).1 ++ BitVec.ofNat 16 (el 0).1], (el 0).2 ||| (el 1).2)) ∧
  (∀ w, LaneWrites (exec (.cfma w)) (guard3 w) w.m w.s.toNat 4 w.d 2 (w3Locs w 2 2 2) fun c ln =>
      let r := c.rounding f32 w.m
      let x := fun (v : DWord) (i : Nat) => fieldOf v (32 * i) 32
      let a := fun i => c.fa f32 w.m (x (c.l64 ln w.a) i)
      let b := fun i => c.fb f32 w.m (x (c.b64 ln w) i)
      let d := fun i => c.fc f32 w.m (x (c.c64 ln w.m 0x8000000080000000) i)
      let re := withSnan [a 0, a 1, b 0, b 1, d 0] (r.sumOf [(a 0).mul (b 0), ((a 1).mul (b 1)).map (·.modify false true), some (d 0)])
      let im := withSnan [a 0, a 1, b 0, b 1, d 1] (r.sumOf [(a 0).mul (b 1), (a 1).mul (b 0), some (d 1)])
      ([BitVec.ofNat 32 re.1, BitVec.ofNat 32 im.1], re.2 ||| im.2)) ∧
  (∀ w : W3, LaneWrites (exec (.cvt w)) (guard3 w) w.m w.s.toNat 4 w.d (wordsOfType (w.b.toNat / 8))
    (fun ln => laneLocs ln w.a (wordsOfType (w.b.toNat % 8))) fun c ln =>
      let st := w.b.toNat % 8
      let x := if st = 3 then c.d64 ln w.a else if wordsOfType st = 2 then c.l64 ln w.a else (c.l32 ln w.a).setWidth 64
      let r := c.cvt (w.b.toNat / 8) st w.m x
      (if wordsOfType (w.b.toNat / 8) = 2 then wordsOf64 r.1 else [r.1.setWidth 32], r.2)) ∧
  ∀ w : W3, LaneWrites (exec (.rndp w)) (guard3 w) w.m w.s.toNat 0 w.d 4
    (fun ln => laneLocs ln w.a 4 ++ uniLocs w.b ++ uniLocs (w.b + 1)) fun c ln =>
      let k := c.s w.b.toNat
      let x := philox 10 (k.setWidth 32) ((k >>> 32).setWidth 32)
        (c.laneWord ln w.a 0, c.laneWord ln w.a 1, c.laneWord ln w.a 2, (c.s (w.b + 1).toNat).setWidth 32)
      ([x.1, x.2.1, x.2.2.1, x.2.2.2], 0)

/-- R246: the predicate instructions complete; PMOVW copies the predicate or the sticky word, .STKC then clears the
sticky word, and PLDW replaces the predicates that its mask names. Bit 0 stays 1. -/
def Obligations.PredicateResults : Prop :=
  (∀ p ∈ [(Instr.pand, true, fun a b => a && b), (Instr.por, true, fun a b => a || b), (Instr.pxor, true, fun a b => a != b),
      (Instr.pnot, false, fun a _ => !a)],
    let loc : Lane → BitVec 6 → List Loc := fun ln i => if i = 0 then [] else [.p ln.wid i.toNat]
    ∀ w, LaneSets (exec (p.1 w)) (guard3 w) w.m w.s.toNat 1 w.d.toNat
      (fun ln => loc ln w.a ++ if p.2.1 then loc ln w.b else [])
      fun c ln => (p.2.2 (c.p ln.wid w.a.toNat) (c.p ln.wid w.b.toNat), 0)) ∧
  (∀ w, LaneWrites (exec (.pmovw w)) (guard3 w) w.m w.s.toNat 1 w.d 2 (fun ln => if w.b = 57 then predLocs ln else [])
    (fun c ln => (wordsOf64 (if w.b = 57 then c.predWord ln.wid else (sget 0 c.t.sticky ln.wid).setWidth 64), 0))
    (ok := fun c => ¬ (w.b = 63 ∧ c.lit = 2))) ∧
  (∀ w s t g, s.issuing t g → w.b = 63 → w.m.lit = some 2 →
    let c := laneCtx s t g (guard3 w) w.m fun _ => []
    c.operandTrap (guard3 w) (fun _ => []) = none →
    ∃ t1 t' g', exec (.pmovw w) s = .next (s.acted c.clk t' g') ∧ g.Passed g' c.clk w.s.toNat w.m.words ∧
      c.Written 1 w.d 2 (c.exec (guard3 w)) (fun ln => (wordsOf64 ((sget 0 t.sticky ln.wid).setWidth 64), 0)) t1 g' ∧
      t' = { t1 with sticky := t'.sticky } ∧
      ∀ wid, sget 0 t'.sticky wid = if ∃ ln ∈ c.exec (guard3 w), ln.wid = wid then 0 else sget 0 t.sticky wid) ∧
  ∀ w s t g, s.issuing t g →
    let c := laneCtx s t g (guard3 w) w.m (w3Locs w 2 2 0)
    c.operandTrap (guard3 w) (w3Locs w 2 2 0) = none →
    ∃ t' g', exec (.pldw w) s = .next (s.acted c.clk t' g') ∧ g.Passed g' c.clk w.s.toNat w.m.words ∧
      t' = { t with preds := t'.preds } ∧ g'.sregs = g.sregs ∧
      (∀ wid, (∀ ln ∈ c.exec (guard3 w), ln.wid ≠ wid) → t'.predWord wid = t.predWord wid) ∧
      ∀ pre ln post, c.exec (guard3 w) = pre ++ ln :: post → (∀ l ∈ pre ++ post, l.wid ≠ ln.wid) →
        ∀ i < 64, bitAt (t'.predWord ln.wid) i =
          if i = 0 then true else if bitAt (c.b64 ln w) i then bitAt (c.l64 ln w.a) i else bitAt (t.predWord ln.wid) i

/-! ### Lane collectives -/

/-- R256 to R261: the collectives complete with their results over the contributors of each lane's segment.
R252: a collective of a member whose fibre has left traps MEMBER_EXITED, with the exited members as the mask and
operand b as the detail, and writes no lane.
Rests on the model's choices or readings of log entries 13, 20 and 50. -/
def Obligations.CollectiveResults : Prop :=
  (let one : W3 → Nat := fun _ => 1
  let two : W3 → Nat := fun _ => 2
  let none' : W3 → Nat := fun _ => 0
  let at' : Ctx → Lane → Nat := fun c ln => ln.pos % c.g.segSize c.t.launch.wv
  let op : Nat → Word → Word → Word := fun fn a b =>
    [a + b, if b.toInt < a.toInt then b else a, if b.toNat < a.toNat then b else a, if a.toInt < b.toInt then b else a,
     if a.toNat < b.toNat then b else a, a &&& b, a ||| b, a ^^^ b].getD fn 0
  let beyond : Nat → List Word → Word := fun fn l => match l with
    | [] => 0
    | x :: xs => xs.foldl (op fn) x
  let maskOf' : List Lane → DWord := fun ps => maskOf (ps.map Lane.pos)
  LaneCollective .shfl one one one (fun c w ps ln =>
    let z := c.g.segSize c.t.launch.wv
    let i := at' c ln
    let n := (c.c32 ln w.m 0).toNat
    let j : Option Nat := match w.f.toNat with
      | 0 => some (n % z)
      | 1 => if n > i then none else some (i - n)
      | 2 => if i + n ≥ z then none else some (i + n)
      | _ => if i ^^^ n ≥ z then none else some (i ^^^ n)
    let from' : Lane := match j with
      | some j => (ps.find? fun q => at' c q = j).getD ln
      | none => ln
    ([c.l32 from' w.a], 0)) ∧
  LaneCollective .vote one none' (fun w => if w.f = 2 then 2 else 1) (fun c w ps ln =>
    let t := ps.filter fun q => c.l32 q w.a ≠ 0
    (match w.f.toNat with
      | 0 => [if ∀ q ∈ ps, c.l32 q w.a ≠ 0 then 1 else 0]
      | 1 => [if ∃ q ∈ ps, c.l32 q w.a ≠ 0 then 1 else 0]
      | 2 => loHi (maskOf' t)
      | 3 => [BitVec.ofNat 32 t.length]
      | _ => [if ∀ q ∈ ps, c.l32 q w.a = c.l32 ln w.a then 1 else 0], 0)) ∧
  LaneCollective .matchx (fun w => if bitAt w.f 0 then 2 else 1) none' two (fun c w ps ln =>
    (loHi (maskOf' (ps.filter fun q =>
      if bitAt w.f 0 then c.l64 q w.a = c.l64 ln w.a else c.l32 q w.a = c.l32 ln w.a)), 0)) ∧
  LaneCollective .redx one none' one (fun c w ps _ => ([beyond w.f.toNat (ps.map fun q => c.l32 q w.a)], 0)) ∧
  LaneCollective .scanx one none' one (fun c w ps ln =>
    ([beyond w.f.toNat ((ps.filter fun q => at' c q ≤ at' c ln).map fun q => c.l32 q w.a)], 0)) ∧
  LaneCollective .fredx one none' one (fun c w ps _ =>
    let z := c.g.segSize c.t.launch.wv
    let ftz := c.t.launch.ftz
    let leaf := fun i => (ps.find? fun q => at' c q = i).map fun q =>
      let a := (c.l32 q w.a).toNat
      if ftz ∧ (f32.decode true a).isZero = true then a / 2 ^ 31 * 2 ^ 31 else a
    let r := fredxOver ftz w.f.toNat leaf (z.log2 + 1) 0
    let v := r.1.getD 0
    ([BitVec.ofNat 32 (if (f32.decode false v).isNan then 0x7FC00000 else v)], r.2)) ∧
  LaneCollective .bcast (fun w => if bitAt w.f 1 then 2 else 1) none' (fun w => if bitAt w.f 1 then 2 else 1)
    (fun c w ps ln =>
      let from' := if bitAt w.f 0 then ps.getLastD ln else ps.headD ln
      (if bitAt w.f 1 then loHi (c.l64 from' w.a) else [c.l32 from' w.a], 0)) ∧
  LaneCollective .elect none' none' one (fun _ w ps ln =>
    let from' := if bitAt w.f 0 then ps.getLastD ln else ps.headD ln
    ([if from'.pos = ln.pos then 1 else 0], 0))) ∧
  (∀ p ∈ [(Instr.shfl, (fun _ : W3 => 1), 1), (.vote, fun _ => 1, 0), (.matchx, fun w => if bitAt w.f 0 then 2 else 1, 0), (.redx, fun _ => 1, 0),
      (.scanx, fun _ => 1, 0), (.fredx, fun _ => 1, 0), (.bcast, fun w => if bitAt w.f 1 then 2 else 1, 0), (.elect, fun _ => 0, 0)],
    ∀ w s t g, s.issuing t g →
      let locs := collectiveLocs w (p.2.1 w) p.2.2
      let c := laneCtx s t g (guardX w.m) w.m locs
      c.operandTrap (guardX w.m) locs = none → c.operandTrap {} locs = none → c.exited w ≠ 0 →
      exec (p.1 w) s = .next ({ s with clk := c.clk }.takeTrap t g
        { cause := 0x106, mask := c.exited w, addr := 0, detail := c.u w.b, completed := false }))

/-! ### Narrow formats -/

/-- R313 to R315: QSCALE, CVTN.PACK and CVTN.EXP complete with the block scale, the packed code shifted in from the
top of c, and the code's value in F32. For a finite magnitude above zero and a finite target above zero the scale is the
smallest E3M5 code, 0x01 to 0xFE, whose value is at least their quotient, and 0xFE with SAT above 31; NaNs, infinities and
targets that are not above zero give 0xFF with NV, and a zero magnitude gives 1.0.
Rests on the model's choices or readings of log entry 49. -/
def Obligations.NarrowConversionResults : Prop :=
  (∀ w, LaneWrites (exec (.qscale w)) (guard3 w) w.m w.s.toNat 4 w.d 1 (w3Locs w 1 1 1) fun c ln =>
    let r := qscale c.t.launch.ftz (c.l32 ln w.a) (c.b32 ln w)
    ([r.1], r.2)) ∧
  (∀ w, LaneWrites (exec (.cvtnPack w)) (guardX w.m) w.m w.s.toNat 4 w.d 1 (w3Locs w 1 1 1) fun c ln =>
    let a := (f32.decode c.t.launch.ftz (c.l32 ln w.a).toNat).modify (aaOf w.m) (naOf w.m)
    let q := packCode w.f.toNat (rmodeOf w.m .rne) (satOf w.m) (scaleOf w.m) a (f32.decode c.t.launch.ftz (c.b32 ln w).toNat)
    let n := if w.f = 4 then 4 else 8
    ([c.c32 ln w.m 0 >>> n ||| BitVec.ofNat 32 q.1 <<< (32 - n)], q.2)) ∧
  (∀ w, LaneWrites (exec (.cvtnExp w)) (guardX w.m) w.m w.s.toNat 4 w.d 1 (w3Locs w 1 1 0) fun c ln =>
    let n := if w.f = 4 then 4 else 8
    let j := (c.b32 ln w).toNat % (32 / n)
    ([BitVec.ofNat 32 (f32.encodeExact (narrowValue (w.f.toNat + 2) (fieldOf (c.l32 ln w.a) (n * j) n)))], 0)) ∧
  ∀ ftz a b,
    let x := f32.decode ftz (BitVec.toNat a)
    let y := f32.decode ftz (BitVec.toNat b)
    let r := qscale ftz a b
    (∀ n m e p h, x = .fin n m e → y = .fin false p h → p ≠ 0 →
      let q : Rat := m * 2 ^ e / (p * 2 ^ h)
      (m = 0 → r = (0x60, 0)) ∧
      (m ≠ 0 → q ≤ 31 → r.2 = 0 ∧ 1 ≤ r.1.toNat ∧ r.1.toNat ≤ 0xFE ∧ q ≤ e3m5 r.1.toNat ∧
        ∀ k, 1 ≤ k → k < r.1.toNat → e3m5 k < q) ∧
      (31 < q → r = (0xFE, stSAT))) ∧
    ((x.isNan = true ∨ x = .inf false ∨ x = .inf true) → r = (0xFF, stNV)) ∧
    ((y.isNan = true ∨ y = .inf false ∨ y = .inf true ∨ (∃ h, y = .fin false 0 h) ∨ ∃ p h, y = .fin true p h) →
      r = (0xFF, stNV))

/-! ### Uniform arithmetic -/

/-- R247: the uniform instructions complete with their 64-bit results where their group guard holds, and pass with no
effect where it does not. R248 and R110: SLANE writes the zero-extended operand of the lowest active lane, or of the lane
that b names, and 0 where that lane holds no fibre; under PROT a value that differs in the shadow traps SDC of kind 7 for
that lane.
Rests on the model's choices or readings of log entry 31. -/
def Obligations.UniformResults : Prop :=
  let sh : DWord → DWord → DWord := fun a n => a <<< n.toNat
  let sr : DWord → DWord → DWord := fun a n => a >>> n.toNat
  let sa : DWord → DWord → DWord := fun a n => a.sshiftRight n.toNat
  let lane : Ctx → W3 → Nat → Option Lane := fun c w side =>
    if c.u w.b = 0xFFFFFFFFFFFFFFFF then (lanesOn c.t c.g side).head?
    else (lanesOn c.t c.g side).find? fun ln => ln.pos = (c.u w.b).toNat
  let value : Ctx → W3 → Nat → DWord := fun c w side =>
    match lane c w side with
    | some ln => (c.l32 ln w.a).setWidth 64
    | none => 0
  let settled : Ctx → W3 → Prop := fun c w => ∀ side ∈ c.t.sides, ∀ ln, lane c w side = some ln → ∀ l ∈ laneLocs ln w.a 1,
    (c.t.launch.chk = true → c.early l = false) ∧ (∀ e ∈ c.g.hist, e.named = true → e.loc = l → e.due ≤ c.clk) ∧
    ∀ wid r, l = .v wid r → ∀ e ∈ c.t.errors, e.isReg wid r = false
  Uni3 .sadd (fun a b _ => a + b) ∧ UniImm .saddYi (fun a b => a + b) ∧ Uni3 .ssub (fun a b _ => a - b) ∧
  Uni3 .smul (fun a b _ => a * b) ∧ Uni3 .smad (fun a b c => a * b + c) ∧
  Uni3 .sand (fun a b _ => a &&& b) ∧ UniImm .sandYi (fun a b => a &&& b) ∧
  Uni3 .sor (fun a b _ => a ||| b) ∧ UniImm .sorYi (fun a b => a ||| b) ∧
  Uni3 .sxor (fun a b _ => a ^^^ b) ∧ UniImm .sxorYi (fun a b => a ^^^ b) ∧
  Uni3 .sshl (fun a n _ => sh a n) ∧ UniImm .sshlYi sh ∧ Uni3 .sshr (fun a n _ => sr a n) ∧ UniImm .sshrYi sr ∧
  Uni3 .ssar (fun a n _ => sa a n) ∧ UniImm .ssarYi sa ∧
  Uni3 .sminI64 (fun a b _ => if b.toInt < a.toInt then b else a) ∧ Uni3 .sminN64 (fun a b _ => if b.toNat < a.toNat then b else a) ∧
  Uni3 .smaxI64 (fun a b _ => if a.toInt < b.toInt then b else a) ∧ Uni3 .smaxN64 (fun a b _ => if a.toNat < b.toNat then b else a) ∧
  UniCmp .scmpI64 (fun k a b => r188 k a.toInt b.toInt) ∧ UniCmp .scmpN64 (fun k a b => r188 k a.toNat b.toNat) ∧
  (∀ w, UniWrites (exec (.ssel w)) (guardYX w.m) w.m w.s.toNat 1 w.d.toNat
    (y3Locs w ++ if w.f = 0 then [] else [.g w.f.toNat]) fun c => if c.gp w.f.toNat then c.u w.a else c.u w.b) ∧
  (∀ w, UniWrites (exec (.smov w)) (guardY w) w.m w.s.toNat 1 w.d.toNat (uniLocs w.a) fun c => c.u w.a) ∧
  (∀ w, UniWrites (exec (.smovYi w)) (guardYX w.m) w.m w.s.toNat 1 w.d.toNat [] fun _ => w.imm.signExtend 64) ∧
  (∀ w, UniWrites (exec (.spopc w)) (guardY w) w.m w.s.toNat 1 w.d.toNat (uniLocs w.a)
    fun c => BitVec.ofNat 64 ((List.range 64).countP (bitAt (c.u w.a)))) ∧
  (∀ w, UniWrites (exec (.sclz w)) (guardY w) w.m w.s.toNat 1 w.d.toNat (uniLocs w.a)
    fun c => BitVec.ofNat 64 (if c.u w.a = 0 then 64 else 63 - (c.u w.a).toNat.log2)) ∧
  (∀ w, UniWrites (exec (.slane w)) (guardY w) w.m w.s.toNat 0 w.d.toNat (uniLocs w.b) (fun c => value c w 0)
    fun c => settled c w ∧ (c.t.launch.prot = true → value c w 0 = value c w 1)) ∧
  ∀ w s t g, s.issuing t g →
    let c := uniCtx s t g (guardY w) w.m (uniLocs w.b)
    c.uniTrap (guardY w) (uniLocs w.b) = none → c.groupGuard (guardY w) = true → c.uniDiffers = false → settled c w →
    t.launch.prot = true → value c w 0 ≠ value c w 1 →
    exec (.slane w) s = .next ({ s with clk := c.clk }.takeTrap t g
      { cause := 0x301, mask := maskOf ((lane c w 0).toList.map Lane.pos), addr := 0, kind := 7 })

/-! ### Control flow -/

/-- R206, R207, R210 and R214: NOP reads its guard and passes with no other effect; END, BRA, BRG and CALL end the run and go on with the whole group
at the next instruction, at the target, at the one that the group predicate names, and at the target with the link pair of
every active lane written; a result that END names is read no earlier than it has been written (R135).
R209: JMPI and CALLI move the group to the target that all its active lanes hold, a lane whose guard is false
holding the next instruction's address, CALLI after writing the link pairs; a target that is no place for an instruction
traps ALIGN and targets that differ trap JMPI_SPLIT, both leaving every register.
Rests on the model's choices or readings of log entries 7 and 31. -/
def Obligations.NopEndAndJumpsOfWholeGroups : Prop :=
  (let target : Group → WB → DWord := fun g w => g.pc + w.off.signExtend 64 * 4
  let next : Group → Mods → DWord := fun g m => g.pc + BitVec.ofNat 64 (4 * m.words)
  let named : WEnd → Loc → Prop := fun w l => ∃ n ∈ [w.n0, w.n1, w.n2],
    (n.toNat < 64 ∧ ∃ wid, l = .v wid n.toNat) ∨ (64 ≤ n.toNat ∧ l = .s (n.toNat - 64))
  (∀ w, ∀ s : State, ∀ t g, s.issuing t g →
    let c := laneCtx s t g (guardX w.m) w.m fun _ => []
    c.operandTrap (guardX w.m) (fun _ => []) = none →
    ∃ g', exec (.nop w) s = .next (s.acted c.clk t g') ∧ g.Passed g' c.clk w.s.toNat w.m.words ∧
    g'.sregs = g.sregs ∧ g'.gpred = g.gpred ∧ g'.seg = g.seg ∧ g'.last = g.last ∧ g'.temps = g.temps ∧ g'.hist = g.hist) ∧
  (∀ w, ∀ s : State, ∀ t g, s.issuing t g → ∃ g', exec (.endRun w) s = .next (s.acted s.clk t g') ∧
    g.Jumped g' s.clk 0 (next g w.m) ∧ g'.lanes = g.lanes ∧ sameFlight g g' ∧
    ∀ e ∈ g.hist, named w e.loc → e.loc.runLocal = false → ∀ locs, e.loc ∈ locs → ∀ k, e.due ≤ namedDue locs g'.hist k) ∧
  (∀ w, ∀ s : State, ∀ t g, s.issuing t g → s.JumpsTo (exec (.bra w) s) t g s.clk 0 (target g w)) ∧
  (∀ w : WB, ∀ s : State, ∀ t g, s.issuing t g →
    let i := w.pred.toNat % 8
    let locs : List Loc := if i = 0 then [] else [.g i]
    let c := uniCtx s t g {} w.m locs
    c.uniTrap {} locs = none → c.uniDiffers = false →
    s.JumpsTo (exec (.brg w) s) t g c.clk 0 (if c.gp i = w.n then next g w.m else target g w)) ∧
  ∀ w, ∀ s : State, ∀ t g, s.issuing t g → ∃ t' g', exec (.call w) s = .next (s.acted s.clk t' g') ∧
    g.Jumped g' s.clk 0 (target g w) ∧ g'.lanes = g.lanes ∧
    linked t t' g (g.pc + 4) ∧
    sameFlight g g' fun l => ∃ ln ∈ t.sides.flatMap (lanesOn t g), l = .v ln.wid (t.launch.window - 2) ∨ l = .v ln.wid (t.launch.window - 2 + 1)) ∧
  (∀ p ∈ [(Instr.jmpi, false), (Instr.calli, true)], ∀ w, ∀ s : State, ∀ t g, s.issuing t g →
    let gd := guard3 w
    let locs : Lane → List Loc := fun ln => laneLocs ln w.a 2
    let c := laneCtx s t g gd w.m locs
    let next := g.pc + BitVec.ofNat 64 (4 * w.m.words)
    let T : Lane → DWord := fun ln => if c.guard gd ln then c.l64 ln w.a else next
    let ls := lanesOn t g 0
    let bad := ls.filter fun ln => fieldOf (T ln) 0 2 ≠ 0 ∨ fieldOf (T ln) 56 8 ≠ 0
    c.operandTrap gd locs = none → c.Agree gd (fun ln => [T ln]) →
    ∀ l0, ls.head? = some l0 →
    let away := ls.filter fun ln => T ln ≠ T l0
    (∀ ln, bad.head? = some ln → exec (p.1 w) s = .next ({ s with clk := c.clk }.takeTrap t g
      { cause := 0x108, mask := maskOf (bad.map Lane.pos), addr := T ln, detail := 0, completed := false })) ∧
    (bad = [] → away ≠ [] → exec (p.1 w) s = .next ({ s with clk := c.clk }.takeTrap t g
      { cause := 0x105, mask := maskOf (away.map Lane.pos), addr := T l0, detail := 0, completed := false })) ∧
    (bad = [] → away = [] → p.2 = false → s.JumpsTo (exec (p.1 w) s) t g c.clk w.s.toNat (T l0)) ∧
    (bad = [] → away = [] → p.2 = true → ∃ t' g', exec (p.1 w) s = .next (s.acted c.clk t' g') ∧
      g.Jumped g' c.clk w.s.toNat (T l0) ∧ g'.lanes = g.lanes ∧ linked t t' g next))

/-- R136 and R207: at BR each active lane takes the branch or falls through; where the lanes differ the smaller side
leaves the group, the taken side on a tie, and parks as FORMABLE at its own address, and the others go on.
Rests on the model's choices or readings of log entries 27 and 31. -/
def Obligations.BranchesSplitGroups : Prop :=
  ∀ w : WB, ∀ s : State, ∀ t g, s.issuing t g →
    let i := w.pred.toNat
    let locs : Lane → List Loc := fun ln => if i = 0 then [] else [.p ln.wid i]
    let c := laneCtx s t g {} w.m locs
    let target := g.pc + w.off.signExtend 64 * 4
    let next := g.pc + BitVec.ofNat 64 (4 * w.m.words)
    let taken := (lanesOn t g 0).filter fun ln => c.p ln.wid i != w.n
    let fall := (lanesOn t g 0).filter fun ln => c.p ln.wid i == w.n
    let leave := if taken.length ≤ fall.length then taken.map fun ln => (ln.fid, target) else fall.map fun ln => (ln.fid, next)
    c.operandTrap {} locs = none → c.Agree {} (fun ln => [if c.p ln.wid i then 1 else 0]) →
    (taken = [] → s.JumpsTo (exec (.br w) s) t g c.clk 0 next) ∧
    (fall = [] → taken ≠ [] → s.JumpsTo (exec (.br w) s) t g c.clk 0 target) ∧
    (taken ≠ [] → fall ≠ [] → ∃ t' g', exec (.br w) s = .next (s.acted c.clk t' g') ∧
      g.Jumped g' c.clk 0 (if taken.length ≤ fall.length then next else target) ∧
      g'.lanes = without g.lanes (fun f => f ∈ leave.map (·.1)) ∧ sameFlight g g' ∧
      t' = { t with attic := t'.attic } ∧ s.parksFormable g.core c.clk leave t.attic t'.attic)

/-- R210: RET moves the group to the link address that the most lanes hold, the lowest lane's on a tie, and the fibres
of the other lanes park as FORMABLE at theirs; an address that is no place for an instruction traps ALIGN.
Rests on the model's choices or readings of log entries 27 and 31. -/
def Obligations.ReturnsRejoinTheMajority : Prop :=
  ∀ w, ∀ s : State, ∀ t g, s.issuing t g →
    let c0 := uniCtx s t g (guardY w) w.m []
    let locs : Lane → List Loc := fun ln => laneLocs ln (BitVec.ofNat 6 (t.launch.window - 2)) 2
    let c := { c0 with clk := c0.issueClk {} locs }
    let T : Lane → DWord := fun ln => c.v ln.wid (t.launch.window - 2 + 1) ++ c.v ln.wid (t.launch.window - 2)
    let ls := lanesOn t g 0
    let bad := ls.filter fun ln => fieldOf (T ln) 0 2 ≠ 0 ∨ fieldOf (T ln) 56 8 ≠ 0
    let votes : DWord → Nat := fun k => ls.countP fun ln => T ln = k
    c0.uniTrap (guardY w) [] = none → c0.groupGuard (guardY w) = true → c0.uniDiffers = false → c.operandTrap {} locs = none →
    c.Agree {} (fun ln => [T ln]) →
    (∀ ln, bad.head? = some ln → exec (.ret w) s = .next ({ s with clk := c.clk }.takeTrap t g
      { cause := 0x108, mask := maskOf (bad.map Lane.pos), addr := T ln, detail := 0, completed := false })) ∧
    (bad = [] → ∀ pre lk post, ls = pre ++ lk :: post →
      (∀ ln ∈ ls, votes (T ln) ≤ votes (T lk)) → (∀ ln ∈ pre, votes (T ln) < votes (T lk)) →
      let leave := (ls.filter fun ln => T ln ≠ T lk).map fun ln => (ln.fid, T ln)
      ∃ t' g', exec (.ret w) s = .next (s.acted c.clk t' g') ∧
        g.Jumped g' c.clk w.s.toNat (T lk) ∧ g'.lanes = without g.lanes (fun f => f ∈ leave.map (·.1)) ∧ sameFlight g g' ∧
        t' = { t with attic := t'.attic } ∧ s.parksFormable g.core c.clk leave t.attic t'.attic)

/-! ### Fibres, segments and barriers -/

/-- R211: FORK gives each executing lane, in ascending order, the lowest fibre id that no fibre holds, or 0xFFFFFFFF;
the child's window holds operand b and the parent's id and is otherwise clear, and its record parks as FORMABLE at the
target. A target that is no place for an instruction traps ALIGN. (That an Attic slot never lacks is the model's reading, log entry 27.)
Rests on the model's choices or readings of log entries 20, 27 and 31. -/
def Obligations.ForkCreatesFibres : Prop :=
  ∀ w, ∀ s : State, ∀ t g, s.issuing t g →
    let gd := guard3 w
    let locs : Lane → List Loc := fun ln => laneLocs ln w.a 2 ++ laneLocs ln w.b 1
    let c := laneCtx s t g gd w.m locs
    let ls := c.execVisible gd
    let bad := ls.filter fun ln => fieldOf (c.l64 ln w.a) 0 2 ≠ 0 ∨ fieldOf (c.l64 ln w.a) 56 8 ≠ 0
    let ids := (List.range (t.launch.groups * t.launch.wv)).filter fun f => !t.live.contains f
    let side : Lane → Nat → Lane := fun ln sd => { ln with side := sd, wid := t.wid ln.fid sd }
    c.operandTrap gd locs = none → c.Agree gd (fun ln => [c.l64 ln w.a, (c.l32 ln w.b).setWidth 64]) →
    (∀ ln, bad.head? = some ln → exec (.fork w) s = .next ({ s with clk := c.clk }.takeTrap t g
      { cause := 0x108, mask := maskOf (bad.map Lane.pos), addr := c.l64 ln w.a, detail := 0, completed := false })) ∧
    (bad = [] → ∃ t' g', exec (.fork w) s = .next (s.acted c.clk t' g') ∧ g.Passed g' c.clk w.s.toNat w.m.words ∧
      g'.sregs = g.sregs ∧ g'.gpred = g.gpred ∧ g'.seg = g.seg ∧
      t' = { t with live := t.live ++ ids.take ls.length, attic := t'.attic, win := t'.win, preds := t'.preds
                    sticky := t'.sticky, errors := t'.errors } ∧
      (∃ new, t'.attic = t.attic ++ new ∧ (new.map fun p => { p with slot := 0 }) =
        (ls.zip ids).map fun x => { fid := x.2, core := t.fibreCore x.2, slot := 0, pc := c.l64 x.1 w.a, st := .formable, parked := c.clk,
                                        count := c.clk - sget 0 s.dieClk (t.fibreCore x.2 / 128) }) ∧
      ∀ pre ln post, ls = pre ++ ln :: post → (∀ l ∈ pre ++ post, l.fid ≠ ln.fid) →
        (∀ f ∈ ids.take ls.length, ∀ l ∈ ls, f ≠ l.fid) →
        (∀ sd ∈ t.sides, w.d.toNat < 48 →
          sget 0 t'.win ((side ln sd).wid * 64 + w.d.toNat) = ((ids[pre.length]?).map (BitVec.ofNat 32)).getD 0xFFFFFFFF) ∧
        ∀ f, ids[pre.length]? = some f → ∀ sd ∈ t.sides,
          (∀ r < 64, sget 0 t'.win (t.wid f sd * 64 + r) =
            if r = 0 then c.l32 (side ln sd) w.b else if r = 1 then BitVec.ofNat 32 ln.fid else 0) ∧
          t'.predWord (t.wid f sd) = 1 ∧ sget 0 t'.sticky (t.wid f sd) = 0)

/-- R212: FEND ends the executing lanes' fibres: their ids are free, they leave the rejoin and pair entries, and the
other lanes go on as the same group after the run; a group of which no lane is left frees its record, and the team exits
with its last fibre. Windows keep their contents.
Rests on the model's choices or readings of log entries 29 and 33. -/
def Obligations.FendEndsFibres : Prop :=
  ∀ w, ∀ s : State, ∀ t g, s.issuing t g →
    let gd := guard3 w
    let c := laneCtx s t g gd w.m fun _ => []
    let gone := (c.execVisible gd).map Lane.fid
    let t1 := { t with live := t.live.filter fun f => !gone.contains f }
    let t2 := (t1.rejoinsDrop gone).pairsDrop gone
    c.operandTrap gd (fun _ => []) = none →
    ((∃ p ∈ g.active, p.2 ∉ gone) → ∃ g', exec (.fend w) s = .next (s.acted c.clk t2 g') ∧
      g.Jumped g' c.clk w.s.toNat (g.pc + BitVec.ofNat 64 (4 * w.m.words)) ∧
      g'.lanes = without g.lanes (fun f => f ∈ gone) ∧ sameFlight g g') ∧
    ((∀ p ∈ g.active, p.2 ∈ gone) →
      let s1 := { s with clk := c.clk }.putTeam { t2 with groups := t.groups.filter fun u => u.num ≠ g.num }
      exec (.fend w) s = .next (match s1.team? t.core t.slot with
        | some u => if u.exiting = false ∧ u.groups = [] ∧ u.attic = [] then s1.exitTeam u else s1
        | none => s1))

/-- R140 and R213: at RJOIN every fibre of the group arrives with the tag, base and mask: it counts in the open entry of
its tag, or opens one whose mask keeps the fibres that are live, or is held while eight are open; the fibres park at the
next instruction, the record frees, and an entry of which no fibre is missing completes and releases its fibres.
Rests on the model's choices or readings of log entries 27 and 29. -/
def Obligations.RjoinParksUntilComplete : Prop :=
  ∀ w, UniPasses (exec (.rjoin w)) (guardY w) w.m w.s.toNat (uniLocs w.d ++ uniLocs w.a ++ uniLocs w.b) ∧
  ∀ s t g, s.issuing t g → g.active ≠ [] →
    let gd := guardY w
    let locs := uniLocs w.d ++ uniLocs w.a ++ uniLocs w.b
    let c := uniCtx s t g gd w.m locs
    let fids := g.active.map (·.2)
    let tag : BitVec 16 := (c.u w.d).setWidth 16
    let base := fieldOf (c.u w.a) 0 32
    let isOpen := t.rejoins.any fun r => r.tag = tag
    let st : ParkState := if isOpen ∨ t.rejoins.length < 8 then .rejoin else .rejoinHeld
    let full : Rejoin → Bool := fun r => decide (∀ i < 64, bitAt r.mask i = true → r.base + i ∈ r.arrived)
    let rs : List Rejoin := if isOpen then t.rejoins.map fun r => if r.tag = tag then { r with arrived := r.arrived ++ fids } else r
      else if t.rejoins.length < 8 then t.rejoins ++
        [{ tag := tag, base := base, arrived := fids, complete := false
           mask := maskOf ((List.range 64).filter fun i => bitAt (c.u w.b) i && t.live.contains (base + i)) }]
      else t.rejoins
    let rs' : List Rejoin := rs.map fun r => { r with complete := r.complete || full r }
    let free : Parked → Parked := fun p =>
      if p.st = .rejoin ∧ (rs'.any fun r => r.complete && (r.tag = p.tag)) = true then { p with released := true } else p
    c.uniTrap gd locs = none → c.groupGuard gd = true → c.uniDiffers = false →
    ∃ new : List Parked,
      (new.map fun p => { p with slot := 0, hist := [] }) = fids.map (fun f =>
        { fid := f, core := g.core, slot := 0, tag := tag, base := base, st := st, pc := g.pc + BitVec.ofNat 64 (4 * w.m.words)
          mask := c.u w.b, parked := c.clk, count := c.clk - sget 0 s.dieClk (g.core / 128) }) ∧
      exec (.rjoin w) s = .next ({ s with clk := c.clk }.putTeam
        { t with groups := t.groups.filter (fun u => u.num ≠ g.num), rejoins := rs', attic := (t.attic ++ new).map free })

/-- R138, R139 and R214: YIELD ends the run and the group goes on at the next instruction; a partial group whose team
has no free record and a fibre that has waited FORMWAIT clocks parks there instead. R142 and R215:
SEGSET takes a size of 0, 2, 4, 8, 16 or 32 that divides the visible width and traps SEG_BAD on any other value; SEGGET
writes the segment's size.
Rests on the model's choices or readings of log entries 27 and 30. -/
def Obligations.YieldAndSegments : Prop :=
  let code : Nat → DWord → Option Nat := fun wv a =>
    if a = 0 then some 0
    else [2, 4, 8, 16, 32].findIdx? (fun n => a.toNat = n ∧ wv % n = 0) |>.map (· + 1)
  (∀ w, UniPasses (exec (.yield w)) (guardY w) w.m w.s.toNat [] ∧
  ∀ s t g, s.issuing t g →
    let c := uniCtx s t g (guardY w) w.m []
    let next := g.pc + BitVec.ofNat 64 (4 * w.m.words)
    let yields := g.active.length < t.launch.wv ∧ (t.freeRecord g.core).isNone = true ∧
      ∃ p ∈ t.attic, p.st = .formable ∧ p.core = g.core ∧ fieldOf (s.reg 0x00D) 0 16 ≤ c.clk - p.parked
    c.uniTrap (guardY w) [] = none → c.groupGuard (guardY w) = true → c.uniDiffers = false →
    (¬ yields → s.JumpsTo (exec (.yield w) s) t g c.clk w.s.toNat next) ∧
    (yields → ∃ attic', exec (.yield w) s = .next ({ s with clk := c.clk }.putTeam
        { t with groups := t.groups.filter (fun u => u.num ≠ g.num), attic := attic' }) ∧
      ∃ new, attic' = t.attic ++ new ∧ (new.map fun p => { p with slot := 0, hist := [] }) = g.active.map fun x =>
        { fid := x.2, core := g.core, slot := 0, pc := next, st := .formable, parked := c.clk
          count := c.clk - sget 0 s.dieClk (g.core / 128), synced := g.synced.contains x.2 })) ∧
  (∀ w, UniWrites (exec (.segget w)) (guardY w) w.m w.s.toNat 1 w.d.toNat [] fun c =>
    BitVec.ofNat 64 (if c.g.seg = 0 then c.t.launch.wv else 2 ^ c.g.seg)) ∧
  ∀ w, UniPasses (exec (.segset w)) (guardY w) w.m w.s.toNat (uniLocs w.a) ∧
  ∀ s t g, s.issuing t g →
    let c := uniCtx s t g (guardY w) w.m (uniLocs w.a)
    c.uniTrap (guardY w) (uniLocs w.a) = none → c.groupGuard (guardY w) = true → c.uniDiffers = false →
    (∀ k, code t.launch.wv (c.u w.a) = some k → ∃ g', exec (.segset w) s = .next (s.acted c.clk t g') ∧
      g.Passed g' c.clk w.s.toNat w.m.words ∧ g'.seg = k ∧ g'.sregs = g.sregs ∧ g'.gpred = g.gpred ∧
      g'.last = g.last ∧ g'.temps = g.temps ∧ g'.hist = g.hist) ∧
    (code t.launch.wv (c.u w.a) = none → exec (.segset w) s = .next ({ s with clk := c.clk }.takeTrap t g
      { cause := 0x104, mask := g.activeMask, addr := 0, detail := c.u w.a, completed := false }))

/-- R217 and R218: BAR.INIT writes the barrier's word; BAR.ARV counts the lanes that hold no token of the present phase,
gives them one, and completes the phase when all have arrived; with DROP it lowers the expected count instead. R145: an initialised barrier always lacks arrivals: initialising one,
arriving at one and dropping from one keep that. The groups that wait on the barrier are judged against its new word.
Rests on the model's choices or readings of log entries 25 and 26. -/
def Obligations.BarrierArrivals : Prop :=
  let lacks : DWord → Prop := fun w => bitAt w 63 = true → fieldOf w 16 11 < fieldOf w 0 11
  (lacks 0 ∧ (∀ e, 1 ≤ e → e ≤ 1024 → lacks (barWord 0 0 e)) ∧
  ∀ w n, lacks w → lacks (barArrive w n) ∧ lacks (barDrop w n)) ∧
  (∀ w : WE, UniPasses (exec (.barInit w)) (guardYX w.m) w.m 0 (uniLocs w.a) ∧ ∀ s t g, s.issuing t g →
    let c := uniCtx s t g (guardYX w.m) w.m (uniLocs w.a)
    let e := min (c.u w.a).toNat 1024
    c.uniTrap (guardYX w.m) (uniLocs w.a) = none → c.groupGuard (guardYX w.m) = true → c.uniDiffers = false →
    ∃ t' g', exec (.barInit w) s = .next (s.acted c.clk t' g') ∧ g.Passed g' c.clk 0 w.m.words ∧
      g'.sregs = g.sregs ∧ g'.gpred = g.gpred ∧ g'.hist = g.hist ∧ t' = { t with barriers := t'.barriers, groups := t'.groups } ∧
      t.Judged t' (w.sub.toNat % 16) ∧ ∀ b, t'.bar b = if b = w.sub.toNat % 16 then (if e = 0 then 0 else BitVec.ofNat 64 (2 ^ 63 + e)) else t.bar b) ∧
  ∀ w : WE, UniPasses (exec (.barArv w)) (guardYX w.m) w.m 0 [] ∧ ∀ s t g, s.issuing t g →
    let c0 := uniCtx s t g (guardYX w.m) w.m []
    let locs : Lane → List Loc := fun ln => laneLocs ln w.d 1
    let c := { c0 with clk := c0.issueClk {} locs }
    let b := w.sub.toNat % 16
    let word := t.bar b
    let phase := fieldOf word 32 16
    let expect := fieldOf word 0 11
    let arrived := fieldOf word 16 11
    let token : Word := BitVec.ofNat 32 (2 ^ 31 + 2 ^ 16 * b + phase)
    let ls := (lanesOn t g 0).filter fun ln => c.v ln.wid w.d.toNat ≠ token ∧ ln.fid ∉ g.synced
    let drop := bitAt w.sub 4
    let mk : Nat → Nat → Nat → DWord := fun p a e => BitVec.ofNat 64 (2 ^ 63 + 2 ^ 32 * (p % 65536) + 2 ^ 16 * a + e)
    let word' : DWord :=
      if bitAt word 63 = false then word
      else if drop then
        if expect ≤ ls.length then 0
        else if expect - ls.length ≤ arrived then mk (phase + 1) 0 (expect - ls.length) else mk phase arrived (expect - ls.length)
      else if expect ≤ arrived + ls.length then mk (phase + 1) 0 expect
      else mk phase (arrived + ls.length) expect
    c0.uniTrap (guardYX w.m) [] = none → c0.groupGuard (guardYX w.m) = true → c0.uniDiffers = false → c.operandTrap {} locs = none →
    ∃ t' g', exec (.barArv w) s = .next (s.acted c.clk t' g') ∧ g.Passed g' c.clk 0 w.m.words ∧
      g'.sregs = g.sregs ∧ g'.gpred = g.gpred ∧ g'.last = g.last ∧
      t' = { t with barriers := t'.barriers, win := t'.win, errors := t'.errors, sb := t'.sb, groups := t'.groups } ∧
      (t.launch.contain = false ∨ ls = [] → t'.sb = t.sb) ∧
      (bitAt word 63 = true → t.Judged t' b) ∧ (bitAt word 63 = false → t'.groups = t.groups) ∧
      (∀ i, t'.bar i = if i = b then word' else t.bar i) ∧
      ∀ wid r, r < 64 → sget 0 t'.win (wid * 64 + r) =
        if bitAt word 63 = true ∧ r = w.d.toNat ∧ (∃ ln ∈ ls, ∃ sd ∈ t.sides, t.wid ln.fid sd = wid) then (if drop then 0 else token)
        else sget 0 t.win (wid * 64 + r)

/-- R175 and R219: BAR.WT goes on when no lane of the group holds a token of the barrier's present phase, or did when the
barrier's word last changed; its fibres then observe the stores of their team, and it clears the tokens
of that barrier in its lanes; BAR.SYNC arrives first, once for each fibre. While a lane waits the group stands at the
instruction without lane positions, its fibres marked as arrived at a BAR.SYNC; where R138 has it give up its record its fibres park as FORMABLE
at the instruction with that mark. BAR.SYNC on a barrier that is off does not wait.
Rests on the model's choices or readings of log entries 8, 9, 25, 26 and 30. -/
def Obligations.BarrierWaits : Prop :=
  let isTok : Nat → Word → Bool := fun b v => fieldOf v 16 16 = 2 ^ 15 + b
  let waits : Nat → DWord → Word → Bool := fun b word v => isTok b v && bitAt word 63 && (fieldOf v 0 16 = fieldOf word 32 16)
  ∀ w : WE, ∀ s : State, ∀ t g, s.issuing t g →
    let c0 := uniCtx s t g (guardYX w.m) w.m []
    let locs : Lane → List Loc := fun ln => laneLocs ln w.d 1
    let c := { c0 with clk := c0.issueClk {} locs }
    let b := w.sub.toNat % 16
    let word := t.bar b
    let phase := fieldOf word 32 16
    let ls := lanesOn t g 0
    let arrives := ls.filter fun ln => waits b word (c.v ln.wid w.d.toNat) = false ∧ ln.fid ∉ g.synced
    let next := g.pc + BitVec.ofNat 64 (4 * w.m.words)
    let clears : Team → (Lane → Prop) → Prop := fun t' p => ∀ wid r, r < 64 →
      ((r = w.d.toNat ∧ ∃ ln ∈ ls, p ln ∧ ∃ sd ∈ t.sides, t.wid ln.fid sd = wid) → sget 0 t'.win (wid * 64 + r) = 0) ∧
      (¬ (r = w.d.toNat ∧ ∃ ln ∈ ls, p ln ∧ ∃ sd ∈ t.sides, t.wid ln.fid sd = wid) →
        sget 0 t'.win (wid * 64 + r) = sget 0 t.win (wid * 64 + r))
    let S := s.observeTeam t.uid g.fids
    let expect := fieldOf word 0 11
    let count := fieldOf word 16 11 + arrives.length
    let token : Word := BitVec.ofNat 32 (2 ^ 31 + 2 ^ 16 * b + phase)
    let parks : Team → List Nat → List Parked → Prop := fun t' synced attic' => ∃ new, attic' = t'.attic ++ new ∧
      (new.map fun p => { p with slot := 0, hist := [] }) = g.active.map fun x =>
        { fid := x.2, core := g.core, slot := 0, pc := g.pc, st := .formable, parked := c.clk
          count := c.clk - sget 0 s.dieClk (g.core / 128), synced := synced.contains x.2 }
    let arrived : Team → Prop := fun t' =>
      t' = { t with barriers := t'.barriers, win := t'.win, errors := t'.errors, sb := t'.sb, groups := t'.groups } ∧
      (t.launch.contain = false ∨ arrives = [] → t'.sb = t.sb) ∧ t.Judged t' b ∧
      ∀ i, t'.bar i = if i = b then BitVec.ofNat 64 (2 ^ 63 + 2 ^ 32 * phase + 2 ^ 16 * count + expect) else t.bar i
    let tokens : Team → Prop := fun t' => ∀ wid r, r < 64 → sget 0 t'.win (wid * 64 + r) =
      if r = w.d.toNat ∧ ∃ ln ∈ arrives, ∃ sd ∈ t.sides, t.wid ln.fid sd = wid then token else sget 0 t.win (wid * 64 + r)
    c0.uniTrap (guardYX w.m) [] = none → c0.groupGuard (guardYX w.m) = true → c0.uniDiffers = false → c.operandTrap {} locs = none →
    ((g.barPass = true ∨ ∀ ln ∈ ls, waits b word (c.v ln.wid w.d.toNat) = false) → ∃ t' g', exec (.barWt w) s = .next (S.acted c.clk t' g') ∧
      g.Jumped g' c.clk 0 next ∧ g'.lanes = g.lanes ∧ t' = { t with win := t'.win, errors := t'.errors } ∧
      clears t' fun ln => isTok b (c.v ln.wid w.d.toNat) = true) ∧
    (g.barPass = false → (∃ ln ∈ ls, waits b word (c.v ln.wid w.d.toNat) = true) → State.mustPark { s with clk := c.clk } t g = false →
      exec (.barWt w) s = .next (s.acted c.clk t { g with nextIssue := c.clk + 1, wait := .barrier, barAt := some (b, w.d.toNat), positions := none })) ∧
    (g.barPass = false → (∃ ln ∈ ls, waits b word (c.v ln.wid w.d.toNat) = true) → State.mustPark { s with clk := c.clk } t g = true →
      ∃ attic', exec (.barWt w) s = .next ({ s with clk := c.clk }.putTeam
        { t with groups := t.groups.filter (fun u => u.num ≠ g.num), attic := attic' }) ∧ parks t g.synced attic') ∧
    (g.barPass = false → bitAt word 63 = true → count < expect →
      (∃ ln ∈ ls, ln ∈ arrives ∨ waits b word (c.v ln.wid w.d.toNat) = true) →
      (State.mustPark { s with clk := c.clk } t g = false → ∃ t' g', exec (.barSync w) s = .next (s.acted c.clk t' g') ∧
        arrived t' ∧ tokens t' ∧ g' = { g with nextIssue := c.clk + 1, wait := .barrier, barAt := some (b, w.d.toNat), positions := none
                                               synced := g.active.map (·.2), hist := g'.hist }) ∧
      (State.mustPark { s with clk := c.clk } t g = true → ∃ t' attic', exec (.barSync w) s = .next ({ s with clk := c.clk }.putTeam
          { t' with groups := t'.groups.filter (fun u => u.num ≠ g.num), attic := attic' }) ∧
        arrived t' ∧ tokens t' ∧ parks t' (g.active.map (·.2)) attic')) ∧
    (g.barPass = true → bitAt word 63 = true → count < expect →
      ∃ t' g', exec (.barSync w) s = .next (S.acted c.clk t' g') ∧ g.Jumped g' c.clk 0 next ∧ g'.lanes = g.lanes ∧
      arrived t' ∧ clears t' fun ln => ln ∈ arrives ∨ isTok b (c.v ln.wid w.d.toNat) = true) ∧
    (bitAt word 63 = false →
      ∃ t' g', exec (.barSync w) s = .next (S.acted c.clk t' g') ∧ g.Jumped g' c.clk 0 next ∧ g'.lanes = g.lanes ∧
      t' = { t with win := t'.win, errors := t'.errors } ∧ clears t' fun ln => isTok b (c.v ln.wid w.d.toNat) = true) ∧
    (g.synced = [] → bitAt word 63 = true → fieldOf word 0 11 ≤ fieldOf word 16 11 + arrives.length →
      ∃ t' g', exec (.barSync w) s = .next (S.acted c.clk t' g') ∧ g.Jumped g' c.clk 0 next ∧ g'.lanes = g.lanes ∧
      t' = { t with barriers := t'.barriers, win := t'.win, errors := t'.errors, sb := t'.sb, groups := t'.groups } ∧
      (t.launch.contain = false ∨ arrives = [] → t'.sb = t.sb) ∧ t.Judged t' b ∧
      (∀ i, t'.bar i = if i = b then BitVec.ofNat 64 (2 ^ 63 + 2 ^ 32 * ((phase + 1) % 65536) + fieldOf word 0 11) else t.bar i) ∧
      clears t' fun ln => ln ∈ arrives ∨ isTok b (c.v ln.wid w.d.toNat) = true) ∧
    ((∀ ln ∈ ls, ln.fid ∈ g.synced) → (bitAt word 63 = true → fieldOf word 16 11 < fieldOf word 0 11) →
      (∀ ln ∈ ls, waits b word (c.v ln.wid w.d.toNat) = false) →
      ∃ t' g', exec (.barSync w) s = .next (S.acted c.clk t' g') ∧ g.Jumped g' c.clk 0 next ∧ g'.lanes = g.lanes ∧
      t' = { t with barriers := t'.barriers, win := t'.win, errors := t'.errors, groups := t'.groups } ∧
      (bitAt word 63 = true → t.Judged t' b) ∧ (bitAt word 63 = false → t'.groups = t.groups) ∧
      (∀ i, i ≠ b → t'.bar i = t.bar i) ∧
      clears t' fun ln => isTok b (c.v ln.wid w.d.toNat) = true)

/-! ### Queues and child launches -/

/-- R220, R221 and R223: QPUSH.RES and QPOP.TAKE of n slots write the edge's index to d, move it and take n from FREE or
FILL, and the range joins the team's list, with an acquire for QPOP.TAKE; n = 0 takes nothing; while slots lack, or the
edge's last change is not written back (R79), the group stands at the instruction; a wrong use traps EDGE_MODE with its reason and has no effect.
Rests on the model's choices or readings of log entries 8 and 43. -/
def Obligations.QueueReservations : Prop :=
  ∀ p ∈ [(Instr.qpushRes, true), (.qpopTake, false)], ∀ w : WE,
    UniRuns (exec (p.1 w)) (guardYX w.m) w.m 0 (uniLocs w.a) fun s t g c r =>
      let code := w.sub.toNat % 8
      let n := (c.u w.a).toNat
      let trap := fun (reason : Nat) => s.traps t g r 0x110 0 (BitVec.ofNat 64 (code + 16 * reason))
      let e := t.launch.edge code
      ((4 ≤ code) ≠ (p.2 = true) → trap 7) ∧
      ((4 ≤ code) = (p.2 = true) → e = 0xFFFF → trap 2) ∧
      ((4 ≤ code) = (p.2 = true) → e ≠ 0xFFFF → ∀ x, s.edge? t.part e = some x →
        let idx := if p.2 then x.tail.toNat else x.head.toNat
        let avail := if x.wbDue then 0 else if p.2 then x.free else x.fill
        let x' := if p.2 then { x with tail := x.tail + BitVec.ofNat 64 n, free := x.free - n }
          else { x with head := x.head + BitVec.ofNat 64 n, fill := x.fill - n }
        let acq := fun s : State => if p.2 then s else s.acquire t g
        (x.streaming = false → trap 1) ∧
        (x.streaming = true → x.slotcnt < n → trap 4) ∧
        (x.streaming = true → n ≤ x.slotcnt → n = 0 → ∃ g', r = .next ((acq s).acted c.clk t g') ∧
          g.WroteS g' t c.clk 0 w.m.words 0 w.d.toNat (BitVec.ofNat 64 idx)) ∧
        (x.streaming = true → n ≤ x.slotcnt → 0 < n → (∀ q ∈ t.ranges, q.replay = false) →
          (32 ≤ t.ranges.length → trap 6) ∧
          (t.ranges.length < 32 → n ≤ avail → ∃ g',
            r = .next ((acq ((s.setEdge t.part e x').writeBack t.part e)).acted c.clk
              { t with ranges := t.ranges ++ [{ edge := code, first := idx, count := n, taken := !p.2, replay := false }] } g') ∧
            g.WroteS g' t c.clk 0 w.m.words 0 w.d.toNat (BitVec.ofNat 64 idx)) ∧
          (t.ranges.length < 32 → avail < n → s.mustPark t g = false → ∃ w',
            r = .next (s.acted c.clk t { g with nextIssue := c.clk + 1, wait := w' }))))

/-- R220, R221 and R223: QPUSH.PUB publishes the team's n lowest reserved slots after a release at DEVICE scope and
QPOP.REL releases its n lowest taken ones; under CONTAIN the publication enters the store buffer and the release is kept
for the drain; n = 0 has no effect and more slots than the team has outstanding trap EDGE_MODE with reason 5.
R79: published slots add to FILL in index order, and only up to the lowest slot that is still unpublished; released slots
add to FREE, or to CONSUMED on a source edge, in the same way.
R35: CONSUMED reaches the return line once port 0 is usable and no remote store of an instance that released slots is on
its way; until then it is due.
Rests on the model's choices or readings of log entry 43. -/
def Obligations.QueuePublications : Prop :=
  (∀ p ∈ [(Instr.qpushPub, true), (.qpopRel, false)], ∀ w : WE,
    UniRuns (exec (p.1 w)) (guardYX w.m) w.m 0 (uniLocs w.a) fun s t g c r =>
      let code := w.sub.toNat % 8
      let n := (c.u w.a).toNat
      let e := t.launch.edge code
      let waiting := if p.2 then t.pushed code else sget 0 t.relLater code
      let out := t.outstanding code (!p.2) - waiting
      (4 ≤ code) = (p.2 = true) → e ≠ 0xFFFF → ∀ x, s.edge? t.part e = some x → x.streaming = true → n ≤ x.slotcnt →
      (out < n → s.traps t g r 0x110 0 (BitVec.ofNat 64 (code + 16 * 5))) ∧
      (n ≤ out → n = 0 → ∃ g', r = .next (s.acted c.clk t g') ∧ g.Only g' c.clk 0 w.m.words) ∧
      (n ≤ out → 0 < n → t.launch.contain = false → ∃ g', g.Only g' c.clk 0 w.m.words ∧
        let lowest := takeLowest code (!p.2) n [] t.ranges (t.ranges.length + 1)
        r = .next ((if p.2 then (s.release t g).publishSlots t.part e lowest.1 else s.releaseSlots t.part e t.inst lowest.1).acted c.clk
          { t with ranges := lowest.2 } g')) ∧
      (n ≤ out → 0 < n → t.launch.contain = true → p.2 = false → ∃ g', g.Only g' c.clk 0 w.m.words ∧
        r = .next (s.acted c.clk { t with relLater := smod 0 t.relLater code (· + n) } g')) ∧
      (n ≤ out → 0 < n → t.launch.contain = true → p.2 = true → t.closeEntries.sbUsed < 2048 → t.draining = false →
        ∃ g', g.Only g' c.clk 0 w.m.words ∧
        r = .next ((s.release t g).acted c.clk { t.closeEntries with sb := t.closeEntries.sb ++ [.push code n] } g'))) ∧
  ∀ (x : Edge) (idxs : List Nat),
    (let y := advanceOut { x with outSet := x.outSet ++ idxs } (x.outSet.length + idxs.length)
      ∃ m, y.pubIdx = x.pubIdx + m ∧ y.fill = x.fill + m ∧ (∀ i < m, x.pubIdx + i ∈ x.outSet ++ idxs) ∧
        x.pubIdx + m ∉ x.outSet ++ idxs ∧ y.free = x.free ∧ y.head = x.head ∧ y.tail = x.tail) ∧
    (let y := advanceIn { x with inSet := x.inSet ++ idxs } (x.inSet.length + idxs.length)
      ∃ m, y.relIdx = x.relIdx + m ∧ (∀ i < m, x.relIdx + i ∈ x.inSet ++ idxs) ∧ x.relIdx + m ∉ x.inSet ++ idxs ∧
        y.free = (if x.source then x.free else x.free + m) ∧
        y.consumed = (if x.source then x.consumed + BitVec.ofNat 64 m else x.consumed) ∧ y.fill = x.fill) ∧
    ∀ (s : State) (k e : Nat), s.edge? k e = some x →
      ((s.port0 = false ∨ ∃ r ∈ s.remotes, r.inst ∈ x.retWait) → s.writeReturn k e = s.setEdge k e { x with retDue := true }) ∧
      (s.port0 = true → (∀ r ∈ s.remotes, r.inst ∉ x.retWait) → s.writeReturn k e =
        (((x.retWait.foldl State.performInst s).hostPut (2 ^ 55 + x.retLine.toNat)
          (bytes64 x.consumed ++ List.replicate 56 0)).setEdge k e { x with retDue := false, retWait := [] }).raise 4)

/-- R222 and R223: QPEEK writes the selected value of the edge, read at issue, and traps EDGE_MODE on an absent edge
and for the grant of a streaming one.
R84, R221 and R224: LAUNCH reads the 64-byte record once for the group and queues it as a child, d receiving the
launch index, or LQ_FULL, which is also logged, while the queue is full; under CONTAIN the record enters the store buffer; an address that is not
64-byte aligned traps ALIGN.
Rests on the model's choices or readings of log entries 42, 43 and 92. -/
def Obligations.QueuePeeksAndChildLaunches : Prop :=
  (∀ w : WE, UniRuns (exec (.qpeek w)) (guardYX w.m) w.m 0 (if w.sub.toNat / 8 = 1 then uniLocs w.b else []) fun s t g c r =>
    let code := w.sub.toNat % 8
    let sel := w.sub.toNat / 8
    let e := t.launch.edge code
    let trap := fun (reason : Nat) => s.traps t g r 0x110 0 (BitVec.ofNat 64 (code + 16 * reason))
    let grant : DWord := match s.inst? t.inst with
      | some i => BitVec.ofNat 64 (((i.grants.find? fun q => q.edge = e ∧ q.output = decide (4 ≤ code)).map Grant.first).getD 0)
      | none => 0
    (e = 0xFFFF → trap 2) ∧
    (e ≠ 0xFFFF → ∀ x, s.edge? t.part e = some x →
      (sel = 0 → x.streaming = true → trap 3) ∧
      (¬ (sel = 0 ∧ x.streaming = true) → ∃ g', r = .next (s.acted c.clk t g') ∧
        g.WroteS g' t c.clk 0 w.m.words 1 w.d.toNat
          ([grant, x.base + BitVec.ofNat 64 (x.slotsz * ((c.u w.b).toNat % x.slotcnt)), BitVec.ofNat 64 x.fill, BitVec.ofNat 64 x.free,
            BitVec.ofNat 64 x.slotcnt, BitVec.ofNat 64 x.slotsz].getD sel (if code < 4 then x.head else x.tail))))) ∧
  (∀ w : WE, UniRuns (exec (.launch w)) (guardYX w.m) w.m 0 (uniLocs w.a) fun s t g c r =>
    let a := c.u w.a
    (a.toNat % 64 ≠ 0 → s.traps t g r 0x108 a 0) ∧
    (a.toNat % 64 = 0 → ∀ bytes s1, c.groupRead s 0 t.plainVia a 64 = .ok bytes s1 →
      let s2 := s1.release t g
      let full := 4096 ≤ (s2.part t.part).children.length
      (t.launch.contain = false → full → ∃ g',
        r = .next ((s2.addLog { platformEntry 0x0A t.part 0 0 with launch := 0xFFFFFFFF }).acted c.clk t g') ∧
        g.WroteS g' t c.clk 0 w.m.words 0 w.d.toNat 0x0A) ∧
      (t.launch.contain = false → ¬ full → ∃ g', r = .next ((s2.queueChild t.part bytes none none none).acted c.clk t g') ∧
        g.WroteS g' t c.clk 0 w.m.words 0 w.d.toNat (BitVec.ofNat 64 (2 ^ 32 * (0x80000000 + (s2.part t.part).childCount % 2 ^ 31)))) ∧
      (t.launch.contain = true → t.closeEntries.sbUsed ≤ 2046 → t.draining = false → ∃ g',
        r = .next (s2.acted c.clk { t.closeEntries with sb := t.closeEntries.sb ++ [.launch bytes] } g') ∧
        g.WroteS g' t c.clk 0 w.m.words 0 w.d.toNat 0xFFFFFFFF00000000)))

/-! ### Loads and stores -/

/-- R160, R265 to R268: LD gives each executing lane the bytes at its address, sign- or zero-extended by its width, as
the core sees memory under the team's own buffered stores; an acquire at DEVICE or SYSTEM scope drops the L1's lines first
and reads at the home L2. A plain load of addresses outside the pool, under the keys that encrypted them, leaves all of
memory as it was.
Rests on the model's choices or readings of log entries 5, 6, 7, 21 and 35. -/
def Obligations.LoadResults : Prop :=
  ∀ w, ∀ s : State, ∀ t g, s.issuing t g →
    let gd := guard3 w
    let size := widthBytes (memW w.m)
    let locs : Lane → List Loc := fun ln => w3Locs w 1 2 0 ln
    let c := laneCtx s t g gd w.m locs
    let addr : Lane → DWord := fun ln => c.gAddr ln w
    let s1 := { s with clk := c.clk }
    ∀ dest : Lane → Dest, c.operandTrap gd locs = none → c.Agree gd (fun ln => [addr ln]) →
      c.Clear s1 gd size addr .read false false dest →
      let go := c.going gd addr dest
      let before := c.afterXlat s1 go
      let start := if acqWide w.m then before.acquire t g else if isAcq w.m then before.observeBy t g else before
      let R := start.readLanes t g.core size (c.loadVia w.m) go
      let bytes : LaneRead → List Byte := fun x =>
        match g.half.find? fun h => h.1 = x.acc.ln.fid ∧ h.2.1 = x.acc.addr with
        | some h => h.2.2 ++ x.data.drop 8
        | none => x.data
      (∀ x ∈ R.2, x.bad = false) →
      ∃ t' g', exec (.ld w) s = .next (R.1.acted c.clk t' g') ∧ g.Passed g' c.clk w.s.toNat w.m.words ∧
        c.Written 0 w.d (widthRegs (memW w.m)) (c.bothLanes gd) (fun ln =>
          (loadWords (memW w.m) (((R.2.find? fun x => x.acc.ln = t.visible ln).map bytes).getD []), 0)) t' g' ∧
        (∀ pre ln post, c.execVisible gd = pre ++ ln :: post → ∀ pa leaf lost, dest ln = .local pa leaf lost →
          let earlier := (start.readLanes t g.core size (c.loadVia w.m) (pre.map fun l => ({ ln := l, addr := addr l }, dest l))).1
          let S := earlier.readPrep t g.core [ln.fid] (keyOf leaf) pa size (c.loadVia w.m)
          R.2[pre.length]? = some { acc := { ln := ln, addr := addr ln }, data := S.teamBytes t g.core (keyOf leaf) pa size
                                    bad := lost || (S.teamPoison t g.core (keyOf leaf) pa size).isSome }) ∧
        (acqWide w.m = false → c.loadVia w.m = .l1 → c.Keyed s1 gd size dest →
          (∀ ln ∈ c.execVisible gd, ∀ pa leaf lost, dest ln = .local pa leaf lost → pa + size ≤ 2 ^ 40 ∨ 2 ^ 55 ≤ pa) →
          ∀ a, (R.1.acted c.clk t' g').homeByte a = s.homeByte a)

/-- R148, R265 to R267: LDS gives each executing lane the scratchpad bytes at its offset and changes nothing else. A load's bytes
fill registers by its width code: a byte or half extended by sign or zeros, a word, and two or four words low word first.
R148, R265 to R267: STS writes each executing lane's bytes to the scratchpad, the last lane's where they overlap;
every other byte of the scratchpad, every register and all of memory are as they were.
Rests on the model's choices or readings of log entry 21. -/
def Obligations.ScratchAccessResults : Prop :=
  ((∀ w, ∀ s : State, ∀ t g, s.issuing t g →
    let gd := guard3 w
    let size := widthBytes (memW w.m)
    let locs : Lane → List Loc := fun ln => w3Locs w 1 1 0 ln
    let c := laneCtx s t g gd w.m locs
    let addr : Lane → DWord := fun ln => (c.b32 ln w + c.l32 ln w.a + (memDisp w.m).signExtend 32).setWidth 64
    c.operandTrap gd locs = none → c.Agree gd (fun ln => [addr ln]) → c.ScratchClear gd size addr false →
    (∀ ln ∈ c.execVisible gd, (∀ e ∈ t.errors, e.inScratch (addr ln).toNat size = false) ∧ t.scratchBad (addr ln).toNat size = false) →
    ∃ t' g', exec (.lds w) s = .next ((if acqWide w.m then { s with clk := c.clk }.acquire t g
        else if isAcq w.m then { s with clk := c.clk }.observeBy t g else s).acted c.clk t' g') ∧
      g.Passed g' c.clk w.s.toNat w.m.words ∧
      c.Written 0 w.d (widthRegs (memW w.m)) (c.bothLanes gd)
        (fun ln => (loadWords (memW w.m) ((List.range size).map fun i => sget 0 t.scratch ((addr (t.visible ln)).toNat + i)), 0)) t' g') ∧
  ∀ bs : List Byte, bs.length = 16 →
    let b : Nat → Word := fun i => (bs.getD i 0).setWidth 32
    let word : Nat → Word := fun i => b (4 * i) ||| b (4 * i + 1) <<< 8 ||| b (4 * i + 2) <<< 16 ||| b (4 * i + 3) <<< 24
    loadWords 0 (bs.take 1) = [(bs.getD 0 0).signExtend 32] ∧ loadWords 1 (bs.take 1) = [b 0] ∧
    loadWords 2 (bs.take 2) = [((bs.getD 1 0) ++ (bs.getD 0 0)).signExtend 32] ∧
    loadWords 3 (bs.take 2) = [b 0 ||| b 1 <<< 8] ∧ loadWords 4 (bs.take 4) = [word 0] ∧
    loadWords 5 (bs.take 8) = [word 0, word 1] ∧ loadWords 6 bs = [word 0, word 1, word 2, word 3]) ∧
  (∀ w, ∀ s : State, ∀ t g, s.issuing t g →
    let gd := guard3 w
    let size := widthBytes (memW w.m)
    let locs : Lane → List Loc := fun ln => w3Locs w 1 1 0 ln ++ laneLocs ln w.d (widthRegs (memW w.m))
    let c := laneCtx s t g gd w.m locs
    let addr : Lane → DWord := fun ln => (c.b32 ln w + c.l32 ln w.a + (memDisp w.m).signExtend 32).setWidth 64
    let data : Lane → List Byte := fun ln => c.dataBytes ln w.d size
    c.operandTrap gd locs = none →
    c.Agree gd (fun ln => addr ln :: [BitVec.ofNat 64 (leWord ((data ln).take 8)), BitVec.ofNat 64 (leWord ((data ln).drop 8))]) →
    c.ScratchClear gd size addr true → (relSys w.m = true → s.remotePending t = false) →
    ∃ t' g', g.Only g' c.clk w.s.toNat w.m.words ∧
      exec (.sts w) s = .next ((if relWide w.m then { s with clk := c.clk }.release t g else s).acted c.clk t' g') ∧
      t' = { t with scratch := t'.scratch, scratchPoison := t'.scratchPoison, errors := t'.errors, sb := t'.sb } ∧
      (isRel w.m = false ∨ t.launch.contain = false → t'.sb = t.sb) ∧
      ∀ a, sget 0 t'.scratch a =
        (lastStore ((c.execVisible gd).map fun ln => ((addr ln).toNat, data ln)) a).getD (sget 0 t.scratch a))

/-- R171, R174, R265 and R267: ST outside CONTAIN posts each executing lane's bytes; the core then sees, at every
address, the last lane's byte that covers it and its former view elsewhere, and memory itself, under the keys that
encrypted it, is as it was until the store is performed; a releasing store stands posted behind all that its fibre has
made or observed, which a release to a remote block performs first. In a CONTAIN team the stores enter the store buffer
and nothing else changes.
Rests on the model's choices or readings of log entries 5, 6, 21 and 36. -/
def Obligations.StoreResults : Prop :=
  ∀ w, ∀ s : State, ∀ t g, s.issuing t g →
    let gd := guard3 w
    let size := widthBytes (memW w.m)
    let locs : Lane → List Loc := fun ln => w3Locs w 1 2 0 ln ++ laneLocs ln w.d (widthRegs (memW w.m))
    let c := laneCtx s t g gd w.m locs
    let addr : Lane → DWord := fun ln => c.gAddr ln w
    let data : Lane → List Byte := fun ln => c.dataBytes ln w.d size
    let s1 := { s with clk := c.clk }
    ∀ dest : Lane → Dest, c.operandTrap gd locs = none →
      c.Agree gd (fun ln => addr ln :: [BitVec.ofNat 64 (leWord ((data ln).take 8)), BitVec.ofNat 64 (leWord ((data ln).drop 8))]) →
      c.Clear s1 gd size addr .write true true dest → (relSys w.m = true → s.remotePending t = false) →
      let go := c.going gd addr dest
      let nol1 := decide (memHint w.m = 3)
      let before := c.afterXlat s1 go
      let start := if relWide w.m && go.any (fun p => p.2.isRemote) then before.release t g else before
      let stored := start.storeDirect t g.core ((c.execVisible gd).map fun ln => (({ ln := ln, addr := addr ln } : Acc), dest ln, data ln))
        nol1 (relWide w.m)
      (t.launch.contain = false → ∃ g', g.Only g' c.clk w.s.toNat w.m.words ∧ exec (.st w) s = .next (stored.acted c.clk t g')) ∧
      (∃ new, stored.posted = start.posted ++ new ∧
        ∀ p ∈ new, p.rel = relWide w.m ∧ p.team = t.uid ∧ ∃ ln ∈ c.execVisible gd, p.fid = ln.fid) ∧
      (t.launch.paircore = false → (∀ ln ∈ c.execVisible gd, ∃ pa leaf, dest ln = .local pa leaf false ∧
          (pa + size ≤ 2 ^ 40 ∨ 2 ^ 55 ≤ pa ∨ (start.poolL2Line pa).isSome = true)) → c.Keyed start gd size dest →
        let stores := (c.execVisible gd).map fun ln => (match dest ln with | .local pa _ _ => pa | .remote _ => 0, data ln)
        (∀ a, stored.homeByte a = start.homeByte a) ∧
        (∀ a, stored.coreHomeByte g.core a = (lastStore stores a).getD (start.coreHomeByte g.core a)) ∧
        (∀ core a, core ≠ g.core → stored.coreHomeByte core a = start.coreHomeByte core a)) ∧
      (t.launch.contain = true → nol1 = false → isRel w.m = false →
        let u := t.bufferStores (putsOf ((c.execVisible gd).map fun ln => (({ ln := ln, addr := addr ln } : Acc), dest ln, data ln)))
        u.sbUsed ≤ 2048 → t.draining = false →
        ∃ g', g.Only g' c.clk w.s.toNat w.m.words ∧ exec (.st w) s = .next (before.acted c.clk u g'))

/-- R263 to R267: LDU reads once for the group into an s-register and STU stores an s-register once for the group; an
address that is not aligned to its size traps ALIGN.
Rests on the model's choices or readings of log entries 6, 7 and 21. -/
def Obligations.UniformLoadsAndStores : Prop :=
  (∀ w : W3, UniRuns (exec (.ldu w)) (guardY w) w.m w.s.toNat (uniLocs w.a ++ uniLocs w.b) fun s t g c r =>
    let size := widthBytes (memW w.m)
    let a := c.u w.a + c.u w.b + (memDisp w.m).signExtend 64
    (a.toNat % size ≠ 0 → s.traps t g r 0x108 a 0) ∧
    (a.toNat % size = 0 → ∀ bytes S,
      c.groupRead (if acqWide w.m then s.acquire t g else if isAcq w.m then s.observeBy t g else s) 0 (c.loadVia w.m) a size = .ok bytes S →
      ∃ g', r = .next (S.acted c.clk t g') ∧ g.WroteS g' t c.clk w.s.toNat w.m.words 0 w.d.toNat
        (if memW w.m = 0 then (bytes.getD 0 0).signExtend 64
         else if memW w.m = 2 then (BitVec.ofNat 16 (leWord bytes)).signExtend 64 else BitVec.ofNat 64 (leWord bytes)))) ∧
  ∀ w : W3, UniRuns (exec (.stu w)) (guardY w) w.m w.s.toNat (uniLocs w.a ++ uniLocs w.b ++ uniLocs w.d) fun s t g c r =>
    let size := widthBytes (memW w.m)
    let a := c.u w.a + c.u w.b + (memDisp w.m).signExtend 64
    let fid := match g.active with | p :: _ => p.2 | [] => 0
    let acc : Acc := { ln := { pos := 0, fid := fid, wid := 0, side := 0 }, addr := a }
    let nol1 := decide (memHint w.m = 3)
    (a.toNat % size ≠ 0 → s.traps t g r 0x108 a 0) ∧
    (a.toNat % size = 0 → ∀ d, c.reach s .write true a = some d → t.storeMeets .global 0 a.toNat size = .pass →
      (relSys w.m = true → s.remotePending t = false) →
      let put := [(acc, d, (bytes64 (c.u w.d)).take size)]
      let before := c.afterXlat s [(acc, d)]
      let start := if relWide w.m && d.isRemote then before.release t g else before
      let stored := start.storeDirect t g.core put nol1 (relWide w.m)
      (t.launch.contain = false → ∃ g', g.Only g' c.clk w.s.toNat w.m.words ∧ r = .next (stored.acted c.clk t g')) ∧
      (t.launch.contain = true → nol1 = false → isRel w.m = false →
        let u := t.bufferStores (putsOf put)
        u.sbUsed ≤ 2048 → t.draining = false →
        ∃ g', g.Only g' c.clk w.s.toNat w.m.words ∧ r = .next (before.acted c.clk u g')))

/-- R150 and R160: a range within one 4 KiB part of a page that translates, meets no copy and is not poisoned is read for the
group byte by byte.
R119, R150 to R153, R171 and R174: a store performed at its home is read back there and leaves every other byte of HBM
and of host memory; a plain load reads what its core last stored, where its L1 holds no line of the address, and memory
where the core has stored nothing; a release performs, in order, the posted stores that its fibres have made or observed
and those that must go before them.
R56 and R63: a sector that other keys encrypted reads, under a loaded key, as their ciphertext decrypted under that key.
Rests on the model's choices or readings of log entries 4, 5, 6, 35 and 36. -/
def Obligations.ReadsReturnStores : Prop :=
  (∀ (c : Ctx) (s : State) (kind n pa : Nat) (via : LoadVia) (va leaf : DWord),
    0 < n → va.toNat % 2 ^ 12 + n ≤ 2 ^ 12 → fieldOf va 56 8 = 0 → c.reach s .read false va = some (.local pa leaf false) →
    c.t.loadMeets .global 0 va.toNat n = .pass →
    let acc : Acc := { ln := { pos := 0, fid := 0, wid := 0, side := 0 }, addr := va }
    let S := (numsFrom (pa / 128) ((pa + n - 1) / 128 + 1)).foldl
      (fun s l => s.readPrep c.t c.g.core c.g.fids (keyOf leaf) (l * 128) 128 via) (c.afterXlat s [(acc, .local pa leaf false)])
    S.teamPoison c.t c.g.core (keyOf leaf) pa n = none →
    c.groupRead s kind via va n = .ok ((List.range n).map fun i =>
      c.t.sbByte (pa + i) (S.coreByte c.g.core c.t.part (keyOf leaf) (pa + i))) S) ∧
  ((∀ (s : State) (pa : Nat) (bs : List Byte),
    (pa + bs.length ≤ 2 ^ 40 ∨ (2 ^ 40 ≤ pa ∧ pa + bs.length ≤ 2 ^ 55 ∧ ∀ i < bs.length, (s.poolL2Line (pa + i)).isSome = true) ∨ 2 ^ 55 ≤ pa) →
    (∀ i < bs.length, (s.writeHome pa bs).homeByte (pa + i) = bs.getD i 0) ∧
    ∀ a, (a < pa ∨ pa + bs.length ≤ a) → (a < 2 ^ 40 ∨ 2 ^ 55 ≤ a) → (s.writeHome pa bs).homeByte a = s.homeByte a) ∧
  (∀ (s : State) (core part key pa : Nat), s.l1Line core part key pa = none →
    s.coreByte core part key pa =
      (lastStore ((s.posted.filter fun p => p.on core).map fun p => (p.pa, p.data)) pa).getD (s.homeByte pa)) ∧
  (∀ (s : State) (t : Team) (g : Group),
    let mine : Posted → Prop := fun p => ∃ x ∈ g.fids, (p.team = t.uid ∧ p.fid = x) ∨ (t.uid, x) ∈ p.seen
    (∀ p ∈ s.posted, p.pa + p.data.length ≤ 2 ^ 40 ∧ s.sealed p.key p.pa p.data.length) →
    ∃ out left : List Posted, (s.release t g).posted = left ∧ out.Sublist s.posted ∧ left.Sublist s.posted ∧
      out.length + left.length = s.posted.length ∧ (∀ p ∈ left, ¬ mine p) ∧
      (∀ p ∈ out, mine p ∨ ∃ q ∈ out, q.needs p = true) ∧
      ∀ a, (s.release t g).homeByte a = (lastStore (out.map fun p => (p.pa, p.data)) a).getD (s.homeByte a)) ∧
  ∀ (s : State) (key sec : Nat) (old : BitVec 512), sec * 32 < 2 ^ 40 → s.keyLoaded key = true →
    sget none s.seals sec = some old → old ≠ (sget {} s.keys key).pair →
    let S := s.rekey key false (sec * 32) 32
    let bytes := (sget {} s.keys key).misread old sec ((List.range 32).map fun j => s.homeByte (sec * 32 + j))
    sget none S.seals sec = some (sget {} s.keys key).pair ∧
    ∀ a, S.homeByte a = if sec * 32 ≤ a ∧ a < sec * 32 + bytes.length then bytes.getD (a - sec * 32) 0 else s.homeByte a)

/-! ### Atomics and fences -/

/-- R263 to R270: outside CONTAIN, ATOM and CAS read-modify-write their addresses at the home L2 in ascending lane order
and give each lane the old value; RED does so without a result, and its
remote lanes send their operation to the owner.
Rests on the model's choices or readings of log entries 6, 21 and 35. -/
def Obligations.AtomicResults : Prop :=
  ∀ p ∈ [(Instr.atom, 0), (.cas, 1), (.red, 2)], ∀ w, ∀ s : State, ∀ t g, s.issuing t g →
    let gd := guard3 w
    let wide := decide (memW w.m = 5)
    let size := if wide then 8 else 4
    let regs := widthRegs (memW w.m)
    let locs : Lane → List Loc := fun ln => w3Locs w 1 2 (if p.2 = 2 then 0 else regs) ln ++ if p.2 = 0 then [] else laneLocs ln w.d regs
    let c := laneCtx s t g gd w.m locs
    let addr : Lane → DWord := fun ln => c.gAddr ln w
    let third : Lane → DWord := fun ln => if wide then c.c64 ln w.m 0 else (c.c32 ln w.m 0).setWidth 64
    let own : Lane → DWord := fun ln => if wide then c.l64 ln w.d else (c.l32 ln w.d).setWidth 64
    let update : Lane → DWord → Option DWord := fun ln old =>
      if p.2 = 1 then (if old = own ln then some (third ln) else none)
      else some (aopResult t.launch.ftz (memAop w.m) wide old (if p.2 = 0 then third ln else own ln))
    let s1 := { s with clk := c.clk }
    ∀ dest : Lane → Dest, c.operandTrap gd locs = none →
      c.Agree gd (fun ln => addr ln :: if p.2 = 0 then [third ln] else if p.2 = 1 then [third ln, own ln] else [own ln]) →
      (t.launch.det = true → memAop w.m < 9) → c.Clear s1 gd size addr .write (p.2 = 2) true dest →
      (relSys w.m = true → s.remotePending t = false) → t.launch.contain = false →
      let go := c.going gd addr dest
      let before := c.afterXlat s1 go
      let start := if relWide w.m then before.release t g else before
      let S := go.foldl (fun s q => s.prepLane t g.core size .home q)
        (if acqWide w.m then start.acquire t g else if isAcq w.m then start.observeBy t g else start)
      (∀ ln ∈ c.execVisible gd, ∀ pa leaf lost, dest ln = .local pa leaf lost → lost = false ∧ S.homePoisoned pa size = false) →
      let done := rmwLanes S size update go
      let sent := if p.2 = 2 then go.foldl (fun s q => match q.2 with
          | .remote o => s.sendRemote t o q.1.ln.fid q.1.addr.toNat (leBytes size (own q.1.ln).toNat) (some (memAop w.m, wide, own q.1.ln))
          | .local _ _ _ => s) done.2 else done.2
      ∃ t' g', exec (p.1 w) s = .next (sent.acted c.clk t' g') ∧ g.Passed g' c.clk w.s.toNat w.m.words ∧
        (p.2 = 2 → t' = t ∧ g.Only g' c.clk w.s.toNat w.m.words) ∧
        (p.2 ≠ 2 → c.Written 0 w.d (if wide then 2 else 1) (c.bothLanes gd) (fun ln =>
          let old := ((done.1.find? fun x => x.1 = t.visible ln).map (·.2)).getD 0
          (if wide then loHi old else [old.setWidth 32], 0)) t' g')

/-- R269: one read-modify-write, under the key that encrypted its sector, gives the old value and leaves the updated one
in its place in HBM, and an update that
does not take place leaves memory; every other byte of HBM is as it was. R198: the operation codes.
Rests on the model's choices or readings of log entries 5 and 34. -/
def Obligations.ReadModifyWrite : Prop :=
  (∀ (s : State) (key pa size : Nat) (f : DWord → Option DWord), pa + size ≤ 2 ^ 40 → size = 4 ∨ size = 8 →
    s.keyed key pa size →
    let old : DWord := BitVec.ofNat 64 (leWord ((List.range size).map fun i => s.homeByte (pa + i)))
    let r := s.rmwHome key pa size f
    r.1 = old ∧ (f old = none → r.2 = s) ∧
    ∀ v, f old = some v →
      (∀ i < size, (r.2.homeByte (pa + i)).toNat = v.toNat / 256 ^ i % 256) ∧
      ∀ a < 2 ^ 40, (a < pa ∨ pa + size ≤ a) → r.2.homeByte a = s.homeByte a) ∧
  ∀ (ftz : Bool) (o v : DWord),
    let lo : DWord → Word := fun x => x.setWidth 32
    aopResult ftz 0 true o v = o + v ∧ aopResult ftz 0 false o v = (lo o + lo v).setWidth 64 ∧
    aopResult ftz 1 true o v = (if o.toInt ≤ v.toInt then o else v) ∧ aopResult ftz 2 true o v = (if o.toNat ≤ v.toNat then o else v) ∧
    aopResult ftz 3 true o v = (if o.toInt ≤ v.toInt then v else o) ∧ aopResult ftz 4 true o v = (if o.toNat ≤ v.toNat then v else o) ∧
    aopResult ftz 1 false o v = (if (lo o).toInt ≤ (lo v).toInt then lo o else lo v).setWidth 64 ∧
    aopResult ftz 4 false o v = (if (lo o).toNat ≤ (lo v).toNat then lo v else lo o).setWidth 64 ∧
    aopResult ftz 5 true o v = o &&& v ∧ aopResult ftz 6 true o v = o ||| v ∧ aopResult ftz 7 true o v = o ^^^ v ∧
    aopResult ftz 8 true o v = v ∧ aopResult ftz 8 false o v = (lo v).setWidth 64

/-- R263 to R270: ATOMS read-modify-writes the scratchpad in ascending order of its executing lanes, each upon what the
lanes below it have left, gives each lane its old value in one register or two, and leaves every other byte of the
scratchpad and every other register; under CONTAIN a release closes the store buffer's entries.
Rests on the model's choices or readings of log entry 21. -/
def Obligations.ScratchAtomicResults : Prop :=
  ∀ w, ∀ s : State, ∀ t g, s.issuing t g →
    let gd := guard3 w
    let wide := decide (memW w.m = 5)
    let size := if wide then 8 else 4
    let locs : Lane → List Loc := fun ln => w3Locs w 1 1 (widthRegs (memW w.m)) ln
    let c := laneCtx s t g gd w.m locs
    let addr : Lane → DWord := fun ln => (c.b32 ln w + c.l32 ln w.a + (memDisp w.m).signExtend 32).setWidth 64
    let third : Lane → DWord := fun ln => if wide then c.c64 ln w.m 0 else (c.c32 ln w.m 0).setWidth 64
    c.operandTrap gd locs = none → c.Agree gd (fun ln => [addr ln, third ln]) → (t.launch.det = true → memAop w.m < 9) →
    c.ScratchClear gd size addr true → (relSys w.m = true → s.remotePending t = false) →
    (∀ ln ∈ c.execVisible gd, (∀ e ∈ t.errors, e.inScratch (addr ln).toNat size = false) ∧ t.scratchBad (addr ln).toNat size = false) →
    let read : (Nat → Byte) → Nat → DWord := fun m a => BitVec.ofNat 64 (leWord ((List.range size).map fun i => m (a + i)))
    let one : (Nat → Byte) → Lane → Nat → Byte := fun m ln a =>
      let at' := (addr ln).toNat
      if at' ≤ a ∧ a < at' + size then
        BitVec.ofNat 8 ((aopResult t.launch.ftz (memAop w.m) wide (read m at') (third ln)).toNat / 256 ^ (a - at'))
      else m a
    let after : List Lane → Nat → Byte := fun ls => ls.foldl one fun a => sget 0 t.scratch a
    let old : Lane → DWord := fun ln => read (after ((c.execVisible gd).takeWhile fun l => l ≠ ln)) (addr ln).toNat
    let closed := if isRel w.m ∧ t.launch.contain then (if relSys w.m then t.closeSystem else t.closeEntries) else t
    let start := if relWide w.m then { s with clk := c.clk }.release t g else { s with clk := c.clk }
    ∃ t1 t' g', exec (.atoms w) s = .next ((if acqWide w.m then start.acquire t g
        else if isAcq w.m then start.observeBy t g else start).acted c.clk t' g') ∧
      g.Passed g' c.clk w.s.toNat w.m.words ∧
      c.Written 0 w.d (if wide then 2 else 1) (c.bothLanes gd)
        (fun ln => (if wide then loHi (old (t.visible ln)) else [(old (t.visible ln)).setWidth 32], 0)) t1 g' ∧
      t' = { t1 with scratch := t'.scratch, scratchPoison := t'.scratchPoison, errors := t'.errors, sb := closed.sb } ∧
      ∀ a, sget 0 t'.scratch a = after (c.execVisible gd) a

/-- R175, R178 and R271: a fence acts for its executing fibres: they observe the stores of their team; FENCE.D and FENCE.S
perform every store that they have made or observed and drop the partition's lines from the core's L1, FENCE.S waiting
while a remote store of the team is on its way; under CONTAIN the open entries of the store buffer close, at FENCE.S before
whatever follows its remote ones. Landings of copies are not among the observed stores.
Rests on the model's choices or readings of log entries 36 and 37. -/
def Obligations.FencesOrderAccesses : Prop :=
  ∀ p ∈ [(Instr.fenceT, 1), (.fenceD, 2), (.fenceS, 3)], ∀ w, ∀ s : State, ∀ t g, s.issuing t g →
    let gd := guard3 w
    let c := laneCtx s t g gd w.m fun _ => []
    let s1 := { s with clk := c.clk }
    let h : Group := { g with lanes := g.lanes.map fun x => x.bind fun f =>
      if f ∈ (c.execVisible gd).map (·.fid) then some f else none }
    let S := if 2 ≤ p.2 then ((s1.observeBy t h).release t h).acquire t h else s1.observeBy t h
    let closed := if t.launch.contain then (if p.2 = 3 then t.closeSystem else t.closeEntries) else t
    c.operandTrap gd (fun _ => []) = none →
    (c.execVisible gd = [] → ∃ g', g.Only g' c.clk w.s.toNat w.m.words ∧ exec (p.1 w) s = .next (s1.acted c.clk t g')) ∧
    (c.execVisible gd ≠ [] → (p.2 = 3 → s.remotePending t = false) → ∃ g', g.Only g' c.clk w.s.toNat w.m.words ∧
      exec (p.1 w) s = .next (S.acted c.clk closed g')) ∧
    (∀ q ∈ S.posted, q.landing = false → q.team = t.uid → ∀ f ∈ h.fids, q.fid = f ∨ (t.uid, f) ∈ q.seen) ∧
    (2 ≤ p.2 → (∀ q ∈ S.posted, ∀ f ∈ h.fids, q.team = t.uid → q.fid ≠ f ∧ q.landing = true) ∧ ∀ l ∈ S.l1, l.core = g.core → l.part ≠ t.part) ∧
    (p.2 = 3 → c.execVisible gd ≠ [] → s.remotePending t = true →
      exec (p.1 w) s = .next (s1.acted c.clk t { g with nextIssue := c.clk + 1, wait := .held }))


/-! ### Copies, watermarks and pins -/

/-- R112, R276 to R282, R287, R290 and R303: BCPY, GATH and LAYX read their eight descriptor words, refuse a bad
descriptor as ILLEGAL with reason 2 and a partial group with MASK_PARTIAL, trap COPY_FAILED on a failed register, wait on
a running one, without repeating the checks before, and otherwise start: an empty copy is done and makes its arrival at
once, and the register of any other lands from count 0, its ranges are registered, a CONTAIN team reserves
entries for a global destination, and a Hamper record that it lands in names it. No byte has landed yet.
Rests on the model's choices or readings of log entries 41 and 42. -/
def Obligations.CopiesAreIssued : Prop :=
  let row : List ((WE → Instr) × CopyKind × (Team → List DWord → Bool) × (List DWord → Nat × Nat × Bool) ×
      (List DWord → Option (Space × (Int × Int))) × (List DWord → Space × (Int × Int)) × (List DWord → Option (Space × (Int × Int)))) :=
    [(.bcpy, .bcpy, fun _ d => bcpyBad d, fun d => (bcpyTotal d, bcpyTotal d, !bcpyDense d),
        fun d => if bcpyTotal d = 0 then none else some (spaceOf (fieldOf (d.getD 2 0) 4 2), bcpySrcRange d),
        fun d => (spaceOf (fieldOf (d.getD 2 0) 6 2), bcpyDstRange d), fun _ => none),
      (.gath, .gath, fun _ d => gathBad d, fun d => (gathCount d, gathCount d * gathRow d, false),
        fun d => if gathCount d = 0 ∨ gathLen d = 0 then none else some (spaceOf (fieldOf (d.getD 2 0) 4 2), gathSrcRange d),
        fun d => (spaceOf (fieldOf (d.getD 2 0) 6 2), gathDstRange d),
        fun d => if gathCount d = 0 then none else some (spaceOf (fieldOf (d.getD 2 0) 21 1), gathIdxRange d)),
      (.layx, .layx, fun t d => layxBad d || !pinsCover t (layxDstRange d) 9,
        fun d => ((layxOf d).total, (layxOf d).total, decide ((layxOf d).pitch ≠ (layxOf d).row)),
        fun d => some (.global, layxSrcRange d), fun d => (.global, layxDstRange d), fun _ => none)]
  ∀ p ∈ row, ∀ w : WE, UniRuns (exec (p.1 w)) (guardYX w.m) w.m 0 ((List.range 8).map fun i => .s (w.a.toNat + i)) fun s t g c r =>
    let d := (List.range 8).map fun i => c.s (w.a.toNat + i)
    let k := w.sub.toNat % 16
    let old := t.copy k
    let bad := p.2.2.1 t d
    let size := p.2.2.2.1 d
    let dst := p.2.2.2.2.2.1 d
    let key := if dst.1 = .hamper then t.hrecKey g.core (fieldOf (d.getD 2 0) 8 5) else 0
    let ins : Copy := { kind := p.2.1, desc := d, total := size.1, core := g.core, fibres := g.active.map (·.2), strided := size.2.2 }
    let issue : Issue := { copy := ins, src := p.2.2.2.2.1 d, dst := (dst.1, key, dst.2), idx := p.2.2.2.2.2.2 d, bytes := size.2.1 }
    let buffers := t.launch.contain = true ∧ dst.1 = .global ∧ 0 < size.2.1
    let need := (size.2.1 + 31) / 32 + 1
    (bad = true → g.inIssue = false → s.traps t g r 0x100 0 2) ∧
    ((bad = false ∨ g.inIssue = true) → g.active.length < t.launch.wv → s.traps t g r 0x103 0 0) ∧
    ((bad = false ∨ g.inIssue = true) → t.launch.wv ≤ g.active.length →
      (old.st = .failed → s.traps t g r 0x10A old.faddr (BitVec.ofNat 64 (k + 48))) ∧
      (old.st = .landing ∨ old.st = .frozen → r = .next (s.acted c.clk t { g with nextIssue := c.clk + 1, wait := .watermark })) ∧
      (old.st = .idle → issue.trap? t g.activeMask = none → (buffers → t.sbUsed + need ≤ 2048 ∧ t.draining = false) →
        ∃ t' g', r = .next (s.acted c.clk t' g') ∧ g.Only g' c.clk 0 w.m.words ∧
          t' = { t with copySeq := t.copySeq + 1, copies := t'.copies, hrecs := t'.hrecs, barriers := t'.barriers, sb := t'.sb
                        groups := t'.groups } ∧
          (∀ j, j ≠ k → t'.copy j = t.copy j) ∧ (size.1 = 0 → (t'.copy k).st = .idle) ∧
          t.copyArrives t' (size.1 = 0 ∧ bitAt (d.getD 2 0) 16 = true ∧ t.exiting = false) (fieldOf (d.getD 2 0) 17 4) ∧
          (size.1 ≠ 0 → t'.copy k = { ins with
            st := .landing, count := 0, seq := t.copySeq, src := issue.src.map fun x => rangeOf x.1 0 0 x.2
            dst := some (rangeOf dst.1 key (if dst.1 = .hamper then t.hbyteAt key 0 else 0) dst.2)
            idx := issue.idx.map fun x => rangeOf x.1 0 0 x.2
            reserved := if buffers then need else 0, buffered := decide buffers }) ∧
          (dst.1 ≠ .hamper → t'.hrecs = t.hrecs) ∧
          (dst.1 = .hamper → (t'.hrec key).lv = true ∧ (t'.hrec key).lk = k ∧ (t'.hrec key).rf = false ∧ (t'.hrec key).rfail = false ∧
            (t'.hrec key).cw = false ∧ (t'.hrec key).rcount = 0 ∧ (t'.hrec key).w0 = (t.hrec key).w0 ∧
            (t'.hrec key).w1 = (t.hrec key).w1 ∧ (t'.hrec key).w2 = (t.hrec key).w2 ∧ ∀ j, j ≠ key → t'.hrec j = t.hrec j)))

/-- R128, R266, R272 and R282: LCPY passes where its group guard is false; it needs every lane of a full group, else it traps
with the lowest lane's address; where its
addresses and offsets are aligned and in range and its register is idle it starts, with each lane's scratchpad offset and global address, and moves no byte yet.
Rests on the model's choices or readings of log entries 20 and 41. -/
def Obligations.LaneCopiesAreIssued : Prop :=
  ∀ w, ∀ s : State, ∀ t g, s.issuing t g →
    let gd := guard3 w
    let size := match w.m.m with | some x => if x.w.toNat = 5 then 8 else if x.w.toNat = 6 then 16 else 4 | none => 4
    let disp : DWord := match w.m.m with | some x => x.disp.signExtend 64 | none => 0
    let locs : Lane → List Loc := fun ln => w3Locs w 1 2 1 ln
    let c := laneCtx s t g gd w.m locs
    let addr : Lane → DWord := fun ln => c.b64 ln w + (c.l32 ln w.a).signExtend 64 + disp
    let off : Lane → DWord := fun ln => (c.c32 ln w.m 0).setWidth 64
    let ls := c.execVisible gd
    let k := w.d.toNat % 16
    let toGlobal := bitAt w.d 4
    let low : DWord := match ls with | ln :: _ => addr ln | [] => 0
    let glob := rangeOf .global 0 0 (boundsOf (ls.map fun ln => (addr ln).toNat) size)
    let scr := rangeOf .scratch 0 0 (boundsOf (ls.map fun ln => (off ln).toNat) size)
    let buffers := t.launch.contain = true ∧ toGlobal = true ∧ 0 < ls.length * size
    let need := (ls.length * size + 31) / 32 + 1
    c.operandTrap gd locs = none → c.Agree gd (fun ln => [addr ln, off ln]) →
    (gd.isG = true → c.groupGuard gd = false → ∃ g', exec (.lcpy w) s = .next (s.acted c.clk t g') ∧
      g.Only g' c.clk w.s.toNat w.m.words) ∧
    ((gd.isG = true → c.groupGuard gd = true) → ls.length < t.launch.wv →
      ({ s with clk := c.clk } : State).traps t g (exec (.lcpy w) s) 0x103 low 0) ∧
    (t.launch.wv ≤ ls.length → ls ≠ [] → (t.copy k).st = .idle →
      (∀ ln ∈ ls, (addr ln).toNat % size = 0 ∧ (off ln).toNat % size = 0 ∧ (addr ln).toNat + size ≤ 2 ^ 56 ∧
        (off ln).toNat + size ≤ 1024 * t.launch.scratch) →
      (buffers → t.sbUsed + need ≤ 2048 ∧ t.draining = false) →
      ∃ t' g', exec (.lcpy w) s = .next (s.acted c.clk t' g') ∧ g.Only g' c.clk w.s.toNat w.m.words ∧
        t' = { t with copySeq := t.copySeq + 1, copies := t'.copies } ∧ (∀ j, j ≠ k → t'.copy j = t.copy j) ∧
        t'.copy k = { kind := if toGlobal then .lcpySG else .lcpyGS, total := ls.length * size, core := g.core
                      fibres := g.active.map (·.2), strided := true, width := size, st := .landing, seq := t.copySeq
                      lanes := ls.map fun ln => ((off ln).toNat, (addr ln).toNat)
                      src := some (if toGlobal then scr else glob), dst := some (if toGlobal then glob else scr)
                      reserved := if buffers then need else 0, buffered := decide buffers })

/-- R277, R292 to R296: WMRD writes a word of a watermark register; WMWAIT passes an idle register, whose
landings the fibres then observe (R184), traps COPY_FAILED on a failed one and waits on a running one; CPYCAN returns a register to IDLE and makes the arrival of its copy, once a unit of which part has landed is whole; PIN pins
the lines of a range, whose sets make room for them, and writes its slot, or a status; UNPIN releases a slot's lines.
Rests on the model's choices or readings of log entries 15 and 40. -/
def Obligations.WatermarksAndPins : Prop :=
  (∀ w : WE, UniWrites (exec (.wmrd w)) (guardYX w.m) w.m 0 0 w.d.toNat [] fun c =>
    let cp := c.t.copy (w.sub.toNat % 16)
    let kind := match cp.kind with | .bcpy => 0 | .gath => 1 | .layx => 2 | _ => 3
    let st := match cp.st with | .idle => 0 | .landing => 1 | .frozen => 2 | .failed => 3
    [BitVec.ofNat 64 (2 ^ 52 * kind + 2 ^ 48 * st + cp.count % 2 ^ 48), BitVec.ofNat 64 (cp.total % 2 ^ 48), cp.faddr].getD
      (w.sub.toNat / 16) (BitVec.ofNat 64 (min cp.status 0xFFFFFFFF))) ∧
  (∀ w : WE, UniRuns (exec (.wmwait w)) (guardYX w.m) w.m 0 [] fun s t g c r =>
    let k := w.sub.toNat % 16
    let cp := t.copy k
    (cp.st = .idle → ∃ g', g.Only g' c.clk 0 w.m.words ∧
      r = .next ((s.observe t.uid g.fids fun p => decide (p.team = t.uid) && decide (p.fid = cp.engineFid)).acted c.clk t g')) ∧
    (cp.st = .failed → s.traps t g r 0x10A cp.faddr (BitVec.ofNat 64 (k + 48))) ∧
    (cp.st = .landing ∨ cp.st = .frozen → r = .next (s.acted c.clk t { g with nextIssue := c.clk + 1, wait := .watermark }))) ∧
  (∀ w : WE, UniRuns (exec (.cpycan w)) (guardYX w.m) w.m 0 [] fun s t g c r =>
    let k := w.sub.toNat % 16
    let cp := t.copy k
    let arrives := cp.st ≠ .idle ∧ cp.kind ≠ .lcpyGS ∧ cp.kind ≠ .lcpySG ∧ bitAt (cp.d 2) 16 = true ∧ t.exiting = false
    (cp.st = .landing → cp.part ≠ 0 → r = .next (s.acted c.clk t { g with nextIssue := c.clk + 1, wait := .held })) ∧
    (¬ (cp.st = .landing ∧ cp.part ≠ 0) → ∃ t' g',
      r = .next (((if cp.st = .idle then s else s.releaseCopy t cp).acted c.clk t' g').settleFaults t.part) ∧ g.Only g' c.clk 0 w.m.words ∧
      (cp.st = .idle → t' = t) ∧ (t'.copy k).st = .idle ∧ (∀ j, j ≠ k → t'.copy j = t.copy j) ∧
      t' = { t with copies := t'.copies, hrecs := t'.hrecs, barriers := t'.barriers, sb := t'.sb, groups := t'.groups } ∧
      t.copyArrives t' arrives (fieldOf (cp.d 2) 17 4))) ∧
  (∀ w : WE, UniRuns (exec (.pin w)) (guardYX w.m) w.m 0 (uniLocs w.a ++ uniLocs w.b) fun s t g c r =>
    let base := (c.u w.a).toNat
    let len := (c.u w.b).toNat
    let first := base / 128 * 128
    let n := (base + len + 127) / 128 * 128 - first
    let gives : State → Team → Nat → Prop := fun S t' v => ∃ g', r = .next (S.acted c.clk t' g') ∧
      g.WroteS g' t c.clk 0 w.m.words 0 w.d.toNat (BitVec.ofNat 64 v)
    (len = 0 ∨ 2 ^ 28 < len → gives s t 4) ∧
    (0 < len → len ≤ 2 ^ 28 →
      ((∀ j < 8, sget none t.pins j ≠ none) → gives s t 2) ∧
      ∀ j < 8, sget none t.pins j = none → (∀ i < j, sget none t.pins i ≠ none) →
        let lines := s.pinLines c [] (blocksOf first n (n / 2 ^ 12 + 2))
        (∀ x, lines.2.1 = some x → x ≠ .held →
          gives (s.logCopyFault t g.core x (BitVec.ofNat 64 (first + 128 * lines.1.length))) t 3) ∧
        (lines.2.1 = none → lines.2.2.pantryFull lines.1 = true → gives lines.2.2 t 1) ∧
        (lines.2.1 = none → lines.2.2.pantryFull lines.1 = false →
          let S := ((lines.1.filter fun l => !lines.2.2.pinned.contains l).eraseDups).foldl State.l2Room lines.2.2
          gives { S with pinned := S.pinned ++ lines.1 }
            { t with pins := sset none t.pins j (some { addr := BitVec.ofNat 64 first, len := n, lines := lines.1 }) } (j * 256)))) ∧
  ∀ w : WE, UniRuns (exec (.unpin w)) (guardYX w.m) w.m 0 (uniLocs w.a) fun s t g c r =>
    let j := (c.u w.a).toNat
    (8 ≤ j → s.traps t g r 0x100 0 2) ∧
    (j < 8 → sget none t.pins j = none → ∃ g', r = .next (s.acted c.clk t g') ∧ g.Only g' c.clk 0 w.m.words) ∧
    (j < 8 → ∀ slot, sget none t.pins j = some slot →
      (∀ x ∈ t.copies, x.2.running = true → x.2.kind = .layx → meets? x.2.dst .global 0 slot.addr.toNat slot.len = false) →
      ∃ g', r = .next (State.acted { s with pinned := slot.lines.foldl (fun p l => p.erase l) s.pinned } c.clk
        { t with pins := sset none t.pins j none } g') ∧ g.Only g' c.clk 0 w.m.words)

/-! ### The Hamper, tiles and matrix products -/

/-- R302 and R309 to R311: HRES writes a reservation record from three s-registers, refuses a bad descriptor and traps a
range beyond the Hamper; HREL clears a record; both wait while a copy lands in it, and HREL while the product of another
group fetches through it; HSTAT reads a word of a record.
Rests on the model's choices or readings of log entry 48. -/
def Obligations.HamperRecords : Prop :=
  (∀ w : WE, UniRuns (exec (.hres w)) (guardYX w.m) w.m 0 ((List.range 3).map fun i => .s (w.a.toNat + i)) fun s t g c r =>
    let key := 32 * (g.core - t.core) + w.sub.toNat % 32
    let new : HRecord := { w0 := c.s w.a.toNat, w1 := c.s (w.a.toNat + 1), w2 := c.s (w.a.toNat + 2), w3 := 0x80000000 }
    (new.bad = true → s.traps t g r 0x100 0 2) ∧
    (new.bad = false → 1024 * t.launch.hamper < new.hbase + new.hlen → s.traps t g r 0x200 0 5) ∧
    (new.bad = false → new.hbase + new.hlen ≤ 1024 * t.launch.hamper →
      ((t.hrec key).held = true → t.landingBusy (t.hrec key) = true →
        r = .next (s.acted c.clk t { g with nextIssue := c.clk + 1, wait := .held })) ∧
      ((t.hrec key).held = false ∨ t.landingBusy (t.hrec key) = false → ∃ t' g', r = .next ((s.acted c.clk t' g').settleFaults t.part) ∧
        g.Only g' c.clk 0 w.m.words ∧ t' = { t with hrecs := t'.hrecs } ∧ ∀ j, t'.hrec j = if j = key then new else t.hrec j))) ∧
  (∀ w : WE, UniRuns (exec (.hrel w)) (guardYX w.m) w.m 0 [] fun s t g c r =>
    let key := 32 * (g.core - t.core) + w.sub.toNat % 32
    let fetched := ∃ u ∈ t.groups, u.num ≠ g.num ∧ ∃ p, u.progress = some p ∧ ∃ x ∈ p.recs, x.1 = key
    let busy := (t.hrec key).held = true ∧ (t.landingBusy (t.hrec key) = true ∨ (t.hrec key).rf = true ∨ fetched)
    (busy → r = .next (s.acted c.clk t { g with nextIssue := c.clk + 1, wait := .held })) ∧
    (¬ busy → ∃ t' g', r = .next ((s.acted c.clk t' g').settleFaults t.part) ∧ g.Only g' c.clk 0 w.m.words ∧
      t' = { t with hrecs := t'.hrecs } ∧ ∀ j, t'.hrec j = if j = key then {} else t.hrec j)) ∧
  ∀ w : WE, UniRuns (exec (.hstat w)) (guardYX w.m) w.m 0 (uniLocs w.a) fun s t g c r =>
    let h := t.hrec (32 * (g.core - t.core) + w.sub.toNat % 32)
    (3 < (c.u w.a).toNat → s.traps t g r 0x100 0 2) ∧
    ((c.u w.a).toNat ≤ 3 → ∃ g', r = .next (s.acted c.clk t g') ∧
      g.WroteS g' t c.clk 0 w.m.words 0 w.d.toNat ([h.w0, h.w1, h.w2, h.w3].getD (c.u w.a).toNat 0))

/-- R317, R318, R329 to R331, R349 and R350: ACLR clears a tile; ALD fills a tile, its checksum words, or both from the
scratchpad; AST stores them; ACHK writes the pair of its judgement; MASKP makes a mask tile. A partial group traps
MASK_PARTIAL, a tile beyond ACC traps PAGE_FAULT with detail 5.
Rests on the model's choices or readings of log entry 22. -/
def Obligations.TileResults : Prop :=
  let full : Team → Group → Prop := fun t g => t.launch.wv ≤ g.active.length
  (∀ p ∈ [(Instr.aclr, fun w : WE => uniLocs w.d), (.ald, fun w => uniLocs w.d ++ uniLocs w.a), (.ast, fun w => uniLocs w.d ++ uniLocs w.a),
      (.maskp, fun w => uniLocs w.d ++ uniLocs w.a)], ∀ w, UniRuns (exec (p.1 w)) (guardYX w.m) w.m 0 (p.2 w) fun s t g c r =>
    (g.active.length < t.launch.wv → g.progress = none → s.traps t g r 0x103 0 0) ∧
    (full t g → t.launch.acc ≤ (c.u w.d).toNat → g.progress = none → s.traps t g r 0x200 0 5)) ∧
  (∀ w : WE, UniRuns (exec (.aclr w)) (guardYX w.m) w.m 0 (uniLocs w.d) fun s t g c r =>
    let half := g.core - t.core
    let n := (c.u w.d).toNat
    full t g → n < t.launch.acc → ∃ t' g', r = .next (s.acted c.clk t' g') ∧ g.Only g' c.clk 0 w.m.words ∧
      t' = { t with tiles := t'.tiles, sums := t'.sums, errors := t'.errors } ∧ otherTilesKept t t' half n ∧
      t'.tile half n = List.replicate 256 0 ∧ t'.checks half n = List.replicate 32 0) ∧
  (∀ w : WE, UniRuns (exec (.ald w)) (guardYX w.m) w.m 0 (uniLocs w.d ++ uniLocs w.a) fun s t g c r =>
    let half := g.core - t.core
    let n := (c.u w.d).toNat
    let off := fieldOf (c.u w.a) 0 32
    let sumsOnly := bitAt w.sub 1
    let size := if sumsOnly then 128 else 1024
    let ws : List Word := (List.range (size / 4)).map fun i =>
      sget 0 t.scratch (off + 4 * i + 3) ++ sget 0 t.scratch (off + 4 * i + 2) ++ sget 0 t.scratch (off + 4 * i + 1) ++ sget 0 t.scratch (off + 4 * i)
    full t g → n < t.launch.acc → t.Quiet → off % 64 = 0 → off + size ≤ 1024 * t.launch.scratch →
      ∃ t' g', r = .next (s.acted c.clk t' g') ∧ g.Only g' c.clk 0 w.m.words ∧ otherTilesKept t t' half n ∧
      t' = { t with tiles := t'.tiles, sums := t'.sums, errors := t'.errors } ∧
      t'.tile half n = (if sumsOnly then t.tile half n else ws) ∧
      t'.checks half n = if sumsOnly then ws else if bitAt w.sub 0 then sumsOf ws else t.checks half n) ∧
  (∀ w : WE, UniRuns (exec (.ast w)) (guardYX w.m) w.m 0 (uniLocs w.d ++ uniLocs w.a) fun s t g c r =>
    let half := g.core - t.core
    let n := (c.u w.d).toNat
    let off := fieldOf (c.u w.a) 0 32
    let ws := if bitAt w.sub 1 then t.checks half n else t.tile half n
    full t g → n < t.launch.acc → t.errors = [] → off % 64 = 0 → off + 4 * ws.length ≤ 1024 * t.launch.scratch →
      t.storeMeets .scratch 0 off (4 * ws.length) = .pass →
      ∃ t' g', r = .next (s.acted c.clk t' g') ∧ g.Only g' c.clk 0 w.m.words ∧
      t' = { t with scratch := t'.scratch, scratchPoison := t'.scratchPoison, errors := t'.errors } ∧
      ∀ a, sget 0 t'.scratch a = if off ≤ a ∧ a < off + 4 * ws.length
        then BitVec.ofNat 8 ((ws.getD ((a - off) / 4) 0).toNat / 256 ^ ((a - off) % 4)) else sget 0 t.scratch a) ∧
  (∀ w : WE, UniRuns (exec (.achk w)) (guardYX w.m) w.m 0 (uniLocs w.a ++ uniLocs w.b) fun s t g c r =>
    let half := g.core - t.core
    let n := (c.u w.a).toNat
    let judge := fun (ls : List (List FVal)) (cs : List Word) => (ls.zip cs).map fun p =>
      judgeSum (tolerance ((c.u w.b).setWidth 32)) (tolerance ((c.u w.b >>> 32).setWidth 32)) p.2 p.1
    let v := achkPair (judge (tileRows (t.tile half n)) ((t.checks half n).take 16)) (judge (tileCols (t.tile half n)) ((t.checks half n).drop 16))
    (g.active.length < t.launch.wv → g.progress = none → s.traps t g r 0x103 0 0) ∧
    (full t g → n < t.launch.acc → t.errors = [] → w.d.toNat + 1 < 64 → ∃ g', r = .next (s.acted c.clk t g') ∧ g.Passed g' c.clk 0 w.m.words ∧
      ∀ i, sget 0 g'.sregs i = if i = w.d.toNat then v.1 else if i = w.d.toNat + 1 then v.2 else sget 0 g.sregs i)) ∧
  ∀ w : WE, UniRuns (exec (.maskp w)) (guardYX w.m) w.m 0 (uniLocs w.d ++ uniLocs w.a) fun s t g c r =>
    let half := g.core - t.core
    let n := (c.u w.d).toNat
    let off := fieldOf (c.u w.a) 0 32
    let hd := (List.range 8).map fun i => sget 0 t.scratch (off + i)
    ∀ rows kt kt0, maskHeader (wordAt hd 0) (wordAt hd 4) = some (rows, kt, kt0) →
      full t g → n < t.launch.acc → t.Quiet → off % 8 = 0 → off + 8 + 2 * rows * kt ≤ 1024 * t.launch.scratch →
      ∃ t' g', r = .next (s.acted c.clk t' g') ∧ g.Only g' c.clk 0 w.m.words ∧ otherTilesKept t t' half n ∧
      t' = { t with tiles := t'.tiles, sums := t'.sums, errors := t'.errors } ∧
      t'.checks half n = [wordAt hd 0, wordAt hd 4] ++ List.replicate 30 0 ∧
      ∀ x < rows * kt, ∀ q < 16, bitAt ((t'.tile half n).getD (x / 2) 0) (16 * (x % 2) + q) =
        bitAt (sget 0 t.scratch (off + 8 + 2 * x + q / 8)) (q % 8)

/-- R319 to R324, R351 and R352: MMA, MMAK and MMAM of a full group, with no other product under way on the core, perform
every K step of their records on the tile D, each step adding the exact sum of its products with one rounding, or modulo 2^32 for INT8; MMAK steps the checksum words
too, and MMAM then writes −∞ where its mask tile is closed. No other tile, register or byte of memory changes.
Rests on the model's choices or readings of log entry 48. -/
def Obligations.MatrixProducts : Prop :=
  (∀ p ∈ [(Instr.mma, false, false), (.mmak, true, false), (.mmam, false, true)], ∀ w : WE,
    UniRuns (exec (p.1 w)) (guardYX w.m) w.m 0 (uniLocs w.d ++ uniLocs w.a) fun s t g c r =>
      let o := c.matOp w
      let a := t.hrec o.aKey
      let b := t.hrec o.bKey
      let x := fieldOf (c.u w.a) 32 8
      let ftz := t.launch.ftz
      let product := (List.range a.steps).foldl (fun cs k => stepTile (b.fmt = 7) o.zskip ftz cs (o.aRows t k) (o.bCols t k)) (t.tile o.half o.tile)
      let sums := (List.range a.steps).foldl (fun cs k => stepChecks o.zskip ftz cs (o.aRows t k) (o.bCols t k)) (t.checks o.half o.tile)
      (g.active.length < t.launch.wv → g.progress = none → s.traps t g r 0x103 0 0) ∧
      (t.launch.wv ≤ g.active.length → g.progress = none → t.Quiet → (∀ h ∈ t.hrecs, h.2.rf = false ∧ h.2.rfail = false) →
        s.productsBeside t g.core [g.num] = [] → s.pstate t.part ≠ 2 →
        o.tile < t.launch.acc → o.recordTrap t g.activeMask p.2.1 = none →
        (p.2.2 = true → x < t.launch.acc ∧ a.fmt ≠ 7 ∧ x ≠ o.tile ∧ (t.maskOfTile o.half x).isSome = true) →
        ∃ t' g', r = .next (s.acted c.clk t' g') ∧ g.Only g' c.clk 0 w.m.words ∧ otherTilesKept t t' o.half o.tile ∧
          t' = { t with tiles := t'.tiles, sums := t'.sums, errors := t'.errors } ∧
          t'.checks o.half o.tile = (if p.2.1 then sums else t.checks o.half o.tile) ∧
          (p.2.2 = false → t'.tile o.half o.tile = product) ∧
          (p.2.2 = true → ∀ rows kt kt0, t.maskOfTile o.half x = some (rows, kt, kt0) → ∀ m < 16, ∀ q < 16,
            let n := (16 * o.i + m) * kt + (o.j - kt0)
            (t'.tile o.half o.tile).getD (16 * m + q) 0 =
              if 16 * o.i + m < rows ∧ kt0 ≤ o.j ∧ o.j - kt0 < kt ∧ bitAt ((t.tile o.half x).getD (n / 2) 0) (16 * (n % 2) + q) = true
              then product.getD (16 * m + q) 0 else 0xFF800000))) ∧
  (∀ (zskip ftz : Bool) (acc : Word) (xs ys : List Int), xs.length = ys.length →
    let val := fun v : Int => FVal.fin (decide (v < 0)) v.natAbs 0
    stepElement true zskip ftz acc (xs.map val) (ys.map val) = acc + BitVec.ofInt 32 ((xs.zip ys).map fun z => z.1 * z.2).sum)

/-! ### Guided pairs -/

/-- R332 to R339, R343 and R344: PAIR of a full group opens a free slot and waits, or completes the binding with the
group that waits there on its core in the other role, both receiving the lowest fibre of the other half and observing the
stores of their team; a waiting half waits on, and its partner waits for one that a fault has parked; wrong uses receive
a status and record nothing; UNPAIR takes a half out; GUIDE alone copies or keeps the tile and as a pair extrapolates the
conditional tile.
Rests on the model's choices or readings of log entry 51. -/
def Obligations.PairsBindAndGuide : Prop :=
  (∀ w : WE, UniRuns (exec (.pair w)) (guardYX w.m) w.m 0 [] fun s t g c r =>
    let k := w.sub.toNat % 8
    let role := if bitAt w.sub 3 then 1 else 0
    let e := t.pair k
    let gives : Nat → Prop := fun st => ∃ g', r = .next (s.acted c.clk t g') ∧
      g.WroteS g' t c.clk 0 w.m.words 0 w.d.toNat (BitVec.ofNat 64 st)
    let own := e.state = 1 ∧ e.orole = role ∧ g.isSet (e.set role) = true
    let named := ∃ j < 8, ∃ x ∈ (t.pair j).roles, ∃ f ∈ (t.pair j).set x, f ∈ g.fibres
    let half : PairEntry → Prop := fun b => b.mask role = g.fibreMask ∧ b.base role = g.lowFibre % 2 ^ 32
    t.launch.wv ≤ g.active.length → g.progress = none →
    (own → r = .next (s.acted c.clk t { g with nextIssue := c.clk + 1, wait := .pair
                                               arrival := some { slot := k, kind := 0, words := w.m.words, ops := [w.d.setWidth 64] } })) ∧ (¬ own →
    (g.inReach = false → gives 4) ∧
    (g.inReach = true → named → gives 5) ∧
    (g.inReach = true → ¬ named → (e.state = 2 ∨ e.state = 3 → gives 2) ∧
      (e.state = 1 → e.orole = role → gives 1) ∧
      (e.state = 1 → e.orole ≠ role → ((t.arrivedAt k g.num = none ∧ ∃ f ∈ e.set e.orole, t.coreOf f ≠ g.core) ∨
        ∃ q a, t.arrivedAt k g.num = some (q, a) ∧ q.core ≠ g.core) → gives 3) ∧
      (e.state = 1 → e.orole ≠ role → t.arrivedAt k g.num = none → (∀ f ∈ e.set e.orole, t.coreOf f = g.core) →
        r = .next (s.acted c.clk t { g with nextIssue := c.clk + 1, wait := .pair })) ∧
      (e.state = 1 → e.orole ≠ role → ∀ q a, t.arrivedAt k g.num = some (q, a) → q.core = g.core →
        ∃ t' g' q' : _, r = .next (((s.observeBy t q).observeBy t g).acted c.clk (Team.putGroup t' q') g') ∧
          g.WroteS g' t c.clk 0 w.m.words 0 w.d.toNat (BitVec.ofNat 64 (2 ^ 32 * q.lowFibre)) ∧
          q.WroteS q' t c.clk 0 a.words 0 (a.ops.headD 0).toNat (BitVec.ofNat 64 (2 ^ 32 * g.lowFibre)) ∧
          t' = { t with pairs := t'.pairs, sb := t'.sb } ∧ (∀ j, j ≠ k → t'.pair j = t.pair j) ∧ (t'.pair k).state = 2 ∧
          half (t'.pair k) ∧ (t'.pair k).mask (1 - role) = e.mask (1 - role) ∧ (t'.pair k).base (1 - role) = e.base (1 - role)) ∧
      (e.state = 0 → ∃ t' g', r = .next (s.acted c.clk t' g') ∧ g'.wait = .pair ∧ g'.pc = g.pc ∧ g'.nextIssue = c.clk + 1 ∧
        t' = { t with pairs := t'.pairs } ∧ (∀ j, j ≠ k → t'.pair j = t.pair j) ∧ (t'.pair k).state = 1 ∧ (t'.pair k).orole = role ∧
        half (t'.pair k))))) ∧
  (∀ w : WE, UniRuns (exec (.unpair w)) (guardYX w.m) w.m 0 [] fun s t g c r =>
    let k := w.sub.toNat % 8
    g.progress = none → ∃ t' g', r = .next (s.acted c.clk t' g') ∧ g.Only g' c.clk 0 w.m.words ∧ t' = { t with pairs := t'.pairs } ∧
      (∀ j, j ≠ k → t'.pair j = t.pair j) ∧
      t'.pair k = match (t.pair k).half? g with | some role => (t.pair k).leave role | none => t.pair k) ∧
  ∀ w : WE, UniRuns (exec (.guide w)) (guardYX w.m) w.m 0 (uniLocs w.d ++ uniLocs w.a ++ uniLocs w.b) fun s t g c r =>
    let k := w.sub.toNat % 8
    let half := g.core - t.core
    let tc := (c.u w.d).toNat
    let tu := (c.u w.a).toNat
    let e := t.pair k
    let el : Word → Word → Word := fun x y =>
      let rd : Rounding := { f := f32, mode := .rne, ftz := t.launch.ftz }
      let v := fun z : Word => f32.decode t.launch.ftz z.toNat
      BitVec.ofNat 32 (fFma rd (v ((c.u w.b).setWidth 32)) (f32.decode t.launch.ftz (fAdd rd (v x) ((v y).modify false true)).1) (v y)).1
    ∀ role, e.half? g = some role → t.launch.wv ≤ g.active.length → g.progress = none → g.arrival = none →
      tc < t.launch.acc → tu < t.launch.acc → t.errors = [] →
      (e.state = 3 → ∃ t' g', r = .next (s.acted c.clk t' g') ∧ g.Only g' c.clk 0 w.m.words ∧
        t' = { t with tiles := t'.tiles, errors := t'.errors } ∧ otherTilesKept t t' half tc ∧
        t'.tile half tc = if role = 0 then t.tile half tc else t.tile half tu) ∧
      (e.state = 2 → e.pend ≠ 0 → e.prole ≠ role → e.pstep = 0 → ∀ q b, t.arrivedAt k g.num = some (q, b) → b.kind = 2 →
        b.ops = [c.u w.d, c.u w.a, ((c.u w.b).setWidth 32).setWidth 64] →
        ∃ t' g' q' : _, r = .next (s.acted c.clk (Team.putGroup t' q') g') ∧ g.Only g' c.clk 0 w.m.words ∧ q.Only q' c.clk 0 b.words ∧
          t' = { t with tiles := t'.tiles, errors := t'.errors, pairs := t'.pairs } ∧ otherTilesKept t t' half tc ∧
          t'.tile half tc = (t.tile half tc).zipWith el (t.tile half tu)) ∧
      (e.state = 2 → e.pend = 0 → ∃ t' g', r = .next (s.acted c.clk t' g') ∧ g'.wait = .pair ∧ g'.pc = g.pc ∧
        t' = { t with pairs := t'.pairs } ∧ (t'.pair k).pend = 2 ∧ (t'.pair k).prole = role)

/-- R340 to R342 and R346: MMAP of a half alone is its product; of both halves, it fetches B once and performs each half's K
steps on its own tile with its own A, the conditional half's part of a step before the unconditional half's, whichever
arrived first, also where both name one tile.
Rests on the model's choices or readings of log entries 48 and 51. -/
def Obligations.PairedProducts : Prop :=
  ∀ w : WE, UniRuns (exec (.mmap w)) (guardYX w.m) w.m 0 (uniLocs w.d ++ uniLocs w.a) fun s t g c r =>
    let o := c.matOp w
    let k := fieldOf (c.u w.a) 32 3
    let e := t.pair k
    let a := t.hrec o.aKey
    let b := t.hrec o.bKey
    let after : MatOp → List Word := fun x =>
      (List.range a.steps).foldl (fun cs n => stepTile (b.fmt = 7) x.zskip t.launch.ftz cs (x.aRows t n) (x.bCols t n)) (t.tile x.half x.tile)
    ∀ role, e.half? g = some role → t.launch.wv ≤ g.active.length → g.progress = none → g.arrival = none → t.Quiet →
      (∀ h ∈ t.hrecs, h.2.rf = false ∧ h.2.rfail = false) → s.pstate t.part ≠ 2 →
      o.tile < t.launch.acc → o.recordTrap t g.activeMask false = none →
      (e.state = 3 → s.productsBeside t g.core [g.num] = [] → ∃ t' g', r = .next (s.acted c.clk t' g') ∧ g.Only g' c.clk 0 w.m.words ∧ otherTilesKept t t' o.half o.tile ∧
        t' = { t with tiles := t'.tiles } ∧ t'.tile o.half o.tile = after o) ∧
      (e.state = 2 → e.pend ≠ 0 → e.prole ≠ role → e.pstep = 0 → ∀ q y, t.arrivedAt k g.num = some (q, y) → y.kind = 1 → q.progress = none →
        y.ops.take 4 = [BitVec.ofNat 64 o.bKey, c.u w.a &&& 0xFFFFFFFF, if o.trans then 1 else 0, if o.zskip then 1 else 0] →
        let p : MatOp := { o with tile := (y.ops.getD 4 0).toNat, aKey := (y.ops.getD 5 0).toNat }
        let step : List Word → MatOp → Nat → List Word := fun cs x n =>
          stepTile (b.fmt = 7) x.zskip t.launch.ftz cs (x.aRows t n) (x.bCols t n)
        p.recordTrap t g.activeMask false = none → s.productsBeside t g.core [g.num, q.num] = [] →
        ∃ t' g' q' : _, r = .next (s.acted c.clk (Team.putGroup t' q') g') ∧ g.Only g' c.clk 0 w.m.words ∧ q.Only q' c.clk 0 y.words ∧
          t' = { t with tiles := t'.tiles, pairs := t'.pairs } ∧
          (p.tile ≠ o.tile → t'.tile o.half o.tile = after o ∧ t'.tile p.half p.tile = after p) ∧
          (p.tile = o.tile → t'.tile o.half o.tile = (List.range a.steps).foldl (fun cs n =>
            if role = 0 then step (step cs o n) p n else step (step cs p n) o n) (t.tile o.half o.tile)) ∧
          ∀ h m, 256 * h + m ≠ 256 * o.half + o.tile → 256 * h + m ≠ 256 * p.half + p.tile → t'.tile h m = t.tile h m)

/-! ### Token rings and claim tickets -/

/-- R353 to R357: TOKPUB publishes n tokens of the scratchpad after a release at SYSTEM scope, or, under CONTAIN, as one
record of the store buffer, and gives the first index; a ring that is off traps RING_OFF, more tokens than the ring
holds give 2^64 - 2, and a full ring gives all ones. The engine writes each entry with its lap, then HEAD.
Rests on the model's choices or readings of log entries 52 and 69. -/
def Obligations.TokensArePublished : Prop :=
  (∀ w : WE, UniRuns (exec (.tokpub w)) (guardYX w.m) w.m 0 (uniLocs w.a ++ uniLocs w.b) fun s t g c r =>
    let k := w.sub.toNat % 16
    let off := fieldOf (c.u w.a) 0 32
    let n := (c.u w.b).toNat
    let es := (List.range n).map fun i => (List.range 16).map fun j => sget 0 t.scratch (off + 16 * i + j)
    let gives : State → Team → Nat → Prop := fun S t' v => ∃ g', r = .next (S.acted c.clk t' g') ∧
      g.WroteS g' t c.clk 0 w.m.words 0 w.d.toNat (BitVec.ofNat 64 v)
    let release := s.release t g
    (s.ringOn k t.part = false → g.progress = none →
      s.traps t g r 0x10F 0 (BitVec.ofNat 64 (if bitAt (s.reg (0x058 + k)) 5 then k + 16 else k))) ∧
    (s.ringOn k t.part = true → n = 0 → gives s t (s.ring k).next) ∧
    (s.ringOn k t.part = true → 0 < n →
      (off % 16 ≠ 0 → g.progress = none → s.traps t g r 0x108 (BitVec.ofNat 64 off) 0) ∧
      (off % 16 = 0 → 1024 * t.launch.scratch < off + 16 * n → g.progress = none → s.traps t g r 0x200 (BitVec.ofNat 64 off) 5) ∧
      (off % 16 = 0 → off + 16 * n ≤ 1024 * t.launch.scratch → s.ringSize k < n → gives s t (2 ^ 64 - 2)) ∧
      (off % 16 = 0 → off + 16 * n ≤ 1024 * t.launch.scratch → n ≤ s.ringSize k → t.Quiet →
        (t.launch.contain = true → t.closeSystem.sbUsed < 2048 → t.draining = false →
          gives s { t.closeSystem with sb := t.closeSystem.sb ++ [.token k es] } (2 ^ 64 - 3)) ∧
        (t.launch.contain = false → s.ringCross (s.coreSec g.core) k n = none → s.port0 = true → s.remotePending t = false →
          gives (release.ringPublish k es).1 t ((release.ringPublish k es).2.getD (2 ^ 64 - 1)))))) ∧
  ∀ (s : State) (k : Nat) (es : List (List Byte)),
    let r := s.ring k
    let n := es.length
    let size := s.ringSize k
    let seen := if r.tseen + size < r.next + n then s.ringTail k else r.tseen
    let S := (s.ringPublish k es).1
    n ≤ size → (∀ e ∈ es, e.length = 16) → s.bufail 24 = false →
    (seen + size < r.next + n → (s.ringPublish k es).2 = none ∧ S = { s with rings := S.rings } ∧ (S.ring k).next = r.next) ∧
    (r.next + n ≤ seen + size → (s.ringPublish k es).2 = some r.next ∧ (S.ring k).next = r.next + n ∧
      (∀ i < n, S.homeBytes (s.ringBase k + 128 + 16 * ((r.next + i) % size)) 16 =
        (es.getD i []).take 12 ++ leBytes 2 (((r.next + i) / size + 1) % 2 ^ 16) ++ ((es.getD i []).drop 12).take 2) ∧
      S.homeBytes (s.ringBase k) 8 = leBytes 8 (r.next + n) ∧
      ∀ a < 2 ^ 40, S.homeByte a = s.homeByte a)

/-- R360 to R364, R368 and R369: TKISSUE digests its input and output, takes the next FREE slot from HEAD on, writes the
ticket and then, as a release, word 0, and gives the handle; under CONTAIN it makes the slot PENDING at once, and the ticket
enters the store buffer as a release; a disabled Larder and 16 slots in use give OFF and FULL; a set
reserved bit traps ILLEGAL and an address beyond the global space PAGE_FAULT. Each slot examined advances HEAD: the slot found
has a usable word 0 that says FREE, whose generation the handle carries, and every slot examined before it has none. The digest of
the five bytes of the chapter's example is the one it states.
Rests on the model's choices or readings of log entry 53. -/
def Obligations.TicketsAreIssued : Prop :=
  (∀ w : WE, UniRuns (exec (.tkissue w)) (guardYX w.m) w.m 0 ((List.range 6).map fun i => .s (w.a.toNat + i)) fun s t g c r =>
    let d : Nat → DWord := fun i => c.s (w.a.toNat + i)
    let il := fieldOf (d 1) 0 32
    let ol := fieldOf (d 3) 0 32
    let k := t.part
    let gives' : State → Team → DWord → Prop := fun S u v => ∃ g', r = .next (S.acted c.clk u g') ∧ g.WroteS g' t c.clk 0 w.m.words 0 w.d.toNat v
    let gives : State → DWord → Prop := fun S v => gives' S t v
    let fits : DWord → Nat → Prop := fun a n => n = 0 ∨ a.toNat + n ≤ 2 ^ 56
    (fieldOf (d 3) 36 28 ≠ 0 → s.traps t g r 0x100 0 2) ∧
    (fieldOf (d 3) 36 28 = 0 → ¬ fits (d 0) il → fieldOf (d 0) 56 8 = 0 → s.traps t g r 0x200 (2 ^ 56) 4) ∧
    (fieldOf (d 3) 36 28 = 0 → fits (d 0) il → fits (d 2) ol →
      ∀ ibs S1 obs S2, c.ticketGot s (d 0) il = .ok ibs S1 → c.ticketGot S1 (d 2) ol = .ok obs S2 →
      let ver := S2.version t
      let rest := bytes32 (S2.passVersion t) ++ leBytes 4 (fieldOf (d 1) 32 32) ++ bytes64 (d 4) ++ bytes64 (d 5) ++ bytes64 (d 0) ++
        leBytes 4 il ++ leBytes 4 0 ++ bytes64 (digest ibs) ++ bytes64 (digest obs) ++ List.replicate 64 0
      let word0 : Nat → Nat → DWord := fun i gen => BitVec.ofNat 64 (i % 2 ^ 32 + 2 ^ 32 * gen + 2 ^ 48 * 2 + 2 ^ 56 * fieldOf (d 3) 32 4 +
        (if t.launch.prot then 2 ^ 60 else 0) + (if t.launch.contain then 2 ^ 61 else 0))
      (S2.larderOff k = true → gives S2 (BitVec.ofNat 64 (5 * 2 ^ 56))) ∧
      (S2.larderOff k = false → t.launch.contain = false → S2.remotePending t = false →
        (∀ S3, S2.allocFrom (some g.core) k ver 16 = .full S3 → gives S3 (BitVec.ofNat 64 (2 ^ 56))) ∧
        (∀ i gen S3, S2.allocFrom (some g.core) k ver 16 = .found i gen S3 →
          let S4 := S3.release t g
          ∀ S5 pa leaf lost, S4.enginePut (some g.core) k ver (S4.slotAddr k i + 8) rest = (S5, .ok pa leaf lost) →
            gives (S5.enginePut (some g.core) k ver (S5.slotAddr k i) (bytes64 (word0 i gen))).1 (BitVec.ofNat 64 (2 ^ 32 * gen + i)))) ∧
      (S2.larderOff k = false → t.launch.contain = true →
        (∀ S3, S2.allocFrom (some g.core) k ver 16 = .full S3 → gives S3 (BitVec.ofNat 64 (2 ^ 56))) ∧
        (∀ i gen S3, S2.allocFrom (some g.core) k ver 16 = .found i gen S3 → ∀ S4 pa leaf lost,
          S3.enginePut (some g.core) k ver (S3.slotAddr k i) (bytes64 (BitVec.ofNat 64 (i % 2 ^ 32 + 2 ^ 32 * gen + 2 ^ 48))) = (S4, .ok pa leaf lost) →
          let put : Put := { owner := none, addr := pa, data := bytes64 (word0 i gen) ++ rest, key := keyOf leaf }
          let u := if lost then t.closeSystem else t.closeSystem.bufferStores [put]
          u.sbUsed ≤ 2048 → t.draining = false →
            gives' S4 { u with pending := t.pending ++ [i] } (BitVec.ofNat 64 (2 ^ 32 * gen + i)))))) ∧
  (∀ (s : State) (core : Option Nat) (k n : Nat) (ver : Option Word),
    let head := s.reg (pidx k 14)
    let at' : Nat → Nat := fun m => (head + BitVec.ofNat 64 m).toNat % s.rfield (pidx k 13) 0 25
    let looks : State → Nat → Word0 × State := fun x m => (x.setReg (pidx k 14) (head + BitVec.ofNat 64 (m + 1))).word0 core k ver (at' m)
    let taken : (Nat → State) → Nat → Prop := fun st m =>
      (∃ w, looks (st m) m = (.unusable w, st (m + 1))) ∨ ∃ w, looks (st m) m = (.ok w, st (m + 1)) ∧ fieldOf w 48 8 ≠ 0
    (∀ S, s.allocFrom core k ver n = .full S → S.reg (pidx k 14) = head + BitVec.ofNat 64 n ∧
      ∃ st, st 0 = s ∧ st n = S ∧ ∀ m < n, taken st m) ∧
    (∀ i gen S, s.allocFrom core k ver n = .found i gen S → ∃ j < n, S.reg (pidx k 14) = head + BitVec.ofNat 64 (j + 1) ∧
      i = at' j ∧ ∃ st w, st 0 = s ∧ (∀ m < j, taken st m) ∧ looks (st j) j = (.ok w, S) ∧ fieldOf w 48 8 = 0 ∧ gen = fieldOf w 32 16)) ∧
  digest [0x11, 0x22, 0x33, 0x44, 0x55] = 0x443322BE ∧ digest [] = 0

/-- R361, R362, R367, R371, R372 and R374: TKSTAT reads a word of the named slot, with an acquire; TKDROP returns a slot
to FREE with its generation advanced; TKFEED gives the host's feedback and marks it as read; each reports why it does
nothing. The engine judges a handle by the enable, its range, word 0, its generation and its status, in that order.
Rests on the model's choices or readings of log entry 53. -/
def Obligations.TicketsAreRead : Prop :=
  (∀ w : WE, UniRuns (exec (.tkstat w)) (guardYX w.m) w.m 0 (uniLocs w.a ++ uniLocs w.b) fun s t g c r =>
    let h := c.u w.a
    let sel := (c.u w.b).toNat
    let gives : State → DWord → Prop := fun S v => ∃ g', r = .next (S.acted c.clk t g') ∧ g.WroteS g' t c.clk 0 w.m.words 0 w.d.toNat v
    (15 < sel → s.traps t g r 0x100 0 2) ∧
    (sel ≤ 15 → s.larderOff t.part = true ∨ s.handleOut t.part h = true → gives s (BitVec.allOnes 64)) ∧
    (sel ≤ 15 → s.larderOff t.part = false → s.handleOut t.part h = false →
      ∀ bs S, c.ticketGot s (s.slotAddr t.part (fieldOf h 0 32) + BitVec.ofNat 64 (8 * sel)) 8 = .ok bs S →
        gives (S.acquire t g) (BitVec.ofNat 64 (leWord (bs.take 8))))) ∧
  (∀ w : WE, UniRuns (exec (.tkdrop w)) (guardYX w.m) w.m 0 (uniLocs w.a) fun s t g c r =>
    let h := c.u w.a
    let gives : State → Team → Nat → Prop := fun S t' v => ∃ g', r = .next (S.acted c.clk t' g') ∧
      g.WroteS g' t c.clk 0 w.m.words 0 w.d.toNat (BitVec.ofNat 64 v)
    (s.larderOff t.part = true → gives s t (5 * 2 ^ 56)) ∧
    (s.larderOff t.part = false → s.handleOut t.part h = true → gives s t (4 * 2 ^ 56)) ∧
    (s.larderOff t.part = false → s.handleOut t.part h = false →
      (t.launch.contain = true → t.sbUsed < 2048 → t.draining = false → gives s { t with sb := t.sb ++ [.drop h] } (7 * 2 ^ 56 + fieldOf h 0 48)) ∧
      (t.launch.contain = false → ∀ st gen S, s.dropStep (some g.core) t.part (s.version t) h = .done st gen S →
        gives S t (2 ^ 56 * st + 2 ^ 32 * gen + fieldOf h 0 32)))) ∧
  (∀ w : WE, UniRuns (exec (.tkfeed w)) (guardYX w.m) w.m 0 (uniLocs w.a) fun s t g c r =>
    let h := c.u w.a
    let k := t.part
    let ver := s.version t
    let gives : State → Team → List DWord → Prop := fun S t' vs => ∃ g', r = .next (S.acted c.clk t' g') ∧ g.Passed g' c.clk 0 w.m.words ∧
      ∀ i, sget 0 g'.sregs i = if w.d.toNat ≤ i ∧ i < w.d.toNat + 4 then vs.getD (i - w.d.toNat) 0 else sget 0 g.sregs i
    let none_ : Nat → List DWord := fun st => [0, 0, BitVec.ofNat 64 (2 ^ 56 * st), 0]
    (∀ st gen S, s.ticket (some g.core) k ver h [1] = .no st gen S → gives S t (none_ st)) ∧
    (∀ w0 S1, s.ticket (some g.core) k ver h [1] = .ok w0 S1 → ∀ bs S2,
      c.ticketGot S1 (S1.slotAddr k (fieldOf h 0 32) + 0x40) 32 = .ok bs S2 → bs.length = 32 →
      let S3 := S2.acquire t g
      let f := wordAt bs 4
      let values := [f ++ wordAt bs 0, dwordAt bs 8, (wordAt bs 16).setWidth 64, dwordAt bs 24]
      (bitAt f 0 = false ∨ fieldOf f 16 16 ≠ fieldOf h 32 16 → gives S3 t (none_ 8)) ∧
      (bitAt f 0 = true → fieldOf f 16 16 = fieldOf h 32 16 →
        (t.launch.contain = true → t.sbUsed < 2048 → t.draining = false →
          gives S3 { t with sb := t.sb ++ [.fed h] } values) ∧
        (t.launch.contain = false → ∀ gen S4, S3.fedStep (some g.core) k ver h = .done 0 gen S4 → gives S4 t values)))) ∧
  ∀ (s : State) (core : Option Nat) (k : Nat) (ver : Option Word) (h : DWord),
    let i := fieldOf h 0 32
    (s.larderOff k = true → s.dropStep core k ver h = .done 5 0 s ∧ s.fedStep core k ver h = .done 5 0 s) ∧
    (s.larderOff k = false → s.handleOut k h = true → s.dropStep core k ver h = .done 4 0 s ∧ s.fedStep core k ver h = .done 4 0 s) ∧
    (s.larderOff k = false → s.handleOut k h = false →
      (∀ w S, s.word0 core k ver i = (.unusable w, S) → s.dropStep core k ver h = .done 3 (w0Gen w) S) ∧
      (∀ w S, s.word0 core k ver i = (.ok w, S) →
        let gen := fieldOf w 32 16
        let status := fieldOf w 48 8
        (gen ≠ fieldOf h 32 16 → s.dropStep core k ver h = .done 2 gen S) ∧
        (gen = fieldOf h 32 16 → status = 0 → s.dropStep core k ver h = .done 6 gen S) ∧
        (gen = fieldOf h 32 16 → status = 1 ∨ status = 3 → s.dropStep core k ver h = .done 3 gen S) ∧
        (gen = fieldOf h 32 16 → status ∉ [0, 1, 3] → ∀ S' pa leaf lost,
          S.enginePut core k ver (S.slotAddr k i) (bytes64 (BitVec.ofNat 64 (2 ^ 32 * ((gen + 1) % 2 ^ 16) + i))) = (S', .ok pa leaf lost) →
            s.dropStep core k ver h = .done 0 ((gen + 1) % 2 ^ 16) S') ∧
        (gen = fieldOf h 32 16 → status ∉ [0, 1] → ∀ S' pa leaf lost,
          S.enginePut core k ver (S.slotAddr k i) (bytes64 (w ||| (2 ^ 62))) = (S', .ok pa leaf lost) → s.fedStep core k ver h = .done 0 0 S')))

/-- R378, R382 to R389: TKREDEEM judges the handle, digests the ticket's input and, at the engine and the Cellar, binds
a version, marks the slot and queues the redeem instance; TKBIND.VER queues a record bound to a version; TKBIND.OUT compares
the output with the ticket of the redeem instance that issues it. Each gives its status. R406: while a PUBLISH on which the
devices have agreed is in flight, TKREDEEM and TKBIND.VER are held before they bind a version.
Rests on the model's choices or readings of log entry 53. -/
def Obligations.TicketsAreRedeemed : Prop :=
  (∀ w : WE, UniRuns (exec (.tkredeem w)) (guardYX w.m) w.m 0 (uniLocs w.a ++ uniLocs w.b) fun s t g c r =>
    let h := c.u w.a
    let mode := w.sub.toNat % 4
    let k := t.part
    let ver := s.version t
    let gives : State → Team → Nat → Nat → Prop := fun S t' st v => ∃ g', r = .next (S.acted c.clk t' g') ∧
      g.WroteS g' t c.clk 0 w.m.words 0 w.d.toNat (BitVec.ofNat 64 (2 ^ 56 * st + v))
    (∀ st gen S, s.ticket (some g.core) k ver h [1, 3] = .no st gen S → gives S t st 0) ∧
    (∀ w0 S1, s.ticket (some g.core) k ver h [1, 3] = .ok w0 S1 → ∀ bs S2,
      c.ticketGot S1 (S1.slotAddr k (fieldOf h 0 32) + 8) 120 = .ok bs S2 →
      let S3 := S2.acquire t g
      let word : Nat → DWord := fun i => dwordAt bs (8 * i - 8)
      let words := 0 :: (List.range 15).map fun i => dwordAt bs (8 * i)
      (S3.redeemNode k (fieldOf (word 1) 32 32) = none → gives S3 t 15 0) ∧
      (∀ node, S3.redeemNode k (fieldOf (word 1) 32 32) = some node → ∀ ibs S4, c.ticketGot S3 (word 4) (fieldOf (word 5) 0 32) = .ok ibs S4 →
        (digest ibs ≠ word 6 → gives S4 t 9 0) ∧
        (digest ibs = word 6 → t.launch.contain = true → t.closeSystem.sbUsed < 2048 → t.draining = false →
          gives S4 { t.closeSystem with sb := t.closeSystem.sb ++ [.redeem h (c.u w.b) mode words] } 7 0) ∧
        (digest ibs = word 6 → t.launch.contain = false → S4.remotePending t = false →
          ∀ st v S6, (S4.release t g).redeemStep (some g.core) k ver h (c.u w.b) mode words = .done st v S6 → gives S6 t st (if st = 0 then v else 0))))) ∧
  (∀ (s : State) (core : Option Nat) (k mode : Nat) (ver : Option Word) (h arg : DWord) (words : List DWord) (w : DWord) (S : State),
    s.ticket core k ver h [1, 3] = .ok w S →
    let i := fieldOf h 0 32
    let tv : Word := (words.getD 1 0).setWidth 32
    let v : Word := if mode = 0 then tv else BitVec.ofNat 32 (S.rfield 0x010 0 32)
    let fb := bitAt (words.getD 8 0) 32 = true ∧ fieldOf (words.getD 8 0) 48 16 = fieldOf w 32 16
    ∀ node, S.redeemNode k (fieldOf (words.getD 1 0) 32 32) = some node →
      (S.publishing = true → s.redeemStep core k ver h arg mode words = .fault .held (s.slotAddr k i)) ∧
      (S.publishing = false → mode = 0 → S.retained tv = false → ∀ S' pa leaf lost,
        S.enginePut core k ver (S.slotAddr k i) (bytes64 (setField w 48 8 7)) = (S', .ok pa leaf lost) →
          s.redeemStep core k ver h arg mode words = .done 10 0 S') ∧
      (S.publishing = false → mode ≠ 0 ∨ S.retained tv = true →
        (S.childFull k = true → s.redeemStep core k ver h arg mode words = .done 12 0 S) ∧
        (S.childFull k = false → S.bindHold v = none → s.redeemStep core k ver h arg mode words = .done 11 0 S) ∧
        (S.childFull k = false → ∀ S1, S.bindHold v = some S1 → ∀ S2 pa leaf lost,
          S1.enginePut core k ver (S1.slotAddr k i) (bytes64 (if fb then setField (setField w 48 8 3) 62 1 1 else setField w 48 8 3)) = (S2, .ok pa leaf lost) →
          s.redeemStep core k ver h arg mode words = .done 0 (0x80000000 + (S.part k).childCount % 2 ^ 31)
            (S2.queueChild k [] (some v) (some (
              [if arg = 0 then node.args else arg, h, words.getD 2 0, words.getD 3 0, words.getD 4 0,
               BitVec.ofNat 64 (fieldOf (words.getD 5 0) 0 32 + 2 ^ 32 * mode + (if fb then 2 ^ 40 else 0)),
               tv ++ v] ++
              (if fb then [words.getD 8 0, words.getD 9 0, (words.getD 10 0) &&& 0xFFFFFFFF, words.getD 11 0] else [0, 0, 0, 0]) ++
              [words.getD 7 0, if mode = 2 ∧ S.rfield 0x012 0 16 ≠ 0
                then BitVec.ofInt 64 (-(((BitVec.ofNat 32 (S.rfield 0x010 0 32) - tv).toNat / S.rfield 0x012 0 16 : Nat) : Int)) else 0])) (some node))))) ∧
  (∀ w : WE, UniRuns (exec (.tkbindVer w)) (guardYX w.m) w.m 0 (uniLocs w.a ++ uniLocs w.b) fun s t g c r =>
    let a := c.u w.a
    let v := c.u w.b
    let gives : State → Team → Nat → Nat → Prop := fun S t' st x => ∃ g', r = .next (S.acted c.clk t' g') ∧
      g.WroteS g' t c.clk 0 w.m.words 0 w.d.toNat (BitVec.ofNat 64 (2 ^ 56 * st + x))
    (a.toNat % 64 ≠ 0 → s.traps t g r 0x108 a 0) ∧
    (a.toNat % 64 = 0 → ∀ bs S, c.groupRead s 0 t.plainVia a 64 = .ok bs S →
      (2 ^ 32 ≤ v.toNat → gives S t 4 0) ∧
      (v.toNat < 2 ^ 32 → t.launch.contain = true → t.closeEntries.sbUsed < 2048 → t.draining = false →
        gives S { t.closeEntries with sb := t.closeEntries.sb ++ [.bindVer bs (v.setWidth 32)] } 7 0) ∧
      (v.toNat < 2 ^ 32 → t.launch.contain = false →
        let R := S.release t g
        (R.publishing = true → r = .next (S.acted c.clk t { g with nextIssue := c.clk + 1, wait := .held })) ∧
        (R.publishing = false →
        (R.retained (v.setWidth 32) = false → gives R t 10 0) ∧
        (R.retained (v.setWidth 32) = true → R.childFull t.part = true → gives R t 12 0) ∧
        (R.retained (v.setWidth 32) = true → R.childFull t.part = false →
          (R.bindHold (v.setWidth 32) = none → gives R t 11 0) ∧
          (∀ S1, R.bindHold (v.setWidth 32) = some S1 → gives (S1.queueChild t.part bs (some (v.setWidth 32)) none none) t 0
            (0x80000000 + (R.part t.part).childCount % 2 ^ 31))))))) ∧
  (∀ w : WE, UniRuns (exec (.tkbindOut w)) (guardYX w.m) w.m 0 (uniLocs w.a ++ uniLocs w.b) fun s t g c r =>
    let gives : State → Team → Nat → Prop := fun S t' st => ∃ g', r = .next (S.acted c.clk t' g') ∧
      g.WroteS g' t c.clk 0 w.m.words 0 w.d.toNat (BitVec.ofNat 64 (2 ^ 56 * st))
    (((s.inst? t.inst).bind (·.redeem)) = none → gives s t 13) ∧
    (∀ ws, ((s.inst? t.inst).bind (·.redeem)) = some ws →
      (2 ^ 32 ≤ (c.u w.b).toNat → gives s t 4) ∧
      ((c.u w.b).toNat < 2 ^ 32 → ∀ bs S, c.ticketGot s (c.u w.a) (c.u w.b).toNat = .ok bs S →
        (digest bs = ws.getD 11 0 → t.launch.contain = false → gives (S.recordOut t.inst false) t 0) ∧
        (digest bs ≠ ws.getD 11 0 → fieldOf (ws.getD 5 0) 32 8 = 0 → S.traps t g r 0x304 (c.u w.a) 0) ∧
        (digest bs ≠ ws.getD 11 0 → fieldOf (ws.getD 5 0) 32 8 ≠ 0 → t.launch.contain = false → gives (S.recordOut t.inst true) t 14)))) ∧
  ∀ (s : State) (v : Word),
    let cur := s.rfield 0x010 0 32
    let e := s.reg (0x038 + v.toNat % 16)
    let held := bitAt e 31 = true ∧ fieldOf e 32 32 = v.toNat
    (s.retained v = true ↔ v.toNat = cur ∨ ((BitVec.ofNat 32 cur - v).toNat ≤ s.rfield 0x011 0 5 ∧ held)) ∧
    (held → fieldOf e 24 7 = 127 → s.bindHold v = none) ∧
    (held → fieldOf e 24 7 < 127 → s.bindHold v = some (s.setRfield (0x038 + v.toNat % 16) 24 7 (fieldOf e 24 7 + 1))) ∧
    (¬ held → s.rfield 0x010 32 7 = 127 → s.bindHold v = none) ∧
    (¬ held → s.rfield 0x010 32 7 < 127 → s.bindHold v = some (s.setRfield 0x010 32 7 (s.rfield 0x010 32 7 + 1)))

/-! ### The optimizer step, owners, weight tiles and collectives -/

/-- R396 and R397: OPTAW writes one AdamW step to its quad, each step rounded as the rule lays down. R47 and R398: SHARD
writes the owner of an address. R393 to R395: WPST writes the tile and its transpose, all at once, and refuses copies that
meet; where the rows of a copy stand at one address, each element is one row's, which the model leaves free (log entry 12); memory is said
of a tile that lies under one key id, which encrypted what stands there (log entry 5). R407: STEPRD reads STEP, VCUR or the partition's count of collectives.
Rests on the model's choices or readings of log entries 5, 12, 55 and 56. -/
def Obligations.OptimizerSteps : Prop :=
  (∀ w, LaneWrites (exec (.optaw w)) (guard3 w) w.m w.s.toNat 0 w.d 4
    (fun ln => laneLocs ln w.a 4 ++ (List.range 4).map fun i => .s (w.b.toNat + i)) fun c ln =>
      let r : Rounding := { f := f32, mode := .rne, ftz := c.t.launch.ftz }
      let dec := fun n : Nat => f32.decode c.t.launch.ftz n
      let hp := fun i : Nat => dec (fieldOf (c.s (w.b.toNat + i / 2)) (32 * (i % 2)) 32)
      let x := fun i : Nat => dec (c.laneWord ln w.a i).toNat
      let neg := fun v : FVal => v.modify false true
      let one := dec 0x3F800000
      let gs := fMul r (hp 5) (x 3)
      let k1 := fAdd r one (neg (hp 2))
      let k2 := fAdd r one (neg (hp 3))
      let mn := withSnan [hp 2, x 1] (r.sumOf [(hp 2).mul (x 1), (dec k1.1).mul (dec gs.1)])
      let vn := withSnan [hp 3, x 2] (r.sumOf [(hp 3).mul (x 2), ((dec k2.1).mul (dec gs.1)).bind fun z => z.mul (dec gs.1)])
      let mh := fMul r (dec mn.1) (hp 6)
      let vh := fMul r (dec vn.1) (hp 7)
      let root := fSqrt r (dec vh.1)
      let q := fAdd r (dec root.1) (hp 4)
      let y := fDiv r (dec mh.1) (dec q.1)
      let wn := withSnan [hp 0, hp 1, x 0] (r.sumOf
        [some (x 0), ((((hp 1).mul (x 0)).bind fun z => (dec y.1).plus z).bind fun z => (hp 0).mul z).map neg])
      ([BitVec.ofNat 32 wn.1, BitVec.ofNat 32 mn.1, BitVec.ofNat 32 vn.1, BitVec.ofNat 32 y.1],
        gs.2 ||| k1.2 ||| k2.2 ||| mn.2 ||| vn.2 ||| mh.2 ||| vh.2 ||| root.2 ||| q.2 ||| y.2 ||| wn.2)) ∧
  (∀ w : W3, ∀ s : State, ∀ t g, s.issuing t g →
    let c := laneCtx s t g (guard3 w) w.m fun ln => laneLocs ln w.a 2
    c.operandTrap (guard3 w) (fun ln => laneLocs ln w.a 2) = none →
    ∃ t' g', exec (.shard w) s = .next (s.acted c.clk t' g') ∧ g.Passed g' c.clk w.s.toNat w.m.words ∧
      (∀ a, (s.acted c.clk t' g').homeByte a = s.homeByte a) ∧
      c.Written 0 w.d 1 (c.exec (guard3 w)) (fun ln =>
        let a := c.l64 ln w.a
        let h := fieldOf a 16 8 ^^^ fieldOf a 24 8 ^^^ fieldOf a 32 8 ^^^ fieldOf a 40 8 ^^^ fieldOf a 48 8
        let owner := fieldOf (s.reg (0x300 + h)) 0 8
        let known := ∃ j < 256, bitAt (s.reg (0x200 + j)) 15 = true ∧ fieldOf (s.reg (0x200 + j)) 0 8 = owner
        ([BitVec.ofNat 32 ((if known then 0 else 2 ^ 31) + 2 ^ 16 * h + (if owner = fieldOf (s.reg 0x008) 0 8 then 2 ^ 8 else 0) + owner)], 0)) t' g') ∧
  (∀ w : WE, UniRuns (exec (.wpst w)) (guardYX w.m) w.m 0 ((List.range 4).map fun i => .s (w.a.toNat + i)) fun s t g c r =>
    let d : Nat → DWord := fun i => c.s (w.a.toNat + i)
    let esz := [2, 1, 4, 4].getD (w.sub.toNat % 4) 4
    let row := 16 * esz
    let plain := (d 0).toNat
    let trans := (d 1).toNat
    let pp := fieldOf (d 2) 0 32
    let tp := fieldOf (d 2) 32 32
    let src := fieldOf (d 3) 0 32
    let meet := plain < trans + 15 * tp + row ∧ trans < plain + 15 * pp + row
    (fieldOf (d 3) 32 32 ≠ 0 ∨ meet → s.traps t g r 0x100 0 2) ∧
    (fieldOf (d 3) 32 32 = 0 → ¬ meet → plain % row = 0 → trans % row = 0 → pp % row = 0 → tp % row = 0 → src % 32 = 0 →
      plain + 15 * pp + row ≤ 2 ^ 56 → trans + 15 * tp + row ≤ 2 ^ 56 → src + 256 * esz ≤ 1024 * t.launch.scratch → t.Quiet →
      t.launch.contain = false → ∀ (pa pt : Nat → Nat) (lp lt : Nat → DWord),
      (∀ x < 16, c.reach s .write false (BitVec.ofNat 64 (plain + x * pp)) = some (.local (pa x) (lp x) false) ∧
        c.reach s .write false (BitVec.ofNat 64 (trans + x * tp)) = some (.local (pt x) (lt x) false)) →
      let el : Nat → Nat → List Byte := fun x y => (List.range esz).map fun i => sget 0 t.scratch (src + (16 * x + y) * esz + i)
      let last : Nat → Nat := fun y => (Config.lastRow s.free y).toNat
      let writes := (List.range 16).map (fun x => (pa x, (List.range 16).flatMap fun y => el (if pp = 0 then last y else x) y)) ++
        (List.range 16).map fun y => (pt y, (List.range 16).flatMap fun x => el x (if tp = 0 then last x else y))
      ∃ (S : State) (g' : Group), r = .next (S.acted c.clk t g') ∧ g.Only g' c.clk 0 w.m.words ∧
        ((∀ p ∈ s.posted, p.on g.core = false) → (∀ x < 16, pa x + row ≤ 2 ^ 40 ∧ pt x + row ≤ 2 ^ 40) →
          (∀ key, (∀ x < 16, keyOf (lp x) = key ∧ keyOf (lt x) = key ∧ s.keyed key (pa x) row ∧ s.keyed key (pt x) row) →
          ∀ a, S.homeByte a = (lastStore writes a).getD (s.homeByte a))))) ∧
  ∀ w : W3, UniRuns (exec (.steprd w)) (guardY w) w.m w.s.toNat (uniLocs w.a) fun s t g c r =>
    (3 ≤ (c.u w.a).toNat → s.traps t g r 0x100 0 2) ∧
    ((c.u w.a).toNat < 3 → ∃ g', r = .next (s.acted c.clk t g') ∧ g.WroteS g' t c.clk w.s.toNat w.m.words 0 w.d.toNat
      ([s.reg 0x013, s.reg 0x010, BitVec.ofNat 64 (s.part t.part).collIndex].getD (c.u w.a).toNat 0))

/-- R399, R400, R402 and R404: COLL and PUBLISH check their descriptor and the topology, translate their ranges and start
the partition's one collective, on which the group then waits; while one is in flight, or a group has reached the engine
before, a later one waits in the engine's queue, which is served in order.
Rests on the model's choices or readings of log entry 54. -/
def Obligations.CollectivesStart : Prop :=
  let me : Team → Group → Nat × Nat × Nat := fun t g => (t.inst, t.index, g.num)
  let others : State → Team → Group → List (Nat × Nat × Nat) := fun s t g => (s.engineQueue t.part).filter fun x => x ≠ me t g
  let traps : State → Team → Group → Res → Nat → DWord → Prop := fun s t g r cause detail => r = .next
    ((s.takeTrap t g { cause := cause, mask := g.activeMask, addr := 0, detail := detail, completed := false }).served t.part (me t g) (others s t g))
  let queues : State → Team → Group → Ctx → Res → Prop := fun s t g c r =>
    let q := s.engineQueue t.part
    (∀ x, (s.part t.part).coll = some x → ¬ (x.inst = t.inst ∧ x.team = t.index ∧ x.num = g.num ∧ g.wait = .collective)) →
    (s.part t.part).coll ≠ none ∨ q.head?.getD (me t g) ≠ me t g →
    r = .next ((s.setQueue t.part (if me t g ∈ q then q else q ++ [me t g])).acted c.clk t { g with nextIssue := c.clk + 1, wait := .engine })
  let free : State → Team → Group → Prop := fun s t g => (s.part t.part).coll = none ∧ (s.engineQueue t.part).head?.getD (me t g) = me t g
  let starts : (State → Team → Group → Ctx → Res → WE → CollIssue → Prop) := fun s t g c r w i =>
    (s.self? = none → traps s t g r 0x111 0) ∧
    (s.self? ≠ none → (∀ q ∈ i.src ++ i.dst, q.1 + q.2 ≤ 2 ^ 56) → ∀ sp S1 dp S2,
      c.collMap s .read [] (partsOf i.src) = .inr (sp, S1) → c.collMap S1 .write [] (partsOf i.dst) = .inr (dp, S2) →
      (i.kind = 1 → S2.liveCross (S2.psec t.part) = false) → c.collTable i = none → t.launch.contain = false → S2.remotePending t = false →
      r = .next (((S2.setPart t.part { S2.part t.part with
        coll := some { core := g.core, inst := t.inst, team := t.index, num := g.num, dest := w.d.toNat, words := w.m.words, kind := i.kind
                       form := i.form, shape := i.shape, stage := i.stage, index := (S2.part t.part).collIndex
                       src := if i.read then sp else [], dst := dp } }).acted
        c.clk t { g with nextIssue := c.clk + 1, wait := .collective }).setQueue t.part (others s t g)))
  (∀ w : WE, UniRuns (exec (.coll w)) (guardYX w.m) w.m 0 ((List.range 4).map fun i => .s (w.a.toNat + i)) fun s t g c r =>
    let d : Nat → DWord := fun i => c.s (w.a.toNat + i)
    let form := w.sub.toNat % 4
    let blk := fieldOf (d 2) 0 32
    let root := fieldOf (d 2) 32 8
    let n := fieldOf (s.reg 0x009) 0 9
    let srcLen := if form = 0 ∨ form = 3 then blk else n * blk
    let dstLen := if form = 0 ∨ form = 2 then n * blk else blk
    let src := (d 0).toNat
    let dst := (d 1).toNat
    let meet := src ≤ dst + dstLen - 1 ∧ dst ≤ src + srcLen - 1
    let bad := fieldOf (d 2) 40 24 ≠ 0 ∨ fieldOf (d 3) 16 48 ≠ 0 ∨ blk % 32 ≠ 0 ∨ blk = 0 ∨ (form ≠ 3 ∧ root ≠ 0) ∨ n ≤ root ∨ 2 ^ 40 ≤ n * blk ∨ meet
    queues s t g c r ∧ (free s t g → bad → traps s t g r 0x100 2) ∧
    (free s t g → ¬ bad → starts s t g c r w
      { kind := 0, form := form, shape := [blk, root, fieldOf (d 3) 0 16], src := [(src, srcLen)], dst := [(dst, dstLen)]
        read := decide (form ≠ 3 ∨ s.self? = some root) })) ∧
  ∀ p ∈ [(Instr.publish, 0), (.publishSkip, 1)], ∀ w : WE,
    UniRuns (exec (p.1 w)) (guardYX w.m) w.m 0 ((List.range 2).map fun i => .s (w.a.toNat + i)) fun s t g c r =>
      let stage := c.s w.a.toNat
      let d1 := c.s (w.a.toNat + 1)
      let n := fieldOf d1 0 32
      let bad := fieldOf d1 32 32 ≠ 0 ∨ stage.toNat % 2 ^ 16 ≠ 0 ∨ 2 ^ 16 * n ≠ 2 ^ 26 * fieldOf (s.reg 0x00F) 40 24
      queues s t g c r ∧ (free s t g → bad → traps s t g r 0x100 2) ∧
      (free s t g → ¬ bad → starts s t g c r w
        { kind := 1, form := p.2, shape := [n], stage := stage, dst := []
          src := ((List.range n).map fun i => (stage + BitVec.ofNat 64 (2 ^ 16 * i))).filterMap fun a =>
            if s.ownerOf a = fieldOf (s.reg 0x008) 0 8 then some (a.toNat, 2 ^ 16) else none })

/-- R47, R50, R399 and R401 to R406: once every device's contribution has arrived and agrees, the collective completes:
COLL lands its result, PUBLISH advances COUNT and VCUR.VER, once the holds on what it retires have gone, before which it is
in flight and holds binds, and PUBLISH.SKIP advances SKIPS. A link that is down, or a
target that holds accesses, holds it. The group goes on with its
status and index, and the partition counts one more. Where the contributions differ, the group traps STEP_MISMATCH, at once
where one that has arrived names another index; while one lacks and none does, the collective waits.
Rests on the model's choices or readings of log entry 54. -/
def Obligations.CollectivesComplete : Prop :=
  (∀ (s : State) (c : Collective) (pos : Nat),
    let k := s.request.k
    let n := fieldOf (s.reg 0x009) 0 9
    let from_ : Nat → Option Contribution := fun j => s.request.contribs.find? fun x => decide (x.pos = j)
    let sk := c.src.foldl (fun s p => s.rekey p.key false p.pa p.n) s
    let data : Nat → List Byte := fun j => if j = pos then (sk.collSource c.core c.src).map (·.1) else ((from_ j).map (·.data)).getD []
    let r := exec .collectiveComplete s
    let waits : Team → Group → Prop := fun t g => t ∈ s.teams ∧ t.collGroup c = some g
    let answers : DWord → Prop := fun v => ∃ S, r = .next S ∧ (S.part k).coll = none ∧ (S.part k).collIndex = (s.part k).collIndex + 1 ∧
      ∀ t g, waits t g → ∃ g', t.putGroup g' ∈ S.teams ∧ g'.num = g.num ∧ g'.pc = g.pc + BitVec.ofNat 64 (4 * c.words) ∧ g'.wait = .none ∧
        ∀ i, sget 0 g'.sregs i = if i = c.dest then v else sget 0 g.sregs i
    (s.part k).coll = some c → s.self? = some pos → (∀ j < n, j ≠ pos → from_ j ≠ none) →
    (∀ x ∈ s.request.contribs, x.pos ≠ pos → x.waits s = false) →
    (∀ p ∈ c.src ++ s.collPieces k c ++ (if c.kind = 1 ∧ c.form ≠ 1 then s.retirePieces k else []), s.pieceHeld p = false) →
    let agrees : Prop := ∀ j < n, j ≠ pos → ∀ x, from_ j = some x → x.kind = c.kind ∧ x.form = c.form ∧ x.shape = c.shape ∧ x.index = c.index ∧
      (c.kind = 1 → x.step = s.reg 0x013 ∧ x.ver.toNat = fieldOf (s.reg 0x010) 0 32 ∧ x.hash = s.reg 0x00A);
    (agrees → c.kind = 0 → c.form ≤ 3 → ∀ blk root tag, c.shape = [blk, root, tag] → blk % 32 = 0 → root < n →
      ∀ pa len key, c.dst = [{ pa := pa, n := len, lost := false, key := key }] → pa + len ≤ 2 ^ 40 →
      s.keyLoaded key = true → s.targetFailed pa = false → (len = if c.form = 0 ∨ c.form = 2 then n * blk else blk) →
      (∀ j < n, (data j).length = if c.form = 0 then blk else if c.form = 3 then (if j = root then blk else 0) else n * blk) →
      ∃ S, r = .next S ∧ (∃ st ≤ 1, answers (BitVec.ofNat 64 (2 ^ 56 * st + c.index % 2 ^ 56))) ∧
        ∀ i < len, S.homeByte (pa + i) =
          if c.form = 0 then (data (i / blk)).getD (i % blk) 0
          else if c.form = 2 then (data (i / blk)).getD (pos * blk + i % blk) 0
          else if c.form = 3 then (data root).getD i 0
          else
            let word : Nat → Nat := fun j => leWord (((data j).drop (pos * blk + i / 4 * 4)).take 4)
            BitVec.ofNat 8 (((List.range (n - 1)).foldl (fun a j => addF32 a (word (j + 1))) (word 0)) / 256 ^ (i % 4))) ∧
    (agrees → c.kind = 1 → c.form = 1 → s.heldWrites = [] →
      let skips := (fieldOf (s.reg 0x013) 32 32 + 1) % 2 ^ 32;
      answers (BitVec.ofNat 64 (fieldOf (s.reg 0x013) 0 32)) ∧
      ∃ S, r = .next S ∧ fieldOf (S.reg 0x013) 32 32 = skips ∧ fieldOf (S.reg 0x013) 0 32 = fieldOf (s.reg 0x013) 0 32 ∧ S.reg 0x010 = s.reg 0x010) ∧
    (agrees → c.kind = 1 → c.form = 0 → s.heldWrites = [] → (sk.collRelease k c).retireVersion k ≠ none →
      let count := (fieldOf (s.reg 0x013) 0 32 + 1) % 2 ^ 32;
      (∃ st ≤ 1, answers (BitVec.ofNat 64 (2 ^ 56 * st + count))) ∧
      ∃ S, r = .next S ∧ fieldOf (S.reg 0x013) 0 32 = count ∧ fieldOf (S.reg 0x010) 0 32 = (fieldOf (s.reg 0x010) 0 32 + 1) % 2 ^ 32 ∧
        fieldOf (S.reg 0x010) 32 7 = 0) ∧
    (agrees → c.kind = 1 → c.form = 0 → (sk.collRelease k c).retireVersion k = none →
      r = .next (s.setPart k { s.part k with coll := some { c with agreed := true } })) ∧
    (let bits := mismatch ((List.range n).filterMap fun j => if j = pos then some (s.agreement c pos) else from_ j);
      bits ≠ 0 → (∀ t ∈ (s.part k).saved, t.collGroup c = none) → ∀ t g, waits t g → (∀ t' ∈ s.teams, t' ≠ t → t'.collGroup c = none) →
      r = .next ((s.endColl k).takeTrap t g { cause := 0x112, mask := g.activeMask, detail := BitVec.ofNat 64 bits }))) ∧
  (∀ (s : State) (c : Collective) (pos : Nat),
    let k := s.request.k
    let n := fieldOf (s.reg 0x009) 0 9
    let here := (List.range n).filterMap fun j => if j = pos then some (s.agreement c pos)
      else s.request.contribs.find? fun x => x.pos ≠ pos ∧ x.waits s = false ∧ x.pos = j
    (s.part k).coll = some c → s.self? = some pos →
    (here.length ≠ n → (∀ x ∈ here, x.index = c.index) → exec .collectiveComplete s = .next s) ∧
    ((∃ x ∈ here, x.index ≠ c.index) → mismatch here ≠ 0 ∧
      ((∀ t ∈ (s.part k).saved, t.collGroup c = none) → ∀ t g, t ∈ s.teams → t.collGroup c = some g →
        (∀ t' ∈ s.teams, t' ≠ t → t'.collGroup c = none) →
        exec .collectiveComplete s = .next ((s.endColl k).takeTrap t g
          { cause := 0x112, mask := g.activeMask, detail := BitVec.ofNat 64 (mismatch here) })))) ∧
  (let x : Nat → Nat → Contribution := fun p skip => { pos := p, kind := 1, form := skip, shape := [16], step := 11, ver := 45, index := 1 };
    mismatch [x 0 0, x 1 0, x 2 1, x 3 0] = 0x204 ∧ mismatch [{ x 0 0 with kind := 0, shape := [32, 0, 0] }, x 1 0, x 2 1] = 0x105 ∧ mismatch [x 0 0, x 1 0] = 0 ∧
    mismatch [x 0 0, { x 1 0 with step := 0, ver := 0, index := 0 }] = 0x158)

/-! ### System instructions, state registers and traps -/

/-- R409 to R411 and R414 to R418: TRAP and BKPT take their trap as completed instructions; ERET leaves the handler at
the PC in s61, and outside it only ends the run; CLK reads the core's clock or the timestamp; ICINV drops the partition's
code lines in its range after the group's stores; COMMIT drains a CONTAIN team and fences any other; TEXIT ends its team: its
parked fibres at once, and the groups that wait or stand at a run boundary; the others end at their next one.
Rests on the model's choices or readings of log entries 10, 33 and 36. -/
def Obligations.SystemInstructions : Prop :=
  (∀ p ∈ [(Instr.trap, 0x115), (.bkpt, 0x116)], ∀ w : WI, UniRuns (exec (p.1 w)) (guardYX w.m) w.m w.s.toNat [] fun s t g _ r =>
    r = .next (s.takeTrap t g { cause := p.2, mask := g.activeMask, addr := 0, detail := w.imm.setWidth 64, completed := true
                                next := g.pc + BitVec.ofNat 64 (4 * w.m.words) })) ∧
  (∀ w : W3, UniRuns (exec (.eret w)) (guardY w) w.m w.s.toNat [] fun s t g c r => ∃ g', r = .next (s.acted c.clk t g') ∧
    g.Jumped g' c.clk w.s.toNat (if g.inHandler then sget 0 g.sregs 61 else g.pc + BitVec.ofNat 64 (4 * w.m.words)) ∧
    g'.lanes = g.lanes ∧ g'.inHandler = false ∧ sameFlight g g') ∧
  (∀ w : W3, UniRuns (exec (.clk w)) (guardY w) w.m w.s.toNat (uniLocs w.a) fun s t g c r =>
    (2 ≤ (c.u w.a).toNat → s.traps t g r 0x100 0 2) ∧
    ((c.u w.a).toNat < 2 → ∃ g', r = .next (s.acted c.clk t g') ∧ g.WroteS g' t c.clk w.s.toNat w.m.words 0 w.d.toNat
      (BitVec.ofNat 64 (if c.u w.a = 0 then c.clk - sget 0 s.dieClk (g.core / 128) else s.time)))) ∧
  (∀ w : W3, UniRuns (exec (.icinv w)) (guardY w) w.m w.s.toNat (uniLocs w.a ++ uniLocs w.b) fun s t g c r =>
    let base := (c.u w.a).toNat
    let len := (c.u w.b).toNat
    ∃ (S : State) (g' : Group), r = .next (S.acted c.clk t g') ∧ g.Only g' c.clk w.s.toNat w.m.words ∧ (len = 0 → S = s) ∧
      (len ≠ 0 → (∀ q ∈ S.posted, ∀ f ∈ g.fids, ¬ (q.team = t.uid ∧ q.fid = f)) ∧ ∀ l, l ∈ S.code ↔ l ∈ s.code ∧
        ¬ (l.part = t.part ∧ (2 ^ 32 ≤ len ∨ (base / 128 ≤ l.vline ∧ l.vline ≤ (base + len - 1) / 128))))) ∧
  (∀ w : W3, UniRuns (exec (.commit w)) (guardY w) w.m w.s.toNat [] fun s t g c r =>
    (t.launch.contain = false → s.remotePending t = false → ∃ g', g.Only g' c.clk w.s.toNat w.m.words ∧
      r = .next ((((s.observeBy t g).release t g).acquire t g).acted c.clk t g')) ∧
    (t.launch.contain = true → ∀ S T, s.drain t = .done S T → S.remotePending t = false ∧
      T.sb = [] ∧ ∃ g', g.Only g' c.clk w.s.toNat w.m.words ∧ r = .next (S.acted c.clk { T with restartable := false } g'))) ∧
  ∀ w : W3, UniRuns (exec (.texit w)) (guardY w) w.m w.s.toNat [] fun _ t g _ r =>
    let stops : Group → Prop := fun u => u.num = g.num ∨ u.wait ∈ [Wait.barrier, .queue, .pop, .watermark, .pair, .collective] ∨
      (u.issued = 0 ∧ (u.wait = .none ∨ u.wordsAt = []))
    (t.exiting = false → (∀ u ∈ t.groups, stops u) → t.launch.contain = false → (∀ x ∈ t.copies, x.2.running = true → x.2.inLocal = false) →
      ∃ S, r = .next S ∧ S.team? t.core t.slot = none ∧ ∀ q ∈ S.posted, q.team ≠ t.uid) ∧
    ((∃ u ∈ t.groups, ¬ stops u) → ∃ S t', r = .next S ∧ S.team? t.core t.slot = some t' ∧ t'.cut = true ∧ t'.attic = [] ∧ t'.rejoins = [] ∧
      (∀ p ∈ t.attic, p.fid ∉ t'.live) ∧ ∀ u, u ∈ t'.groups ↔ u ∈ t.groups ∧ ∀ v ∈ t.groups, stops v → v.num ≠ u.num)

/-- R4, R65, R66, R412, R413, R419, R420 and R433: SRD gives the word of an assigned register and zero, with a log
entry, for an unassigned one and for secure state read from outside that world; SWR writes a register that its writer may
write and otherwise changes nothing but the log, and one whose write is held waits until it is made; a misaligned address traps ALIGN. Only the secure world writes the
device's registers and only it or the partition's own non-secure world those of a partition; fields saturate as their rules
state.
Rests on the model's choices or readings of log entries 57, 58 and 68. -/
def Obligations.StateRegisterAccess : Prop :=
  let assigned : Nat → Prop := fun i => i ≤ 0x0E9 ∨ (0x100 ≤ i ∧ i < 0x200 ∧ i % 16 ≠ 15) ∨ (0x200 ≤ i ∧ i ≤ 0x3FF) ∨ (0x4000 ≤ i ∧ i < 0x8000)
  (∀ w : W3, UniRuns (exec (.srd w)) (guardY w) w.m w.s.toNat (uniLocs w.a) fun s t g c r =>
    let a := c.u w.a
    let i := fieldOf a 0 56 / 8
    let hidden := s.psec t.part = false ∧ (if 0x100 ≤ i ∧ i < 0x200 then s.psec ((i - 0x100) / 16) = true
      else 0x4000 ≤ i ∧ i < 0x8000 ∧ s.psec ((i - 0x4000) / 1024) = true)
    let gives : State → DWord → Prop := fun S v => ∃ g', r = .next (S.acted c.clk t g') ∧ g.WroteS g' t c.clk w.s.toNat w.m.words 0 w.d.toNat v
    (a.toNat % 8 ≠ 0 → s.traps t g r 0x108 a 0) ∧
    (a.toNat % 8 = 0 → fieldOf a 56 8 = 0 →
      (assigned i → ¬ hidden → gives s (s.regRead i)) ∧
      (¬ assigned i ∨ hidden → gives (s.addLog ((c.issuer s).entry 0x405 a 0)) 0)) ∧
    (a.toNat % 8 = 0 → 8 ≤ fieldOf a 56 8 → gives (s.addLog ((c.issuer s).entry 0x405 a 0)) 0)) ∧
  (∀ w : W3, UniRuns (exec (.swr w)) (guardY w) w.m w.s.toNat (uniLocs w.a ++ uniLocs w.b) fun s t g c r =>
    let a := c.u w.a
    let v := c.u w.b
    let writer : Writer := if s.psec t.part then .secure else .part t.part
    let i := fieldOf a 0 56 / 8
    let completes : State → Prop := fun S => (S.curGroup? = none → r = .next S) ∧
      ∀ t1 g1, S.curGroup? = some (t1, g1) → ∃ g', g1.Only g' c.clk w.s.toNat w.m.words ∧ g'.swr = false ∧ r = .next (S.acted c.clk t1 g')
    (a.toNat % 8 ≠ 0 → s.traps t g r 0x108 a 0) ∧
    (a.toNat % 8 = 0 → g.swr = false → fieldOf a 56 8 ≠ 0 → completes (s.addLog ((c.issuer s).entry 0x402 a v))) ∧
    (a.toNat % 8 = 0 → g.swr = false → fieldOf a 56 8 = 0 →
      (∀ S, s.writeReg writer i v = .done S → completes S) ∧
      (∀ S, s.writeReg writer i v = .ignored S → completes (S.addLog ((c.issuer s).entry 0x402 a v))) ∧
      (∀ S, s.writeReg writer i v = .held S → ∀ t1 g1, S.curGroup? = some (t1, g1) →
        r = .next (S.acted c.clk t1 { g1 with swr := true, nextIssue := c.clk + 1, wait := .held }))) ∧
    (a.toNat % 8 = 0 → g.swr = true →
      (s.holdsReg i = true → r = .next (s.acted c.clk t { g with nextIssue := c.clk + 1, wait := .held })) ∧
      (s.holdsReg i = false → completes s))) ∧
  (∀ (s : State) (i : Nat), i < 0x4000 → i ≠ 3 → assigned i → s.regRead i = s.reg i) ∧
  ∀ (s : State) (w : Writer) (i : Nat) (v : DWord),
    (¬ assigned i → s.writeReg w i v = .ignored s) ∧
    (i ∈ [0, 1, 3, 0x00A] ∨ (0x01C ≤ i ∧ i < 0x028) ∨ 0x4000 ≤ i → s.writeReg w i v = .ignored s) ∧
    (w ≠ .secure → i < 0x0E8 ∨ (0x200 ≤ i ∧ i ≤ 0x3FF) → s.writeReg w i v = .ignored s) ∧
    (∀ k j, i = 0x100 + 16 * k + j → k < 16 → j < 15 →
      ((∀ m, w = .part m → m ≠ k ∨ s.psec k = true) → w ≠ .secure → (w = .mgmt → s.psec k = true) → s.writeReg w i v = .ignored s)) ∧
    s.writeReg .secure 0x002 v = .done (s.setReg 0x002 (BitVec.ofNat 64 (min (max (v.toNat % 2 ^ 16) 4000) 10000))) ∧
    s.writeReg .secure 0x00D v = .done (s.setReg 0x00D (v &&& 0xFFFF)) ∧
    (∀ j < 16, s.writeReg .secure (0x028 + j) v = .done (s.setReg (0x028 + j) v)) ∧
    (fieldOf (s.reg 0x010) 32 7 = 0 → s.writeReg .secure 0x010 v = .done (s.setRfield 0x010 0 32 (fieldOf v 0 32))) ∧
    s.writeReg w 0x0E9 v = .done (s.setReg 0x0E9 (s.reg 0x0E9 &&& ~~~v)) ∧
    (∀ k < 16, bitAt (s.reg (0x100 + 16 * k + 12)) 0 = true → v &&& 0x1FFFFFF ≠ s.reg (0x100 + 16 * k + 13) → fieldOf v 0 25 ≤ 2 ^ 24 →
      s.writeReg .secure (0x100 + 16 * k + 13) v = .ignored s)

/-- R103 to R105, R116, R118 and R122: a trap that the handler takes puts the group at HANDLER with its record in s56 to
s61, its other registers and its lanes as they were and the in-handler flag set; in the handler, or without one, the trap
is logged and the instance fails with TRAP_KILL; a class 2 trap that starts a relaunch kills the team, which waits to be
placed again, and the third one fails the instance with CONTAINED_FAIL. A handled trap changes no byte of memory.
Rests on the model's choices or readings of log entries 13 and 24. -/
def Obligations.TrapsAreTaken : Prop :=
  ∀ (s : State) (t : Team) (g : Group) (tr : Trap),
    let cls := tr.cause / 256 - 1
    let relaunch := tr.cause ∈ [0x300, 0x301, 0x302, 0x304] ∧ t.launch.contain = true ∧ t.restartable = true
    let S := s.takeTrap t g tr
    (¬ relaunch → g.inHandler = false → t.launch.handler ≠ 0 → ∃ g' : Group, g'.pc = t.launch.handler ∧ g'.inHandler = true ∧ g'.lanes = g.lanes ∧
      g'.gpred = g.gpred ∧ g'.seg = g.seg ∧ g'.num = g.num ∧ g'.core = g.core ∧ g'.wait = .none ∧ g'.issued = 0 ∧ g'.buf = [] ∧
      (∀ i < 56, sget 0 g'.sregs i = sget 0 g.sregs i) ∧
      (∀ x, g.active.find? (fun p => bitAt tr.mask p.1) = some x →
        sget 0 g'.sregs 56 = BitVec.ofNat 64 (2 ^ 32 * (x.2 % 2 ^ 32) + (if tr.completed then 2 ^ 24 else 0) + 2 ^ 16 * cls + tr.cause % 2 ^ 16)) ∧
      sget 0 g'.sregs 57 = g.pc ∧ sget 0 g'.sregs 58 = tr.mask ∧ sget 0 g'.sregs 59 = tr.addr ∧
      (cls ≠ 2 → sget 0 g'.sregs 60 = tr.detail) ∧
      (cls = 2 → ∀ x, g.active.find? (fun p => bitAt tr.mask p.1) = some x → sget 0 g'.sregs 60 =
        BitVec.ofNat 64 (2 ^ 63 + 2 ^ 61 * (t.relaunches % 4) + 2 ^ 48 * (tr.kind % 256) + 2 ^ 32 * x.1 + 0xFFFFFFFF)) ∧
      sget 0 g'.sregs 61 = (if tr.completed then tr.next else g.pc) ∧
      (cls ≠ 2 → tr.cause ≠ 0x201 → tr.cause ≠ 0x200 → (g.active.find? fun p => bitAt tr.mask p.1) ≠ none → S = s.put t g') ∧
      (cls = 2 → ∃ e : LogEntry, e.cause = tr.cause ∧ (S.log = (s.addLog e).log) ∧ S.teams = (s.put t g').teams) ∧
      ∀ a, S.homeByte a = s.homeByte a) ∧
    (¬ relaunch → g.inHandler = true → ∃ e : LogEntry, e.cause = tr.cause ∧
      (cls ≠ 2 → e.detail = BitVec.ofNat 64 (tr.detail.toNat / 2 ^ 16 * 2 ^ 16 + fieldOf (sget 0 g.sregs 56) 0 16)) ∧
      (cls = 2 → ∀ x, g.active.find? (fun p => bitAt tr.mask p.1) = some x → e.detail =
        BitVec.ofNat 64 (2 ^ 63 + 2 ^ 61 * (t.relaunches % 4) + 2 ^ 48 * (tr.kind % 256) + 2 ^ 32 * x.1 + 0xFFFF0000 + fieldOf (sget 0 g.sregs 56) 0 16)) ∧
      S = ((s.put t g).addLog e).failInstance t.inst 0x0D 0 0) ∧
    (¬ relaunch → g.inHandler = false → t.launch.handler = 0 → ∃ e : LogEntry, e.cause = tr.cause ∧
      S = ((s.put t g).addLog e).failInstance t.inst 0x0D 0 0) ∧
    (relaunch → t.relaunches ≠ 2 → ∀ i, s.inst? t.inst = some i → (∀ u ∈ S.teams, ¬ (u.core = t.core ∧ u.slot = t.slot)) ∧
      ∃ (i' : Inst) (t' : Team), S.inst? t.inst = some i' ∧ i'.relaunch = i.relaunch ++ [t'] ∧ t'.index = t.index ∧ t'.relaunches = t.relaunches + 1 ∧
        t'.sb = [] ∧ t'.groups = []) ∧
    (relaunch → t.relaunches = 2 → ∃ e : LogEntry, e.cause = tr.cause ∧ S = (s.addLog e).failInstance t.inst 0x0C 0 (BitVec.ofNat 64 t.index) t.index)

/-! ### Events of the device -/

/-- R10, R12, R13, R15 to R18, R21, R22, R42 and R43: the timestamp's tick, the current limiter and the governor;
functions that become ready or fail, links that go down, retrain or fail to train; replays of flits; and the resets, which
leave registers at their reset values and keep what R21 says they keep, the L2s' dirty lines discarded, the traps of teams
that waited to be placed again logged and the host writes discarded so far still counted. An event that does not apply changes nothing.
Rests on the model's choices or readings of log entries 3, 9, 18, 34, 60, 61 and 70. -/
def Obligations.PowerAndReadinessEvents : Prop :=
  ∀ s : State,
    let q := s.request
    let fn := q.k
    let gives : Instr → (State → Prop) → Prop := fun e p => ∃ S : State, exec e s = .next S ∧ p S
    let others : State → Prop := fun S => ∀ f < 44, f ≠ fn → S.ready f = s.ready f ∧ S.bufail f = s.bufail f
    let up : State → Prop := fun S => S.ready fn = true ∧ S.bufail fn = false ∧ others S
    let failed : State → Prop := fun S => S.ready fn = false ∧ S.bufail fn = true ∧ others S ∧
      (28 ≤ fn → fn < 40 → fieldOf (S.reg (0x01C + (fn - 28))) 10 2 = 3)
    let idle := s.ready fn = false ∧ s.bufail fn = false
    let link := 24 ≤ fn ∧ fn < 40
    let freq := fieldOf (s.reg 0x003) 0 16
    let us := s.time / 1000
    let fresh : State → Nat → Prop := fun S i => S.reg i = regDefault i
    exec .timestampTick s = .next { s with time := s.time + 10 } ∧
    gives .currentLimiterHold (fun S => S.holdClk = some s.clk ∧ S.holdDies = BitVec.ofNat 8 fn ∧ S.holdUs = some us ∧
      fieldOf (S.reg 0x003) 32 32 = (if s.holdUs = some us then fieldOf (s.reg 0x003) 32 32 else min (fieldOf (s.reg 0x003) 32 32 + 1) (2 ^ 32 - 1)) ∧
      ∀ i, i ≠ 3 → S.reg i = s.reg i) ∧
    gives .governorStepDown (fun S => fieldOf (S.reg 0x003) 0 16 = max (freq - 100) 1200 ∧
      bitAt (S.reg 0x003) 16 = decide (max (freq - 100) 1200 < 2100) ∧ ∀ i, i ≠ 3 → S.reg i = s.reg i) ∧
    gives .governorStepUp (fun S => fieldOf (S.reg 0x003) 0 16 = min (freq + 100) 2100 ∧
      bitAt (S.reg 0x003) 16 = decide (min (freq + 100) 2100 < 2100) ∧ ∀ i, i ≠ 3 → S.reg i = s.reg i) ∧
    (44 ≤ fn ∨ ¬ idle → exec .functionInitComplete s = .next s) ∧
    (fn < 44 → idle → q.ok = false → gives .functionInitComplete failed) ∧
    (fn < 44 → idle → q.ok = true → fn ≠ 41 → fn ≠ 42 → gives .functionInitComplete up) ∧
    (fn = 41 ∨ fn = 42 → idle → q.ok = true →
      (s.bufail 40 = true → gives .functionInitComplete failed) ∧
      (s.bufail 40 = false → s.ready 40 = true → s.verifyImage (if fn = 42 then 1 else 2) q.bytes = none → gives .functionInitComplete failed) ∧
      (s.bufail 40 = false → s.ready 40 = true → (fn = 41 → ∃ d < 8, s.ready d = true) → ∀ v,
        s.verifyImage (if fn = 42 then 1 else 2) q.bytes = some v → gives .functionInitComplete up)) ∧
    (link → idle → gives .trainTimeout failed ∧ (q.ok = true → gives .linkRetrainComplete up) ∧ (q.ok = false → gives .linkRetrainComplete failed)) ∧
    (¬ (link ∧ idle) → exec .trainTimeout s = .next s ∧ exec .linkRetrainComplete s = .next s) ∧
    (link → s.ready fn = true → gives .linkDown fun S => S.ready fn = false ∧ S.bufail fn = false ∧ others S ∧ S.teams = s.teams ∧
      (28 ≤ fn → fieldOf (S.reg (0x01C + (fn - 28))) 10 2 = 3)) ∧
    (¬ (link ∧ s.ready fn = true) → exec .linkDown s = .next s) ∧
    (link → s.bufail fn = true → gives .lateTraining up) ∧
    (¬ (link ∧ s.bufail fn = true) → exec .lateTraining s = .next s) ∧
    (fn < 12 → s.ready (28 + fn) = true →
      let n := sget 0 s.flitReplays fn
      (n ≠ 8 → gives .flitCrcFail fun S => sget 0 S.flitReplays fn = (if q.ok then 0 else n + 1) ∧
        fieldOf (S.reg (0x01C + fn)) 32 32 = min (fieldOf (s.reg (0x01C + fn)) 32 32 + 1) (2 ^ 32 - 1) ∧ S.ready (28 + fn) = true) ∧
      (n = 8 → gives .flitCrcFail fun S => S.ready (28 + fn) = false ∧ sget 0 S.flitReplays fn = 0)) ∧
    gives .coldReset (fun S => (∀ i, fresh S i) ∧ S.teams = [] ∧ S.insts = [] ∧ S.parts = [] ∧ S.log = [] ∧ S.logHead = 0 ∧ S.time = 0 ∧
      S.keys = [] ∧ S.seals = [] ∧ S.l2Dirty = [] ∧ ∀ a, 2 ^ 55 ≤ a → a < 2 ^ 56 → S.homeByte a = s.discardDirty.homeByte a) ∧
    gives .perstWarmReset (fun S => (∀ i, i < 0x01C ∨ 0x028 ≤ i → fresh S i) ∧
      (∀ j < 12, fieldOf (S.reg (0x01C + j)) 32 32 = fieldOf (s.reg (0x01C + j)) 32 32 ∧ fieldOf (S.reg (0x01C + j)) 10 2 = 3) ∧
      (let L := s.relaunchLog.foldl (fun x e => x.addLog e.2.2) s
       S.log = L.log ∧ S.logHead = L.logHead ∧ S.logTail = L.logTail) ∧
      S.teams = [] ∧ S.insts = [] ∧ S.parts = [] ∧ S.keys = [] ∧ S.relaunchLog = [] ∧ S.time = s.time ∧
      S.resetDiscards = some (s.resetDiscards.getD (0, 0)) ∧ S.l2Dirty = [] ∧ S.poolL2 = [] ∧ S.msc = [] ∧
      ∀ a, a < 2 ^ 40 ∨ (2 ^ 55 ≤ a ∧ a < 2 ^ 56) → S.homeByte a = s.discardDirty.homeByte a) ∧
    gives .functionLevelReset (fun S => S.ready 24 = false ∧ S.decoders = [] ∧ (∀ o, o ∈ S.options ↔ o ∈ s.options ∧ o.1 ≠ 0) ∧
      (s.ready 24 = false → S.reg 0x0E9 = s.reg 0x0E9) ∧ S.masks = 0 ∧ S.config = [] ∧ S.response = none ∧
      S.hostReply = none ∧ S.spdm = {} ∧ S.teams = s.teams ∧ S.mem = s.mem ∧ ∀ i, i ≠ 0 → i ≠ 0x0E9 → S.reg i = s.reg i)

/-- R26, R27, R36, R45, R57, R75, R76, R89, R95, R96, R108, R164, R403 and R413: each event that writes a state register
writes it as its rule gives, and a write that its entry does not letIssue only makes a log entry. For the secure world: the
enables, the memory-side cache, the rings, the owners and their hash, STEP, a key's eviction, a graph's binding and
unbinding, a partition's start, pre-emption, resumption and reset, translation invalidation and fault resolution.
Rests on the model's choices or readings of log entries 18, 39, 46, 47, 54, 57 and 78. -/
def Obligations.RegisterWriteEvents : Prop :=
  ∀ s : State,
    let q := s.request
    let k := q.k % 16
    let v := q.value
    let gives : Instr → (State → Prop) → Prop := fun e p => ∃ S : State, exec e s = .next S ∧ p S
    let st := fieldOf (s.reg (pidx k 0)) 27 3
    let gctl := s.reg (pidx k 9)
    (∀ p ∈ [(Instr.intenWrite, 0x0E8, v), (.intpendClear, 0x0E9, v), (.mscFlush, 0x004, setField v 31 1 1), (.mscResize, 0x004, v),
        (.ringEnable, 0x058 + k, setField v 5 1 1), (.topoWrite, if q.ok then 0x009 else 0x200 + q.e % 256, v),
        (.ownerWrite, 0x300 + q.e % 256, v), (.stepWrite, 0x013, v), (.registerWrite, q.e, v), (.keyEvict, 0x0A8 + q.e % 64, 0x10),
        (.graphBind, pidx k 9, 0x80000000), (.graphUnbind, pidx k 9, 0), (.pctlEnWrite, pidx k 0, setField v 0 4 0),
        (.preempt, pidx k 0, setField (s.reg (pidx k 0)) 0 4 1), (.resume, pidx k 0, setField (s.reg (pidx k 0)) 0 4 2),
        (.reset, pidx k 0, setField (s.reg (pidx k 0)) 0 4 3), (.tlbInvalidate, pidx k 11, v), (.faultResolve, pidx k 5, v)],
      exec p.1 s = .next (match s.writeReg q.writer p.2.1 p.2.2 with
        | .done S => S
        | .held S => S
        | .ignored S => S.addLog (platformEntry 0x402 (match q.writer with | .part j => j | _ => 0xFF) (BitVec.ofNat 64 (8 * p.2.1)) p.2.2))) ∧
    gives .intenWrite (fun S => S.reg 0x0E8 = v &&& 0xFFFF) ∧
    exec .intpendClear s = .next (s.setReg 0x0E9 (s.reg 0x0E9 &&& ~~~v)) ∧
    (q.writer = .secure →
      gives .mscFlush (fun S => bitAt (S.reg 0x004) 30 = true ∧ S.mscSize = min (fieldOf v 0 6) 48) ∧
      (let busy := bitAt v 31 = true ∨ bitAt (s.reg 0x004) 30 = true ∨
          fieldOf (s.reg 0x004) 0 6 ≠ 0;
        gives .mscResize fun S => (busy → bitAt (S.reg 0x004) 30 = true ∧ fieldOf (S.reg 0x004) 0 6 = fieldOf (s.reg 0x004) 0 6) ∧
          (¬ busy → fieldOf (S.reg 0x004) 0 6 = min (fieldOf v 0 6) 48)) ∧
      (bitAt (s.reg (0x058 + k)) 5 = false → gives .ringEnable fun S => bitAt (S.reg (0x058 + k)) 5 = true ∧ S.ring k = {} ∧
        fieldOf (S.reg (0x058 + k)) 0 5 = min (max (fieldOf v 0 5) 4) 20 ∧ fieldOf (S.reg (0x058 + k)) 6 4 = fieldOf v 6 4) ∧
      ((∀ j < 16, (s.part j).coll = none) →
        exec .stepWrite s = .next (s.setReg 0x013 v) ∧
        (gives .ownerWrite fun S => S.reg (0x300 + q.e % 256) = v &&& 0xFF ∧
          S.reg 0x00A = digest ((List.range 256).map fun h => BitVec.ofNat 8 (fieldOf (S.reg (0x300 + h)) 0 8))) ∧
        (gives .topoWrite fun S => if q.ok then S.reg 0x009 = BitVec.ofNat 64 (min (max (fieldOf v 0 9) 1) 256)
          else S.reg (0x200 + q.e % 256) = v &&& 0x8FFF)) ∧
      ((∃ j < 16, ∃ c, (s.part j).coll = some c) → exec .ownerWrite s =
        .next { s with heldWrites := s.heldWrites ++ [{ reg := 0x300 + q.e % 256, value := v, waits := s.inProgress false }] }) ∧
      (gives .keyEvict fun S => bitAt (S.reg (0x0A8 + q.e % 64)) 5 = true) ∧
      (bitAt gctl 31 = false → bitAt gctl 30 = false → s.bufail 41 = false → gives .graphBind fun S => S.reg (pidx k 9) = 0xC0000000 ∧
        (S.part k).pendingBind = some (s.reg (pidx k 6), s.reg (pidx k 7), s.reg (pidx k 8))) ∧
      (bitAt gctl 31 = true → s.bufail 41 = false → (s.part k).pendingBind = none → (s.part k).heldBind = none → gives .graphUnbind fun S => bitAt (S.reg (pidx k 9)) 31 = false ∧
        ∀ g, (S.part k).graph = some g → g.dispatching = false) ∧
      (bitAt gctl 31 = true → s.bufail 41 = false → (s.part k).pendingBind = none → ∀ g, (s.part k).graph = some g →
        (∃ x ∈ g.edges, x.wbDue = true ∨ x.retDue = true) →
        gives .graphUnbind fun S => bitAt (S.reg (pidx k 9)) 30 = true ∧ (S.part k).graph = some { g with dispatching := false }) ∧
      (s.heldWrites = [] →
        (st = 0 → bitAt v 31 = true → gives .pctlEnWrite fun S => fieldOf (S.reg (pidx k 0)) 27 3 = 1 ∧ bitAt (S.reg (pidx k 0)) 31 = true ∧
          bitAt (S.reg (pidx k 0)) 30 = bitAt v 30) ∧
        (gives .preempt fun S =>
          (st = 1 → s.reserved + s.contextBytes k ≤ s.contextSpace → fieldOf (S.reg (pidx k 0)) 27 3 = 2 ∧ fieldOf (S.reg (pidx k 0)) 24 3 = 0) ∧
          (st = 1 → s.contextSpace < s.reserved + s.contextBytes k → fieldOf (S.reg (pidx k 0)) 27 3 = 1 ∧ fieldOf (S.reg (pidx k 0)) 24 3 = 1) ∧
          (st ≠ 1 → st ≠ 0 → st ≠ 6 → fieldOf (S.reg (pidx k 0)) 27 3 = st ∧ fieldOf (S.reg (pidx k 0)) 24 3 = 2)) ∧
        (gives .resume fun S => (st = 4 → (S.part k).resuming = true ∧ fieldOf (S.reg (pidx k 0)) 24 3 = 0) ∧
          (st ≠ 4 → st ≠ 0 → st ≠ 6 → fieldOf (S.reg (pidx k 0)) 24 3 = 2)) ∧
        (gives .reset fun S => (st = 1 ∨ st = 4 → fieldOf (S.reg (pidx k 0)) 27 3 = 6 ∧ (∀ t ∈ S.teams, t.part ≠ k) ∧ (∀ i ∈ S.insts, i.part ≠ k) ∧
          (S.part k).saved = [] ∧ (S.part k).children = [] ∧ (S.part k).coll = none ∧ (S.part k).collQueue = []))) ∧
      (bitAt (s.reg (pidx k 11)) 63 = false → gives .tlbInvalidate fun S => bitAt (S.reg (pidx k 11)) 63 = true ∧
        (∀ e, e ∈ S.tlb ↔ e ∈ s.tlb ∧ ¬ (e.part = k ∧ (bitAt v 62 = true ∨ e.vpn = fieldOf v 16 40 / 2 ^ (e.bits - 16)))) ∧
        (∀ e, e ∈ S.walks ↔ e ∈ s.walks ∧ ¬ (e.part = k ∧ (bitAt v 62 = true ∨ e.vpn = fieldOf v 16 40 / 2 ^ (e.bits - 16)))) ∧
        S.teams = s.teams) ∧
      (bitAt (s.reg (pidx k 11)) 63 = true → exec .tlbInvalidate s = .next (s.setPart k { s.part k with heldTlb := (s.part k).heldTlb ++ [v] })) ∧
      (s.waitsOn k (fieldOf v 16 40) = false → exec .faultResolve s = .next s) ∧
      (s.waitsOn k (fieldOf v 16 40) = true →
        (st = 3 ∨ st = 4 → gives .faultResolve fun S => (fieldOf v 16 40, bitAt v 63) ∈ (S.part k).recorded) ∧
        (st ≠ 3 → st ≠ 4 → gives .faultResolve fun S => ∀ f ∈ (S.part k).faults, f.block ≠ fieldOf v 16 40)))

/-- R23 to R34, R41, R48, R49, R109, R119, R121, R149, R170, R171 and R357: host accesses to HBM and the refused ones, the
host's own writes, the ports' configuration, capacity events, the memory-side cache, fill lines, a ring's TAIL, packets
from and for other devices, stores and bytes of landings that are performed, and soft errors.
Rests on the model's choices or readings of log entries 5, 6, 18, 23, 34, 62, 63, 64, 67, 69, 77, 80 and 85. -/
def Obligations.MemoryAndLinkEvents : Prop :=
  ∀ s : State,
    let q := s.request
    let k := q.k % 16
    let gives : Instr → (State → Prop) → Prop := fun e p => ∃ S : State, exec e s = .next S ∧ p S
    let stores : State → Nat → List Byte → Prop := fun S pa bs => ∀ a < 2 ^ 40, S.homeByte a = (lastStore [(pa, bs)] a).getD (s.homeByte a)
    (∀ h, q.host = some h →
      let d : Decoder := sget {} s.decoders 0
      let pa := d.dpa + (h.hpa - d.base)
      let mapped := d.en = true ∧ d.base ≤ h.hpa ∧ h.hpa + h.len ≤ d.base + d.size
      let refused := s.carve < pa + h.len ∨ s.regionSec pa = true ∨ s.portSec 0 ≠ s.regionSec pa
      (∀ a n, s.resetDiscards = some (a, n) → mapped → if h.write then
          exec .hostMemAccess s = .next { s with resetDiscards := some (if n = 0 then pa else a, n + 1) }
        else gives .hostMemAccess fun S => S.hostReply = some (List.replicate h.len 0, true)) ∧
      (s.resetDiscards = none → mapped → s.bufail 24 = true → gives .hostMemAccess fun S => (∀ a, S.homeByte a = s.homeByte a) ∧
        (h.write = false → S.hostReply = some (List.replicate h.len 0, true))) ∧
      (s.resetDiscards = none → mapped → s.bufail 24 = false → s.ready 24 = true →
        (refused → gives .hostMemAccess fun S => (∀ a, S.homeByte a = s.homeByte a) ∧
          (h.write = false → S.hostReply = some (List.replicate h.len 0, true))) ∧
        (¬ refused → pa < 2 ^ 40 → (∀ f ∈ s.functionsOf pa, s.bufail f = false ∧ s.ready f = true) →
          (h.write = true → pa + h.data.length ≤ 2 ^ 40 → gives .hostMemAccess fun S => stores S pa h.data ∧
            (h.poison = true → ∀ n, pa / 64 * 2 ≤ n → n ≤ (pa + h.len - 1) / 64 * 2 + 1 → n < 2 ^ 35 → S.homePoison n = true)) ∧
          (h.write = false → ∃ p, exec .hostMemAccess s =
              .next { s with hostReply := some (s.homeBytes pa h.len, p), hostEpisode := sset 0 s.hostEpisode 0 0 } ∧
            (p = true ↔ ∃ n, pa / 64 * 2 ≤ n ∧ n < (pa + h.len - 1) / 64 * 2 + 2 ∧ s.homePoison n = true))))) ∧
    gives .cxlCacheSnoop (fun S => (∀ a < 2 ^ 40, S.homeByte a = s.homeByte a) ∧
      (s.down 24 = false → ∀ i < q.bytes.length, S.homeByte (2 ^ 55 + q.addr.toNat % 2 ^ 55 + i) = q.bytes.getD i 0) ∧
      (q.bytes ≠ [] → q.ok = true → ∀ n, (2 ^ 55 + q.addr.toNat % 2 ^ 55) / 64 ≤ n / 2 →
        n / 2 ≤ (2 ^ 55 + q.addr.toNat % 2 ^ 55 + q.bytes.length - 1) / 64 → S.homePoison n = true) ∧
      (q.bytes ≠ [] → q.ok = false → ∀ n, 2 ^ 55 + q.addr.toNat % 2 ^ 55 ≤ n / 2 * 64 →
        n / 2 * 64 + 64 ≤ 2 ^ 55 + q.addr.toNat % 2 ^ 55 + q.bytes.length → S.homePoison n = false) ∧
      ∀ k e x, s.edge? k e = some x → x.source = true → x.fillLine.toNat < q.addr.toNat % 2 ^ 55 + q.bytes.length →
        q.addr.toNat % 2 ^ 55 < x.fillLine.toNat + 64 → q.bytes ≠ [] → S.edge? k e = some { x with snooped := true }) ∧
    (∀ i base size dpa en, q.config = some (.decoder i base size dpa en) → i < 2 → gives .configurationSpaceWrite fun S =>
      sget {} S.decoders i = { base := base, size := size, dpa := dpa, en := en } ∧ S.mem = s.mem) ∧
    (∀ port i en, q.config = some (.option port i en) → gives .configurationSpaceWrite fun S =>
      ((port, i) ∈ S.options ↔ en = true ∧
        i ∈ if port = 0 then [0, 1, 2, 4, 5, 6, 7, 12, 13] else if port < 4 then [0, 1, 2, 4, 5, 10, 11, 12, 13] else []) ∧
      ∀ j, j ≠ (port, i) → (j ∈ S.options ↔ j ∈ s.options)) ∧
    (∀ v m, q.config = some (.vectorMask v m) → v < 16 → gives .configurationSpaceWrite fun S =>
      S.masks.getLsbD v = m ∧ (∀ u, u ≠ v → S.masks.getLsbD u = s.masks.getLsbD u) ∧
      (m = false → S.pba.getLsbD v = false ∧ S.messages = if s.pba.getLsbD v then s.messages ++ [v] else s.messages)) ∧
    (∀ off v, q.config = some (.other off v) → gives .configurationSpaceWrite fun S => sget 0 S.config off = v) ∧
    (1 ≤ q.k → q.k ≤ 3 → exec .dynamicCapacityEvent s = .next { s with capacityEvents := s.capacityEvents ++ [(q.k, q.bytes)] }) ∧
    (bitAt (s.reg 0x004) 30 = true → s.canFlush = true → gives .mscFlushComplete fun S => S.poolL2 = [] ∧ S.msc = [] ∧
      bitAt (S.reg 0x004) 30 = false ∧ fieldOf (S.reg 0x004) 0 6 = s.mscSize % 64) ∧
    (¬ (bitAt (s.reg 0x004) 30 = true ∧ s.canFlush = true) → exec .mscFlushComplete s = .next s) ∧
    (let pa := fieldOf q.addr 0 56;
      (s.poolPort pa).isSome = true → s.targetHeld pa = false → s.targetFailed pa = false → s.mscBlocked pa = false → (s.mscPlace pa).2 ≤ 0x3FFE →
        fieldOf (s.reg 0x004) 0 6 ≠ 0 → gives .mscMissFill fun S => (S.mscLine pa).isSome = true) ∧
    (∀ x, s.edge? k q.e = some x → x.source = true →
      (gives .fillLineSnoop fun S => S.edge? k q.e = some { x with snooped := true } ∧
        (s.down 24 = false → S.homeBytes (2 ^ 55 + x.fillLine.toNat) 8 = leBytes 8 q.value.toNat)) ∧
      (s.homePoisoned (2 ^ 55 + x.fillLine.toNat) 8 = true → exec .fillLineReread s = .next s) ∧
      (x.snooped = true → s.ready 24 = true → s.ready 41 = true → s.homePoisoned (2 ^ 55 + x.fillLine.toNat) 8 = false →
        let produced : DWord := BitVec.ofNat 64 (leWord (s.homeBytes (2 ^ 55 + x.fillLine.toNat) 8))
        let fill := (produced - x.consumed).toNat
        let granted := (x.head - x.consumed).toNat
        gives .fillLineReread fun S => ∃ y, S.edge? k q.e = some y ∧ y.produced = produced ∧ y.snooped = false ∧ y.head = x.head ∧
          y.fill = (if x.slotcnt < fill then 0 else fill - granted) ∧ y.beyond = decide (x.slotcnt < fill) ∧ ∀ l ∈ S.l1, l.part ≠ k)) ∧
    (bitAt (s.reg (0x058 + k)) 5 = true → s.port0 = true → exec .ringTailPoll s =
      .next { s with rings := sset {} s.rings k { s.ring k with tseen := s.ringTail k } }) ∧
    (∀ p, q.packet = some p → p.formed = false → exec .korbenPacketReceive s = .next s) ∧
    (∀ p, q.packet = some p → p.link < 12 → s.ready (28 + p.link) = true → p.formed = true →
      (p.dest ≠ fieldOf (s.reg 0x008) 0 8 →
        (s.hop p.dest = none → exec .korbenPacketReceive s = .next { s with relays := s.relays ++ [(12, p)] }) ∧
        ∀ l, s.hop p.dest = some l → l < 12 ∧
          (s.ready (28 + l) = true → s.bufail (28 + l) = false → exec .korbenPacketReceive s = .next s) ∧
          (s.ready (28 + l) = false → s.bufail (28 + l) = false → exec .korbenPacketReceive s = .next { s with relays := s.relays ++ [(l, p)] }) ∧
          (s.bufail (28 + l) = true → exec .korbenPacketReceive s = .next (s.foldBufail (28 + l)))) ∧
      (p.dest = fieldOf (s.reg 0x008) 0 8 → ∀ pa leaf,
        s.xlateWalk (s.linkSec p.link) p.part none (BitVec.ofNat 64 p.addr) .write false = .ok pa leaf false →
        pa + p.data.length ≤ 2 ^ 40 → s.keyed (keyOf leaf) pa p.data.length →
        (p.red = none → gives .korbenPacketReceive fun S =>
          ∀ a < 2 ^ 40, S.homeByte a = if pa ≤ a ∧ a < pa + p.data.length then (p.data.getD (a - pa) none).getD (s.homeByte a) else s.homeByte a) ∧
        (∀ op wide ftz, p.red = some (op, wide, ftz) → let n := if wide then 8 else 4
          p.data.length = n → s.homePoisoned pa n = false → gives .korbenPacketReceive fun S => stores S pa (leBytes n
            (aopResult ftz op wide (BitVec.ofNat 64 (leWord (s.homeBytes pa n))) (BitVec.ofNat 64 (leWord (p.data.map (·.getD 0))))).toNat)))) ∧
    (q.e = 0 → ∀ p, s.posted[q.num]? = some p → (∀ o ∈ s.posted.take q.num, p.needs o = false) →
      p.pa + p.data.length ≤ 2 ^ 40 → s.keyed p.key p.pa p.data.length →
      gives .accessPerformed fun S => S.posted = s.posted.eraseIdx q.num ∧ stores S p.pa p.data) ∧
    (q.e = 1 → ∀ r, s.remotes[q.num]? = some r →
      ((∃ o ∈ s.remotes.take q.num, o.owner = r.owner ∧ o.inst = r.inst ∧ o.team = r.team ∧ (o.fid = r.fid ∨ o.fid = 2 ^ 32 - 1 ∨ r.fid = 2 ^ 32 - 1)) ∨
        s.ready (28 + r.link) = false ∨ 12 ≤ r.link → exec .accessPerformed s = .next s) ∧
      ((∀ o ∈ s.remotes.take q.num, ¬ (o.owner = r.owner ∧ o.inst = r.inst ∧ o.team = r.team ∧
          (o.fid = r.fid ∨ o.fid = 2 ^ 32 - 1 ∨ r.fid = 2 ^ 32 - 1))) → r.link < 12 → s.ready (28 + r.link) = true →
        exec .accessPerformed s = .next { s with remotes := s.remotes.eraseIdx q.num })) ∧
    (q.e ≠ 0 → q.e ≠ 1 → ∀ p, s.posted[q.num]? = some p → p.landing = true → p.rel = false → q.k < p.data.length →
      (∀ o ∈ s.posted.take q.num, p.needs o = false) → p.pa + p.data.length ≤ 2 ^ 40 → s.keyed p.key p.pa p.data.length →
      gives .accessPerformed fun S => stores S (p.pa + q.k) [p.data.getD q.k 0]) ∧
    (∀ pa dirty, q.site = some (.memory pa dirty true) → exec .softError s = .next s) ∧
    (∀ pa, q.site = some (.memory pa true false) → pa < 2 ^ 40 → gives .softError fun S => S.homePoison (pa / 32) = true ∧ S.mem = s.mem) ∧
    (∀ pa, q.site = some (.memory pa false false) → gives .softError fun S => S.mem = s.mem ∧
      ((s.poolL2Line pa).isSome = true → S.msc = s.msc ∧ ∀ l, l ∈ S.poolL2 ↔ l ∈ s.poolL2 ∧ ¬ (l.line = pa / 128 ∧ l.dirty = [])) ∧
      (s.poolL2Line pa = none → ∀ m, s.mscLine pa = some m →
        S.poolL2 = s.poolL2 ∧ ∀ l, l ∈ S.msc ↔ l ∈ s.msc ∧ ¬ (l.line = m.line ∧ l.dirty = []))) ∧
    (∀ core slot wid reg flip t, q.site = some (.register core slot wid reg flip false) → s.team? core slot = some t → gives .softError fun S =>
      ∃ t', S.team? core slot = some t' ∧ t' = { t with win := t'.win } ∧
        ∀ i, sget 0 t'.win i = if i = wid * 64 + reg then sget 0 t.win i ^^^ flip else sget 0 t.win i) ∧
    (∀ core slot off t, q.site = some (.scratch core slot off false) → s.team? core slot = some t → gives .softError fun S =>
      S.team? core slot = some { t with errors := t.errors ++ [.scratch core slot off false] })

/-- R57, R58 and R60 to R64: the commands of the management path and their statuses, the loading and the eviction of keys,
the SVN floors, and the SPDM requests that port 0 answers. A command of the wrong length is invalid, or over MCTP refused; one that comes while
the management core or port 0 is not ready changes nothing, a read of the error log waits for it, and one that a failed function would serve completes as failed. A response names its request.
Rests on the model's choices or readings of log entries 5, 15, 16, 18, 65, 66, 88 and 99. -/
def Obligations.ManagementEvents : Prop :=
  ∀ s : State,
    let q := s.request
    let bs := q.bytes
    let failed := s.bufail 42 = true ∨ s.bufail 24 = true
    let up := s.ready 42 = true ∧ s.ready 24 = true ∧ ¬ failed
    let inside := q.ok = true ∧ s.spdm.session = true
    let opOf : Instr → Nat := fun e => if e = .stateRead then 0xC900 else if e = .stateWrite then 0xC901 else if e = .logRead then 0xC902
      else if e = .logAck then 0xC903 else if e = .keyLoad then 0xC904 else if e = .warmReset then 0xC905 else 0xC906
    let called : Instr → Prop := fun e => ∀ h, q.header = some h → h.toNat = opOf e
    let reply : Instr → Nat → List DWord → Response := fun e st d => { opcode := opOf e, header := q.header, status := st, data := d }
    let replies : Instr → State → Nat → List DWord → Prop := fun e S st d =>
      called e → exec e s = .next { S with response := some (reply e st d) }
    let refusal : State → Prop := fun S => s.bufail 43 = false → s.logHead - s.logTail < 65535 → s.logLost = false →
      S.logHead = s.logHead + 1 ∧ ∃ e, S.log = s.log ++ [e] ∧ e.cause = 0x402 ∧ e.die = 0x21
    let answered : Instr → (State → Prop) → Prop := fun e p => called e → ∃ S : State, exec e s = .next S ∧ p S
    let gives : Instr → (State → Prop) → Prop := fun e p => ∃ S : State, exec e s = .next S ∧ p S
    (∀ p ∈ [(Instr.stateRead, 12), (.stateWrite, 16), (.logRead, 12), (.logAck, 8), (.keyLoad, 72), (.warmReset, 0), (.floorRaise, 1)],
      (∀ h, q.header = some h → h.toNat % 2 ^ 16 ≠ opOf p.1 → exec p.1 s = .next s) ∧
      (called p.1 →
        (¬ up → ¬ failed → exec p.1 s = .next s) ∧
        (failed → ∃ S : State, exec p.1 s = .next S ∧ S.response = some { opcode := opOf p.1, header := q.header, failed := true } ∧
          S.regs = s.regs ∧ S.keys = s.keys ∧ S.logTail = s.logTail ∧ S.otpFloor = s.otpFloor ∧ S.teams = s.teams) ∧
        (up → bs.length ≠ p.2 → q.header = none →
          exec p.1 s = .next { s with response := some { opcode := opOf p.1, invalid := true } })) ∧
      (up → ∀ h, q.header = some h → h.toNat % 2 ^ 16 = opOf p.1 → 2 ^ 24 ≤ h.toNat ∨ bs.length ≠ p.2 →
        let st := if p.1 ∈ [.keyLoad, .warmReset, .floorRaise] ∧ (q.ok && s.spdm.session) = false then 1 else if p.1 = .keyLoad ∧ s.ready 40 = false then 4 else 3
        ∃ S : State, exec p.1 s = .next S ∧ S.response = some (reply p.1 st []) ∧ S.keys = s.keys ∧ S.teams = s.teams ∧ (∀ i, 0x0A8 ≤ i → i < 0x0E8 → S.reg i = s.reg i) ∧
          (if p.1 = .keyLoad then refusal S else S = { s with response := some (reply p.1 st []) }))) ∧
    (up → bs.length = 12 →
      let a := dwordAt bs 0
      let n := (wordAt bs 8).toNat
      let i := a.toNat / 8
      let first := a.toNat
      let from_ := s.logHead - 65535
      let got := (List.range (min n (s.logHead - first))).map fun j => first + j;
      (a.toNat % 8 ≠ 0 ∨ n = 0 ∨ 256 < n → replies .stateRead s 3 []) ∧
      let held := s.ready 43 = false ∧ s.bufail 43 = false ∧ ∃ j < n, fieldOf (a + BitVec.ofNat 64 (8 * j)) 56 8 = 6
      (a.toNat % 8 = 0 → 1 ≤ n → n ≤ 256 → held → called .stateRead → exec .stateRead s = .next s) ∧
      (a.toNat % 8 = 0 → 1 ≤ n → n ≤ 256 → ¬ held → answered .stateRead (fun S => ∃ d, S.response = some (reply .stateRead 0 d) ∧ d.length = n ∧
        (∀ x, x ≠ 0x0E9 → S.reg x = s.reg x) ∧ S.mem = s.mem ∧ S.teams = s.teams)) ∧
      (a.toNat % 8 = 0 → 1 ≤ n → n ≤ 256 → i + n ≤ 0xE8 → replies .stateRead s 0 ((List.range n).map fun j => s.regRead (i + j))) ∧
      (s.ready 43 = false → replies .logRead s 4 []) ∧
      (s.ready 43 = true → n = 0 ∨ 32 < n ∨ s.logHead < first ∨ first < from_ → replies .logRead s 3 []) ∧
      (s.ready 43 = true → 1 ≤ n → n ≤ 32 → first ≤ s.logHead → from_ ≤ first → (∀ j ∈ got, s.log[j]?.isSome = true) →
        replies .logRead s 0 ([BitVec.ofNat 64 s.logHead, BitVec.ofNat 64 s.logTail, BitVec.ofNat 64 s.logDropped] ++
          got.flatMap fun j => (List.range 8).map fun w =>
            dwordAt (((s.log[j]?).map (s.entryFor (q.ok && s.spdm.session))).getD []) (8 * w)))) ∧
    (up → bs.length = 16 →
      let a := dwordAt bs 0
      let v := dwordAt bs 8
      let writer : Writer := if q.ok && s.spdm.session then .secure else .mgmt;
      (a.toNat % 8 ≠ 0 → replies .stateWrite s 3 []) ∧
      (a.toNat < 2 ^ 56 → a.toNat % 8 = 0 →
        (∀ S, s.writeReg writer (a.toNat / 8) v = .done S ∨ s.writeReg writer (a.toNat / 8) v = .held S → replies .stateWrite S 0 []) ∧
        (∀ S, s.writeReg writer (a.toNat / 8) v = .ignored S → answered .stateWrite fun T =>
          T.response = some (reply .stateWrite 5 []) ∧ T.regs = (S.addLog (platformEntry 0x402 0xFF a v)).regs))) ∧
    (up → bs.length = 8 →
      let t := (dwordAt bs 0).toNat;
      (s.ready 43 = false → replies .logAck s 4 []) ∧
      (s.ready 43 = true → t < s.logTail ∨ s.logHead < t → replies .logAck s 3 []) ∧
      (s.ready 43 = true → s.logTail ≤ t → t ≤ s.logHead → replies .logAck { s with logTail := t } 0 [BitVec.ofNat 64 t])) ∧
    (up → bs.length = 72 →
      let slot := (bs.getD 0 0).toNat
      let w1 := bs.getD 1 0
      let data := BitVec.ofNat 256 (leWord ((bs.drop 8).take 32))
      let tweak := BitVec.ofNat 256 (leWord ((bs.drop 0x28).take 32))
      let state := s.reg (0x0A8 + slot)
      let bad := 63 < slot ∨ 1 < w1.toNat ∨ (∃ i, 2 ≤ i ∧ i < 8 ∧ bs.getD i 0 ≠ 0) ∨ data = tweak
      let refused : Nat → Prop := fun st => answered .keyLoad fun S => S.response = some (reply .keyLoad st []) ∧ S.keys = s.keys ∧
        (∀ i, 0x0A8 ≤ i → i < 0x0E8 → S.reg i = s.reg i) ∧ refusal S;
      (¬ inside → refused 1) ∧ (inside → s.ready 40 = false → refused 4) ∧ (inside → s.ready 40 = true → bad → refused 3) ∧
      (inside → s.ready 40 = true → ¬ bad → bitAt state 7 = true ∨ bitAt state 5 = true → refused 2) ∧
      (inside → s.ready 40 = true → ¬ bad → bitAt state 7 = false → bitAt state 5 = false → answered .keyLoad fun S =>
        S.response = some (reply .keyLoad 0 []) ∧ S.reg (0x0A8 + slot) = (if w1 = 1 then 0xC0 else 0x80) ∧
        (∀ i, i ≠ 0x0A8 + slot → S.reg i = s.reg i) ∧ S.log = s.log ∧
        ∀ i, sget {} S.keys i = if i = slot then { dataKey := data, tweakKey := tweak } else sget {} s.keys i)) ∧
    (let slot := q.e % 64
     let evicting := bitAt (s.reg (0x0A8 + slot)) 5
     (evicting = false → exec .keyEvictComplete s = .next s) ∧
     let s0 := s.performWhere fun p => decide (p.key = slot)
     let portBlocks := (∃ l ∈ s0.poolL2, l.key = slot ∧ l.dirty ≠ [] ∧ s0.poolHeld (l.line * 128) = true) ∨
       ∃ l ∈ s0.msc, l.key = slot ∧ l.dirty ≠ [] ∧ s0.down (s0.portOf (s0.mscBase l)) = true
     (evicting = true → portBlocks → exec .keyEvictComplete s = .next s) ∧
     (evicting = true → ¬ portBlocks → gives .keyEvictComplete fun S => (∀ l ∈ S.msc, l.key ≠ slot) ∧ (∀ l ∈ S.poolL2, l.key = slot → S.postedOn l.line = true) ∧ S.reg (0x0A8 + slot) = s.reg (0x0A8 + slot) &&& 0x40 ∧
       (sget {} S.keys slot).dataKey = 0 ∧ (sget {} S.keys slot).tweakKey = 0 ∧
       (sget {} S.keys slot).logged = ((sget {} s.keys slot).logged && !bitAt (s.reg (0x0A8 + slot)) 7) ∧
       (∀ p ∈ S.posted, p.key ≠ slot) ∧ (∀ l, l ∈ S.l1 ↔ l ∈ s.l1 ∧ l.key ≠ slot) ∧ (∀ l, l ∈ S.code ↔ l ∈ s.code ∧ l.key ≠ slot) ∧
       (∀ i, i ≠ slot → sget {} S.keys i = sget {} s.keys i) ∧ ∀ i, i ≠ 0x0A8 + slot → S.reg i = s.reg i)) ∧
    (up → bs = [] → (¬ inside → replies .warmReset s 1 []) ∧
      (inside → answered .warmReset fun S => S.response = some (reply .warmReset 0 []) ∧ S.teams = [] ∧ S.insts = [] ∧ S.parts = [] ∧ S.keys = [] ∧
        S.l1 = [] ∧ S.l2Dirty = [] ∧ S.poolL2 = [] ∧ S.mem = s.discardDirty.mem ∧
        S.log = (s.relaunchLog.foldl (fun x e => x.addLog e.2.2) s).log ∧ S.time = s.time ∧ ∀ i, i < 0x01C ∨ 0x028 ≤ i → S.reg i = regDefault i)) ∧
    (up → bs.length = 1 →
      let t := (bs.getD 0 0).toNat
      let floor := sget 0 s.otpFloor t
      let svn := sget 0 s.svn t;
      (¬ inside → replies .floorRaise s 1 []) ∧ (inside → s.ready 40 = false → replies .floorRaise s 4 []) ∧
      (inside → s.ready 40 = true → t = 0 ∨ 2 < t → replies .floorRaise s 3 []) ∧
      (inside → s.ready 40 = true → t = 1 ∨ t = 2 →
        (svn ≤ floor → replies .floorRaise s 0 [BitVec.ofNat 64 floor]) ∧
        (floor < svn → 64 ≤ sget 0 s.otpRaises t → replies .floorRaise s 3 []) ∧
        (floor < svn → sget 0 s.otpRaises t < 64 → answered .floorRaise fun S => S.response = some (reply .floorRaise 0 [BitVec.ofNat 64 svn]) ∧
          sget 0 S.otpFloor t = svn ∧ sget 0 S.otpRaises t = sget 0 s.otpRaises t + 1 ∧ S.regs = s.regs ∧
          ∀ i, i ≠ t → sget 0 S.otpFloor i = sget 0 s.otpFloor i))) ∧
    (let p := s.spdm
     let spdm := [Instr.getVersion, .getCapabilities, .negotiateAlgorithms, .getDigests, .getCertificate, .challenge, .getMeasurements,
       .keyExchange, .finish]
     let answers : Instr → Spdm → Nat → List DWord → Prop := fun e p' code ws => exec e s = .next { s with spdm := { p' with answer := some (code, ws) } }
     (s.bufail 24 = true → ∀ e ∈ spdm, exec e s = .next (({ s with spdm := { p with answer := none } } : State).foldBufail 24)) ∧
     (s.bufail 24 = false → s.ready 24 = false → ∀ e ∈ spdm, exec e s = .next s) ∧
     (s.bufail 24 = false → s.ready 24 = true →
       answers .getVersion { p with version := true, caps := false, algs := false, exchanged := false } 0x04 [0x1300] ∧
       (if p.version && !p.algs then answers .getCapabilities { p with caps := true } 0x61 [] else answers .getCapabilities p 0x7F [4]) ∧
       (p.caps = false → answers .negotiateAlgorithms p 0x7F [4]) ∧
       (p.caps = true → q.ok = true → answers .negotiateAlgorithms { p with algs := true } 0x63 []) ∧
       (p.caps = true → q.ok = false → answers .negotiateAlgorithms p 0x7F [1]) ∧
       (p.algs = false → ∀ e ∈ [Instr.getDigests, .getCertificate, .challenge, .getMeasurements, .keyExchange], answers e p 0x7F [4]) ∧
       (p.algs = true → answers .getDigests p 0x01 (digestWords (sha384 Config.certChain)) ∧
         (let rest := Config.certChain.drop q.num
          (rest = [] → answers .getCertificate p 0x7F [1]) ∧
          (rest ≠ [] → answers .getCertificate p 0x02 (BitVec.ofNat 64 (min q.e rest.length) :: BitVec.ofNat 64 (rest.length - min q.e rest.length) ::
            (rest.take q.e).map (·.setWidth 64)))) ∧
         (∃ w, w.length = 12 ∧ exec .challenge s = .next
           { s with free := s.free + 1, spdm := { p with answer := some (0x03, digestWords (sha384 Config.certChain) ++ w) } }) ∧
         answers .keyExchange { p with exchanged := true } 0x64 [] ∧
         (q.e = 0 → answers .getMeasurements p 0x60 [4]) ∧
         (q.e = 1 → answers .getMeasurements p 0x60 (digestWords Config.romMeasurement)) ∧
         (q.e = 2 ∨ q.e = 3 → answers .getMeasurements p 0x60 (digestWords ((sget none s.images (q.e - 1)).getD 0))) ∧
         (q.e = 4 → answers .getMeasurements p 0x60 (digestWords (sha384 s.worldBytes))) ∧
         (4 < q.e → q.e ≠ 255 → answers .getMeasurements p 0x7F [1]) ∧
         (q.e = 255 → answers .getMeasurements p 0x60 (digestWords Config.romMeasurement ++ digestWords ((sget none s.images 1).getD 0) ++
           digestWords ((sget none s.images 2).getD 0) ++ digestWords (sha384 s.worldBytes)))) ∧
       (p.exchanged = false → answers .finish p 0x7F [4]) ∧
       (p.exchanged = true → q.ok = true → answers .finish { p with exchanged := false, session := true } 0x65 []) ∧
       (p.exchanged = true → q.ok = false → answers .finish { p with exchanged := false } 0x7F [6])))

/-- R69 to R71, R76, R78, R82, R83, R85, R86, R91, R95 to R97, R102, R107, R116, R117, R146 and R434: the checks of a
launch record, the end of a graph's binding, aging, dispatch, placement, relaunch and completion, the halting, saving,
restoring and reset of a partition, and the entries of its fault queue.
Rests on the model's choices or readings of log entries 9, 18, 38, 44, 45, 46, 47, 90, 91 and 93. -/
def Obligations.PartitionEvents : Prop :=
  ∀ s : State,
    let k := s.request.k % 16
    let p := s.part k
    let st := fieldOf (s.reg (pidx k 0)) 27 3
    let gives : Instr → (State → Prop) → Prop := fun e q => ∃ S : State, exec e s = .next S ∧ q S
    let isNow : State → Nat → Prop := fun S n => fieldOf (S.reg (pidx k 0)) 27 3 = n ∧ ∀ j < 16, j ≠ k → S.reg (pidx j 0) = s.reg (pidx j 0)
    let placing := st = 1 ∧ bitAt (s.reg (pidx k 0)) 31 = true ∧ s.ready 41 = true
    (∀ (bs : List Byte) (n : Nat),
      let h : Nat → Nat := fun o => leWord ((bs.drop o).take 2)
      let b : Nat → Nat := fun o => (bs.getD o 0).toNat
      let width := 8 * 2 ^ b 0x26
      let wv := if bitAt (BitVec.ofNat 64 (h 0x2E)) 0 then width / 2 else width
      let groups := (h 0x24 + wv - 1) / wv
      let each := if bitAt (BitVec.ofNat 64 (h 0x2E)) 6 then (groups + 1) / 2 else groups
      let names : Nat → Prop := fun o => h o = 0xFFFF ∨ (h o < 4096 ∧ h o < n)
      bs.length = 64 →
      (s.checkRecord k bs (some n) none = none ↔
        h 0x2E < 128 ∧ b 0x30 < 8 ∧ 1 ≤ (wordAt bs 0x20).toNat ∧ 1 ≤ h 0x24 ∧ h 0x24 ≤ 1024 ∧ b 0x26 ≤ 3 ∧ b 0x27 ≤ 2 ∧ h 0x28 ≤ 256 ∧
        h 0x2A ≤ 256 ∧ h 0x2C ≤ 512 ∧ b 0x31 ≤ 15 ∧ (∀ o ∈ [0, 8], (dwordAt bs o).toNat % 4 = 0 ∧ (dwordAt bs o).toNat < 2 ^ 56) ∧
        (∀ o ∈ [0x32, 0x34, 0x36, 0x38, 0x3A, 0x3C, 0x3E], names o) ∧ b 0x31 = k ∧ (∃ c < 1024, s.coreSec c = s.psec k) ∧
        each ≤ 128 ∧ each * width * (16 * (b 0x27 + 1)) ≤ 65536)) ∧
    (p.pendingBind = none → exec .graphBindComplete s = .next s) ∧
    (∀ nb eb cnt, p.pendingBind = some (nb, eb, cnt) →
      let ne := fieldOf cnt 32 13;
      (s.ready 41 = false → exec .graphBindComplete s = .next s) ∧
      (s.ready 41 = true → ∀ ns s1 es s2, s.readTable k nb 0 (fieldOf cnt 0 16) = some (ns, s1) → s1.readTable k eb 0 ne = some (es, s2) →
        let edges := es.map fun x => parseEdge x.1 (x.2.getD [])
        let sources := (List.range ne).filter fun e => ((edges[e]?).map (·.source)).getD false
        let verdict := match s2.checkNodes k ne sources ([], []) 0 ns with | some x => some (some x) | none => s2.checkEdges k 0 es;
        (verdict = none → exec .graphBindComplete s = .next s) ∧
        (∀ i status d, verdict = some (some (i, status, d)) → gives .graphBindComplete fun S => S.reg (pidx k 9) = BitVec.ofNat 64 (2 ^ 32 * i + status) ∧
          (S.part k).pendingBind = none ∧ (S.part k).graph = (s2.part k).graph ∧ S.teams = s2.teams) ∧
        (verdict = some none → sources = [] → (s2.fillLines k).eraseDups.length ≤ 1024 → p.heldBind = none → gives .graphBindComplete fun S =>
          S.reg (pidx k 9) = 0x80000000 ∧ bitAt (S.reg 0x0E9) 2 = true ∧ (S.part k).pendingBind = none ∧
          ∃ g : Graph, (S.part k).graph = some g ∧ g.halted = false ∧ g.edges = edges ∧ g.nodes = ns.map fun x => parseLaunch (x.2.getD [])))) ∧
    (let lim := fieldOf (s.reg 0x00C) 0 32
     let aged := fun (prio wait : Nat) => if lim = 0 then prio else min 7 (prio + (wait - 1) / lim);
     gives .agingInterval fun S => S.regs = s.regs ∧ S.mem = s.mem ∧ S.teams = s.teams ∧
       (S.part k).children = (p.children.map fun c =>
         { c with prio := aged (match c.node with | some l => l.prio | none => (c.bytes.getD 0x30 0).toNat % 8) (s.clk - c.since) }) ∧
       ∀ g, p.graph = some g → ∃ g' : Graph, (S.part k).graph = some g' ∧ g'.edges = g.edges ∧ ∀ i l, g.nodes[i]? = some l →
         ∃ r : Ready, g'.ready[i]? = some r ∧ ((g.ready.getD i {}).ready = true → r.prio = aged l.prio (s.clk - (g.ready.getD i {}).since))) ∧
    (∀ c, s.choose k = some c → c ∈ s.cands k ∧ ∀ d ∈ s.cands k, d.prio ≤ c.prio ∧ (d.prio = c.prio → c.since ≤ d.since ∧
      (d.since = c.since → c.index ≤ d.index))) ∧
    (¬ placing ∨ s.teamsWait k = true → exec .instanceDispatch s = .next (s.age k)) ∧
    (placing → s.teamsWait k = false →
      let a := s.age k;
      (a.choose k = none → exec .instanceDispatch s = .next a) ∧
      (∀ c i l, a.choose k = some c → c.pick = .node i l → (∀ x ∈ s.insts, x.id ≠ s.nextInst) →
        (s.overQuota k l = true → bitAt (s.reg (pidx k 9)) 31 = true → (∀ t ∈ s.teams, t.inst ≠ s.nextInst) → gives .instanceDispatch fun S =>
          S.insts = s.insts ∧ bitAt (S.reg (pidx k 9)) 29 = true ∧ S.teams = s.teams ∧ (fieldOf (s.reg (pidx k 9)) 0 8 = 0 → bitAt (s.reg (pidx k 9)) 29 = false → fieldOf (S.reg (pidx k 9)) 0 8 = 2)) ∧
        (s.overQuota k l = false → a.worldHasCore k = true → a.bestCore k l (fun _ => true) = none → exec .instanceDispatch s = .next a) ∧
        (s.overQuota k l = false → a.worldHasCore k = true → a.bestCore k l (fun _ => true) ≠ none → l.args = 0 →
          ∀ img, p.images.find? (fun x => decide (x.va = l.image)) = some img → img.reloc = none → img.holds l.entry = true →
          (l.handler = 0 ∨ img.holds l.handler = true) → gives .instanceDispatch fun S => S.teams = s.teams ∧ S.nextInst = s.nextInst + 1 ∧
            ∃ x : Inst, S.insts = s.insts ++ [x] ∧ x.id = s.nextInst ∧ x.part = k ∧ x.index = c.index ∧ x.launch = l ∧ x.placed = 0 ∧
              x.args = List.replicate 13 0 ∧ x.isChild = false ∧ x.version = none ∧
              ∀ e y, s.edge? k e = some y → y.needFill ≠ 0 → e ≠ 0xFFFF → l.ins.count e = 1 → e ∉ l.outs →
                { edge := e, first := y.head.toNat, count := y.needFill, output := false : Grant } ∈ x.grants ∧
                ∃ z : Edge, S.edge? k e = some z ∧ z.head = y.head + BitVec.ofNat 64 y.needFill ∧ z.fill = y.fill - y.needFill ∧ z.free = y.free))) ∧
    (¬ placing → exec .teamPlace s = .next s ∧ exec .teamRelaunch s = .next s) ∧
    (∀ l f c, s.bestCore k l f = some c → f c = true ∧ s.placeable k l c = true ∧ ∀ d, (if l.paircore then d < 1024 ∧ d % 2 = 0 else d < 1024) →
      f d = true → s.placeable k l d = true →
      let load := fun (x : Nat) => s.groupsAt x + (if l.paircore then s.groupsAt (x + 1) else 0);
      load c < load d ∨ (load c = load d ∧ c ≤ d)) ∧
    (placing → (∀ x ∈ s.insts, x.part = k → x.relaunch = []) →
      ∀ i, s.insts.find? (fun x => decide (x.part = k) && decide (x.placed < x.launch.teams)) = some i →
      (s.bestCore k i.launch (fun _ => true) = none → exec .teamPlace s = .next s) ∧
      (∀ c slot, s.bestCore k i.launch (fun _ => true) = some c → s.slotFor i.launch c = some slot → gives .teamPlace fun S =>
        S.insts = s.insts.map (fun x => if x.id = i.id then { i with placed := i.placed + 1 } else x) ∧ ∃ t : Team, S.teams = s.teams ++ [t] ∧
          t.core = c ∧ t.slot = slot ∧ t.part = i.part ∧ t.inst = i.id ∧ t.index = i.placed ∧ t.launch = i.launch ∧ t.attic = [] ∧ t.win = [] ∧
          t.preds = [] ∧ t.scratch = [] ∧ t.copies = [] ∧ t.restartable = i.launch.contain ∧ t.relaunches = 0 ∧
          (∀ fid, fid ∈ t.live ↔ fid < i.launch.fpt) ∧ t.groups.length = i.launch.groups ∧
          ∀ n g, t.groups[n]? = some g → g.num = n ∧ g.pc = i.launch.entry ∧ g.core = (if i.launch.paircore then c + n % 2 else c) ∧ g.islot = s.issueSlot g.core (t.groups.take n) i.launch.width ∧
            g.lanes.length = i.launch.wv ∧ (∀ j < i.launch.wv, g.lanes[j]? = some (if n * i.launch.wv + j < i.launch.fpt then some (n * i.launch.wv + j) else none)) ∧
            g.gpred = 1 ∧ g.inHandler = false ∧ sget 0 g.sregs 0 = BitVec.ofNat 64 i.placed ∧ sget 0 g.sregs 1 = BitVec.ofNat 64 i.launch.teams ∧
            sget 0 g.sregs 2 = BitVec.ofNat 64 i.launch.fpt ∧ ∀ j, 3 ≤ j → j < 62 → sget 0 g.sregs j = i.args.getD (j - 3) 0)) ∧
    (placing → ∀ i t rest, s.insts.find? (fun x => decide (x.part = k) && !x.relaunch.isEmpty) = some i → i.relaunch = t :: rest →
      let new := s.bestCore k t.launch fun c => !t.cores.contains c
      let last := t.cores.getLastD 0
      ∀ c slot, (new = some c ∨ (new = none ∧ c = last ∧ s.placeable k t.launch last = true)) → s.slotFor t.launch c = some slot →
        ∀ e ∈ [Instr.teamRelaunch, .teamPlace], gives e fun S => S.insts = s.insts.map (fun x => if x.id = i.id then { i with relaunch := rest } else x) ∧
          (∀ x ∈ S.relaunchLog, ¬ (x.1 = i.id ∧ x.2.1 = t.index)) ∧ ∃ u : Team, S.teams = s.teams ++ [u] ∧ u.core = c ∧ u.slot = slot ∧ u.index = t.index ∧
            u.inst = i.id ∧ u.relaunches = t.relaunches ∧ u.cores = t.cores ++ [c] ∧ u.ranges = t.ranges ∧ u.win = [] ∧ u.sb = []) ∧
    (s.insts.Pairwise (fun a b => a.id ≠ b.id) → gives .instanceComplete fun S => S.teams = s.teams ∧ ∀ i, i ∈ S.insts ↔ i ∈ s.insts ∧
      ¬ (i.part = k ∧ i.exited = i.launch.teams ∧ i.relaunch = [] ∧ (∀ t ∈ s.teams ++ s.orphans, t.inst ≠ i.id) ∧
        (i.redeem = none ∨ ∀ r ∈ s.remotes, r.inst ≠ i.id))) ∧
    (let still := ∀ t ∈ s.teams, t.part = k → ∀ g ∈ t.groups,
       (g.wait ≠ .none ∨ g.issued = 0 ∨ ∃ x ∈ t.attic, x.st = .fault ∧ x.fid ∈ g.faulted) ∧ ∀ x ∈ g.hist, x.named = true → x.due ≤ s.clk
     (st = 2 → still → gives .partitionHalted fun S => isNow S 3 ∧ S.teams = s.teams ∧ S.mem = s.mem) ∧
     (¬ (st = 2 ∧ still) → exec .partitionHalted s = .next s)) ∧
    (st ≠ 3 → exec .contextSaveComplete s = .next s) ∧
    (st = 3 → gives .contextSaveComplete fun S => isNow S 4 ∧ bitAt (S.reg 0x0E9) 5 = true ∧
      fieldOf (S.reg (pidx k 0)) 32 32 = min (s.time - p.saveNs) (2 ^ 32 - 1) ∧ (∀ t, t ∈ S.teams ↔ t ∈ s.teams ∧ t.part ≠ k) ∧
      ((S.part k).saved.map fun t => { t with groups := [] }) = ((s.teams.filter fun t => decide (t.part = k)).map fun t => { t with groups := [] }) ∧
      ∀ i : Nat, (((S.part k).saved[i]?).map fun t => t.groups.map fun g => { g with hist := [], buf := [], half := [], late := [], positions := none, seeks := .none }) =
        (((s.teams.filter fun t => decide (t.part = k))[i]?).map fun t => t.groups.map fun g =>
          { g with hist := [], buf := [], half := [], late := [], positions := none, seeks := .none, wait := if g.wait ∈ [.watermark, .drain, .engine] then .none else g.wait })) ∧
    (let cores := (p.saved.flatMap fun t => if t.launch.paircore then [t.core, t.core + 1] else [t.core]).eraseDups
     let room := ∀ c ∈ cores, s.coreFits k c (p.saved.foldl (fun a t => a.add (t.chargeOn c)) {}) = true ∧ s.coreSec c = s.psec k ∧ s.ready (c / 128) = true
     (¬ (st = 4 ∧ p.resuming = true ∧ room) → exec .restoreStart s = .next s) ∧
     (st = 4 → p.resuming = true → room → gives .restoreStart fun S => isNow S 5 ∧ (S.part k).saved = [] ∧ ∃ back : List Team, S.teams = s.teams ++ back ∧
       (let unslot := fun (g : Group) => { g with islot := 0, positions := none, seeks := .none }
        let plain := fun (t : Team) => { t with slot := 0, attic := [], hbytes := [], hpoison := [], hkeys := [], errors := [], groups := t.groups.map unslot }
        back.map plain = p.saved.map plain) ∧
       (∀ (i : Nat) (t u : Team), p.saved[i]? = some t → back[i]? = some u → ∀ half < (if t.launch.paircore then 2 else 1), ∀ off < 1024 * t.launch.hamper,
         (∃ j < 32, (t.hrec (32 * half + j)).saved = true ∧ 2 ^ 20 * half + off ∈
           numsFrom (t.hbyteAt (32 * half + j) 0) (t.hbyteAt (32 * half + j) 0 + (t.hrec (32 * half + j)).hlen)) →
         sget 0 u.hbytes (2 ^ 20 * half + off) = sget 0 t.hbytes (2 ^ 20 * half + off)) ∧
       back.map (fun t => t.attic.map fun x => { x with slot := 0 }) = p.saved.map (fun t => t.attic.map fun x => { x with slot := 0 }))) ∧
    (st ≠ 5 → exec .contextRestoreComplete s = .next s) ∧
    (st = 5 → gives .contextRestoreComplete fun S => isNow S 1 ∧ bitAt (S.reg 0x0E9) 5 = true ∧ (S.part k).recorded = [] ∧
      (p.recorded = [] → S.teams.map (fun t => t.attic) = s.teams.map fun t =>
        if t.part = k then t.attic.map (fun x => { x with parked := x.parked + (s.clk - p.savedAt), count := x.count + (s.clk - p.savedAt) })
        else t.attic)) ∧
    (st ≠ 6 ∨ p.slotsDue ≠ [] → exec .partitionResetComplete s = .next s) ∧
    (st = 6 → p.slotsDue = [] → gives .partitionResetComplete fun S => isNow S 0 ∧ bitAt (S.reg (pidx k 0)) 31 = false ∧ bitAt (S.reg 0x0E9) 5 = true) ∧
    ((∀ f ∈ p.faults, f.written = true) → exec .faultEntryWrite s = .next s) ∧
    (∀ f, p.faults.find? (fun x => !x.written) = some f →
      let base := 64 * fieldOf (s.reg (pidx k 3)) 6 50
      let n := 2 ^ fieldOf (s.reg (pidx k 4)) 0 5
      let head : DWord := BitVec.ofNat 64 (leWord (s.homeBytes base 8))
      let tail : DWord := BitVec.ofNat 64 (leWord (s.homeBytes (base + 8) 8))
      let place := base + 64 + 32 * (head.toNat % n)
      ((∀ a ∈ [base, place], s.targetHeld a = false) → (∃ a ∈ [base, place], ∃ fn ∈ s.functionsOf a, s.bufail fn = true) →
        gives .faultEntryWrite fun S => (∀ a, S.homeByte a = s.homeByte a) ∧ (S.part k).faults.find? (fun x => !x.written && decide (x.block = f.block)) = none) ∧
      ((∃ a ∈ [base, place], s.targetHeld a = true) → exec .faultEntryWrite s = .next s) ∧
      ((∀ a ∈ [base, place], s.targetHeld a = false ∧ ∀ fn ∈ s.functionsOf a, s.bufail fn = false) →
        (n ≤ (head - tail).toNat → gives .faultEntryWrite fun S => (∀ a, S.homeByte a = s.homeByte a) ∧ (S.part k).faults = p.faults ∧
          (S.part k).fqFull = true ∧ (p.fqFull = true → S = s)) ∧
        ((head - tail).toNat < n → base + 64 + 32 * n ≤ 2 ^ 40 → gives .faultEntryWrite fun S =>
          (∀ i < 32, S.homeByte (place + i) = (leBytes 8 f.va.toNat ++ leBytes 2 f.core ++ leBytes 1 f.kind ++ leBytes 1 f.reason ++ leBytes 4 f.team ++
            leBytes 4 f.launch ++ leBytes 4 f.who ++ leBytes 8 head.toNat).getD i 0) ∧
          S.homeBytes base 8 = leBytes 8 (head + 1).toNat ∧
          (∀ a, a < base ∨ (base + 8 ≤ a ∧ a < place) ∨ place + 32 ≤ a → S.homeByte a = s.homeByte a) ∧
          bitAt (S.reg 0x0E9) 1 = true ∧ (S.part k).fqFull = false ∧ ∀ x ∈ (S.part k).faults, x.block = f.block → x.written = true)))

/-- R114, R121, R125, R127, R131, R133, R137 to R140, R162 to R164, R277, R280, R325 and R355: fetching a run, a TOKPUB
that the ring engine performs, one K step of a product, results in flight, the former, a partial group that parks, the drain
of an exiting CONTAIN team, page walks and invalidations, and the landing of one unit of a copy. R130: a formed group has the issue
slot with fewer claims, and an instruction that its slot grants the uniform issue takes it.
Rests on the model's choices or readings of log entries 9, 18, 19, 28, 29, 30, 36, 38, 41 and 48. -/
def Obligations.CoreEvents : Prop :=
  ∀ s : State,
    let q := s.request
    let pos : Pos := { core := q.core, slot := q.slot, num := q.num }
    let s0 := { s with cur := some pos }
    let k := q.k % 16
    let gives : Instr → (State → Prop) → Prop := fun e p => ∃ S : State, exec e s = .next S ∧ p S
    (s0.curGroup? = none → ∀ e ∈ [Instr.runFetch, .resultWrite, .parkPartialGroup], exec e s = .next s) ∧
    (∀ t g, s0.curGroup? = some (t, g) →
      (s0.issues t g = false ∨ g.wordsAt ≠ [] ∨ 24 ≤ g.issued → exec .runFetch s = .next s) ∧
      (t.cut = false → g.abort = [] → s0.issues t g = true → g.wordsAt = [] → g.issued < 24 →
        (g.pc.toNat % 4 ≠ 0 → exec .runFetch s = .next (s0.takeTrap t g { cause := 0x108, mask := g.activeMask, addr := g.pc })) ∧
        (g.pc.toNat % 4 = 0 → ∀ ws S, s0.fetchFrom t g.core g.pc [] [] (24 - g.issued) 121 = .ok ws S →
          exec .runFetch s = .next (S.put t { g with buf := ws, bufPc := g.pc }))) ∧
      (g.hist = [] → exec .resultWrite s = .next (s.put t g)) ∧
      (g.hist ≠ [] → ∃ due, s.clk ≤ due ∧ (due = s.clk ∨ ∃ x ∈ g.hist, x.due = due) ∧ (∀ x ∈ g.hist, due ≤ max s.clk x.due) ∧
        (∀ x, x ∈ landDue due [] g.hist → x ∈ g.hist ∧ due < x.due) ∧
        (∀ x ∈ g.hist, (∀ y ∈ g.hist, y.loc = x.loc → due < y.due) → x ∈ landDue due [] g.hist) ∧
        exec .resultWrite s = .next ({ s with clk := due }.put t { g with hist := landDue due [] g.hist })) ∧
      (let waits := ((g.wait = .barrier ∧ g.barPass = false) ∨ g.wait = .pop) ∧ fieldOf (s.reg (pidx t.part 0)) 27 3 = 1 ∧ g.active.length < t.launch.wv ∧
          t.freeRecord g.core = none ∧ ∃ x ∈ t.attic, x.st = .formable ∧ x.core = g.core ∧ fieldOf (s.reg 0x00D) 0 16 ≤ s.clk - x.parked
       (¬ waits → exec .parkPartialGroup s = .next s) ∧
       (waits → g.active ≠ [] → gives .parkPartialGroup fun S => S.clk = s.clk ∧ (∀ a, S.homeByte a = s.homeByte a) ∧
          (∀ x ∈ S.teams, x.core = t.core → x.slot = t.slot → ∃ attic, (x = { t with attic := attic, groups := t.groups.filter fun u => decide (u.num ≠ g.num) }) ∧
            ∃ new, attic = t.attic ++ new ∧ (new.map fun y => (y.fid, y.pc, y.core, y.st, y.parked, y.synced)) =
              g.active.map fun y => (y.2, g.pc, g.core, ParkState.formable, s.clk, g.synced.contains y.2))))) ∧
    ((∀ w S, s.prepare pos ≠ .ready (.tokpub w) S) → exec .ringEnginePublish s = .next s) ∧
    (∀ w S t g, s.prepare pos = .ready (.tokpub w) S → S.issuing t g →
      let c := uniCtx S t g (guardYX w.m) w.m (uniLocs w.a ++ uniLocs w.b)
      let r := w.sub.toNat % 16
      let off := fieldOf (c.u w.a) 0 32
      let n := (c.u w.b).toNat
      let es := (List.range n).map fun i => (List.range 16).map fun j => sget 0 t.scratch (off + 16 * i + j)
      let R := { S with clk := c.clk }.release t g
      c.uniTrap (guardYX w.m) (uniLocs w.a ++ uniLocs w.b) = none → c.groupGuard (guardYX w.m) = true → S.ringOn r t.part = true → 0 < n →
      off % 16 = 0 → off + 16 * n ≤ 1024 * t.launch.scratch → n ≤ S.ringSize r → t.Quiet → t.launch.contain = false →
      S.ringCross (S.coreSec g.core) r n = none → S.port0 = true → S.remotePending t = false →
      ∃ g', exec .ringEnginePublish s = .next (((R.ringPublish r es).1.acted c.clk t g').noteIssue g) ∧
        g.WroteS g' t c.clk 0 w.m.words 0 w.d.toNat (BitVec.ofNat 64 ((R.ringPublish r es).2.getD (2 ^ 64 - 1)))) ∧
    ((∀ i S, s.prepare pos = .ready i S → Instr.isMatrix i = false) → exec .matrixKStep s = .next s) ∧
    (∀ e ∈ [(Instr.mma, false), (.mmak, true)], ∀ w S t g, s.prepare pos = .ready (e.1 w) S → S.issuing t g →
      let c := uniCtx S t g (guardYX w.m) w.m (uniLocs w.d ++ uniLocs w.a)
      let o := c.matOp w
      let recs := if g.recs = [] then t.recsOf [o.aKey, o.bKey] else g.recs
      let v := t.withRecs recs
      let a := v.hrec o.aKey
      let b := v.hrec o.bKey
      let n := g.startStep
      let beside := S.productsBeside t g.core [g.num]
      let turn := (g.product?.map (·.turn)).getD (nextTurn beside 0)
      (∀ p ∈ beside, p.2.2.turn < turn → p.2.1.wait ≠ .held ∨ fieldOf (S.reg (pidx p.1 0)) 27 3 ≠ 1) →
      c.uniTrap (guardYX w.m) (uniLocs w.d ++ uniLocs w.a) = none → c.groupGuard (guardYX w.m) = true → t.launch.wv ≤ g.active.length → t.Quiet →
      a.rf = false → a.rfail = false → b.rf = false → b.rfail = false → o.tile < t.launch.acc → o.recordTrap (t.withRecs g.recs) g.activeMask e.2 = none → n < a.steps →
      ∃ t' g', exec .matrixKStep s = .next ((S.acted c.clk t' g').noteIssue g) ∧ otherTilesKept t t' o.half o.tile ∧
        t'.tile o.half o.tile = stepTile (b.fmt = 7) o.zskip t.launch.ftz (t.tile o.half o.tile) (o.aRows v n) (o.bCols v n) ∧
        t'.checks o.half o.tile = (if e.2 then stepChecks o.zskip t.launch.ftz (t.checks o.half o.tile) (o.aRows v n) (o.bCols v n)
          else t.checks o.half o.tile) ∧
        (n + 1 < a.steps → g'.pc = g.pc ∧ g'.sregs = g.sregs ∧ g'.progress =
          some { inHandler := g.inHandler, pc := g.pc, steps := n + 1, recs := recs, turn := nextTurn beside turn }) ∧
        (n + 1 = a.steps → g.Only g' c.clk 0 w.m.words ∧ g'.progress = none)) ∧
    (s.formable q.core (s.clk + 1) = none → exec .formGroup s = .next s) ∧
    (∀ c, s.formable q.core (s.clk + 1) = some c → c.rejoin = none →
      (c.team ∈ s.teams ∧ fieldOf (s.reg (pidx c.team.part 0)) 27 3 = 1 ∧ (c.team.freeRecord q.core).isSome = true ∧
        (∀ x, x ∈ c.fibres ↔ x ∈ c.team.attic ∧ x.core = q.core ∧ x.st = .formable ∧ x.pc = c.pc ∧ x.parked ≤ s.clk) ∧ c.fibres.Pairwise (fun x y => x.fid ≤ y.fid) ∧
        (c.team.launch.wv ≤ c.fibres.length ∨ ∃ x ∈ c.fibres, fieldOf (s.reg 0x00D) 0 16 ≤ s.clk + 1 - x.parked)) ∧
      (c.team.errors = [] → ∀ n, c.team.freeRecord q.core = some n →
        let seated := c.fibres.take c.team.launch.wv
        ∃ g : Group, exec .formGroup s = .next ({ s with clk := s.clk + 1, formClk := sset 0 s.formClk q.core (s.clk + 1) }.putTeam { c.team with
            groups := c.team.groups ++ [g], attic := c.team.attic.filter fun x : Parked => !(seated.map fun y : Parked => y.fid).contains x.fid }) ∧
          g.num = n ∧ g.core = q.core ∧ g.islot = s.issueSlot q.core ∧ g.pc = c.pc ∧ g.gpred = 1 ∧ g.seg = 0 ∧ g.inHandler = false ∧ g.wait = .none ∧ g.formed = g.activeMask ∧
          g.lanes = (List.range c.team.launch.wv).map (fun i : Nat => (seated[i]?).map fun x : Parked => x.fid) ∧
          (∀ y, y ∈ g.hist ↔ ∃ x ∈ seated, ∃ z ∈ x.hist, y = { z with named := false }) ∧
          ∀ i, sget 0 g.sregs i = c.team.sargs.getD i 0)) ∧
    (∀ t, s.team? q.core q.slot = some t →
      (¬ (t.exiting = true ∧ t.launch.contain = true ∧ t.drained = false) → exec .storeBufferDrain s = .next s) ∧
      (t.exiting = true → t.launch.contain = true → t.drained = false → t.copies = [] →
        (∀ S T, s.drain t = .held S T → exec .storeBufferDrain s = .next (S.putTeam T)) ∧
        (∀ S T, s.drain t = .done S T → S.remotePending T = true → exec .storeBufferDrain s = .next (S.putTeam T)) ∧
        (∀ S T, s.drain t = .done S T → T.core = t.core → T.slot = t.slot → T.copies = [] → T.launch = t.launch → S.remotePending T = false →
          gives .storeBufferDrain fun S' => S'.team? t.core t.slot = none))) ∧
    (let ver : Option Word := if q.ok then some (q.value.setWidth 32) else none
     (2 ^ 56 ≤ q.addr.toNat ∨ (s.tlbHit q.core k ver q.addr).isSome = true ∨ (∀ e n, s.walk k q.addr ≠ .leaf e n) → exec .pageWalk s = .next s) ∧
     (q.addr.toNat < 2 ^ 56 → s.tlbHit q.core k ver q.addr = none → ∀ e n, s.walk k q.addr = .leaf e n →
       let ends := s.xlate (s.coreSec q.core) q.core k ver q.addr .read true
       let wrong := s.noTarget e n q.addr = true ∨ (bitAt e 58 = true ∧ ∃ d, s.versioned ver (leafAddr e n q.addr) = .inr d) ∨
         ((∀ pa x lost, ends ≠ .ok pa x lost) ∧ (∀ o, ends ≠ .remote o) ∧ ends ≠ .shardNodev ∧ ends ≠ .held)
       (wrong → exec .pageWalk s = .next s) ∧
       (¬ wrong → ∃ (x : TlbEntry) (S : State), exec .pageWalk s = .next { s with tlb := S.tlb, walks := S.walks } ∧
         x.core = some q.core ∧ x.die = q.core / 128 ∧
         x.part = k ∧ x.vpn = q.addr.toNat / 2 ^ n ∧ x.bits = n ∧ x.leaf = e ∧ x.ver = (if bitAt e 58 then ver else none) ∧
         let own : TlbEntry → Bool := fun y => decide (y.core = x.core)
         let dies : TlbEntry → Bool := fun y => y.core.isNone && decide (y.die = x.die);
         ({ x with core := none } ∈ S.tlb ∧ x ∈ S.tlb ∧ ∀ y ∈ S.tlb, y = x ∨ y = { x with core := none } ∨ y ∈ s.tlb) ∧
         ((s.tlb.filter own).length < 512 → (s.tlb.filter dies).length < 16384 → S.tlb = s.tlb ++ [x, { x with core := none }]) ∧
         ((s.tlb.filter own).length ≤ 512 → (s.tlb.filter dies).length ≤ 16384 →
           (S.tlb.filter own).length ≤ 512 ∧ (S.tlb.filter dies).length ≤ 16384) ∧
         ∀ y ∈ S.walks, y ∈ s.walks ∨ (y.part = k ∧ y.die = stackOf (s.rootTable k) ∧ y.vpn = q.addr.toNat / 2 ^ y.bits ∧ bitAt y.entry 62 = false)))) ∧
    (bitAt (s.reg (pidx k 11)) 63 = false → exec .tlbInvalidateComplete s = .next s) ∧
    (bitAt (s.reg (pidx k 11)) 63 = true →
      ((s.part k).heldTlb = [] → exec .tlbInvalidateComplete s = .next (s.setReg (pidx k 11) 0)) ∧
      (∀ v vs, (s.part k).heldTlb = v :: vs → gives .tlbInvalidateComplete fun S => bitAt (S.reg (pidx k 11)) 63 = true ∧ (S.part k).heldTlb = vs ∧
        (∀ e, e ∈ S.tlb ↔ e ∈ s.tlb ∧ ¬ (e.part = k ∧ (bitAt v 62 = true ∨ e.vpn = fieldOf v 16 40 / 2 ^ (e.bits - 16)))) ∧
        ∀ e, e ∈ S.walks ↔ e ∈ s.walks ∧ ¬ (e.part = k ∧ (bitAt v 62 = true ∨ e.vpn = fieldOf v 16 40 / 2 ^ (e.bits - 16))))) ∧
    (q.ok = false → q.k ≠ 1 → s.team? q.core q.slot = none → exec .copyUnitLand s = .next s) ∧
    (q.ok = false → q.k ≠ 1 → ∀ t c, s.team? q.core q.slot = some t → t.copies = [(q.e, c)] →
      (c.st ≠ .landing ∨ fieldOf (s.reg (pidx t.part 0)) 27 3 ≠ 1 → exec .copyUnitLand s = .next s) ∧
      (c.st = .landing → fieldOf (s.reg (pidx t.part 0)) 27 3 = 1 → c.kind = .bcpy → bcpyBad c.desc = false → c.total = bcpyTotal c.desc → c.count < c.total →
        bcpyDims c.desc = 0 → bcpyConv c.desc = 0 → fieldOf (c.desc.getD 2 0) 4 2 = 0 → c.dstSpace = .scratch →
        t.exiting = false → t.errors = [] → t.sb = [] → s.posted = [] →
        let src := (c.desc.getD 0 0).toNat + c.count
        let dst := (c.desc.getD 1 0).toNat + c.count
        let n := min (c.total - c.count) (min (128 - src % 128) (128 - dst % 128))
        src + n ≤ 2 ^ 56 → dst + n ≤ 1024 * t.launch.scratch →
        ∀ pa leaf, s.engineXlat t c (BitVec.ofNat 64 src) .read = .ok pa leaf false → pa + n ≤ 2 ^ 40 → s.keyed (keyOf leaf) pa n →
        gives .copyUnitLand fun S => (∀ a, S.homeByte a = s.homeByte a) ∧ ∃ t', S.team? q.core q.slot = some t' ∧
          (∀ i, sget 0 t'.scratch i = if dst ≤ i ∧ i < dst + n then s.homeByte (pa + (i - dst)) else sget 0 t.scratch i) ∧
          (c.count + n = c.total → (t'.copy q.e).st = .idle) ∧
          (c.count + n < c.total → (t'.copy q.e).st = .landing ∧ (t'.copy q.e).count = c.count + n) ∧
          t.copyArrives t' (c.count + n = c.total ∧ bitAt (c.desc.getD 2 0) 16 = true) (fieldOf (c.desc.getD 2 0) 17 4) ∧
          t'.win = t.win ∧ t'.hbytes = t.hbytes ∧ t'.tiles = t.tiles))

/-! ### The step, reset, the encodings and the memory's form -/

/-- R128, R130, R131, R132, R200 and R201: the step of a group that may issue, and that its issue slot admits, runs the instruction that its words decode to: those
of the loop buffer at its program counter, or those that a fetch of its run brings; words that decode to no instruction trap
ILLEGAL with the lowest reason, and a 25th instruction of a run traps RUN_LONG. Each word of a fetched run is the one in
memory at its address. A group that holds no positions claims free aligned ones that no
other group holds; a uniform instruction is admitted where its slot has issued none at the clock, which it then has; and no group is
admitted before one that has waited longer for the same. A group that is not admitted waits a clock. An event is performed with its operands. The agenda, which gives who acts next, is the model's choice (log entry 1).
Rests on the model's choices or readings of log entries 1, 6, 9, 17 and 19. -/
def Obligations.StepRunsTheDecodedInstruction : Prop :=
  (∀ (s : State) (core slot num : Nat) (rest : List Turn), s.agenda = .group core slot num :: rest →
    let s0 := { ({ s with agenda := rest } : State).upkeep (.group core slot num) with cur := some { core := core, slot := slot, num := num } }
    ∀ t g, s0.curGroup? = some (t, g) → t.cut = false → s0.issues t g = true → g.abort = [] → g.late = [] →
      let s1 := { s0 with clk := max s0.clk g.nextIssue }
      let issued : State → Group → Instr → Prop := fun S u i =>
        (∀ v, S.letIssue t u i = some v → step s = (S.put t v).issueRes (exec i (S.put t v))) ∧
        (S.letIssue t u i = none → ∃ x, step s = .next (S.put t { u with seeks := x, nextIssue := S.clk + 1 }))
      (24 ≤ g.issued → step s = .next (s1.takeTrap t g { cause := 0x102, mask := g.activeMask })) ∧
      (g.issued < 24 →
        (∀ i n, decode t.launch.window g.wordsAt = .instr i n → (Instr.isMatrix i = true → s1.limited g.core = false) → issued s1 g i) ∧
        (∀ r, g.wordsAt ≠ [] → decode t.launch.window g.wordsAt = .illegal r →
          step s = .next (s1.takeTrap t g { cause := 0x100, mask := g.activeMask, detail := BitVec.ofNat 64 r })) ∧
        (g.wordsAt = [] → g.pc.toNat % 4 = 0 → ∀ ws S, s1.fetchFrom t g.core g.pc [] [] (24 - g.issued) 121 = .ok ws S →
          (∀ i n, decode t.launch.window ws = .instr i n → (Instr.isMatrix i = true → s1.limited g.core = false) →
            issued (S.put t { g with buf := ws, bufPc := g.pc }) { g with buf := ws, bufPc := g.pc } i) ∧
          (∀ j w, ws[j]? = some w → ∃ S' S'' : State, S'.fetchWord t g.core (g.pc + BitVec.ofNat 64 (4 * j)) = .ok w S'' ∧
            (s1.seals = [] → ∀ a < 2 ^ 40, S'.homeByte a = s1.homeByte a))))) ∧
  (∀ (s : State) (a : Turn), (∀ t ∈ s.teams, t.attic = []) →
    (∀ p ∈ s.parts, p.2.slotsDue = [] ∧ ∀ g, p.2.graph = some g → ∀ x ∈ g.edges, x.wbDue = false ∧ x.retDue = false) →
    (∀ i ∈ s.insts, i.redeem = none ∨ i.exited ≠ i.launch.teams) →
    s.upkeep a = { s with clk := max s.clk (match a with
      | .group core slot num => (match ({ s with cur := some { core := core, slot := slot, num := num } } : State).curGroup? with
        | some (t, g) => if s.issues t g then g.nextIssue else 0
        | none => 0)
      | _ => 0) }) ∧
  (∀ (s : State) (t : Team) (g v : Group) (i : Instr), s.letIssue t g i = some v →
    (∃ p x, v = { g with positions := v.positions, seeks := x, runStart := p }) ∧
    (g.positions ≠ none → v.positions = g.positions) ∧
    (g.positions = none → g.wait ≠ .barrier → ∃ p, v.positions = some p ∧ v.runStart = s.clk ∧ p % t.launch.width = 0 ∧
      p + t.launch.width ≤ 64 ∧ (∀ c ∈ s.claims g.core g.islot, p + t.launch.width ≤ c.1 ∨ c.1 + c.2 ≤ p) ∧
      ∀ u ∈ s.teams, ∀ h ∈ u.groups, h.core = g.core → h.islot = g.islot → h.seeks = .positions → s.issues u h = true →
        (s.freePositions h.core h.islot u.launch.width).isSome = true →
        g.runStart < h.runStart ∨ (g.runStart = h.runStart ∧ (t.slot < u.slot ∨ (t.slot = u.slot ∧ g.num ≤ h.num)))) ∧
    (Instr.isUniform i = true → g.wait = .none → g.progress = none → v.seeks = .granted ∧ sget 0 s.uniClk (2 * g.core + g.islot) ≠ s.clk + 1 ∧
      (∀ u ∈ s.teams, ∀ h ∈ u.groups, h.core = g.core → h.islot = g.islot → h.seeks = .uniform → s.issues u h = true →
        g.runStart < h.runStart ∨ (g.runStart = h.runStart ∧ (t.slot < u.slot ∨ (t.slot = u.slot ∧ g.num ≤ h.num)))) ∧
      ∀ S : State, sget 0 (S.noteIssue v).uniClk (2 * g.core + g.islot) = S.clk + 1)) ∧
  (∀ (s : State) (t : Team) (core : Nat) (va : DWord) (pa : Nat) (leaf : DWord), s.codeLine core t.part va.toNat = none →
    s.xlate (s.coreSec core) core t.part (s.version t) va .exec false = .ok pa leaf false → va.toNat % 4 = 0 → pa % 128 = va.toNat % 128 →
    pa + 4 ≤ 2 ^ 40 → s.homePoison (pa / 32) = false → s.keyed (keyOf leaf) (pa / 128 * 128) 128 →
    ∃ S, s.fetchWord t core va = .ok (BitVec.ofNat 32 (leWord (s.homeBytes pa 4))) S) ∧
  (∀ (s : State) (i : Instr) (r : Request) (rest : List Turn), s.agenda = .event i r :: rest → i.fields? = none →
    step s = exec i { ({ s with agenda := rest } : State).upkeep (.event i r) with request := r }) ∧
  ∀ (s : State) (n : Nat) (rest : List Turn), s.agenda = .clocks n :: rest →
    let U := ({ s with agenda := rest } : State).upkeep (.clocks n)
    step s = .next { U with clk := U.clk + n }

/-- R4, R17, R21 and R419: after a cold reset every state register holds the value that its rule states, and there is no
memory content, cached line, launch, resident team, log entry or key; the canonical form of memory holds. Some words of the
chapters' examples decode to the instructions that they stand for.
Rests on the model's choices or readings of log entry 3. -/
def Obligations.ResetStateAndWords : Prop :=
  let s := State.reset
  (s.reg 0x000 = 0 ∧ s.reg 0x001 = 0 ∧ s.reg 0x002 = 10000 ∧ fieldOf (s.reg 0x003) 0 16 = 2100 ∧ s.reg 0x004 = 0 ∧ s.reg 0x008 = 0 ∧ s.reg 0x009 = 1 ∧
    s.reg 0x00A = 0x100 ∧ s.reg 0x00B = 0xFFFF ∧ s.reg 0x00C = 65536 ∧ s.reg 0x00D = 64 ∧ s.reg 0x00E = 0 ∧ s.reg 0x010 = 0 ∧ s.reg 0x013 = 0 ∧
    (∀ j < 12, fieldOf (s.reg (0x01C + j)) 10 2 = 3) ∧ (∀ j < 16, s.reg (0x028 + j) = 0xFFFFFFFFFFFFFFFF) ∧ (∀ j < 16, fieldOf (s.reg (0x058 + j)) 0 5 = 4) ∧
    (∀ k < 64, s.reg (0x0A8 + k) = 0) ∧ s.reg 0x0E8 = 0 ∧ s.reg 0x0E9 = 0 ∧
    ∀ k < 16, s.reg (pidx k 0) = 0x40000000 ∧ s.reg (pidx k 2) = 0 ∧ fieldOf (s.reg (pidx k 4)) 0 5 = 4 ∧ s.reg (pidx k 9) = 0) ∧
  (s.teams = [] ∧ s.insts = [] ∧ s.parts = [] ∧ s.log = [] ∧ s.logHead = 0 ∧ s.logTail = 0 ∧ s.keys = [] ∧ s.l1 = [] ∧ s.code = [] ∧ s.tlb = [] ∧
    s.posted = [] ∧ s.time = 0 ∧ s.MemoryForm ∧ ∀ a < 2 ^ 40, s.homeByte a = 0) ∧
  decode 16 [0x1E0C10A0] = .instr (.sel { d := 3, a := 1, b := 2, f := 4, s := 0 }) 1 ∧
  decode 16 [0x080C1080] = .instr (.idivI32 { d := 3, a := 1, b := 2, f := 0, s := 0 }) 1 ∧
  decode 16 [0xA001FFFD] = .instr (.bra { n := false, pred := 0, off := 0x1FFFD }) 1 ∧
  decode 16 [0xA18A0008] = .instr (.br { n := true, pred := 5, off := 8 }) 1 ∧
  decode 16 [0xE0E79028] = .instr (.trap { d := 57, a := 57, imm := 5, s := 0 }) 1 ∧
  decode 16 [0xD953FE40, 0] = .instr (.steprd { d := 20, a := 63, b := 57, f := 0, s := 0, m := { lit := some 0 } }) 2 ∧
  decode 16 [0x7F000000] = .illegal 1

/-- R185 to R201: decoding the words of a well-formed instruction, with anything after them, gives that instruction and their
number; and what decodes is well formed, with the words that were decoded, whose prefixes may stand in any order. -/
def Obligations.DecodeAndEncodeAgree : Prop :=
  (∀ (win : Nat) (i : Instr) (rest : List Word), i.fields?.isSome = true → WellFormed win i →
    decode win (encode i ++ rest) = .instr i (encode i).length) ∧
  ∀ (win : Nat) (ws : List Word) (i : Instr) (n : Nat), decode win ws = .instr i n →
    n ≤ ws.length ∧ WellFormed win i ∧ i.fields?.isSome = true ∧ (encode i).Perm (ws.take n) ∧ ∀ rest, decode win (ws.take n ++ rest) = .instr i n

/-- The model's canonical form (log entry 4): a memory lists its bytes by strictly rising address and lists no
byte that an unlisted address reads as; every step keeps that form of the device's memory and of the pool.
Rests on the model's choices or readings of log entry 4. -/
def Obligations.StepsKeepTheMemoryForm : Prop :=
  ∀ s s' : State, s.MemoryForm → step s = .next s' → s'.MemoryForm
end

