-- ==== Sys2Proof/Laws/Dispatch.lean ====
section
/-! SUPPORT. What `exec` does with each constructor: it calls its meaning. -/

namespace Sys2Proof.Machine

@[simp] theorem exec_nop (w : W3) (s : State) : exec (.nop w) s = execNop w s := rfl
@[simp] theorem exec_iaddI32 (w : W3) (s : State) : exec (.iaddI32 w) s = execIaddI32 w s := rfl
@[simp] theorem exec_iaddI32Li (w : WI) (s : State) : exec (.iaddI32Li w) s = execIaddI32Li w s := rfl
@[simp] theorem exec_isubI32 (w : W3) (s : State) : exec (.isubI32 w) s = execIsubI32 w s := rfl
@[simp] theorem exec_imulI32 (w : W3) (s : State) : exec (.imulI32 w) s = execImulI32 w s := rfl
@[simp] theorem exec_imulI32Li (w : WI) (s : State) : exec (.imulI32Li w) s = execImulI32Li w s := rfl
@[simp] theorem exec_imulhI32 (w : W3) (s : State) : exec (.imulhI32 w) s = execImulhI32 w s := rfl
@[simp] theorem exec_imulhN32 (w : W3) (s : State) : exec (.imulhN32 w) s = execImulhN32 w s := rfl
@[simp] theorem exec_imadI32 (w : W3) (s : State) : exec (.imadI32 w) s = execImadI32 w s := rfl
@[simp] theorem exec_iabsI32 (w : W3) (s : State) : exec (.iabsI32 w) s = execIabsI32 w s := rfl
@[simp] theorem exec_idivI32 (w : W3) (s : State) : exec (.idivI32 w) s = execIdivI32 w s := rfl
@[simp] theorem exec_idivN32 (w : W3) (s : State) : exec (.idivN32 w) s = execIdivN32 w s := rfl
@[simp] theorem exec_iremI32 (w : W3) (s : State) : exec (.iremI32 w) s = execIremI32 w s := rfl
@[simp] theorem exec_iremN32 (w : W3) (s : State) : exec (.iremN32 w) s = execIremN32 w s := rfl
@[simp] theorem exec_iminI32 (w : W3) (s : State) : exec (.iminI32 w) s = execIminI32 w s := rfl
@[simp] theorem exec_iminN32 (w : W3) (s : State) : exec (.iminN32 w) s = execIminN32 w s := rfl
@[simp] theorem exec_imaxI32 (w : W3) (s : State) : exec (.imaxI32 w) s = execImaxI32 w s := rfl
@[simp] theorem exec_imaxN32 (w : W3) (s : State) : exec (.imaxN32 w) s = execImaxN32 w s := rfl
@[simp] theorem exec_andL (w : W3) (s : State) : exec (.andL w) s = execAnd w s := rfl
@[simp] theorem exec_andLi (w : WI) (s : State) : exec (.andLi w) s = execAndLi w s := rfl
@[simp] theorem exec_orL (w : W3) (s : State) : exec (.orL w) s = execOr w s := rfl
@[simp] theorem exec_orLi (w : WI) (s : State) : exec (.orLi w) s = execOrLi w s := rfl
@[simp] theorem exec_xorL (w : W3) (s : State) : exec (.xorL w) s = execXor w s := rfl
@[simp] theorem exec_xorLi (w : WI) (s : State) : exec (.xorLi w) s = execXorLi w s := rfl
@[simp] theorem exec_shl (w : W3) (s : State) : exec (.shl w) s = execShl w s := rfl
@[simp] theorem exec_shlLi (w : WI) (s : State) : exec (.shlLi w) s = execShlLi w s := rfl
@[simp] theorem exec_shr (w : W3) (s : State) : exec (.shr w) s = execShr w s := rfl
@[simp] theorem exec_shrLi (w : WI) (s : State) : exec (.shrLi w) s = execShrLi w s := rfl
@[simp] theorem exec_sar (w : W3) (s : State) : exec (.sar w) s = execSar w s := rfl
@[simp] theorem exec_sarLi (w : WI) (s : State) : exec (.sarLi w) s = execSarLi w s := rfl
@[simp] theorem exec_rotl (w : W3) (s : State) : exec (.rotl w) s = execRotl w s := rfl
@[simp] theorem exec_rotlLi (w : WI) (s : State) : exec (.rotlLi w) s = execRotlLi w s := rfl
@[simp] theorem exec_popc (w : W3) (s : State) : exec (.popc w) s = execPopc w s := rfl
@[simp] theorem exec_clz (w : W3) (s : State) : exec (.clz w) s = execClz w s := rfl
@[simp] theorem exec_brev (w : W3) (s : State) : exec (.brev w) s = execBrev w s := rfl
@[simp] theorem exec_bfxI32 (w : W3) (s : State) : exec (.bfxI32 w) s = execBfxI32 w s := rfl
@[simp] theorem exec_bfxN32 (w : W3) (s : State) : exec (.bfxN32 w) s = execBfxN32 w s := rfl
@[simp] theorem exec_bfi (w : W3) (s : State) : exec (.bfi w) s = execBfi w s := rfl
@[simp] theorem exec_perm (w : W3) (s : State) : exec (.perm w) s = execPerm w s := rfl
@[simp] theorem exec_sel (w : W3) (s : State) : exec (.sel w) s = execSel w s := rfl
@[simp] theorem exec_mov (w : W3) (s : State) : exec (.mov w) s = execMov w s := rfl
@[simp] theorem exec_movLi (w : WI) (s : State) : exec (.movLi w) s = execMovLi w s := rfl
@[simp] theorem exec_movU (w : W3) (s : State) : exec (.movU w) s = execMovU w s := rfl
@[simp] theorem exec_icmpI32 (w : WC) (s : State) : exec (.icmpI32 w) s = execIcmpI32 w s := rfl
@[simp] theorem exec_icmpN32 (w : WC) (s : State) : exec (.icmpN32 w) s = execIcmpN32 w s := rfl
@[simp] theorem exec_faddF32 (w : W3) (s : State) : exec (.faddF32 w) s = execFaddF32 w s := rfl
@[simp] theorem exec_fsubF32 (w : W3) (s : State) : exec (.fsubF32 w) s = execFsubF32 w s := rfl
@[simp] theorem exec_fmulF32 (w : W3) (s : State) : exec (.fmulF32 w) s = execFmulF32 w s := rfl
@[simp] theorem exec_fmulzF32 (w : W3) (s : State) : exec (.fmulzF32 w) s = execFmulzF32 w s := rfl
@[simp] theorem exec_ffmaF32 (w : W3) (s : State) : exec (.ffmaF32 w) s = execFfmaF32 w s := rfl
@[simp] theorem exec_fminF32 (w : W3) (s : State) : exec (.fminF32 w) s = execFminF32 w s := rfl
@[simp] theorem exec_fmaxF32 (w : W3) (s : State) : exec (.fmaxF32 w) s = execFmaxF32 w s := rfl
@[simp] theorem exec_fcmpF32 (w : WC) (s : State) : exec (.fcmpF32 w) s = execFcmpF32 w s := rfl
@[simp] theorem exec_fclassF32 (w : W3) (s : State) : exec (.fclassF32 w) s = execFclassF32 w s := rfl
@[simp] theorem exec_fdivF32 (w : W3) (s : State) : exec (.fdivF32 w) s = execFdivF32 w s := rfl
@[simp] theorem exec_frcpF32 (w : W3) (s : State) : exec (.frcpF32 w) s = execFrcpF32 w s := rfl
@[simp] theorem exec_frsqF32 (w : W3) (s : State) : exec (.frsqF32 w) s = execFrsqF32 w s := rfl
@[simp] theorem exec_fsqrtF32 (w : W3) (s : State) : exec (.fsqrtF32 w) s = execFsqrtF32 w s := rfl
@[simp] theorem exec_fexp2F32 (w : W3) (s : State) : exec (.fexp2F32 w) s = execFexp2F32 w s := rfl
@[simp] theorem exec_flog2F32 (w : W3) (s : State) : exec (.flog2F32 w) s = execFlog2F32 w s := rfl
@[simp] theorem exec_fsinF32 (w : W3) (s : State) : exec (.fsinF32 w) s = execFsinF32 w s := rfl
@[simp] theorem exec_fcosF32 (w : W3) (s : State) : exec (.fcosF32 w) s = execFcosF32 w s := rfl
@[simp] theorem exec_ftanhF32 (w : W3) (s : State) : exec (.ftanhF32 w) s = execFtanhF32 w s := rfl
@[simp] theorem exec_daddF64 (w : W3) (s : State) : exec (.daddF64 w) s = execDaddF64 w s := rfl
@[simp] theorem exec_dmulF64 (w : W3) (s : State) : exec (.dmulF64 w) s = execDmulF64 w s := rfl
@[simp] theorem exec_dfmaF64 (w : W3) (s : State) : exec (.dfmaF64 w) s = execDfmaF64 w s := rfl
@[simp] theorem exec_hadd2F16 (w : W3) (s : State) : exec (.hadd2F16 w) s = execHadd2F16 w s := rfl
@[simp] theorem exec_hadd2BF16 (w : W3) (s : State) : exec (.hadd2BF16 w) s = execHadd2BF16 w s := rfl
@[simp] theorem exec_hmul2F16 (w : W3) (s : State) : exec (.hmul2F16 w) s = execHmul2F16 w s := rfl
@[simp] theorem exec_hmul2BF16 (w : W3) (s : State) : exec (.hmul2BF16 w) s = execHmul2BF16 w s := rfl
@[simp] theorem exec_hfma2F16 (w : W3) (s : State) : exec (.hfma2F16 w) s = execHfma2F16 w s := rfl
@[simp] theorem exec_hfma2BF16 (w : W3) (s : State) : exec (.hfma2BF16 w) s = execHfma2BF16 w s := rfl
@[simp] theorem exec_cfma (w : W3) (s : State) : exec (.cfma w) s = execCfma w s := rfl
@[simp] theorem exec_cvt (w : W3) (s : State) : exec (.cvt w) s = execCvt w s := rfl
@[simp] theorem exec_rndp (w : W3) (s : State) : exec (.rndp w) s = execRndp w s := rfl
@[simp] theorem exec_pand (w : W3) (s : State) : exec (.pand w) s = execPand w s := rfl
@[simp] theorem exec_por (w : W3) (s : State) : exec (.por w) s = execPor w s := rfl
@[simp] theorem exec_pxor (w : W3) (s : State) : exec (.pxor w) s = execPxor w s := rfl
@[simp] theorem exec_pnot (w : W3) (s : State) : exec (.pnot w) s = execPnot w s := rfl
@[simp] theorem exec_pmovw (w : W3) (s : State) : exec (.pmovw w) s = execPmovw w s := rfl
@[simp] theorem exec_pldw (w : W3) (s : State) : exec (.pldw w) s = execPldw w s := rfl
@[simp] theorem exec_shfl (w : W3) (s : State) : exec (.shfl w) s = execShfl w s := rfl
@[simp] theorem exec_vote (w : W3) (s : State) : exec (.vote w) s = execVote w s := rfl
@[simp] theorem exec_matchx (w : W3) (s : State) : exec (.matchx w) s = execMatch w s := rfl
@[simp] theorem exec_redx (w : W3) (s : State) : exec (.redx w) s = execRedx w s := rfl
@[simp] theorem exec_fredx (w : W3) (s : State) : exec (.fredx w) s = execFredx w s := rfl
@[simp] theorem exec_scanx (w : W3) (s : State) : exec (.scanx w) s = execScanx w s := rfl
@[simp] theorem exec_bcast (w : W3) (s : State) : exec (.bcast w) s = execBcast w s := rfl
@[simp] theorem exec_elect (w : W3) (s : State) : exec (.elect w) s = execElect w s := rfl
@[simp] theorem exec_qscale (w : W3) (s : State) : exec (.qscale w) s = execQscale w s := rfl
@[simp] theorem exec_cvtnPack (w : W3) (s : State) : exec (.cvtnPack w) s = execCvtnPack w s := rfl
@[simp] theorem exec_cvtnExp (w : W3) (s : State) : exec (.cvtnExp w) s = execCvtnExp w s := rfl
@[simp] theorem exec_ld (w : W3) (s : State) : exec (.ld w) s = execLd w s := rfl
@[simp] theorem exec_st (w : W3) (s : State) : exec (.st w) s = execSt w s := rfl
@[simp] theorem exec_lds (w : W3) (s : State) : exec (.lds w) s = execLds w s := rfl
@[simp] theorem exec_sts (w : W3) (s : State) : exec (.sts w) s = execSts w s := rfl
@[simp] theorem exec_atom (w : W3) (s : State) : exec (.atom w) s = execAtom w s := rfl
@[simp] theorem exec_atoms (w : W3) (s : State) : exec (.atoms w) s = execAtoms w s := rfl
@[simp] theorem exec_red (w : W3) (s : State) : exec (.red w) s = execRed w s := rfl
@[simp] theorem exec_cas (w : W3) (s : State) : exec (.cas w) s = execCas w s := rfl
@[simp] theorem exec_fenceT (w : W3) (s : State) : exec (.fenceT w) s = execFenceT w s := rfl
@[simp] theorem exec_fenceD (w : W3) (s : State) : exec (.fenceD w) s = execFenceD w s := rfl
@[simp] theorem exec_fenceS (w : W3) (s : State) : exec (.fenceS w) s = execFenceS w s := rfl
@[simp] theorem exec_lcpy (w : W3) (s : State) : exec (.lcpy w) s = execLcpy w s := rfl
@[simp] theorem exec_optaw (w : W3) (s : State) : exec (.optaw w) s = execOptaw w s := rfl
@[simp] theorem exec_shard (w : W3) (s : State) : exec (.shard w) s = execShard w s := rfl
@[simp] theorem exec_jmpi (w : W3) (s : State) : exec (.jmpi w) s = execJmpi w s := rfl
@[simp] theorem exec_calli (w : W3) (s : State) : exec (.calli w) s = execCalli w s := rfl
@[simp] theorem exec_fork (w : W3) (s : State) : exec (.fork w) s = execFork w s := rfl
@[simp] theorem exec_fend (w : W3) (s : State) : exec (.fend w) s = execFend w s := rfl
@[simp] theorem exec_sadd (w : W3) (s : State) : exec (.sadd w) s = execSadd w s := rfl
@[simp] theorem exec_saddYi (w : WI) (s : State) : exec (.saddYi w) s = execSaddYi w s := rfl
@[simp] theorem exec_ssub (w : W3) (s : State) : exec (.ssub w) s = execSsub w s := rfl
@[simp] theorem exec_smul (w : W3) (s : State) : exec (.smul w) s = execSmul w s := rfl
@[simp] theorem exec_smad (w : W3) (s : State) : exec (.smad w) s = execSmad w s := rfl
@[simp] theorem exec_sand (w : W3) (s : State) : exec (.sand w) s = execSand w s := rfl
@[simp] theorem exec_sandYi (w : WI) (s : State) : exec (.sandYi w) s = execSandYi w s := rfl
@[simp] theorem exec_sor (w : W3) (s : State) : exec (.sor w) s = execSor w s := rfl
@[simp] theorem exec_sorYi (w : WI) (s : State) : exec (.sorYi w) s = execSorYi w s := rfl
@[simp] theorem exec_sxor (w : W3) (s : State) : exec (.sxor w) s = execSxor w s := rfl
@[simp] theorem exec_sxorYi (w : WI) (s : State) : exec (.sxorYi w) s = execSxorYi w s := rfl
@[simp] theorem exec_sshl (w : W3) (s : State) : exec (.sshl w) s = execSshl w s := rfl
@[simp] theorem exec_sshlYi (w : WI) (s : State) : exec (.sshlYi w) s = execSshlYi w s := rfl
@[simp] theorem exec_sshr (w : W3) (s : State) : exec (.sshr w) s = execSshr w s := rfl
@[simp] theorem exec_sshrYi (w : WI) (s : State) : exec (.sshrYi w) s = execSshrYi w s := rfl
@[simp] theorem exec_ssar (w : W3) (s : State) : exec (.ssar w) s = execSsar w s := rfl
@[simp] theorem exec_ssarYi (w : WI) (s : State) : exec (.ssarYi w) s = execSsarYi w s := rfl
@[simp] theorem exec_sminI64 (w : W3) (s : State) : exec (.sminI64 w) s = execSminI64 w s := rfl
@[simp] theorem exec_sminN64 (w : W3) (s : State) : exec (.sminN64 w) s = execSminN64 w s := rfl
@[simp] theorem exec_smaxI64 (w : W3) (s : State) : exec (.smaxI64 w) s = execSmaxI64 w s := rfl
@[simp] theorem exec_smaxN64 (w : W3) (s : State) : exec (.smaxN64 w) s = execSmaxN64 w s := rfl
@[simp] theorem exec_ssel (w : W3) (s : State) : exec (.ssel w) s = execSsel w s := rfl
@[simp] theorem exec_scmpI64 (w : WC) (s : State) : exec (.scmpI64 w) s = execScmpI64 w s := rfl
@[simp] theorem exec_scmpN64 (w : WC) (s : State) : exec (.scmpN64 w) s = execScmpN64 w s := rfl
@[simp] theorem exec_smov (w : W3) (s : State) : exec (.smov w) s = execSmov w s := rfl
@[simp] theorem exec_smovYi (w : WI) (s : State) : exec (.smovYi w) s = execSmovYi w s := rfl
@[simp] theorem exec_spopc (w : W3) (s : State) : exec (.spopc w) s = execSpopc w s := rfl
@[simp] theorem exec_sclz (w : W3) (s : State) : exec (.sclz w) s = execSclz w s := rfl
@[simp] theorem exec_slane (w : W3) (s : State) : exec (.slane w) s = execSlane w s := rfl
@[simp] theorem exec_bra (w : WB) (s : State) : exec (.bra w) s = execBra w s := rfl
@[simp] theorem exec_br (w : WB) (s : State) : exec (.br w) s = execBr w s := rfl
@[simp] theorem exec_brg (w : WB) (s : State) : exec (.brg w) s = execBrg w s := rfl
@[simp] theorem exec_call (w : WB) (s : State) : exec (.call w) s = execCall w s := rfl
@[simp] theorem exec_ret (w : W3) (s : State) : exec (.ret w) s = execRet w s := rfl
@[simp] theorem exec_rjoin (w : W3) (s : State) : exec (.rjoin w) s = execRjoin w s := rfl
@[simp] theorem exec_yield (w : W3) (s : State) : exec (.yield w) s = execYield w s := rfl
@[simp] theorem exec_endRun (w : WEnd) (s : State) : exec (.endRun w) s = execEndRun w s := rfl
@[simp] theorem exec_segset (w : W3) (s : State) : exec (.segset w) s = execSegset w s := rfl
@[simp] theorem exec_segget (w : W3) (s : State) : exec (.segget w) s = execSegget w s := rfl
@[simp] theorem exec_barInit (w : WE) (s : State) : exec (.barInit w) s = execBarInit w s := rfl
@[simp] theorem exec_barArv (w : WE) (s : State) : exec (.barArv w) s = execBarArv w s := rfl
@[simp] theorem exec_barWt (w : WE) (s : State) : exec (.barWt w) s = execBarWt w s := rfl
@[simp] theorem exec_barSync (w : WE) (s : State) : exec (.barSync w) s = execBarSync w s := rfl
@[simp] theorem exec_qpushRes (w : WE) (s : State) : exec (.qpushRes w) s = execQpushRes w s := rfl
@[simp] theorem exec_qpushPub (w : WE) (s : State) : exec (.qpushPub w) s = execQpushPub w s := rfl
@[simp] theorem exec_qpopTake (w : WE) (s : State) : exec (.qpopTake w) s = execQpopTake w s := rfl
@[simp] theorem exec_qpopRel (w : WE) (s : State) : exec (.qpopRel w) s = execQpopRel w s := rfl
@[simp] theorem exec_qpeek (w : WE) (s : State) : exec (.qpeek w) s = execQpeek w s := rfl
@[simp] theorem exec_launch (w : WE) (s : State) : exec (.launch w) s = execLaunch w s := rfl
@[simp] theorem exec_ldu (w : W3) (s : State) : exec (.ldu w) s = execLdu w s := rfl
@[simp] theorem exec_stu (w : W3) (s : State) : exec (.stu w) s = execStu w s := rfl
@[simp] theorem exec_bcpy (w : WE) (s : State) : exec (.bcpy w) s = execBcpy w s := rfl
@[simp] theorem exec_gath (w : WE) (s : State) : exec (.gath w) s = execGath w s := rfl
@[simp] theorem exec_layx (w : WE) (s : State) : exec (.layx w) s = execLayx w s := rfl
@[simp] theorem exec_wmrd (w : WE) (s : State) : exec (.wmrd w) s = execWmrd w s := rfl
@[simp] theorem exec_wmwait (w : WE) (s : State) : exec (.wmwait w) s = execWmwait w s := rfl
@[simp] theorem exec_cpycan (w : WE) (s : State) : exec (.cpycan w) s = execCpycan w s := rfl
@[simp] theorem exec_pin (w : WE) (s : State) : exec (.pin w) s = execPin w s := rfl
@[simp] theorem exec_unpin (w : WE) (s : State) : exec (.unpin w) s = execUnpin w s := rfl
@[simp] theorem exec_hres (w : WE) (s : State) : exec (.hres w) s = execHres w s := rfl
@[simp] theorem exec_hrel (w : WE) (s : State) : exec (.hrel w) s = execHrel w s := rfl
@[simp] theorem exec_hstat (w : WE) (s : State) : exec (.hstat w) s = execHstat w s := rfl
@[simp] theorem exec_mma (w : WE) (s : State) : exec (.mma w) s = execMma w s := rfl
@[simp] theorem exec_mmak (w : WE) (s : State) : exec (.mmak w) s = execMmak w s := rfl
@[simp] theorem exec_aclr (w : WE) (s : State) : exec (.aclr w) s = execAclr w s := rfl
@[simp] theorem exec_ald (w : WE) (s : State) : exec (.ald w) s = execAld w s := rfl
@[simp] theorem exec_ast (w : WE) (s : State) : exec (.ast w) s = execAst w s := rfl
@[simp] theorem exec_achk (w : WE) (s : State) : exec (.achk w) s = execAchk w s := rfl
@[simp] theorem exec_pair (w : WE) (s : State) : exec (.pair w) s = execPair w s := rfl
@[simp] theorem exec_unpair (w : WE) (s : State) : exec (.unpair w) s = execUnpair w s := rfl
@[simp] theorem exec_mmap (w : WE) (s : State) : exec (.mmap w) s = execMmap w s := rfl
@[simp] theorem exec_guide (w : WE) (s : State) : exec (.guide w) s = execGuide w s := rfl
@[simp] theorem exec_maskp (w : WE) (s : State) : exec (.maskp w) s = execMaskp w s := rfl
@[simp] theorem exec_mmam (w : WE) (s : State) : exec (.mmam w) s = execMmam w s := rfl
@[simp] theorem exec_tokpub (w : WE) (s : State) : exec (.tokpub w) s = execTokpub w s := rfl
@[simp] theorem exec_tkissue (w : WE) (s : State) : exec (.tkissue w) s = execTkissue w s := rfl
@[simp] theorem exec_tkstat (w : WE) (s : State) : exec (.tkstat w) s = execTkstat w s := rfl
@[simp] theorem exec_tkdrop (w : WE) (s : State) : exec (.tkdrop w) s = execTkdrop w s := rfl
@[simp] theorem exec_tkfeed (w : WE) (s : State) : exec (.tkfeed w) s = execTkfeed w s := rfl
@[simp] theorem exec_tkredeem (w : WE) (s : State) : exec (.tkredeem w) s = execTkredeem w s := rfl
@[simp] theorem exec_tkbindVer (w : WE) (s : State) : exec (.tkbindVer w) s = execTkbindVer w s := rfl
@[simp] theorem exec_tkbindOut (w : WE) (s : State) : exec (.tkbindOut w) s = execTkbindOut w s := rfl
@[simp] theorem exec_wpst (w : WE) (s : State) : exec (.wpst w) s = execWpst w s := rfl
@[simp] theorem exec_coll (w : WE) (s : State) : exec (.coll w) s = execColl w s := rfl
@[simp] theorem exec_publish (w : WE) (s : State) : exec (.publish w) s = execPublish w s := rfl
@[simp] theorem exec_publishSkip (w : WE) (s : State) : exec (.publishSkip w) s = execPublishSkip w s := rfl
@[simp] theorem exec_steprd (w : W3) (s : State) : exec (.steprd w) s = execSteprd w s := rfl
@[simp] theorem exec_trap (w : WI) (s : State) : exec (.trap w) s = execTrap w s := rfl
@[simp] theorem exec_eret (w : W3) (s : State) : exec (.eret w) s = execEret w s := rfl
@[simp] theorem exec_srd (w : W3) (s : State) : exec (.srd w) s = execSrd w s := rfl
@[simp] theorem exec_swr (w : W3) (s : State) : exec (.swr w) s = execSwr w s := rfl
@[simp] theorem exec_icinv (w : W3) (s : State) : exec (.icinv w) s = execIcinv w s := rfl
@[simp] theorem exec_commit (w : W3) (s : State) : exec (.commit w) s = execCommit w s := rfl
@[simp] theorem exec_texit (w : W3) (s : State) : exec (.texit w) s = execTexit w s := rfl
@[simp] theorem exec_bkpt (w : WI) (s : State) : exec (.bkpt w) s = execBkpt w s := rfl
@[simp] theorem exec_clk (w : W3) (s : State) : exec (.clk w) s = execClk w s := rfl
@[simp] theorem exec_coldReset (s : State) : exec .coldReset s = execColdReset s := rfl
@[simp] theorem exec_perstWarmReset (s : State) : exec .perstWarmReset s = execPerstWarmReset s := rfl
@[simp] theorem exec_functionLevelReset (s : State) : exec .functionLevelReset s = execFunctionLevelReset s := rfl
@[simp] theorem exec_timestampTick (s : State) : exec .timestampTick s = execTimestampTick s := rfl
@[simp] theorem exec_currentLimiterHold (s : State) : exec .currentLimiterHold s = execCurrentLimiterHold s := rfl
@[simp] theorem exec_governorStepDown (s : State) : exec .governorStepDown s = execGovernorStepDown s := rfl
@[simp] theorem exec_governorStepUp (s : State) : exec .governorStepUp s = execGovernorStepUp s := rfl
@[simp] theorem exec_functionInitComplete (s : State) : exec .functionInitComplete s = execFunctionInitComplete s := rfl
@[simp] theorem exec_trainTimeout (s : State) : exec .trainTimeout s = execTrainTimeout s := rfl
@[simp] theorem exec_linkDown (s : State) : exec .linkDown s = execLinkDown s := rfl
@[simp] theorem exec_linkRetrainComplete (s : State) : exec .linkRetrainComplete s = execLinkRetrainComplete s := rfl
@[simp] theorem exec_lateTraining (s : State) : exec .lateTraining s = execLateTraining s := rfl
@[simp] theorem exec_hostMemAccess (s : State) : exec .hostMemAccess s = execHostMemAccess s := rfl
@[simp] theorem exec_intenWrite (s : State) : exec .intenWrite s = execIntenWrite s := rfl
@[simp] theorem exec_intpendClear (s : State) : exec .intpendClear s = execIntpendClear s := rfl
@[simp] theorem exec_mscFlush (s : State) : exec .mscFlush s = execMscFlush s := rfl
@[simp] theorem exec_mscResize (s : State) : exec .mscResize s = execMscResize s := rfl
@[simp] theorem exec_mscFlushComplete (s : State) : exec .mscFlushComplete s = execMscFlushComplete s := rfl
@[simp] theorem exec_mscMissFill (s : State) : exec .mscMissFill s = execMscMissFill s := rfl
@[simp] theorem exec_fillLineSnoop (s : State) : exec .fillLineSnoop s = execFillLineSnoop s := rfl
@[simp] theorem exec_fillLineReread (s : State) : exec .fillLineReread s = execFillLineReread s := rfl
@[simp] theorem exec_ringEnable (s : State) : exec .ringEnable s = execRingEnable s := rfl
@[simp] theorem exec_ringEnginePublish (s : State) : exec .ringEnginePublish s = execRingEnginePublish s := rfl
@[simp] theorem exec_ringTailPoll (s : State) : exec .ringTailPoll s = execRingTailPoll s := rfl
@[simp] theorem exec_flitCrcFail (s : State) : exec .flitCrcFail s = execFlitCrcFail s := rfl
@[simp] theorem exec_korbenPacketReceive (s : State) : exec .korbenPacketReceive s = execKorbenPacketReceive s := rfl
@[simp] theorem exec_topoWrite (s : State) : exec .topoWrite s = execTopoWrite s := rfl
@[simp] theorem exec_ownerWrite (s : State) : exec .ownerWrite s = execOwnerWrite s := rfl
@[simp] theorem exec_keyEvict (s : State) : exec .keyEvict s = execKeyEvict s := rfl
@[simp] theorem exec_keyEvictComplete (s : State) : exec .keyEvictComplete s = execKeyEvictComplete s := rfl
@[simp] theorem exec_getVersion (s : State) : exec .getVersion s = execGetVersion s := rfl
@[simp] theorem exec_getCapabilities (s : State) : exec .getCapabilities s = execGetCapabilities s := rfl
@[simp] theorem exec_negotiateAlgorithms (s : State) : exec .negotiateAlgorithms s = execNegotiateAlgorithms s := rfl
@[simp] theorem exec_getDigests (s : State) : exec .getDigests s = execGetDigests s := rfl
@[simp] theorem exec_getCertificate (s : State) : exec .getCertificate s = execGetCertificate s := rfl
@[simp] theorem exec_challenge (s : State) : exec .challenge s = execChallenge s := rfl
@[simp] theorem exec_getMeasurements (s : State) : exec .getMeasurements s = execGetMeasurements s := rfl
@[simp] theorem exec_keyExchange (s : State) : exec .keyExchange s = execKeyExchange s := rfl
@[simp] theorem exec_finish (s : State) : exec .finish s = execFinish s := rfl
@[simp] theorem exec_stateRead (s : State) : exec .stateRead s = execStateRead s := rfl
@[simp] theorem exec_stateWrite (s : State) : exec .stateWrite s = execStateWrite s := rfl
@[simp] theorem exec_logRead (s : State) : exec .logRead s = execLogRead s := rfl
@[simp] theorem exec_logAck (s : State) : exec .logAck s = execLogAck s := rfl
@[simp] theorem exec_keyLoad (s : State) : exec .keyLoad s = execKeyLoad s := rfl
@[simp] theorem exec_warmReset (s : State) : exec .warmReset s = execWarmReset s := rfl
@[simp] theorem exec_floorRaise (s : State) : exec .floorRaise s = execFloorRaise s := rfl
@[simp] theorem exec_graphBind (s : State) : exec .graphBind s = execGraphBind s := rfl
@[simp] theorem exec_graphBindComplete (s : State) : exec .graphBindComplete s = execGraphBindComplete s := rfl
@[simp] theorem exec_graphUnbind (s : State) : exec .graphUnbind s = execGraphUnbind s := rfl
@[simp] theorem exec_agingInterval (s : State) : exec .agingInterval s = execAgingInterval s := rfl
@[simp] theorem exec_instanceDispatch (s : State) : exec .instanceDispatch s = execInstanceDispatch s := rfl
@[simp] theorem exec_teamPlace (s : State) : exec .teamPlace s = execTeamPlace s := rfl
@[simp] theorem exec_instanceComplete (s : State) : exec .instanceComplete s = execInstanceComplete s := rfl
@[simp] theorem exec_pctlEnWrite (s : State) : exec .pctlEnWrite s = execPctlEnWrite s := rfl
@[simp] theorem exec_preempt (s : State) : exec .preempt s = execPreempt s := rfl
@[simp] theorem exec_resume (s : State) : exec .resume s = execResume s := rfl
@[simp] theorem exec_reset (s : State) : exec .reset s = execReset s := rfl
@[simp] theorem exec_partitionHalted (s : State) : exec .partitionHalted s = execPartitionHalted s := rfl
@[simp] theorem exec_contextSaveComplete (s : State) : exec .contextSaveComplete s = execContextSaveComplete s := rfl
@[simp] theorem exec_restoreStart (s : State) : exec .restoreStart s = execRestoreStart s := rfl
@[simp] theorem exec_contextRestoreComplete (s : State) : exec .contextRestoreComplete s = execContextRestoreComplete s := rfl
@[simp] theorem exec_partitionResetComplete (s : State) : exec .partitionResetComplete s = execPartitionResetComplete s := rfl
@[simp] theorem exec_faultResolve (s : State) : exec .faultResolve s = execFaultResolve s := rfl
@[simp] theorem exec_faultEntryWrite (s : State) : exec .faultEntryWrite s = execFaultEntryWrite s := rfl
@[simp] theorem exec_storeBufferDrain (s : State) : exec .storeBufferDrain s = execStoreBufferDrain s := rfl
@[simp] theorem exec_teamRelaunch (s : State) : exec .teamRelaunch s = execTeamRelaunch s := rfl
@[simp] theorem exec_runFetch (s : State) : exec .runFetch s = execRunFetch s := rfl
@[simp] theorem exec_formGroup (s : State) : exec .formGroup s = execFormGroup s := rfl
@[simp] theorem exec_parkPartialGroup (s : State) : exec .parkPartialGroup s = execParkPartialGroup s := rfl
@[simp] theorem exec_pageWalk (s : State) : exec .pageWalk s = execPageWalk s := rfl
@[simp] theorem exec_tlbInvalidate (s : State) : exec .tlbInvalidate s = execTlbInvalidate s := rfl
@[simp] theorem exec_tlbInvalidateComplete (s : State) : exec .tlbInvalidateComplete s = execTlbInvalidateComplete s := rfl
@[simp] theorem exec_copyUnitLand (s : State) : exec .copyUnitLand s = execCopyUnitLand s := rfl
@[simp] theorem exec_matrixKStep (s : State) : exec .matrixKStep s = execMatrixKStep s := rfl
@[simp] theorem exec_collectiveComplete (s : State) : exec .collectiveComplete s = execCollectiveComplete s := rfl
@[simp] theorem exec_stepWrite (s : State) : exec .stepWrite s = execStepWrite s := rfl
@[simp] theorem exec_registerWrite (s : State) : exec .registerWrite s = execRegisterWrite s := rfl
@[simp] theorem exec_softError (s : State) : exec .softError s = execSoftError s := rfl
@[simp] theorem exec_resultWrite (s : State) : exec .resultWrite s = execResultWrite s := rfl
@[simp] theorem exec_accessPerformed (s : State) : exec .accessPerformed s = execAccessPerformed s := rfl
@[simp] theorem exec_cxlCacheSnoop (s : State) : exec .cxlCacheSnoop s = execCxlCacheSnoop s := rfl
@[simp] theorem exec_configurationSpaceWrite (s : State) : exec .configurationSpaceWrite s = execConfigurationSpaceWrite s := rfl
@[simp] theorem exec_dynamicCapacityEvent (s : State) : exec .dynamicCapacityEvent s = execDynamicCapacityEvent s := rfl

end Sys2Proof.Machine
end

