-- ==== Sys2Proof/Laws/State.lean ====
section
/-! SUPPORT. The fields of the state under the updates that every meaning uses: each update changes one
field and leaves the others. -/

namespace Sys2Proof.Machine

@[simp] theorem State.setReg_agenda (s : State) (i : Nat) (v : DWord) : (s.setReg i v).agenda = s.agenda := rfl
@[simp] theorem State.setReg_request (s : State) (i : Nat) (v : DWord) : (s.setReg i v).request = s.request := rfl
@[simp] theorem State.setReg_cur (s : State) (i : Nat) (v : DWord) : (s.setReg i v).cur = s.cur := rfl
@[simp] theorem State.setReg_free (s : State) (i : Nat) (v : DWord) : (s.setReg i v).free = s.free := rfl
@[simp] theorem State.setReg_beat (s : State) (i : Nat) (v : DWord) : (s.setReg i v).beat = s.beat := rfl
@[simp] theorem State.setReg_clk (s : State) (i : Nat) (v : DWord) : (s.setReg i v).clk = s.clk := rfl
@[simp] theorem State.setReg_time (s : State) (i : Nat) (v : DWord) : (s.setReg i v).time = s.time := rfl
@[simp] theorem State.setReg_dieClk (s : State) (i : Nat) (v : DWord) : (s.setReg i v).dieClk = s.dieClk := rfl
@[simp] theorem State.setReg_uniClk (s : State) (i : Nat) (v : DWord) : (s.setReg i v).uniClk = s.uniClk := rfl
@[simp] theorem State.setReg_holdClk (s : State) (i : Nat) (v : DWord) : (s.setReg i v).holdClk = s.holdClk := rfl
@[simp] theorem State.setReg_holdDies (s : State) (i : Nat) (v : DWord) : (s.setReg i v).holdDies = s.holdDies := rfl
@[simp] theorem State.setReg_holdUs (s : State) (i : Nat) (v : DWord) : (s.setReg i v).holdUs = s.holdUs := rfl
@[simp] theorem State.setReg_mem (s : State) (i : Nat) (v : DWord) : (s.setReg i v).mem = s.mem := rfl
@[simp] theorem State.setReg_poison (s : State) (i : Nat) (v : DWord) : (s.setReg i v).poison = s.poison := rfl
@[simp] theorem State.setReg_pool (s : State) (i : Nat) (v : DWord) : (s.setReg i v).pool = s.pool := rfl
@[simp] theorem State.setReg_poolPoison (s : State) (i : Nat) (v : DWord) : (s.setReg i v).poolPoison = s.poolPoison := rfl
@[simp] theorem State.setReg_poolL2 (s : State) (i : Nat) (v : DWord) : (s.setReg i v).poolL2 = s.poolL2 := rfl
@[simp] theorem State.setReg_msc (s : State) (i : Nat) (v : DWord) : (s.setReg i v).msc = s.msc := rfl
@[simp] theorem State.setReg_mscSize (s : State) (i : Nat) (v : DWord) : (s.setReg i v).mscSize = s.mscSize := rfl
@[simp] theorem State.setReg_l1 (s : State) (i : Nat) (v : DWord) : (s.setReg i v).l1 = s.l1 := rfl
@[simp] theorem State.setReg_code (s : State) (i : Nat) (v : DWord) : (s.setReg i v).code = s.code := rfl
@[simp] theorem State.setReg_tlb (s : State) (i : Nat) (v : DWord) : (s.setReg i v).tlb = s.tlb := rfl
@[simp] theorem State.setReg_posted (s : State) (i : Nat) (v : DWord) : (s.setReg i v).posted = s.posted := rfl
@[simp] theorem State.setReg_remotes (s : State) (i : Nat) (v : DWord) : (s.setReg i v).remotes = s.remotes := rfl
@[simp] theorem State.setReg_pinned (s : State) (i : Nat) (v : DWord) : (s.setReg i v).pinned = s.pinned := rfl
@[simp] theorem State.setReg_log (s : State) (i : Nat) (v : DWord) : (s.setReg i v).log = s.log := rfl
@[simp] theorem State.setReg_logHead (s : State) (i : Nat) (v : DWord) : (s.setReg i v).logHead = s.logHead := rfl
@[simp] theorem State.setReg_logTail (s : State) (i : Nat) (v : DWord) : (s.setReg i v).logTail = s.logTail := rfl
@[simp] theorem State.setReg_logDropped (s : State) (i : Nat) (v : DWord) : (s.setReg i v).logDropped = s.logDropped := rfl
@[simp] theorem State.setReg_logLost (s : State) (i : Nat) (v : DWord) : (s.setReg i v).logLost = s.logLost := rfl
@[simp] theorem State.setReg_relaunchLog (s : State) (i : Nat) (v : DWord) : (s.setReg i v).relaunchLog = s.relaunchLog := rfl
@[simp] theorem State.setReg_teams (s : State) (i : Nat) (v : DWord) : (s.setReg i v).teams = s.teams := rfl
@[simp] theorem State.setReg_orphans (s : State) (i : Nat) (v : DWord) : (s.setReg i v).orphans = s.orphans := rfl
@[simp] theorem State.setReg_insts (s : State) (i : Nat) (v : DWord) : (s.setReg i v).insts = s.insts := rfl
@[simp] theorem State.setReg_nextInst (s : State) (i : Nat) (v : DWord) : (s.setReg i v).nextInst = s.nextInst := rfl
@[simp] theorem State.setReg_parts (s : State) (i : Nat) (v : DWord) : (s.setReg i v).parts = s.parts := rfl
@[simp] theorem State.setReg_keys (s : State) (i : Nat) (v : DWord) : (s.setReg i v).keys = s.keys := rfl
@[simp] theorem State.setReg_otpFloor (s : State) (i : Nat) (v : DWord) : (s.setReg i v).otpFloor = s.otpFloor := rfl
@[simp] theorem State.setReg_otpRaises (s : State) (i : Nat) (v : DWord) : (s.setReg i v).otpRaises = s.otpRaises := rfl
@[simp] theorem State.setReg_svn (s : State) (i : Nat) (v : DWord) : (s.setReg i v).svn = s.svn := rfl
@[simp] theorem State.setReg_rings (s : State) (i : Nat) (v : DWord) : (s.setReg i v).rings = s.rings := rfl
@[simp] theorem State.setReg_heldWrites (s : State) (i : Nat) (v : DWord) : (s.setReg i v).heldWrites = s.heldWrites := rfl
@[simp] theorem State.setReg_decoders (s : State) (i : Nat) (v : DWord) : (s.setReg i v).decoders = s.decoders := rfl
@[simp] theorem State.setReg_options (s : State) (i : Nat) (v : DWord) : (s.setReg i v).options = s.options := rfl
@[simp] theorem State.setReg_masks (s : State) (i : Nat) (v : DWord) : (s.setReg i v).masks = s.masks := rfl
@[simp] theorem State.setReg_config (s : State) (i : Nat) (v : DWord) : (s.setReg i v).config = s.config := rfl
@[simp] theorem State.setReg_pba (s : State) (i : Nat) (v : DWord) : (s.setReg i v).pba = s.pba := rfl
@[simp] theorem State.setReg_messages (s : State) (i : Nat) (v : DWord) : (s.setReg i v).messages = s.messages := rfl
@[simp] theorem State.setReg_spdm (s : State) (i : Nat) (v : DWord) : (s.setReg i v).spdm = s.spdm := rfl
@[simp] theorem State.setReg_response (s : State) (i : Nat) (v : DWord) : (s.setReg i v).response = s.response := rfl
@[simp] theorem State.setReg_hostReply (s : State) (i : Nat) (v : DWord) : (s.setReg i v).hostReply = s.hostReply := rfl
@[simp] theorem State.setReg_capacityEvents (s : State) (i : Nat) (v : DWord) : (s.setReg i v).capacityEvents = s.capacityEvents := rfl
@[simp] theorem State.setReg_resetDiscards (s : State) (i : Nat) (v : DWord) : (s.setReg i v).resetDiscards = s.resetDiscards := rfl
@[simp] theorem State.setReg_formClk (s : State) (i : Nat) (v : DWord) : (s.setReg i v).formClk = s.formClk := rfl
@[simp] theorem State.setReg_l2Dirty (s : State) (i : Nat) (v : DWord) : (s.setReg i v).l2Dirty = s.l2Dirty := rfl
@[simp] theorem State.setReg_seals (s : State) (i : Nat) (v : DWord) : (s.setReg i v).seals = s.seals := rfl
@[simp] theorem State.setReg_poolReply (s : State) (i : Nat) (v : DWord) : (s.setReg i v).poolReply = s.poolReply := rfl
@[simp] theorem State.setReg_walks (s : State) (i : Nat) (v : DWord) : (s.setReg i v).walks = s.walks := rfl
@[simp] theorem State.setReg_relays (s : State) (i : Nat) (v : DWord) : (s.setReg i v).relays = s.relays := rfl
@[simp] theorem State.setReg_images (s : State) (i : Nat) (v : DWord) : (s.setReg i v).images = s.images := rfl
@[simp] theorem State.setReg_hostEpisode (s : State) (i : Nat) (v : DWord) : (s.setReg i v).hostEpisode = s.hostEpisode := rfl
@[simp] theorem State.setReg_flitReplays (s : State) (i : Nat) (v : DWord) : (s.setReg i v).flitReplays = s.flitReplays := rfl
@[simp] theorem State.setReg_devidLocked (s : State) (i : Nat) (v : DWord) : (s.setReg i v).devidLocked = s.devidLocked := rfl

@[simp] theorem State.setPart_agenda (s : State) (k : Nat) (p : Part) : (s.setPart k p).agenda = s.agenda := rfl
@[simp] theorem State.setPart_request (s : State) (k : Nat) (p : Part) : (s.setPart k p).request = s.request := rfl
@[simp] theorem State.setPart_cur (s : State) (k : Nat) (p : Part) : (s.setPart k p).cur = s.cur := rfl
@[simp] theorem State.setPart_free (s : State) (k : Nat) (p : Part) : (s.setPart k p).free = s.free := rfl
@[simp] theorem State.setPart_beat (s : State) (k : Nat) (p : Part) : (s.setPart k p).beat = s.beat := rfl
@[simp] theorem State.setPart_clk (s : State) (k : Nat) (p : Part) : (s.setPart k p).clk = s.clk := rfl
@[simp] theorem State.setPart_time (s : State) (k : Nat) (p : Part) : (s.setPart k p).time = s.time := rfl
@[simp] theorem State.setPart_dieClk (s : State) (k : Nat) (p : Part) : (s.setPart k p).dieClk = s.dieClk := rfl
@[simp] theorem State.setPart_uniClk (s : State) (k : Nat) (p : Part) : (s.setPart k p).uniClk = s.uniClk := rfl
@[simp] theorem State.setPart_holdClk (s : State) (k : Nat) (p : Part) : (s.setPart k p).holdClk = s.holdClk := rfl
@[simp] theorem State.setPart_holdDies (s : State) (k : Nat) (p : Part) : (s.setPart k p).holdDies = s.holdDies := rfl
@[simp] theorem State.setPart_holdUs (s : State) (k : Nat) (p : Part) : (s.setPart k p).holdUs = s.holdUs := rfl
@[simp] theorem State.setPart_regs (s : State) (k : Nat) (p : Part) : (s.setPart k p).regs = s.regs := rfl
@[simp] theorem State.setPart_mem (s : State) (k : Nat) (p : Part) : (s.setPart k p).mem = s.mem := rfl
@[simp] theorem State.setPart_poison (s : State) (k : Nat) (p : Part) : (s.setPart k p).poison = s.poison := rfl
@[simp] theorem State.setPart_pool (s : State) (k : Nat) (p : Part) : (s.setPart k p).pool = s.pool := rfl
@[simp] theorem State.setPart_poolPoison (s : State) (k : Nat) (p : Part) : (s.setPart k p).poolPoison = s.poolPoison := rfl
@[simp] theorem State.setPart_poolL2 (s : State) (k : Nat) (p : Part) : (s.setPart k p).poolL2 = s.poolL2 := rfl
@[simp] theorem State.setPart_msc (s : State) (k : Nat) (p : Part) : (s.setPart k p).msc = s.msc := rfl
@[simp] theorem State.setPart_mscSize (s : State) (k : Nat) (p : Part) : (s.setPart k p).mscSize = s.mscSize := rfl
@[simp] theorem State.setPart_l1 (s : State) (k : Nat) (p : Part) : (s.setPart k p).l1 = s.l1 := rfl
@[simp] theorem State.setPart_code (s : State) (k : Nat) (p : Part) : (s.setPart k p).code = s.code := rfl
@[simp] theorem State.setPart_tlb (s : State) (k : Nat) (p : Part) : (s.setPart k p).tlb = s.tlb := rfl
@[simp] theorem State.setPart_posted (s : State) (k : Nat) (p : Part) : (s.setPart k p).posted = s.posted := rfl
@[simp] theorem State.setPart_remotes (s : State) (k : Nat) (p : Part) : (s.setPart k p).remotes = s.remotes := rfl
@[simp] theorem State.setPart_pinned (s : State) (k : Nat) (p : Part) : (s.setPart k p).pinned = s.pinned := rfl
@[simp] theorem State.setPart_log (s : State) (k : Nat) (p : Part) : (s.setPart k p).log = s.log := rfl
@[simp] theorem State.setPart_logHead (s : State) (k : Nat) (p : Part) : (s.setPart k p).logHead = s.logHead := rfl
@[simp] theorem State.setPart_logTail (s : State) (k : Nat) (p : Part) : (s.setPart k p).logTail = s.logTail := rfl
@[simp] theorem State.setPart_logDropped (s : State) (k : Nat) (p : Part) : (s.setPart k p).logDropped = s.logDropped := rfl
@[simp] theorem State.setPart_logLost (s : State) (k : Nat) (p : Part) : (s.setPart k p).logLost = s.logLost := rfl
@[simp] theorem State.setPart_relaunchLog (s : State) (k : Nat) (p : Part) : (s.setPart k p).relaunchLog = s.relaunchLog := rfl
@[simp] theorem State.setPart_teams (s : State) (k : Nat) (p : Part) : (s.setPart k p).teams = s.teams := rfl
@[simp] theorem State.setPart_orphans (s : State) (k : Nat) (p : Part) : (s.setPart k p).orphans = s.orphans := rfl
@[simp] theorem State.setPart_insts (s : State) (k : Nat) (p : Part) : (s.setPart k p).insts = s.insts := rfl
@[simp] theorem State.setPart_nextInst (s : State) (k : Nat) (p : Part) : (s.setPart k p).nextInst = s.nextInst := rfl
@[simp] theorem State.setPart_keys (s : State) (k : Nat) (p : Part) : (s.setPart k p).keys = s.keys := rfl
@[simp] theorem State.setPart_otpFloor (s : State) (k : Nat) (p : Part) : (s.setPart k p).otpFloor = s.otpFloor := rfl
@[simp] theorem State.setPart_otpRaises (s : State) (k : Nat) (p : Part) : (s.setPart k p).otpRaises = s.otpRaises := rfl
@[simp] theorem State.setPart_svn (s : State) (k : Nat) (p : Part) : (s.setPart k p).svn = s.svn := rfl
@[simp] theorem State.setPart_rings (s : State) (k : Nat) (p : Part) : (s.setPart k p).rings = s.rings := rfl
@[simp] theorem State.setPart_heldWrites (s : State) (k : Nat) (p : Part) : (s.setPart k p).heldWrites = s.heldWrites := rfl
@[simp] theorem State.setPart_decoders (s : State) (k : Nat) (p : Part) : (s.setPart k p).decoders = s.decoders := rfl
@[simp] theorem State.setPart_options (s : State) (k : Nat) (p : Part) : (s.setPart k p).options = s.options := rfl
@[simp] theorem State.setPart_masks (s : State) (k : Nat) (p : Part) : (s.setPart k p).masks = s.masks := rfl
@[simp] theorem State.setPart_config (s : State) (k : Nat) (p : Part) : (s.setPart k p).config = s.config := rfl
@[simp] theorem State.setPart_pba (s : State) (k : Nat) (p : Part) : (s.setPart k p).pba = s.pba := rfl
@[simp] theorem State.setPart_messages (s : State) (k : Nat) (p : Part) : (s.setPart k p).messages = s.messages := rfl
@[simp] theorem State.setPart_spdm (s : State) (k : Nat) (p : Part) : (s.setPart k p).spdm = s.spdm := rfl
@[simp] theorem State.setPart_response (s : State) (k : Nat) (p : Part) : (s.setPart k p).response = s.response := rfl
@[simp] theorem State.setPart_hostReply (s : State) (k : Nat) (p : Part) : (s.setPart k p).hostReply = s.hostReply := rfl
@[simp] theorem State.setPart_capacityEvents (s : State) (k : Nat) (p : Part) : (s.setPart k p).capacityEvents = s.capacityEvents := rfl
@[simp] theorem State.setPart_resetDiscards (s : State) (k : Nat) (p : Part) : (s.setPart k p).resetDiscards = s.resetDiscards := rfl
@[simp] theorem State.setPart_formClk (s : State) (k : Nat) (p : Part) : (s.setPart k p).formClk = s.formClk := rfl
@[simp] theorem State.setPart_l2Dirty (s : State) (k : Nat) (p : Part) : (s.setPart k p).l2Dirty = s.l2Dirty := rfl
@[simp] theorem State.setPart_seals (s : State) (k : Nat) (p : Part) : (s.setPart k p).seals = s.seals := rfl
@[simp] theorem State.setPart_poolReply (s : State) (k : Nat) (p : Part) : (s.setPart k p).poolReply = s.poolReply := rfl
@[simp] theorem State.setPart_walks (s : State) (k : Nat) (p : Part) : (s.setPart k p).walks = s.walks := rfl
@[simp] theorem State.setPart_relays (s : State) (k : Nat) (p : Part) : (s.setPart k p).relays = s.relays := rfl
@[simp] theorem State.setPart_images (s : State) (k : Nat) (p : Part) : (s.setPart k p).images = s.images := rfl
@[simp] theorem State.setPart_hostEpisode (s : State) (k : Nat) (p : Part) : (s.setPart k p).hostEpisode = s.hostEpisode := rfl
@[simp] theorem State.setPart_flitReplays (s : State) (k : Nat) (p : Part) : (s.setPart k p).flitReplays = s.flitReplays := rfl
@[simp] theorem State.setPart_devidLocked (s : State) (k : Nat) (p : Part) : (s.setPart k p).devidLocked = s.devidLocked := rfl

@[simp] theorem State.putTeam_agenda (s : State) (t : Team) : (s.putTeam t).agenda = s.agenda := rfl
@[simp] theorem State.putTeam_request (s : State) (t : Team) : (s.putTeam t).request = s.request := rfl
@[simp] theorem State.putTeam_cur (s : State) (t : Team) : (s.putTeam t).cur = s.cur := rfl
@[simp] theorem State.putTeam_free (s : State) (t : Team) : (s.putTeam t).free = s.free := rfl
@[simp] theorem State.putTeam_beat (s : State) (t : Team) : (s.putTeam t).beat = s.beat := rfl
@[simp] theorem State.putTeam_clk (s : State) (t : Team) : (s.putTeam t).clk = s.clk := rfl
@[simp] theorem State.putTeam_time (s : State) (t : Team) : (s.putTeam t).time = s.time := rfl
@[simp] theorem State.putTeam_dieClk (s : State) (t : Team) : (s.putTeam t).dieClk = s.dieClk := rfl
@[simp] theorem State.putTeam_uniClk (s : State) (t : Team) : (s.putTeam t).uniClk = s.uniClk := rfl
@[simp] theorem State.putTeam_holdClk (s : State) (t : Team) : (s.putTeam t).holdClk = s.holdClk := rfl
@[simp] theorem State.putTeam_holdDies (s : State) (t : Team) : (s.putTeam t).holdDies = s.holdDies := rfl
@[simp] theorem State.putTeam_holdUs (s : State) (t : Team) : (s.putTeam t).holdUs = s.holdUs := rfl
@[simp] theorem State.putTeam_regs (s : State) (t : Team) : (s.putTeam t).regs = s.regs := rfl
@[simp] theorem State.putTeam_mem (s : State) (t : Team) : (s.putTeam t).mem = s.mem := rfl
@[simp] theorem State.putTeam_poison (s : State) (t : Team) : (s.putTeam t).poison = s.poison := rfl
@[simp] theorem State.putTeam_pool (s : State) (t : Team) : (s.putTeam t).pool = s.pool := rfl
@[simp] theorem State.putTeam_poolPoison (s : State) (t : Team) : (s.putTeam t).poolPoison = s.poolPoison := rfl
@[simp] theorem State.putTeam_poolL2 (s : State) (t : Team) : (s.putTeam t).poolL2 = s.poolL2 := rfl
@[simp] theorem State.putTeam_msc (s : State) (t : Team) : (s.putTeam t).msc = s.msc := rfl
@[simp] theorem State.putTeam_mscSize (s : State) (t : Team) : (s.putTeam t).mscSize = s.mscSize := rfl
@[simp] theorem State.putTeam_l1 (s : State) (t : Team) : (s.putTeam t).l1 = s.l1 := rfl
@[simp] theorem State.putTeam_code (s : State) (t : Team) : (s.putTeam t).code = s.code := rfl
@[simp] theorem State.putTeam_tlb (s : State) (t : Team) : (s.putTeam t).tlb = s.tlb := rfl
@[simp] theorem State.putTeam_posted (s : State) (t : Team) : (s.putTeam t).posted = s.posted := rfl
@[simp] theorem State.putTeam_remotes (s : State) (t : Team) : (s.putTeam t).remotes = s.remotes := rfl
@[simp] theorem State.putTeam_pinned (s : State) (t : Team) : (s.putTeam t).pinned = s.pinned := rfl
@[simp] theorem State.putTeam_log (s : State) (t : Team) : (s.putTeam t).log = s.log := rfl
@[simp] theorem State.putTeam_logHead (s : State) (t : Team) : (s.putTeam t).logHead = s.logHead := rfl
@[simp] theorem State.putTeam_logTail (s : State) (t : Team) : (s.putTeam t).logTail = s.logTail := rfl
@[simp] theorem State.putTeam_logDropped (s : State) (t : Team) : (s.putTeam t).logDropped = s.logDropped := rfl
@[simp] theorem State.putTeam_logLost (s : State) (t : Team) : (s.putTeam t).logLost = s.logLost := rfl
@[simp] theorem State.putTeam_relaunchLog (s : State) (t : Team) : (s.putTeam t).relaunchLog = s.relaunchLog := rfl
@[simp] theorem State.putTeam_orphans (s : State) (t : Team) : (s.putTeam t).orphans = s.orphans := rfl
@[simp] theorem State.putTeam_insts (s : State) (t : Team) : (s.putTeam t).insts = s.insts := rfl
@[simp] theorem State.putTeam_nextInst (s : State) (t : Team) : (s.putTeam t).nextInst = s.nextInst := rfl
@[simp] theorem State.putTeam_parts (s : State) (t : Team) : (s.putTeam t).parts = s.parts := rfl
@[simp] theorem State.putTeam_keys (s : State) (t : Team) : (s.putTeam t).keys = s.keys := rfl
@[simp] theorem State.putTeam_otpFloor (s : State) (t : Team) : (s.putTeam t).otpFloor = s.otpFloor := rfl
@[simp] theorem State.putTeam_otpRaises (s : State) (t : Team) : (s.putTeam t).otpRaises = s.otpRaises := rfl
@[simp] theorem State.putTeam_svn (s : State) (t : Team) : (s.putTeam t).svn = s.svn := rfl
@[simp] theorem State.putTeam_rings (s : State) (t : Team) : (s.putTeam t).rings = s.rings := rfl
@[simp] theorem State.putTeam_heldWrites (s : State) (t : Team) : (s.putTeam t).heldWrites = s.heldWrites := rfl
@[simp] theorem State.putTeam_decoders (s : State) (t : Team) : (s.putTeam t).decoders = s.decoders := rfl
@[simp] theorem State.putTeam_options (s : State) (t : Team) : (s.putTeam t).options = s.options := rfl
@[simp] theorem State.putTeam_masks (s : State) (t : Team) : (s.putTeam t).masks = s.masks := rfl
@[simp] theorem State.putTeam_config (s : State) (t : Team) : (s.putTeam t).config = s.config := rfl
@[simp] theorem State.putTeam_pba (s : State) (t : Team) : (s.putTeam t).pba = s.pba := rfl
@[simp] theorem State.putTeam_messages (s : State) (t : Team) : (s.putTeam t).messages = s.messages := rfl
@[simp] theorem State.putTeam_spdm (s : State) (t : Team) : (s.putTeam t).spdm = s.spdm := rfl
@[simp] theorem State.putTeam_response (s : State) (t : Team) : (s.putTeam t).response = s.response := rfl
@[simp] theorem State.putTeam_hostReply (s : State) (t : Team) : (s.putTeam t).hostReply = s.hostReply := rfl
@[simp] theorem State.putTeam_capacityEvents (s : State) (t : Team) : (s.putTeam t).capacityEvents = s.capacityEvents := rfl
@[simp] theorem State.putTeam_resetDiscards (s : State) (t : Team) : (s.putTeam t).resetDiscards = s.resetDiscards := rfl
@[simp] theorem State.putTeam_formClk (s : State) (t : Team) : (s.putTeam t).formClk = s.formClk := rfl
@[simp] theorem State.putTeam_l2Dirty (s : State) (t : Team) : (s.putTeam t).l2Dirty = s.l2Dirty := rfl
@[simp] theorem State.putTeam_seals (s : State) (t : Team) : (s.putTeam t).seals = s.seals := rfl
@[simp] theorem State.putTeam_poolReply (s : State) (t : Team) : (s.putTeam t).poolReply = s.poolReply := rfl
@[simp] theorem State.putTeam_walks (s : State) (t : Team) : (s.putTeam t).walks = s.walks := rfl
@[simp] theorem State.putTeam_relays (s : State) (t : Team) : (s.putTeam t).relays = s.relays := rfl
@[simp] theorem State.putTeam_images (s : State) (t : Team) : (s.putTeam t).images = s.images := rfl
@[simp] theorem State.putTeam_hostEpisode (s : State) (t : Team) : (s.putTeam t).hostEpisode = s.hostEpisode := rfl
@[simp] theorem State.putTeam_flitReplays (s : State) (t : Team) : (s.putTeam t).flitReplays = s.flitReplays := rfl
@[simp] theorem State.putTeam_devidLocked (s : State) (t : Team) : (s.putTeam t).devidLocked = s.devidLocked := rfl

@[simp] theorem State.dropTeam_agenda (s : State) (t : Team) : (s.dropTeam t).agenda = s.agenda := rfl
@[simp] theorem State.dropTeam_request (s : State) (t : Team) : (s.dropTeam t).request = s.request := rfl
@[simp] theorem State.dropTeam_cur (s : State) (t : Team) : (s.dropTeam t).cur = s.cur := rfl
@[simp] theorem State.dropTeam_free (s : State) (t : Team) : (s.dropTeam t).free = s.free := rfl
@[simp] theorem State.dropTeam_beat (s : State) (t : Team) : (s.dropTeam t).beat = s.beat := rfl
@[simp] theorem State.dropTeam_clk (s : State) (t : Team) : (s.dropTeam t).clk = s.clk := rfl
@[simp] theorem State.dropTeam_time (s : State) (t : Team) : (s.dropTeam t).time = s.time := rfl
@[simp] theorem State.dropTeam_dieClk (s : State) (t : Team) : (s.dropTeam t).dieClk = s.dieClk := rfl
@[simp] theorem State.dropTeam_uniClk (s : State) (t : Team) : (s.dropTeam t).uniClk = s.uniClk := rfl
@[simp] theorem State.dropTeam_holdClk (s : State) (t : Team) : (s.dropTeam t).holdClk = s.holdClk := rfl
@[simp] theorem State.dropTeam_holdDies (s : State) (t : Team) : (s.dropTeam t).holdDies = s.holdDies := rfl
@[simp] theorem State.dropTeam_holdUs (s : State) (t : Team) : (s.dropTeam t).holdUs = s.holdUs := rfl
@[simp] theorem State.dropTeam_regs (s : State) (t : Team) : (s.dropTeam t).regs = s.regs := rfl
@[simp] theorem State.dropTeam_mem (s : State) (t : Team) : (s.dropTeam t).mem = s.mem := rfl
@[simp] theorem State.dropTeam_poison (s : State) (t : Team) : (s.dropTeam t).poison = s.poison := rfl
@[simp] theorem State.dropTeam_pool (s : State) (t : Team) : (s.dropTeam t).pool = s.pool := rfl
@[simp] theorem State.dropTeam_poolPoison (s : State) (t : Team) : (s.dropTeam t).poolPoison = s.poolPoison := rfl
@[simp] theorem State.dropTeam_poolL2 (s : State) (t : Team) : (s.dropTeam t).poolL2 = s.poolL2 := rfl
@[simp] theorem State.dropTeam_msc (s : State) (t : Team) : (s.dropTeam t).msc = s.msc := rfl
@[simp] theorem State.dropTeam_mscSize (s : State) (t : Team) : (s.dropTeam t).mscSize = s.mscSize := rfl
@[simp] theorem State.dropTeam_l1 (s : State) (t : Team) : (s.dropTeam t).l1 = s.l1 := rfl
@[simp] theorem State.dropTeam_code (s : State) (t : Team) : (s.dropTeam t).code = s.code := rfl
@[simp] theorem State.dropTeam_tlb (s : State) (t : Team) : (s.dropTeam t).tlb = s.tlb := rfl
@[simp] theorem State.dropTeam_posted (s : State) (t : Team) : (s.dropTeam t).posted = s.posted := rfl
@[simp] theorem State.dropTeam_remotes (s : State) (t : Team) : (s.dropTeam t).remotes = s.remotes := rfl
@[simp] theorem State.dropTeam_pinned (s : State) (t : Team) : (s.dropTeam t).pinned = s.pinned := rfl
@[simp] theorem State.dropTeam_log (s : State) (t : Team) : (s.dropTeam t).log = s.log := rfl
@[simp] theorem State.dropTeam_logHead (s : State) (t : Team) : (s.dropTeam t).logHead = s.logHead := rfl
@[simp] theorem State.dropTeam_logTail (s : State) (t : Team) : (s.dropTeam t).logTail = s.logTail := rfl
@[simp] theorem State.dropTeam_logDropped (s : State) (t : Team) : (s.dropTeam t).logDropped = s.logDropped := rfl
@[simp] theorem State.dropTeam_logLost (s : State) (t : Team) : (s.dropTeam t).logLost = s.logLost := rfl
@[simp] theorem State.dropTeam_relaunchLog (s : State) (t : Team) : (s.dropTeam t).relaunchLog = s.relaunchLog := rfl
@[simp] theorem State.dropTeam_orphans (s : State) (t : Team) : (s.dropTeam t).orphans = s.orphans := rfl
@[simp] theorem State.dropTeam_insts (s : State) (t : Team) : (s.dropTeam t).insts = s.insts := rfl
@[simp] theorem State.dropTeam_nextInst (s : State) (t : Team) : (s.dropTeam t).nextInst = s.nextInst := rfl
@[simp] theorem State.dropTeam_parts (s : State) (t : Team) : (s.dropTeam t).parts = s.parts := rfl
@[simp] theorem State.dropTeam_keys (s : State) (t : Team) : (s.dropTeam t).keys = s.keys := rfl
@[simp] theorem State.dropTeam_otpFloor (s : State) (t : Team) : (s.dropTeam t).otpFloor = s.otpFloor := rfl
@[simp] theorem State.dropTeam_otpRaises (s : State) (t : Team) : (s.dropTeam t).otpRaises = s.otpRaises := rfl
@[simp] theorem State.dropTeam_svn (s : State) (t : Team) : (s.dropTeam t).svn = s.svn := rfl
@[simp] theorem State.dropTeam_rings (s : State) (t : Team) : (s.dropTeam t).rings = s.rings := rfl
@[simp] theorem State.dropTeam_heldWrites (s : State) (t : Team) : (s.dropTeam t).heldWrites = s.heldWrites := rfl
@[simp] theorem State.dropTeam_decoders (s : State) (t : Team) : (s.dropTeam t).decoders = s.decoders := rfl
@[simp] theorem State.dropTeam_options (s : State) (t : Team) : (s.dropTeam t).options = s.options := rfl
@[simp] theorem State.dropTeam_masks (s : State) (t : Team) : (s.dropTeam t).masks = s.masks := rfl
@[simp] theorem State.dropTeam_config (s : State) (t : Team) : (s.dropTeam t).config = s.config := rfl
@[simp] theorem State.dropTeam_pba (s : State) (t : Team) : (s.dropTeam t).pba = s.pba := rfl
@[simp] theorem State.dropTeam_messages (s : State) (t : Team) : (s.dropTeam t).messages = s.messages := rfl
@[simp] theorem State.dropTeam_spdm (s : State) (t : Team) : (s.dropTeam t).spdm = s.spdm := rfl
@[simp] theorem State.dropTeam_response (s : State) (t : Team) : (s.dropTeam t).response = s.response := rfl
@[simp] theorem State.dropTeam_hostReply (s : State) (t : Team) : (s.dropTeam t).hostReply = s.hostReply := rfl
@[simp] theorem State.dropTeam_capacityEvents (s : State) (t : Team) : (s.dropTeam t).capacityEvents = s.capacityEvents := rfl
@[simp] theorem State.dropTeam_resetDiscards (s : State) (t : Team) : (s.dropTeam t).resetDiscards = s.resetDiscards := rfl
@[simp] theorem State.dropTeam_formClk (s : State) (t : Team) : (s.dropTeam t).formClk = s.formClk := rfl
@[simp] theorem State.dropTeam_l2Dirty (s : State) (t : Team) : (s.dropTeam t).l2Dirty = s.l2Dirty := rfl
@[simp] theorem State.dropTeam_seals (s : State) (t : Team) : (s.dropTeam t).seals = s.seals := rfl
@[simp] theorem State.dropTeam_poolReply (s : State) (t : Team) : (s.dropTeam t).poolReply = s.poolReply := rfl
@[simp] theorem State.dropTeam_walks (s : State) (t : Team) : (s.dropTeam t).walks = s.walks := rfl
@[simp] theorem State.dropTeam_relays (s : State) (t : Team) : (s.dropTeam t).relays = s.relays := rfl
@[simp] theorem State.dropTeam_images (s : State) (t : Team) : (s.dropTeam t).images = s.images := rfl
@[simp] theorem State.dropTeam_hostEpisode (s : State) (t : Team) : (s.dropTeam t).hostEpisode = s.hostEpisode := rfl
@[simp] theorem State.dropTeam_flitReplays (s : State) (t : Team) : (s.dropTeam t).flitReplays = s.flitReplays := rfl
@[simp] theorem State.dropTeam_devidLocked (s : State) (t : Team) : (s.dropTeam t).devidLocked = s.devidLocked := rfl

@[simp] theorem State.put_agenda (s : State) (t : Team) (g : Group) : (s.put t g).agenda = s.agenda := rfl
@[simp] theorem State.put_request (s : State) (t : Team) (g : Group) : (s.put t g).request = s.request := rfl
@[simp] theorem State.put_cur (s : State) (t : Team) (g : Group) : (s.put t g).cur = s.cur := rfl
@[simp] theorem State.put_free (s : State) (t : Team) (g : Group) : (s.put t g).free = s.free := rfl
@[simp] theorem State.put_beat (s : State) (t : Team) (g : Group) : (s.put t g).beat = s.beat := rfl
@[simp] theorem State.put_clk (s : State) (t : Team) (g : Group) : (s.put t g).clk = s.clk := rfl
@[simp] theorem State.put_time (s : State) (t : Team) (g : Group) : (s.put t g).time = s.time := rfl
@[simp] theorem State.put_dieClk (s : State) (t : Team) (g : Group) : (s.put t g).dieClk = s.dieClk := rfl
@[simp] theorem State.put_uniClk (s : State) (t : Team) (g : Group) : (s.put t g).uniClk = s.uniClk := rfl
@[simp] theorem State.put_holdClk (s : State) (t : Team) (g : Group) : (s.put t g).holdClk = s.holdClk := rfl
@[simp] theorem State.put_holdDies (s : State) (t : Team) (g : Group) : (s.put t g).holdDies = s.holdDies := rfl
@[simp] theorem State.put_holdUs (s : State) (t : Team) (g : Group) : (s.put t g).holdUs = s.holdUs := rfl
@[simp] theorem State.put_regs (s : State) (t : Team) (g : Group) : (s.put t g).regs = s.regs := rfl
@[simp] theorem State.put_mem (s : State) (t : Team) (g : Group) : (s.put t g).mem = s.mem := rfl
@[simp] theorem State.put_poison (s : State) (t : Team) (g : Group) : (s.put t g).poison = s.poison := rfl
@[simp] theorem State.put_pool (s : State) (t : Team) (g : Group) : (s.put t g).pool = s.pool := rfl
@[simp] theorem State.put_poolPoison (s : State) (t : Team) (g : Group) : (s.put t g).poolPoison = s.poolPoison := rfl
@[simp] theorem State.put_poolL2 (s : State) (t : Team) (g : Group) : (s.put t g).poolL2 = s.poolL2 := rfl
@[simp] theorem State.put_msc (s : State) (t : Team) (g : Group) : (s.put t g).msc = s.msc := rfl
@[simp] theorem State.put_mscSize (s : State) (t : Team) (g : Group) : (s.put t g).mscSize = s.mscSize := rfl
@[simp] theorem State.put_l1 (s : State) (t : Team) (g : Group) : (s.put t g).l1 = s.l1 := rfl
@[simp] theorem State.put_code (s : State) (t : Team) (g : Group) : (s.put t g).code = s.code := rfl
@[simp] theorem State.put_tlb (s : State) (t : Team) (g : Group) : (s.put t g).tlb = s.tlb := rfl
@[simp] theorem State.put_posted (s : State) (t : Team) (g : Group) : (s.put t g).posted = s.posted := rfl
@[simp] theorem State.put_remotes (s : State) (t : Team) (g : Group) : (s.put t g).remotes = s.remotes := rfl
@[simp] theorem State.put_pinned (s : State) (t : Team) (g : Group) : (s.put t g).pinned = s.pinned := rfl
@[simp] theorem State.put_log (s : State) (t : Team) (g : Group) : (s.put t g).log = s.log := rfl
@[simp] theorem State.put_logHead (s : State) (t : Team) (g : Group) : (s.put t g).logHead = s.logHead := rfl
@[simp] theorem State.put_logTail (s : State) (t : Team) (g : Group) : (s.put t g).logTail = s.logTail := rfl
@[simp] theorem State.put_logDropped (s : State) (t : Team) (g : Group) : (s.put t g).logDropped = s.logDropped := rfl
@[simp] theorem State.put_logLost (s : State) (t : Team) (g : Group) : (s.put t g).logLost = s.logLost := rfl
@[simp] theorem State.put_relaunchLog (s : State) (t : Team) (g : Group) : (s.put t g).relaunchLog = s.relaunchLog := rfl
@[simp] theorem State.put_orphans (s : State) (t : Team) (g : Group) : (s.put t g).orphans = s.orphans := rfl
@[simp] theorem State.put_insts (s : State) (t : Team) (g : Group) : (s.put t g).insts = s.insts := rfl
@[simp] theorem State.put_nextInst (s : State) (t : Team) (g : Group) : (s.put t g).nextInst = s.nextInst := rfl
@[simp] theorem State.put_parts (s : State) (t : Team) (g : Group) : (s.put t g).parts = s.parts := rfl
@[simp] theorem State.put_keys (s : State) (t : Team) (g : Group) : (s.put t g).keys = s.keys := rfl
@[simp] theorem State.put_otpFloor (s : State) (t : Team) (g : Group) : (s.put t g).otpFloor = s.otpFloor := rfl
@[simp] theorem State.put_otpRaises (s : State) (t : Team) (g : Group) : (s.put t g).otpRaises = s.otpRaises := rfl
@[simp] theorem State.put_svn (s : State) (t : Team) (g : Group) : (s.put t g).svn = s.svn := rfl
@[simp] theorem State.put_rings (s : State) (t : Team) (g : Group) : (s.put t g).rings = s.rings := rfl
@[simp] theorem State.put_heldWrites (s : State) (t : Team) (g : Group) : (s.put t g).heldWrites = s.heldWrites := rfl
@[simp] theorem State.put_decoders (s : State) (t : Team) (g : Group) : (s.put t g).decoders = s.decoders := rfl
@[simp] theorem State.put_options (s : State) (t : Team) (g : Group) : (s.put t g).options = s.options := rfl
@[simp] theorem State.put_masks (s : State) (t : Team) (g : Group) : (s.put t g).masks = s.masks := rfl
@[simp] theorem State.put_config (s : State) (t : Team) (g : Group) : (s.put t g).config = s.config := rfl
@[simp] theorem State.put_pba (s : State) (t : Team) (g : Group) : (s.put t g).pba = s.pba := rfl
@[simp] theorem State.put_messages (s : State) (t : Team) (g : Group) : (s.put t g).messages = s.messages := rfl
@[simp] theorem State.put_spdm (s : State) (t : Team) (g : Group) : (s.put t g).spdm = s.spdm := rfl
@[simp] theorem State.put_response (s : State) (t : Team) (g : Group) : (s.put t g).response = s.response := rfl
@[simp] theorem State.put_hostReply (s : State) (t : Team) (g : Group) : (s.put t g).hostReply = s.hostReply := rfl
@[simp] theorem State.put_capacityEvents (s : State) (t : Team) (g : Group) : (s.put t g).capacityEvents = s.capacityEvents := rfl
@[simp] theorem State.put_resetDiscards (s : State) (t : Team) (g : Group) : (s.put t g).resetDiscards = s.resetDiscards := rfl
@[simp] theorem State.put_formClk (s : State) (t : Team) (g : Group) : (s.put t g).formClk = s.formClk := rfl
@[simp] theorem State.put_l2Dirty (s : State) (t : Team) (g : Group) : (s.put t g).l2Dirty = s.l2Dirty := rfl
@[simp] theorem State.put_seals (s : State) (t : Team) (g : Group) : (s.put t g).seals = s.seals := rfl
@[simp] theorem State.put_poolReply (s : State) (t : Team) (g : Group) : (s.put t g).poolReply = s.poolReply := rfl
@[simp] theorem State.put_walks (s : State) (t : Team) (g : Group) : (s.put t g).walks = s.walks := rfl
@[simp] theorem State.put_relays (s : State) (t : Team) (g : Group) : (s.put t g).relays = s.relays := rfl
@[simp] theorem State.put_images (s : State) (t : Team) (g : Group) : (s.put t g).images = s.images := rfl
@[simp] theorem State.put_hostEpisode (s : State) (t : Team) (g : Group) : (s.put t g).hostEpisode = s.hostEpisode := rfl
@[simp] theorem State.put_flitReplays (s : State) (t : Team) (g : Group) : (s.put t g).flitReplays = s.flitReplays := rfl
@[simp] theorem State.put_devidLocked (s : State) (t : Team) (g : Group) : (s.put t g).devidLocked = s.devidLocked := rfl

@[simp] theorem State.putInst_agenda (s : State) (i : Inst) : (s.putInst i).agenda = s.agenda := rfl
@[simp] theorem State.putInst_request (s : State) (i : Inst) : (s.putInst i).request = s.request := rfl
@[simp] theorem State.putInst_cur (s : State) (i : Inst) : (s.putInst i).cur = s.cur := rfl
@[simp] theorem State.putInst_free (s : State) (i : Inst) : (s.putInst i).free = s.free := rfl
@[simp] theorem State.putInst_beat (s : State) (i : Inst) : (s.putInst i).beat = s.beat := rfl
@[simp] theorem State.putInst_clk (s : State) (i : Inst) : (s.putInst i).clk = s.clk := rfl
@[simp] theorem State.putInst_time (s : State) (i : Inst) : (s.putInst i).time = s.time := rfl
@[simp] theorem State.putInst_dieClk (s : State) (i : Inst) : (s.putInst i).dieClk = s.dieClk := rfl
@[simp] theorem State.putInst_uniClk (s : State) (i : Inst) : (s.putInst i).uniClk = s.uniClk := rfl
@[simp] theorem State.putInst_holdClk (s : State) (i : Inst) : (s.putInst i).holdClk = s.holdClk := rfl
@[simp] theorem State.putInst_holdDies (s : State) (i : Inst) : (s.putInst i).holdDies = s.holdDies := rfl
@[simp] theorem State.putInst_holdUs (s : State) (i : Inst) : (s.putInst i).holdUs = s.holdUs := rfl
@[simp] theorem State.putInst_regs (s : State) (i : Inst) : (s.putInst i).regs = s.regs := rfl
@[simp] theorem State.putInst_mem (s : State) (i : Inst) : (s.putInst i).mem = s.mem := rfl
@[simp] theorem State.putInst_poison (s : State) (i : Inst) : (s.putInst i).poison = s.poison := rfl
@[simp] theorem State.putInst_pool (s : State) (i : Inst) : (s.putInst i).pool = s.pool := rfl
@[simp] theorem State.putInst_poolPoison (s : State) (i : Inst) : (s.putInst i).poolPoison = s.poolPoison := rfl
@[simp] theorem State.putInst_poolL2 (s : State) (i : Inst) : (s.putInst i).poolL2 = s.poolL2 := rfl
@[simp] theorem State.putInst_msc (s : State) (i : Inst) : (s.putInst i).msc = s.msc := rfl
@[simp] theorem State.putInst_mscSize (s : State) (i : Inst) : (s.putInst i).mscSize = s.mscSize := rfl
@[simp] theorem State.putInst_l1 (s : State) (i : Inst) : (s.putInst i).l1 = s.l1 := rfl
@[simp] theorem State.putInst_code (s : State) (i : Inst) : (s.putInst i).code = s.code := rfl
@[simp] theorem State.putInst_tlb (s : State) (i : Inst) : (s.putInst i).tlb = s.tlb := rfl
@[simp] theorem State.putInst_posted (s : State) (i : Inst) : (s.putInst i).posted = s.posted := rfl
@[simp] theorem State.putInst_remotes (s : State) (i : Inst) : (s.putInst i).remotes = s.remotes := rfl
@[simp] theorem State.putInst_pinned (s : State) (i : Inst) : (s.putInst i).pinned = s.pinned := rfl
@[simp] theorem State.putInst_log (s : State) (i : Inst) : (s.putInst i).log = s.log := rfl
@[simp] theorem State.putInst_logHead (s : State) (i : Inst) : (s.putInst i).logHead = s.logHead := rfl
@[simp] theorem State.putInst_logTail (s : State) (i : Inst) : (s.putInst i).logTail = s.logTail := rfl
@[simp] theorem State.putInst_logDropped (s : State) (i : Inst) : (s.putInst i).logDropped = s.logDropped := rfl
@[simp] theorem State.putInst_logLost (s : State) (i : Inst) : (s.putInst i).logLost = s.logLost := rfl
@[simp] theorem State.putInst_relaunchLog (s : State) (i : Inst) : (s.putInst i).relaunchLog = s.relaunchLog := rfl
@[simp] theorem State.putInst_teams (s : State) (i : Inst) : (s.putInst i).teams = s.teams := rfl
@[simp] theorem State.putInst_orphans (s : State) (i : Inst) : (s.putInst i).orphans = s.orphans := rfl
@[simp] theorem State.putInst_nextInst (s : State) (i : Inst) : (s.putInst i).nextInst = s.nextInst := rfl
@[simp] theorem State.putInst_parts (s : State) (i : Inst) : (s.putInst i).parts = s.parts := rfl
@[simp] theorem State.putInst_keys (s : State) (i : Inst) : (s.putInst i).keys = s.keys := rfl
@[simp] theorem State.putInst_otpFloor (s : State) (i : Inst) : (s.putInst i).otpFloor = s.otpFloor := rfl
@[simp] theorem State.putInst_otpRaises (s : State) (i : Inst) : (s.putInst i).otpRaises = s.otpRaises := rfl
@[simp] theorem State.putInst_svn (s : State) (i : Inst) : (s.putInst i).svn = s.svn := rfl
@[simp] theorem State.putInst_rings (s : State) (i : Inst) : (s.putInst i).rings = s.rings := rfl
@[simp] theorem State.putInst_heldWrites (s : State) (i : Inst) : (s.putInst i).heldWrites = s.heldWrites := rfl
@[simp] theorem State.putInst_decoders (s : State) (i : Inst) : (s.putInst i).decoders = s.decoders := rfl
@[simp] theorem State.putInst_options (s : State) (i : Inst) : (s.putInst i).options = s.options := rfl
@[simp] theorem State.putInst_masks (s : State) (i : Inst) : (s.putInst i).masks = s.masks := rfl
@[simp] theorem State.putInst_config (s : State) (i : Inst) : (s.putInst i).config = s.config := rfl
@[simp] theorem State.putInst_pba (s : State) (i : Inst) : (s.putInst i).pba = s.pba := rfl
@[simp] theorem State.putInst_messages (s : State) (i : Inst) : (s.putInst i).messages = s.messages := rfl
@[simp] theorem State.putInst_spdm (s : State) (i : Inst) : (s.putInst i).spdm = s.spdm := rfl
@[simp] theorem State.putInst_response (s : State) (i : Inst) : (s.putInst i).response = s.response := rfl
@[simp] theorem State.putInst_hostReply (s : State) (i : Inst) : (s.putInst i).hostReply = s.hostReply := rfl
@[simp] theorem State.putInst_capacityEvents (s : State) (i : Inst) : (s.putInst i).capacityEvents = s.capacityEvents := rfl
@[simp] theorem State.putInst_resetDiscards (s : State) (i : Inst) : (s.putInst i).resetDiscards = s.resetDiscards := rfl
@[simp] theorem State.putInst_formClk (s : State) (i : Inst) : (s.putInst i).formClk = s.formClk := rfl
@[simp] theorem State.putInst_l2Dirty (s : State) (i : Inst) : (s.putInst i).l2Dirty = s.l2Dirty := rfl
@[simp] theorem State.putInst_seals (s : State) (i : Inst) : (s.putInst i).seals = s.seals := rfl
@[simp] theorem State.putInst_poolReply (s : State) (i : Inst) : (s.putInst i).poolReply = s.poolReply := rfl
@[simp] theorem State.putInst_walks (s : State) (i : Inst) : (s.putInst i).walks = s.walks := rfl
@[simp] theorem State.putInst_relays (s : State) (i : Inst) : (s.putInst i).relays = s.relays := rfl
@[simp] theorem State.putInst_images (s : State) (i : Inst) : (s.putInst i).images = s.images := rfl
@[simp] theorem State.putInst_hostEpisode (s : State) (i : Inst) : (s.putInst i).hostEpisode = s.hostEpisode := rfl
@[simp] theorem State.putInst_flitReplays (s : State) (i : Inst) : (s.putInst i).flitReplays = s.flitReplays := rfl
@[simp] theorem State.putInst_devidLocked (s : State) (i : Inst) : (s.putInst i).devidLocked = s.devidLocked := rfl

@[simp] theorem State.setRfield_agenda (s : State) (i lo n v : Nat) : (s.setRfield i lo n v).agenda = s.agenda := rfl
@[simp] theorem State.setRfield_request (s : State) (i lo n v : Nat) : (s.setRfield i lo n v).request = s.request := rfl
@[simp] theorem State.setRfield_cur (s : State) (i lo n v : Nat) : (s.setRfield i lo n v).cur = s.cur := rfl
@[simp] theorem State.setRfield_free (s : State) (i lo n v : Nat) : (s.setRfield i lo n v).free = s.free := rfl
@[simp] theorem State.setRfield_beat (s : State) (i lo n v : Nat) : (s.setRfield i lo n v).beat = s.beat := rfl
@[simp] theorem State.setRfield_clk (s : State) (i lo n v : Nat) : (s.setRfield i lo n v).clk = s.clk := rfl
@[simp] theorem State.setRfield_time (s : State) (i lo n v : Nat) : (s.setRfield i lo n v).time = s.time := rfl
@[simp] theorem State.setRfield_dieClk (s : State) (i lo n v : Nat) : (s.setRfield i lo n v).dieClk = s.dieClk := rfl
@[simp] theorem State.setRfield_uniClk (s : State) (i lo n v : Nat) : (s.setRfield i lo n v).uniClk = s.uniClk := rfl
@[simp] theorem State.setRfield_holdClk (s : State) (i lo n v : Nat) : (s.setRfield i lo n v).holdClk = s.holdClk := rfl
@[simp] theorem State.setRfield_holdDies (s : State) (i lo n v : Nat) : (s.setRfield i lo n v).holdDies = s.holdDies := rfl
@[simp] theorem State.setRfield_holdUs (s : State) (i lo n v : Nat) : (s.setRfield i lo n v).holdUs = s.holdUs := rfl
@[simp] theorem State.setRfield_mem (s : State) (i lo n v : Nat) : (s.setRfield i lo n v).mem = s.mem := rfl
@[simp] theorem State.setRfield_poison (s : State) (i lo n v : Nat) : (s.setRfield i lo n v).poison = s.poison := rfl
@[simp] theorem State.setRfield_pool (s : State) (i lo n v : Nat) : (s.setRfield i lo n v).pool = s.pool := rfl
@[simp] theorem State.setRfield_poolPoison (s : State) (i lo n v : Nat) : (s.setRfield i lo n v).poolPoison = s.poolPoison := rfl
@[simp] theorem State.setRfield_poolL2 (s : State) (i lo n v : Nat) : (s.setRfield i lo n v).poolL2 = s.poolL2 := rfl
@[simp] theorem State.setRfield_msc (s : State) (i lo n v : Nat) : (s.setRfield i lo n v).msc = s.msc := rfl
@[simp] theorem State.setRfield_mscSize (s : State) (i lo n v : Nat) : (s.setRfield i lo n v).mscSize = s.mscSize := rfl
@[simp] theorem State.setRfield_l1 (s : State) (i lo n v : Nat) : (s.setRfield i lo n v).l1 = s.l1 := rfl
@[simp] theorem State.setRfield_code (s : State) (i lo n v : Nat) : (s.setRfield i lo n v).code = s.code := rfl
@[simp] theorem State.setRfield_tlb (s : State) (i lo n v : Nat) : (s.setRfield i lo n v).tlb = s.tlb := rfl
@[simp] theorem State.setRfield_posted (s : State) (i lo n v : Nat) : (s.setRfield i lo n v).posted = s.posted := rfl
@[simp] theorem State.setRfield_remotes (s : State) (i lo n v : Nat) : (s.setRfield i lo n v).remotes = s.remotes := rfl
@[simp] theorem State.setRfield_pinned (s : State) (i lo n v : Nat) : (s.setRfield i lo n v).pinned = s.pinned := rfl
@[simp] theorem State.setRfield_log (s : State) (i lo n v : Nat) : (s.setRfield i lo n v).log = s.log := rfl
@[simp] theorem State.setRfield_logHead (s : State) (i lo n v : Nat) : (s.setRfield i lo n v).logHead = s.logHead := rfl
@[simp] theorem State.setRfield_logTail (s : State) (i lo n v : Nat) : (s.setRfield i lo n v).logTail = s.logTail := rfl
@[simp] theorem State.setRfield_logDropped (s : State) (i lo n v : Nat) : (s.setRfield i lo n v).logDropped = s.logDropped := rfl
@[simp] theorem State.setRfield_logLost (s : State) (i lo n v : Nat) : (s.setRfield i lo n v).logLost = s.logLost := rfl
@[simp] theorem State.setRfield_relaunchLog (s : State) (i lo n v : Nat) : (s.setRfield i lo n v).relaunchLog = s.relaunchLog := rfl
@[simp] theorem State.setRfield_teams (s : State) (i lo n v : Nat) : (s.setRfield i lo n v).teams = s.teams := rfl
@[simp] theorem State.setRfield_orphans (s : State) (i lo n v : Nat) : (s.setRfield i lo n v).orphans = s.orphans := rfl
@[simp] theorem State.setRfield_insts (s : State) (i lo n v : Nat) : (s.setRfield i lo n v).insts = s.insts := rfl
@[simp] theorem State.setRfield_nextInst (s : State) (i lo n v : Nat) : (s.setRfield i lo n v).nextInst = s.nextInst := rfl
@[simp] theorem State.setRfield_parts (s : State) (i lo n v : Nat) : (s.setRfield i lo n v).parts = s.parts := rfl
@[simp] theorem State.setRfield_keys (s : State) (i lo n v : Nat) : (s.setRfield i lo n v).keys = s.keys := rfl
@[simp] theorem State.setRfield_otpFloor (s : State) (i lo n v : Nat) : (s.setRfield i lo n v).otpFloor = s.otpFloor := rfl
@[simp] theorem State.setRfield_otpRaises (s : State) (i lo n v : Nat) : (s.setRfield i lo n v).otpRaises = s.otpRaises := rfl
@[simp] theorem State.setRfield_svn (s : State) (i lo n v : Nat) : (s.setRfield i lo n v).svn = s.svn := rfl
@[simp] theorem State.setRfield_rings (s : State) (i lo n v : Nat) : (s.setRfield i lo n v).rings = s.rings := rfl
@[simp] theorem State.setRfield_heldWrites (s : State) (i lo n v : Nat) : (s.setRfield i lo n v).heldWrites = s.heldWrites := rfl
@[simp] theorem State.setRfield_decoders (s : State) (i lo n v : Nat) : (s.setRfield i lo n v).decoders = s.decoders := rfl
@[simp] theorem State.setRfield_options (s : State) (i lo n v : Nat) : (s.setRfield i lo n v).options = s.options := rfl
@[simp] theorem State.setRfield_masks (s : State) (i lo n v : Nat) : (s.setRfield i lo n v).masks = s.masks := rfl
@[simp] theorem State.setRfield_config (s : State) (i lo n v : Nat) : (s.setRfield i lo n v).config = s.config := rfl
@[simp] theorem State.setRfield_pba (s : State) (i lo n v : Nat) : (s.setRfield i lo n v).pba = s.pba := rfl
@[simp] theorem State.setRfield_messages (s : State) (i lo n v : Nat) : (s.setRfield i lo n v).messages = s.messages := rfl
@[simp] theorem State.setRfield_spdm (s : State) (i lo n v : Nat) : (s.setRfield i lo n v).spdm = s.spdm := rfl
@[simp] theorem State.setRfield_response (s : State) (i lo n v : Nat) : (s.setRfield i lo n v).response = s.response := rfl
@[simp] theorem State.setRfield_hostReply (s : State) (i lo n v : Nat) : (s.setRfield i lo n v).hostReply = s.hostReply := rfl
@[simp] theorem State.setRfield_capacityEvents (s : State) (i lo n v : Nat) : (s.setRfield i lo n v).capacityEvents = s.capacityEvents := rfl
@[simp] theorem State.setRfield_resetDiscards (s : State) (i lo n v : Nat) : (s.setRfield i lo n v).resetDiscards = s.resetDiscards := rfl
@[simp] theorem State.setRfield_formClk (s : State) (i lo n v : Nat) : (s.setRfield i lo n v).formClk = s.formClk := rfl
@[simp] theorem State.setRfield_l2Dirty (s : State) (i lo n v : Nat) : (s.setRfield i lo n v).l2Dirty = s.l2Dirty := rfl
@[simp] theorem State.setRfield_seals (s : State) (i lo n v : Nat) : (s.setRfield i lo n v).seals = s.seals := rfl
@[simp] theorem State.setRfield_poolReply (s : State) (i lo n v : Nat) : (s.setRfield i lo n v).poolReply = s.poolReply := rfl
@[simp] theorem State.setRfield_walks (s : State) (i lo n v : Nat) : (s.setRfield i lo n v).walks = s.walks := rfl
@[simp] theorem State.setRfield_relays (s : State) (i lo n v : Nat) : (s.setRfield i lo n v).relays = s.relays := rfl
@[simp] theorem State.setRfield_images (s : State) (i lo n v : Nat) : (s.setRfield i lo n v).images = s.images := rfl
@[simp] theorem State.setRfield_hostEpisode (s : State) (i lo n v : Nat) : (s.setRfield i lo n v).hostEpisode = s.hostEpisode := rfl
@[simp] theorem State.setRfield_flitReplays (s : State) (i lo n v : Nat) : (s.setRfield i lo n v).flitReplays = s.flitReplays := rfl
@[simp] theorem State.setRfield_devidLocked (s : State) (i lo n v : Nat) : (s.setRfield i lo n v).devidLocked = s.devidLocked := rfl

end Sys2Proof.Machine
end

