-- ==== Sys2Proof/Laws/Issue.lean ====
section
/-! SUPPORT. What the issue slots of a core do (R130): a claim, an admission, and the placing of groups. -/

namespace Sys2Proof.Machine

/-- Free positions are aligned, lie in the slot and meet no claim. -/
theorem freePositions_spec {s : State} {core islot w p : Nat} (h : s.freePositions core islot w = some p) :
    p % w = 0 ∧ p + w ≤ 64 ∧ ∀ c ∈ s.claims core islot, p + w ≤ c.1 ∨ c.1 + c.2 ≤ p := by
  have hp := List.find?_some h
  have hm := List.mem_of_find?_eq_some h
  obtain ⟨k, hk, rfl⟩ := List.mem_map.1 hm
  refine ⟨Nat.mul_mod_left k w, ?_, fun c hc => ?_⟩
  · have h1 := (Nat.le_div_iff_mul_le (Nat.pos_of_ne_zero fun h0 => by simp [h0] at hk)).1 (List.mem_range.1 hk)
    rwa [Nat.succ_mul] at h1
  · simpa using List.all_eq_true.1 hp c hc

/-- A claim leaves a group that holds positions alone, and gives another free ones from this clock on. -/
theorem claim_cases {s : State} {t : Team} {g v : Group} (h : s.claim t g = some v) :
    (g.needsPositions = false ∧ v = g) ∨
    (g.needsPositions = true ∧ s.passedOver t g .positions = false ∧ ∃ p, s.freePositions g.core g.islot t.launch.width = some p ∧
      v = { g with positions := some p, runStart := s.clk }) := by
  unfold State.claim at h
  split at h
  · exact .inl ⟨by simp_all, by simpa using h.symm⟩
  · split at h
    · cases h
    · obtain ⟨p, hp, rfl⟩ := Option.map_eq_some_iff.1 h
      exact .inr ⟨by simp_all, by simp_all, p, hp, rfl⟩

/-- An admitted group has its claim, and with a uniform instruction that issues now the slot's uniform issue. -/
theorem letIssue_cases {s : State} {t : Team} {g v : Group} {i : Instr} (h : s.letIssue t g i = some v) :
    ∃ u, s.claim t g = some u ∧
      ((Instr.isUniform i && g.unissued) = false ∧ v = { u with seeks := .none } ∨
        (Instr.isUniform i && g.unissued) = true ∧ s.uniformTaken g = false ∧ s.passedOver t g .uniform = false ∧
          v = { u with seeks := .granted }) := by
  unfold State.letIssue at h
  split at h
  · cases h
  · refine ⟨_, by assumption, ?_⟩
    split at h
    · rename_i hu
      split at h
      · cases h
      · rename_i hn
        rw [Bool.or_eq_true, not_or, Bool.not_eq_true, Bool.not_eq_true] at hn
        exact .inr ⟨hu, hn.1, hn.2, (Option.some.inj h).symm⟩
    · rename_i hu
      exact .inl ⟨by simpa using hu, (Option.some.inj h).symm⟩

/-- Placing groups keeps those placed before them. -/
theorem slotGroups_prefix (s : State) (w : Nat) (placed gs : List Group) : placed <+: s.slotGroups w placed gs := by
  induction gs generalizing placed with
  | nil => exact List.prefix_rfl
  | cons g gs ih => exact (List.prefix_append _ _).trans (ih _)

/-- Each placed group has the issue slot that it finds behind those before it, and is otherwise as it was. -/
theorem slotGroups_spec (s : State) (w : Nat) (placed gs : List Group) :
    (s.slotGroups w placed gs).length = placed.length + gs.length ∧
    ∀ n g, gs[n]? = some g → (s.slotGroups w placed gs)[placed.length + n]? =
      some { g with islot := s.issueSlot g.core ((s.slotGroups w placed gs).take (placed.length + n)) w
                    positions := none, seeks := .none } := by
  induction gs generalizing placed with
  | nil => exact ⟨rfl, fun n g h => by simp at h⟩
  | cons a gs ih =>
    have h := ih (placed ++ [{ a with islot := s.issueSlot a.core placed w, positions := none, seeks := .none }])
    have hp := slotGroups_prefix s w (placed ++ [{ a with islot := s.issueSlot a.core placed w, positions := none, seeks := .none }]) gs
    simp only [List.length_append, List.length_singleton] at h
    refine ⟨by have := h.1; simp only [State.slotGroups, List.length_cons]; omega, fun n g hn => ?_⟩
    cases n with
    | zero =>
      obtain rfl : a = g := by simpa using hn
      obtain ⟨r, hr⟩ := hp
      have e : s.slotGroups w placed (a :: gs) = _ := hr.symm
      rw [e]
      simp
    | succ n =>
      have h2 := h.2 n g (by simpa using hn)
      rw [show placed.length + 1 + n = placed.length + (n + 1) by omega] at h2
      exact h2

/-! ### The note of a uniform issue -/

@[simp] theorem State.noteIssue_regs (s : State) (g : Group) : (s.noteIssue g).regs = s.regs := by unfold State.noteIssue; split <;> rfl
@[simp] theorem State.noteIssue_mem (s : State) (g : Group) : (s.noteIssue g).mem = s.mem := by unfold State.noteIssue; split <;> rfl
@[simp] theorem State.noteIssue_pool (s : State) (g : Group) : (s.noteIssue g).pool = s.pool := by unfold State.noteIssue; split <;> rfl
@[simp] theorem State.noteIssue_poison (s : State) (g : Group) : (s.noteIssue g).poison = s.poison := by unfold State.noteIssue; split <;> rfl
@[simp] theorem State.noteIssue_teams (s : State) (g : Group) : (s.noteIssue g).teams = s.teams := by unfold State.noteIssue; split <;> rfl
@[simp] theorem State.noteIssue_clk (s : State) (g : Group) : (s.noteIssue g).clk = s.clk := by unfold State.noteIssue; split <;> rfl
@[simp] theorem State.noteIssue_cur (s : State) (g : Group) : (s.noteIssue g).cur = s.cur := by unfold State.noteIssue; split <;> rfl
@[simp] theorem State.noteIssue_agenda (s : State) (g : Group) : (s.noteIssue g).agenda = s.agenda := by unfold State.noteIssue; split <;> rfl

/-- An instruction's outcome after the note: the same, with at most a slot's uniform issue noted. -/
theorem issueRes_next {s s' : State} {r : Res} (h : s.issueRes r = .next s') :
    ∃ s1, r = .next s1 ∧ (s' = s1 ∨ ∃ g, s' = s1.noteIssue g) := by
  cases r with
  | next s1 =>
    refine ⟨s1, rfl, ?_⟩
    simp only [State.issueRes, Host.Outcome.next.injEq] at h
    split at h
    · exact .inr ⟨_, h.symm⟩
    · exact .inl h.symm
  | fault e => cases h
  | refused e => cases h

end Sys2Proof.Machine
end

