-- ==== Sys2Proof/Laws/Sparse.lean ====
section
/-! SUPPORT. Sparse maps: reading after writing, and the canonical form under every operation. -/

namespace Sys2Proof.Machine

variable {α : Type}

theorem sget_filter (d : α) (m : Sparse α) (p : Nat → Bool) (k : Nat) (h : p k = true) :
    sget d (m.filter fun e => p e.1) k = sget d m k := by
  induction m with
  | nil => rfl
  | cons e r ih =>
    obtain ⟨i, v⟩ := e
    by_cases hi : i = k
    · subst hi; simp [h, sget]
    · by_cases hp : p i = true <;> simp [hp, sget, hi, ih]

theorem sget_filter_gone (d : α) (m : Sparse α) (p : Nat → Bool) (k : Nat) (h : p k = false) :
    sget d (m.filter fun e => p e.1) k = d := by
  induction m with
  | nil => rfl
  | cons e r ih =>
    obtain ⟨i, v⟩ := e
    by_cases hp : p i = true
    · have hi : i ≠ k := by rintro rfl; simp [h] at hp
      simp [hp, sget, hi, ih]
    · simp [hp, ih]

theorem sget_sinsert_same (d : α) (m : Sparse α) (k : Nat) (v : α) : sget d (sinsert k v m) k = v := by
  induction m with
  | nil => simp [sinsert, sget]
  | cons e r ih =>
    obtain ⟨i, w⟩ := e
    simp only [sinsert]
    split
    · simp [sget]
    · split
      · simp [sget]
      · next h => simp [sget, Ne.symm h, ih]

theorem sget_sinsert_ne (d : α) (m : Sparse α) (k j : Nat) (v : α) (h : j ≠ k) :
    sget d (sinsert k v m) j = sget d m j := by
  induction m with
  | nil => simp [sinsert, sget, Ne.symm h]
  | cons e r ih =>
    obtain ⟨i, w⟩ := e
    simp only [sinsert]
    split
    · simp [sget, Ne.symm h]
    · split
      · next hk => subst hk; simp [sget, Ne.symm h]
      · by_cases hi : i = j <;> simp [sget, hi, ih]

variable [DecidableEq α]

/-- A read after a write of the same key gives the value written. -/
@[simp] theorem sget_sset_same (d : α) (m : Sparse α) (k : Nat) (v : α) : sget d (sset d m k v) k = v := by
  unfold sset
  split
  · next h => rw [h]; exact sget_filter_gone d m (fun i => decide (i ≠ k)) k (by simp)
  · exact sget_sinsert_same d m k v

/-- A write leaves every other key alone. -/
theorem sget_sset_ne (d : α) (m : Sparse α) (k j : Nat) (v : α) (h : j ≠ k) :
    sget d (sset d m k v) j = sget d m j := by
  unfold sset
  split
  · exact sget_filter d m (fun i => decide (i ≠ k)) j (by simp [h])
  · exact sget_sinsert_ne d m k j v h

theorem sget_sset (d : α) (m : Sparse α) (k j : Nat) (v : α) :
    sget d (sset d m k v) j = if j = k then v else sget d m j := by
  by_cases h : j = k
  · subst h; simp
  · simp [h, sget_sset_ne]

/-- Consecutive writes leave every key outside them alone. -/
theorem sget_ssetList_out (d : α) (vs : List α) (m : Sparse α) (k j : Nat) (h : j < k ∨ k + vs.length ≤ j) :
    sget d (ssetList d m k vs) j = sget d m j := by
  induction vs generalizing m k with
  | nil => rfl
  | cons v vs ih =>
    simp only [ssetList, List.length_cons] at h ⊢
    rw [ih _ _ (by omega), sget_sset_ne _ _ _ _ _ (by omega)]

/-- A read inside consecutive writes gives the value written there. -/
theorem sget_ssetList_in (d : α) (vs : List α) (m : Sparse α) (k j : Nat) (h : j < vs.length) :
    sget d (ssetList d m k vs) (k + j) = vs[j] := by
  induction vs generalizing m k j with
  | nil => simp at h
  | cons v vs ih =>
    simp only [ssetList]
    cases j with
    | zero => rw [sget_ssetList_out _ _ _ _ _ (by omega)]; simp
    | succ j =>
      have := ih (sset d m k v) (k + 1) j (by simpa using h)
      simpa [Nat.add_assoc, Nat.add_comm 1 j] using this

/-! ### The canonical form -/

omit [DecidableEq α] in
theorem swf_nil (d : α) : swf d [] := ⟨List.Pairwise.nil, by simp⟩

omit [DecidableEq α] in
theorem swf_filter (d : α) (m : Sparse α) (p : Nat × α → Bool) (h : swf d m) : swf d (m.filter p) :=
  ⟨h.1.filter _, fun e he => h.2 e (List.mem_filter.mp he).1⟩

omit [DecidableEq α] in
theorem mem_sinsert (m : Sparse α) (k : Nat) (v : α) (e : Nat × α) (h : e ∈ sinsert k v m) :
    e = (k, v) ∨ e ∈ m := by
  induction m with
  | nil => simpa [sinsert] using h
  | cons x r ih =>
    obtain ⟨i, w⟩ := x
    simp only [sinsert] at h
    split at h
    · simpa using h
    · split at h
      · simp only [List.mem_cons] at h ⊢; tauto
      · simp only [List.mem_cons] at h ⊢
        rcases h with h | h
        · tauto
        · rcases ih h with h | h <;> tauto

omit [DecidableEq α] in
theorem sinsert_sorted (m : Sparse α) (k : Nat) (v : α) (h : m.Pairwise fun a b => a.1 < b.1) :
    (sinsert k v m).Pairwise fun a b => a.1 < b.1 := by
  induction m with
  | nil => simp [sinsert]
  | cons x r ih =>
    obtain ⟨i, w⟩ := x
    rw [List.pairwise_cons] at h
    simp only [sinsert]
    split
    · next hk =>
      refine List.pairwise_cons.mpr ⟨fun e he => ?_, List.pairwise_cons.mpr h⟩
      rcases List.mem_cons.mp he with rfl | he
      · exact hk
      · exact Nat.lt_trans hk (h.1 e he)
    · split
      · next hk => exact List.pairwise_cons.mpr ⟨fun e he => by simpa [hk] using h.1 e he, h.2⟩
      · refine List.pairwise_cons.mpr ⟨fun e he => ?_, ih h.2⟩
        rcases mem_sinsert r k v e he with rfl | he
        · show i < k; omega
        · exact h.1 e he

/-- A write keeps the canonical form. -/
theorem swf_sset (d : α) (m : Sparse α) (k : Nat) (v : α) (h : swf d m) : swf d (sset d m k v) := by
  unfold sset
  split
  · exact swf_filter d m _ h
  · next hv =>
    refine ⟨sinsert_sorted m k v h.1, fun e he => ?_⟩
    rcases mem_sinsert m k v e he with rfl | he
    · exact hv
    · exact h.2 e he

/-- Consecutive writes keep the canonical form. -/
theorem swf_ssetList (d : α) (vs : List α) (m : Sparse α) (k : Nat) (h : swf d m) : swf d (ssetList d m k vs) := by
  induction vs generalizing m k with
  | nil => exact h
  | cons v vs ih => exact ih _ _ (swf_sset d m k v h)

omit [DecidableEq α] in
/-- Clearing a range of keys keeps the canonical form. -/
theorem swf_sclear (d : α) (m : Sparse α) (lo hi : Nat) (h : swf d m) : swf d (sclear m lo hi) := swf_filter d m _ h

omit [DecidableEq α] in
/-- A range of the keys is in the canonical form. -/
theorem swf_sslice (d : α) (m : Sparse α) (lo hi : Nat) (h : swf d m) : swf d (sslice m lo hi) := swf_filter d m _ h

omit [DecidableEq α] in
theorem sget_below (d : α) (m : Sparse α) (k : Nat) (h : ∀ e ∈ m, k < e.1) : sget d m k = d := by
  induction m with
  | nil => rfl
  | cons e r ih =>
    have he := h e (by simp)
    simp [sget, Nat.ne_of_gt he, ih fun x hx => h x (by simp [hx])]

omit [DecidableEq α] in
/-- Two maps in the canonical form that read alike are equal. -/
theorem swf_ext (d : α) (m n : Sparse α) (hm : swf d m) (hn : swf d n) (h : ∀ k, sget d m k = sget d n k) : m = n := by
  induction m generalizing n with
  | nil =>
    cases n with
    | nil => rfl
    | cons e r => exact absurd (by simpa [sget] using (h e.1).symm) (hn.2 e (by simp))
  | cons x r ih =>
    obtain ⟨i, v⟩ := x
    cases n with
    | nil => exact absurd (by simpa [sget] using h i) (hm.2 (i, v) (by simp))
    | cons y q =>
      obtain ⟨j, w⟩ := y
      have hm1 := List.pairwise_cons.mp hm.1
      have hn1 := List.pairwise_cons.mp hn.1
      have hij : i = j := by
        rcases Nat.lt_trichotomy i j with hlt | he | hlt
        · have hi := h i
          rw [sget_below d ((j, w) :: q) i (fun e he => by
            rcases List.mem_cons.mp he with rfl | he
            · exact hlt
            · exact Nat.lt_trans hlt (hn1.1 e he))] at hi
          exact absurd (by simpa [sget] using hi) (hm.2 (i, v) (by simp))
        · exact he
        · have hj := h j
          rw [sget_below d ((i, v) :: r) j (fun e he => by
            rcases List.mem_cons.mp he with rfl | he
            · exact hlt
            · exact Nat.lt_trans hlt (hm1.1 e he))] at hj
          exact absurd (by simpa [sget] using hj.symm) (hn.2 (j, w) (by simp))
      subst hij
      have hv : v = w := by simpa [sget] using h i
      subst hv
      congr 1
      refine ih q ⟨hm1.2, fun e he => hm.2 e (by simp [he])⟩ ⟨hn1.2, fun e he => hn.2 e (by simp [he])⟩ fun k => ?_
      by_cases hk : i = k
      · subst hk
        rw [sget_below d r i hm1.1, sget_below d q i hn1.1]
      · have := h k
        simpa [sget, hk] using this

end Sys2Proof.Machine
end

