-- ==== Sys2Proof/Laws/Memory.lean ====
section
/-! SUPPORT. The memory operations: each keeps the canonical form, and a read after a write of memory that is not
pooled gives what was written, or what stood there before. -/

namespace Sys2Proof.Machine

/-- A fold keeps what each of its steps keeps. -/
theorem foldl_keeps {α β : Type} (P : β → Prop) (f : β → α → β) (h : ∀ b a, P b → P (f b a)) (l : List α) (b : β) (hb : P b) :
    P (l.foldl f b) := by
  induction l generalizing b with
  | nil => exact hb
  | cons a r ih => exact ih _ (h b a hb)

/-! ### The canonical form -/

theorem memoryForm_reset : State.reset.MemoryForm := ⟨swf_nil _, swf_nil _⟩

/-- A line that turns dirty leaves both memories alone. -/
theorem dirtyLine_memory (s : State) (line : Nat) : (s.dirtyLine line).mem = s.mem ∧ (s.dirtyLine line).pool = s.pool := by
  unfold State.dirtyLine
  split
  · exact ⟨rfl, rfl⟩
  · simp only
    split <;> split <;> exact ⟨rfl, rfl⟩

theorem memoryForm_dirtyLine (s : State) (line : Nat) (h : s.MemoryForm) : (s.dirtyLine line).MemoryForm := by
  obtain ⟨h1, h2⟩ := dirtyLine_memory s line
  exact ⟨by rw [h1]; exact h.1, by rw [h2]; exact h.2⟩

theorem memoryForm_putByte (s : State) (pa : Nat) (b : Byte) (h : s.MemoryForm) : (s.putByte pa b).MemoryForm := by
  unfold State.putByte
  split
  · exact h
  · exact ⟨swf_sset _ _ _ _ h.1, by rw [(dirtyLine_memory s _).2]; exact h.2⟩

theorem memoryForm_putBytes (bs : List Byte) (s : State) (pa : Nat) (h : s.MemoryForm) : (s.putBytes pa bs).MemoryForm := by
  induction bs generalizing s pa with
  | nil => exact h
  | cons b bs ih => exact ih _ _ (memoryForm_putByte s pa b h)

theorem memoryForm_mscWriteBack (s : State) (l : PoolLine) (base : Nat) (h : s.MemoryForm) : (s.mscWriteBack l base).MemoryForm := by
  unfold State.mscWriteBack
  simp only
  split
  · exact h
  · refine foldl_keeps State.MemoryForm _ (fun b u hb => ?_) _ _ h
    exact ⟨hb.1, swf_ssetList 0 _ b.pool (u * 64) hb.2⟩

theorem memoryForm_mscFill (s : State) (pa key : Nat) (h : s.MemoryForm) : (s.mscFill pa key).MemoryForm := by
  unfold State.mscFill
  simp only
  split
  · exact h
  · split
    · exact h
    · split
      · exact memoryForm_mscWriteBack s _ _ h
      · exact h

theorem memoryForm_cleanPoolLine (s : State) (l : PoolLine) (h : s.MemoryForm) : (s.cleanPoolLine l).MemoryForm := by
  unfold State.cleanPoolLine
  simp only
  split
  · exact h
  · split
    · exact memoryForm_mscFill _ _ _ h
    · exact memoryForm_mscWriteBack _ _ _ (memoryForm_mscFill _ _ _ h)

theorem memoryForm_evictPoolLine (s : State) (l : PoolLine) (h : s.MemoryForm) : (s.evictPoolLine l).MemoryForm := by
  unfold State.evictPoolLine
  simp only
  split
  · exact h
  · have h1 : (if l.dirty.isEmpty then s else s.cleanPoolLine l).MemoryForm := by
      split
      · exact h
      · exact memoryForm_cleanPoolLine s l h
    split <;> exact h1

theorem memoryForm_writeBackLine (s : State) (line : Nat) (h : s.MemoryForm) : (s.writeBackLine line).MemoryForm := by
  unfold State.writeBackLine
  split
  · exact h
  · simp only
    split
    · exact h
    · split
      · exact h
      · split
        · refine ⟨?_, h.2⟩
          exact swf_ssetList 0 _ s.mem (line * 128) h.1
        · exact h

theorem memoryForm_l2Room (s : State) (line : Nat) (h : s.MemoryForm) : (s.l2Room line).MemoryForm := by
  unfold State.l2Room
  split
  · split
    · split
      · exact memoryForm_evictPoolLine _ _ h
      · exact memoryForm_writeBackLine _ _ h
    · exact h
  · exact h

theorem memoryForm_poolFill (s : State) (pa key : Nat) (h : s.MemoryForm) : (s.poolFill pa key).MemoryForm := by
  unfold State.poolFill
  split
  · exact h
  · simp only
    split
    · exact memoryForm_l2Room s _ h
    · exact memoryForm_mscFill _ pa key (memoryForm_l2Room s _ h)

theorem memoryForm_touch (s : State) (pa n key : Nat) (h : s.MemoryForm) : (s.touch pa n key).MemoryForm := by
  unfold State.touch
  split
  · exact foldl_keeps State.MemoryForm _ (fun b l hb => memoryForm_poolFill b (l * 128) key hb) _ _ h
  · exact h

theorem memoryForm_setPoison (s : State) (sec : Nat) (p : Bool) (h : s.MemoryForm) : (s.setPoison sec p).MemoryForm := by
  unfold State.setPoison
  split
  · exact memoryForm_poolFill s _ _ h
  · exact memoryForm_dirtyLine s _ h

theorem memoryForm_writeHome (s : State) (pa : Nat) (bs : List Byte) (h : s.MemoryForm) : (s.writeHome pa bs).MemoryForm :=
  foldl_keeps State.MemoryForm _ (fun b n hb => memoryForm_setPoison b n false hb) _ _
    (memoryForm_putBytes _ _ _ (memoryForm_touch _ _ _ _ h))

theorem memoryForm_setBytes (s : State) (pa : Nat) (bs : List Byte) (seals : Sparse (Option (BitVec 512))) (h : s.MemoryForm) :
    State.MemoryForm { s with mem := ssetList 0 s.mem pa bs, seals := seals } :=
  ⟨swf_ssetList 0 bs s.mem pa h.1, h.2⟩

theorem memoryForm_rekeySector (s : State) (key : Nat) (write : Bool) (sec : Nat) (h : s.MemoryForm) :
    (s.rekeySector key write sec).MemoryForm := by
  unfold State.rekeySector
  simp only
  split
  · split <;> exact h
  · split
    · exact h
    · exact memoryForm_setBytes _ _ _ _ (memoryForm_writeBackLine s (sec / 4) h)

theorem memoryForm_rekey (s : State) (key : Nat) (write : Bool) (pa n : Nat) (h : s.MemoryForm) :
    (s.rekey key write pa n).MemoryForm := by
  unfold State.rekey
  split
  · exact foldl_keeps State.MemoryForm _ (fun b x hb => memoryForm_rekeySector b key write x hb) _ _ h
  · exact memoryForm_touch _ _ _ _ h

theorem memoryForm_performOne (s : State) (p : Posted) (left : List Posted) (h : s.MemoryForm) : (s.performOne p left).MemoryForm :=
  foldl_keeps State.MemoryForm _ (fun b n hb => memoryForm_setPoison b n true hb) _ _
    (foldl_keeps State.MemoryForm _ (fun b n hb => memoryForm_setPoison b n false hb) _ _
      (memoryForm_writeHome _ _ _ (memoryForm_rekey _ _ _ _ _ h)))

theorem memoryForm_performAll (ps : List Posted) (s : State) (h : s.MemoryForm) : (s.performAll ps).MemoryForm := by
  induction ps generalizing s with
  | nil => exact h
  | cons p ps ih => exact ih _ (memoryForm_performOne s p _ h)

theorem memoryForm_performPosted (s : State) (n : Nat) (h : s.MemoryForm) : (s.performPosted n).MemoryForm := by
  unfold State.performPosted
  split
  · exact h
  · exact memoryForm_performAll _ _ h

theorem memoryForm_performWhere (s : State) (f : Posted → Bool) (h : s.MemoryForm) : (s.performWhere f).MemoryForm :=
  memoryForm_performAll _ _ h

theorem memoryForm_performByte (s : State) (n i : Nat) (h : s.MemoryForm) : (s.performByte n i).MemoryForm := by
  unfold State.performByte
  split
  · exact h
  · split <;> exact memoryForm_performPosted _ _ h

theorem memoryForm_evictPool (s : State) (line : Nat) (h : s.MemoryForm) : (s.evictPool line).MemoryForm := by
  unfold State.evictPool
  split
  · exact memoryForm_evictPoolLine _ _ h
  · exact h

theorem memoryForm_flushPool (s : State) (h : s.MemoryForm) : s.flushPool.MemoryForm :=
  foldl_keeps State.MemoryForm _ (fun b l hb => memoryForm_mscWriteBack b l _ hb) _ _
    (foldl_keeps State.MemoryForm _ (fun b l hb => by split; exact hb; exact memoryForm_cleanPoolLine b l hb) _ _
      (memoryForm_performWhere s _ h))

/-! ### The log and the registers leave memory alone -/

@[simp] theorem setReg_mem (s : State) (i : Nat) (v : DWord) : (s.setReg i v).mem = s.mem := rfl
@[simp] theorem setReg_pool (s : State) (i : Nat) (v : DWord) : (s.setReg i v).pool = s.pool := rfl
@[simp] theorem setPart_mem (s : State) (k : Nat) (p : Part) : (s.setPart k p).mem = s.mem := rfl
@[simp] theorem setPart_pool (s : State) (k : Nat) (p : Part) : (s.setPart k p).pool = s.pool := rfl

theorem sendMessage_memory (s : State) (e : Nat) : (s.sendMessage e).mem = s.mem ∧ (s.sendMessage e).pool = s.pool := by
  unfold State.sendMessage; split <;> exact ⟨rfl, rfl⟩

theorem raise_memory (s : State) (e : Nat) : (s.raise e).mem = s.mem ∧ (s.raise e).pool = s.pool := by
  unfold State.raise
  split
  · exact ⟨rfl, rfl⟩
  · simp only
    split
    · exact sendMessage_memory _ _
    · exact ⟨rfl, rfl⟩

theorem appendLog_memory (s : State) (e : LogEntry) : (s.appendLog e).mem = s.mem ∧ (s.appendLog e).pool = s.pool :=
  raise_memory _ _

/-- A log entry leaves both memories alone. -/
theorem addLog_memory (s : State) (e : LogEntry) : (s.addLog e).mem = s.mem ∧ (s.addLog e).pool = s.pool := by
  unfold State.addLog
  split
  · exact ⟨rfl, rfl⟩
  · split
    · exact ⟨rfl, rfl⟩
    · split
      · simp only
        split
        · exact appendLog_memory _ _
        · exact ⟨(appendLog_memory _ _).1.trans (appendLog_memory _ _).1, (appendLog_memory _ _).2.trans (appendLog_memory _ _).2⟩
      · exact appendLog_memory _ _

theorem memoryForm_addLog (s : State) (e : LogEntry) (h : s.MemoryForm) : (s.addLog e).MemoryForm := by
  obtain ⟨h1, h2⟩ := addLog_memory s e
  exact ⟨by rw [h1]; exact h.1, by rw [h2]; exact h.2⟩

theorem foldBufail_memory (s : State) (fn : Nat) : (s.foldBufail fn).mem = s.mem ∧ (s.foldBufail fn).pool = s.pool := ⟨rfl, rfl⟩

theorem memoryForm_hostPut (s : State) (pa : Nat) (bs : List Byte) (h : s.MemoryForm) : (s.hostPut pa bs).MemoryForm := by
  unfold State.hostPut
  split
  · exact h
  · exact memoryForm_writeHome _ _ _ h

theorem memoryForm_ringWrite (es : List (List Byte)) (s : State) (k a : Nat) (h : s.MemoryForm) : (s.ringWrite k a es).MemoryForm := by
  induction es generalizing s a with
  | nil => exact h
  | cons e es ih => exact ih _ _ (memoryForm_hostPut _ _ _ h)

theorem memoryForm_applyRed (s : State) (part pa aop : Nat) (wide ftz : Bool) (v addr : DWord) (core : Nat) (h : s.MemoryForm) :
    (s.applyRed part pa aop wide ftz v addr core).MemoryForm := by
  unfold State.applyRed
  simp only
  split
  · exact memoryForm_addLog _ _ (memoryForm_touch _ _ _ _ h)
  · exact memoryForm_writeHome _ _ _ (memoryForm_touch _ _ _ _ h)

theorem memoryForm_putEnabled (bs : List (Option Byte)) (s : State) (pa : Nat) (h : s.MemoryForm) : (s.putEnabled pa bs).MemoryForm := by
  induction bs generalizing s pa with
  | nil => exact h
  | cons b bs ih =>
    cases b with
    | none => exact ih _ _ h
    | some b => exact ih _ _ (memoryForm_putByte _ _ _ h)

theorem memoryForm_landPacket (s : State) (pa : Nat) (p : Packet) (h : s.MemoryForm) : (s.landPacket pa p).MemoryForm := by
  refine foldl_keeps State.MemoryForm _ (fun b i hb => ?_) _ _ (memoryForm_putEnabled _ _ _ (memoryForm_touch _ _ _ _ h))
  simp only
  split
  · exact memoryForm_setPoison _ _ _ hb
  · split
    · exact memoryForm_setPoison _ _ _ hb
    · exact hb

theorem memoryForm_hostAccess (s : State) (q : HostReq) (pa : Nat) (h : s.MemoryForm) : (s.hostAccess q pa).MemoryForm := by
  unfold State.hostAccess
  split
  · simp only
    split
    · exact foldl_keeps State.MemoryForm _ (fun b n hb => memoryForm_setPoison b n true hb) _ _ (memoryForm_writeHome _ _ _ h)
    · exact memoryForm_writeHome _ _ _ h
  · exact h

theorem memoryForm_discardDirty (s : State) (h : s.MemoryForm) : s.discardDirty.MemoryForm := by
  unfold State.discardDirty
  refine foldl_keeps State.MemoryForm _ (fun b l hb => ?_) _ _ h
  exact ⟨swf_ssetList 0 _ b.mem (l.line * 128) hb.1, hb.2⟩

theorem memoryForm_outside (s : State) (h : s.MemoryForm) : s.outside.MemoryForm :=
  ⟨swf_sslice _ _ _ _ (memoryForm_discardDirty s h).1, (memoryForm_discardDirty s h).2⟩

theorem memoryForm_warmReset (s : State) (h : s.MemoryForm) : s.warmReset.MemoryForm :=
  memoryForm_discardDirty _ (foldl_keeps State.MemoryForm _ (fun b e hb => memoryForm_addLog b e.2.2 hb) _ _ h)

theorem installRegs_memory (s : State) : s.installRegs.mem = s.mem ∧ s.installRegs.pool = s.pool := by
  unfold State.installRegs
  constructor
  · exact (State.setRfield_mem _ _ _ _ _).trans ((setReg_mem _ _ _).trans ((setReg_mem _ _ _).trans ((setReg_mem _ _ _).trans
      ((setReg_mem _ _ _).trans ((setReg_mem _ _ _).trans (setReg_mem _ _ _))))))
  · exact (State.setRfield_pool _ _ _ _ _).trans ((setReg_pool _ _ _).trans ((setReg_pool _ _ _).trans ((setReg_pool _ _ _).trans
      ((setReg_pool _ _ _).trans ((setReg_pool _ _ _).trans (setReg_pool _ _ _))))))

theorem memoryForm_install (s : State) (nbits w : Nat) (h : s.MemoryForm) : (s.install nbits w).MemoryForm := by
  obtain ⟨h1, h2⟩ := installRegs_memory s
  unfold State.install
  generalize s.installRegs = r at h1 h2
  refine ⟨?_, ?_⟩
  · show swf 0 (ssetList 0 r.mem installPc.toNat _)
    rw [h1]
    exact swf_ssetList _ _ _ _ h.1
  · show swf 0 r.pool
    rw [h2]
    exact h.2

/-! ### Reading after writing -/

/-- A byte written outside the pool reads back, and every other byte reads as before. -/
theorem homeByte_putByte (s : State) (pa : Nat) (b : Byte) (h : ¬ (2 ^ 40 ≤ pa ∧ pa < 2 ^ 55)) (a : Nat) :
    (s.putByte pa b).homeByte a = if a = pa then b else s.homeByte a := by
  unfold State.putByte
  rw [if_neg h]
  by_cases ha : 2 ^ 40 ≤ a ∧ a < 2 ^ 55
  · have hne : a ≠ pa := by rintro rfl; exact h ha
    rw [if_neg hne]
    unfold State.dirtyLine
    split
    · simp only [State.homeByte, if_pos ha]; rfl
    · simp only
      split <;> split <;> (simp only [State.homeByte, if_pos ha]; rfl)
  · simp only [State.homeByte, if_neg ha]
    exact sget_sset _ _ _ _ _

/-- Bytes written outside the pool read back, and every other byte reads as before. -/
theorem homeByte_putBytes (bs : List Byte) (s : State) (pa : Nat) (h : pa + bs.length ≤ 2 ^ 40 ∨ 2 ^ 55 ≤ pa) (a : Nat) :
    (s.putBytes pa bs).homeByte a = if pa ≤ a ∧ a < pa + bs.length then bs.getD (a - pa) 0 else s.homeByte a := by
  induction bs generalizing s pa with
  | nil => simp only [State.putBytes, List.length_nil]; rw [if_neg (by omega)]
  | cons b bs ih =>
    simp only [List.length_cons] at h
    rw [State.putBytes, ih _ _ (by omega), homeByte_putByte _ _ _ (by omega)]
    simp only [List.length_cons]
    by_cases h1 : a = pa
    · subst h1; simp
    · by_cases h2 : pa + 1 ≤ a ∧ a < pa + 1 + bs.length
      · rw [if_pos h2, if_pos (by omega)]
        obtain ⟨k, hk⟩ : ∃ k, a - pa = k + 1 := ⟨a - pa - 1, by omega⟩
        have hk' : a - (pa + 1) = k := by omega
        rw [hk, hk']; simp
      · rw [if_neg h2, if_neg h1, if_neg (by omega)]

/-- A poison bit outside the pool changes no byte. -/
theorem homeByte_setPoison (s : State) (sec : Nat) (p : Bool) (h : sec * 32 < 2 ^ 40 ∨ 2 ^ 55 ≤ sec * 32) (a : Nat) :
    (s.setPoison sec p).homeByte a = s.homeByte a := by
  unfold State.setPoison State.dirtyLine
  rw [if_neg (by omega)]
  split
  · rfl
  · simp only
    split <;> split <;> rfl

/-- A range below the pool touches no pool line. -/
theorem touch_low (s : State) (pa n key : Nat) (h : pa < 2 ^ 40 ∨ 2 ^ 55 ≤ pa) : s.touch pa n key = s := by
  unfold State.touch
  rw [if_neg (by omega)]

/-- A store below the pool writes its bytes and no other. -/
theorem homeByte_writeHome (s : State) (pa : Nat) (bs : List Byte) (h : pa + bs.length ≤ 2 ^ 40 ∨ 2 ^ 55 ≤ pa) (a : Nat) :
    (s.writeHome pa bs).homeByte a = if pa ≤ a ∧ a < pa + bs.length then bs.getD (a - pa) 0 else s.homeByte a := by
  unfold State.writeHome
  by_cases h0 : bs.length = 0
  · have hbs : bs = [] := List.length_eq_zero_iff.mp h0
    subst hbs
    have hw : wholeSectors pa 0 = [] := by
      unfold wholeSectors numsFrom
      have : (pa + 0) / 32 - (pa + 31) / 32 = 0 := by omega
      rw [this]; rfl
    have ht : s.touch pa 0 0 = s := by unfold State.touch; rw [if_neg (by omega)]
    simp only [List.length_nil, hw, List.foldl_nil, State.putBytes, ht]
    rw [if_neg (by omega)]
  · rw [← homeByte_putBytes bs s pa h a, touch_low s pa _ _ (by omega)]
    have hs : ∀ n ∈ wholeSectors pa bs.length, n * 32 < 2 ^ 40 ∨ 2 ^ 55 ≤ n * 32 := by
      intro n hn
      simp only [wholeSectors, numsFrom, List.mem_map, List.mem_range] at hn
      obtain ⟨x, hx, rfl⟩ := hn
      omega
    generalize s.putBytes pa bs = s1
    generalize wholeSectors pa bs.length = l at hs
    induction l generalizing s1 with
    | nil => rfl
    | cons n r ih =>
      rw [List.foldl_cons, ih _ (fun m hm => hs m (by simp [hm]))]
      exact homeByte_setPoison s1 n false (hs n (by simp)) a

end Sys2Proof.Machine
end

