-- ==== Sys2Proof/Laws/Operands.lean ====
section
/-! SUPPORT. What the shared operations on a group's registers can do: results in flight, the writes of
registers, and the writes of a lane instruction over its lanes. -/

namespace Sys2Proof.Machine

/-! ### Results in flight (R133) -/

theorem seenAt_filter (k : Nat) (l l' : Loc) (h : List Early) (x : DWord) (hl : l ≠ l') :
    seenAt k l (h.filter fun e => decide (e.loc ≠ l')) x = seenAt k l h x := by
  induction h generalizing x with
  | nil => rfl
  | cons e r ih =>
    simp only [ne_eq, decide_not] at ih ⊢
    by_cases he : e.loc = l'
    · simp [he, seenAt, ih, Ne.symm hl]
    · by_cases h2 : e.loc = l <;> simp [he, seenAt, h2, hl, ih]

/-- A write of one location changes what no reader sees of another (R133). -/
theorem seenAt_noteWrite_ne (k : Nat) (l l' : Loc) (h : List Early) (clk lat : Nat) (old x : DWord) (hl : l ≠ l') :
    seenAt k l (noteWrite h clk lat l' old) x = seenAt k l h x := by
  unfold noteWrite
  split
  · exact seenAt_filter k l l' h x hl
  · simp [seenAt, Ne.symm hl]

theorem seenAt_absent (k : Nat) (l : Loc) (h : List Early) (x : DWord) (hn : ∀ e ∈ h, e.loc ≠ l) :
    seenAt k l h x = x := by
  induction h with
  | nil => rfl
  | cons e r ih =>
    simp [seenAt, hn e (by simp), ih fun y hy => hn y (by simp [hy])]

/-- A reader sees a write from the clock of its issue plus its latency on, and what it would have seen without
the write before (R133). -/
theorem seenAt_noteWrite_same (k : Nat) (l : Loc) (h : List Early) (clk lat : Nat) (old x : DWord)
    (hk : clk + 1 ≤ k) :
    seenAt k l (noteWrite h clk lat l old) x = if clk + lat ≤ k then x else seenAt k l h old := by
  unfold noteWrite
  by_cases hlat : lat ≤ 1
  · rw [if_pos hlat, if_pos (by omega)]
    exact seenAt_absent k l _ x fun e he => by simpa using (List.mem_filter.mp he).2
  · simp [hlat, seenAt]

/-- A write lands at its location. -/
theorem lands_noteWrite (t : Team) (g g' : Group) (clk lat : Nat) (l : Loc)
    (h : g'.hist = noteWrite g.hist clk lat l (holds t g l)) : lands clk lat t g g' l := by
  intro k x hk
  rw [h]
  exact seenAt_noteWrite_same k l g.hist clk lat _ x hk

/-- What is as before afterwards leaves a landing, and what is as before it does too. -/
theorem lands_of_same {clk lat : Nat} {t0 t1 : Team} {g0 g1 g2 g3 : Group} {l : Loc}
    (h : lands clk lat t1 g1 g2 l) (h0 : sameLoc t0 t1 g0 g1 l) (h3 : ∀ k x, seenAt k l g3.hist x = seenAt k l g2.hist x) :
    lands clk lat t0 g0 g3 l := by
  intro k x hk
  rw [h3, h k x hk, h0.1, h0.2]

/-! ### One register -/

/-- A context in which only values that a run of lane writes may change differ. -/
structure Ctx.Kin (c c' : Ctx) : Prop where
  team : c'.t = { c.t with win := c'.t.win, sticky := c'.t.sticky, errors := c'.t.errors }
  group : c'.g = { c.g with temps := c'.g.temps, last := c'.g.last, hist := c'.g.hist }
  clk : c'.clk = c.clk
  lit : c'.lit = c.lit

theorem Ctx.Kin.refl (c : Ctx) : c.Kin c := ⟨rfl, rfl, rfl, rfl⟩

theorem Ctx.Kin.trans {a b c : Ctx} (h : a.Kin b) (k : b.Kin c) : a.Kin c := by
  obtain ⟨h1, h2, h3, h4⟩ := h
  obtain ⟨k1, k2, k3, k4⟩ := k
  refine ⟨?_, ?_, k3.trans h3, k4.trans h4⟩
  · rw [k1, h1]
  · rw [k2, h2]

theorem Ctx.setV_kin (c : Ctx) (lat wid r : Nat) (v : Word) : c.Kin (c.setV lat wid r v) := ⟨rfl, rfl, rfl, rfl⟩
theorem Ctx.setQ_kin (c : Ctx) (lat wid i : Nat) (v : Word) : c.Kin (c.setQ lat wid i v) := ⟨rfl, rfl, rfl, rfl⟩
theorem Ctx.setLast_kin (c : Ctx) (lat wid : Nat) (v : DWord) : c.Kin (c.setLast lat wid v) := ⟨rfl, rfl, rfl, rfl⟩
theorem Ctx.stick_kin (c : Ctx) (wid : Nat) (b : BitVec 7) : c.Kin (c.stick wid b) := ⟨rfl, rfl, rfl, rfl⟩

theorem sameLoc_refl (t : Team) (g : Group) (l : Loc) : sameLoc t t g g l := ⟨rfl, fun _ _ => rfl⟩

theorem Ctx.sameLoc_trans {a b c : Ctx} {l : Loc} (h : sameLoc a.t b.t a.g b.g l) (k : sameLoc b.t c.t b.g c.g l) :
    sameLoc a.t c.t a.g c.g l :=
  ⟨k.1.trans h.1, fun j x => (k.2 j x).trans (h.2 j x)⟩

/-- A write of one register leaves every other location. -/
theorem Ctx.setV_same (c : Ctx) (lat wid r : Nat) (v : Word) (l : Loc) (hl : l ≠ .v wid r) (hr : r < 64)
    (hb : ∀ w i, l = .v w i → i < 64) : sameLoc c.t (c.setV lat wid r v).t c.g (c.setV lat wid r v).g l := by
  refine ⟨?_, fun k x => seenAt_noteWrite_ne _ _ _ _ _ _ _ _ hl⟩
  cases l with
  | v w i =>
    have hi := hb w i rfl
    simp only [holds, Ctx.setV]
    rw [sget_sset_ne]
    intro he
    have hw : w = wid := by omega
    have hrk : i = r := by omega
    exact hl (by rw [hw, hrk])
  | _ => rfl

/-- A write of one run temporary leaves every other location. -/
theorem Ctx.setQ_same (c : Ctx) (lat wid r : Nat) (v : Word) (l : Loc) (hl : l ≠ .q wid r) (hr : r < 8)
    (hb : ∀ w i, l = .q w i → i < 8) : sameLoc c.t (c.setQ lat wid r v).t c.g (c.setQ lat wid r v).g l := by
  refine ⟨?_, fun k x => seenAt_noteWrite_ne _ _ _ _ _ _ _ _ hl⟩
  cases l with
  | q w i =>
    have hi := hb w i rfl
    simp only [holds, Ctx.setQ]
    rw [sget_sset_ne]
    intro he
    have hw : w = wid := by omega
    have hrk : i = r := by omega
    exact hl (by rw [hw, hrk])
  | _ => rfl

theorem Ctx.setWords_temps (lat : Nat) (ln : Lane) (vs : List Word) (c : Ctx) (j k : Nat) (h48 : 48 ≤ k) (hj : k < j) :
    sget none (c.setWords lat ln j vs).g.temps (ln.wid * 8 + (k - 48)) = sget none c.g.temps (ln.wid * 8 + (k - 48)) := by
  induction vs generalizing c j with
  | nil => rfl
  | cons x xs ih =>
    simp only [Ctx.setWords]
    rw [ih _ _ (by split <;> omega)]
    split
    · rfl
    · split
      · simp only [Ctx.setQ]; exact sget_sset_ne _ _ _ _ _ (by omega)
      · rfl

/-- What a write of consecutive words of a lane destination does (R189): the words, and no other location. -/
theorem Ctx.setWords_spec (lat : Nat) (ln : Lane) (vs : List Word) (c : Ctx) (k : Nat) :
    c.Kin (c.setWords lat ln k vs) ∧ (c.setWords lat ln k vs).t.sticky = c.t.sticky ∧
    (c.setWords lat ln k vs).g.last = c.g.last ∧
    (∀ l, (∀ i < vs.length, k + i < 48 → l ≠ .v ln.wid (k + i)) →
      (∀ i < vs.length, 48 ≤ k + i → k + i < 56 → l ≠ .q ln.wid (k + i - 48)) →
      (∀ w r, l = .v w r → r < 64) → (∀ w i, l = .q w i → i < 8) →
      sameLoc c.t (c.setWords lat ln k vs).t c.g (c.setWords lat ln k vs).g l) ∧
    ∀ i v, vs[i]? = some v →
      (k + i < 48 → sget 0 (c.setWords lat ln k vs).t.win (ln.wid * 64 + (k + i)) = v ∧
        lands c.clk lat c.t c.g (c.setWords lat ln k vs).g (.v ln.wid (k + i))) ∧
      (48 ≤ k + i → k + i < 56 → sget none (c.setWords lat ln k vs).g.temps (ln.wid * 8 + (k + i - 48)) = some v ∧
        lands c.clk lat c.t c.g (c.setWords lat ln k vs).g (.q ln.wid (k + i - 48))) := by
  induction vs generalizing c k with
  | nil => exact ⟨Ctx.Kin.refl c, rfl, rfl, fun l _ _ _ _ => sameLoc_refl _ _ _, by simp⟩
  | cons v vs ih =>
    simp only [Ctx.setWords]
    by_cases h48 : k < 48
    · simp only [h48, if_true, show k < 56 by omega]
      obtain ⟨ik, is, il, ifr, ires⟩ := ih (c.setV lat ln.wid k v) (k + 1)
      have hsame := c.setV_same lat ln.wid k v
      refine ⟨(c.setV_kin lat ln.wid k v).trans ik, is, il, fun l hv hq hr hi => ?_, fun i u hu => ?_⟩
      · refine Ctx.sameLoc_trans (hsame l (hv 0 (by simp) h48) (by omega) hr) (ifr l (fun i hi' h => ?_) (fun i hi' h h' => ?_) hr hi)
        · have := hv (i + 1) (by simp; omega) (by omega); rwa [show k + (i + 1) = k + 1 + i by omega] at this
        · have := hq (i + 1) (by simp; omega) (by omega) (by omega); rwa [show k + (i + 1) = k + 1 + i by omega] at this
      · cases i with
        | zero =>
          simp only [List.getElem?_cons_zero, Option.some.injEq] at hu
          subst hu
          have hloc := ifr (.v ln.wid k) (fun i _ _ h => by simp at h; omega) (fun i _ _ _ h => by simp at h)
            (fun w r h => by simp at h; omega) (fun w i h => by simp at h)
          refine ⟨fun _ => ⟨?_, ?_⟩, by omega⟩
          · have := hloc.1
            simp only [holds, Ctx.setV, sget_sset_same] at this
            simpa [Ctx.setV] using congrArg (BitVec.setWidth 32) this
          · exact lands_of_same (lands_noteWrite c.t c.g (c.setV lat ln.wid k v).g c.clk lat _ rfl) (sameLoc_refl _ _ _) hloc.2
        | succ i =>
          have h := ires i u (by simpa using hu)
          rw [show k + (i + 1) = k + 1 + i by omega]
          refine ⟨fun hlt => ⟨(h.1 hlt).1, ?_⟩, fun hge hlt => ⟨(h.2 hge hlt).1, ?_⟩⟩
          · exact lands_of_same (h.1 hlt).2 (hsame _ (by simp; omega) (by omega) (fun w i h => by simp at h; omega)) fun _ _ => rfl
          · exact lands_of_same (h.2 hge hlt).2 (hsame _ (by simp) (by omega) (fun w i h => by simp at h)) fun _ _ => rfl
    · by_cases h56 : k < 56
      · simp only [h48, h56, if_true, if_false]
        obtain ⟨ik, is, il, ifr, ires⟩ := ih (c.setQ lat ln.wid (k - 48) v) (k + 1)
        have hsame := c.setQ_same lat ln.wid (k - 48) v
        refine ⟨(c.setQ_kin lat ln.wid (k - 48) v).trans ik, is, il, fun l hv hq hr hi => ?_, fun i u hu => ?_⟩
        · refine Ctx.sameLoc_trans (hsame l (hq 0 (by simp) (by omega) h56) (by omega) hi)
            (ifr l (fun i hi' h => by omega) (fun i hi' h h' => ?_) hr hi)
          have := hq (i + 1) (by simp; omega) (by omega) (by omega); rwa [show k + (i + 1) = k + 1 + i by omega] at this
        · cases i with
          | zero =>
            simp only [List.getElem?_cons_zero, Option.some.injEq] at hu
            subst hu
            have hloc := ifr (.q ln.wid (k - 48)) (fun i _ _ h => by simp at h) (fun i _ _ _ h => by simp at h; omega)
              (fun w r h => by simp at h) (fun w i h => by simp at h; omega)
            refine ⟨by omega, fun _ _ => ⟨?_, ?_⟩⟩
            · rw [show k + 0 - 48 = k - 48 by omega, Ctx.setWords_temps lat ln vs _ _ k (by omega) (by omega)]
              simp [Ctx.setQ]
            · exact lands_of_same (lands_noteWrite c.t c.g (c.setQ lat ln.wid (k - 48) v).g c.clk lat _ rfl) (sameLoc_refl _ _ _) hloc.2
          | succ i =>
            have h := ires i u (by simpa using hu)
            rw [show k + (i + 1) = k + 1 + i by omega]
            refine ⟨by omega, fun hge hlt => ⟨(h.2 hge hlt).1, ?_⟩⟩
            exact lands_of_same (h.2 hge hlt).2 (hsame _ (by simp; omega) (by omega) (fun w i h => by simp at h; omega)) fun _ _ => rfl
      · simp only [h48, h56, if_false]
        obtain ⟨ik, is, il, ifr, ires⟩ := ih c k
        exact ⟨ik, is, il, fun l _ _ hr hi => ifr l (fun i _ h => by omega) (fun i _ _ h => by omega) hr hi,
          fun i u _ => ⟨by omega, by omega⟩⟩

/-! ### The lanes of an instruction -/

/-- What one lane's result does (R189, R229). -/
theorem Ctx.resultStick_spec (c : Ctx) (lat : Nat) (ln : Lane) (d : BitVec 6) (vs : List Word) (st : BitVec 7) :
    let c' := (c.result lat ln d vs).stick ln.wid st
    c.Kin c' ∧ c'.t.sticky = sset 0 c.t.sticky ln.wid (sget 0 c.t.sticky ln.wid ||| st) ∧
    sget none c'.g.last ln.wid = some (lastOf vs) ∧
    (∀ l, l ∉ destLocs [ln] d vs.length → (∀ w r, l = .v w r → r < 64) → (∀ w i, l = .q w i → i < 8) →
      sameLoc c.t c'.t c.g c'.g l) ∧
    (∀ i v, vs[i]? = some v →
      (d.toNat + i < 48 → sget 0 c'.t.win (ln.wid * 64 + (d.toNat + i)) = v) ∧
      (48 ≤ d.toNat + i → d.toNat + i < 56 → sget none c'.g.temps (ln.wid * 8 + (d.toNat + i - 48)) = some v)) ∧
    ∀ l ∈ destLocs [ln] d vs.length, lands c.clk lat c.t c.g c'.g l := by
  intro c'
  obtain ⟨hk, hs, hl, hf, hr⟩ := Ctx.setWords_spec lat ln vs c d.toNat
  refine ⟨(hk.trans (Ctx.setLast_kin _ _ _ _)).trans (Ctx.stick_kin _ _ _), ?_, ?_, fun l hd hv hq => ?_,
    fun i v hv => ⟨fun h => ((hr i v hv).1 h).1, fun h h' => ((hr i v hv).2 h h').1⟩, fun l hl => ?_⟩
  · show sset 0 _ _ _ = _
    rw [show ((c.result lat ln d vs).t.sticky) = c.t.sticky from hs]
  · simp [c', Ctx.stick, Ctx.result, Ctx.setLast]
  · simp only [destLocs, List.flatMap_cons, List.flatMap_nil, List.append_nil, List.mem_cons, List.mem_filterMap,
      List.mem_range, not_or, not_exists, not_and] at hd
    have h1 := hf l (fun i hi h48 he => hd.2 i hi (by simp [h48, he]))
      (fun i hi h48 h56 he => hd.2 i hi (by simp [show ¬ d.toNat + i < 48 by omega, h56, he])) hv hq
    refine ⟨Eq.trans ?_ h1.1, fun k x => Eq.trans (seenAt_noteWrite_ne _ _ _ _ _ _ _ _ hd.1) (h1.2 k x)⟩
    cases l with
    | last w =>
      have hw : w ≠ ln.wid := fun h => hd.1 (by rw [h])
      simp only [holds, c', Ctx.stick, Ctx.result, Ctx.setLast]
      rw [sget_sset_ne _ _ _ _ _ hw]
    | _ => rfl
  · have hlast : ∀ l, l ≠ .last ln.wid → ∀ k x, seenAt k l c'.g.hist x = seenAt k l (c.setWords lat ln d.toNat vs).g.hist x :=
      fun l hl k x => seenAt_noteWrite_ne _ _ _ _ _ _ _ _ hl
    simp only [destLocs, List.flatMap_cons, List.flatMap_nil, List.append_nil, List.mem_cons, List.mem_filterMap,
      List.mem_range] at hl
    rcases hl with rfl | ⟨i, hi, he⟩
    · have hs := hf (.last ln.wid) (fun i _ _ h => by simp at h) (fun i _ _ _ h => by simp at h)
        (fun w r h => by simp at h) (fun w i h => by simp at h)
      have hc : (c.setWords lat ln d.toNat vs).clk = c.clk := hk.clk
      refine lands_of_same (lands_noteWrite (c.setWords lat ln d.toNat vs).t (c.setWords lat ln d.toNat vs).g c'.g c.clk lat _ ?_)
        hs fun _ _ => rfl
      rw [← hc]; rfl
    · obtain ⟨v, hv⟩ : ∃ v, vs[i]? = some v := ⟨vs[i], by simp [hi]⟩
      split at he
      · next h48 =>
        obtain rfl : .v ln.wid (d.toNat + i) = l := by simpa using he
        exact lands_of_same ((hr i v hv).1 h48).2 (sameLoc_refl _ _ _) (hlast _ (by simp))
      · split at he
        · next h48 h56 =>
          obtain rfl : .q ln.wid (d.toNat + i - 48) = l := by simpa using he
          exact lands_of_same ((hr i v hv).2 (by omega) h56).2 (sameLoc_refl _ _ _) (hlast _ (by simp))
        · simp at he

/-- What the results of several lanes do. -/
theorem Ctx.foldResult_spec (lat : Nat) (d : BitVec 6) (n : Nat) (ls : List (Lane × List Word × BitVec 7)) (c : Ctx)
    (hn : ∀ p ∈ ls, p.2.1.length = n) :
    let c' := ls.foldl (fun c p => (c.result lat p.1 d p.2.1).stick p.1.wid p.2.2) c
    c.Kin c' ∧
    (∀ l, l ∉ destLocs (ls.map (·.1)) d n → (∀ w r, l = .v w r → r < 64) → (∀ w i, l = .q w i → i < 8) →
      sameLoc c.t c'.t c.g c'.g l) ∧
    ∀ wid, (∀ p ∈ ls, p.1.wid ≠ wid) → sget 0 c'.t.sticky wid = sget 0 c.t.sticky wid := by
  induction ls generalizing c with
  | nil => exact ⟨Ctx.Kin.refl c, fun _ _ _ _ => ⟨rfl, fun _ _ => rfl⟩, fun _ _ => rfl⟩
  | cons p r ih =>
    intro c'
    obtain ⟨hk, hs, -, hf, -⟩ := Ctx.resultStick_spec c lat p.1 d p.2.1 p.2.2
    obtain ⟨ik, if', is⟩ := ih ((c.result lat p.1 d p.2.1).stick p.1.wid p.2.2) fun q hq => hn q (by simp [hq])
    refine ⟨hk.trans ik, fun l hl hv hq => ?_, fun wid hw => ?_⟩
    · have hcons : destLocs ((p :: r).map (·.1)) d n = destLocs [p.1] d n ++ destLocs (r.map (·.1)) d n := by
        simp [destLocs]
      rw [hcons, List.mem_append, not_or] at hl
      have hlen : p.2.1.length = n := hn p (by simp)
      exact Ctx.sameLoc_trans (hf l (by rw [hlen]; exact hl.1) hv hq) (if' l hl.2 hv hq)
    · refine (is wid fun q hq => hw q (by simp [hq])).trans ?_
      rw [hs, sget_sset_ne _ _ _ _ _ (Ne.symm (hw p (by simp)))]

theorem Ctx.setWords_other (lat : Nat) (ln : Lane) (vs : List Word) (c : Ctx) (k wid i : Nat) (hi : i < 8)
    (hw : ln.wid ≠ wid) :
    sget none (c.setWords lat ln k vs).g.temps (wid * 8 + i) = sget none c.g.temps (wid * 8 + i) := by
  induction vs generalizing c k with
  | nil => rfl
  | cons v vs ih =>
    simp only [Ctx.setWords]
    rw [ih]
    split
    · rfl
    · split
      · simp only [Ctx.setQ]
        exact sget_sset_ne _ _ _ _ _ (by omega)
      · rfl

theorem Ctx.foldResult_temps (lat : Nat) (d : BitVec 6) (ls : List (Lane × List Word × BitVec 7)) (c : Ctx) (wid i : Nat)
    (hi : i < 8) (h : ∀ p ∈ ls, p.1.wid ≠ wid) :
    sget none (ls.foldl (fun c p => (c.result lat p.1 d p.2.1).stick p.1.wid p.2.2) c).g.temps (wid * 8 + i)
      = sget none c.g.temps (wid * 8 + i) := by
  induction ls generalizing c with
  | nil => rfl
  | cons p r ih =>
    simp only [List.foldl_cons]
    rw [ih _ fun q hq => h q (by simp [hq])]
    exact Ctx.setWords_other lat p.1 p.2.1 c d.toNat wid i hi (h p (by simp))

theorem Ctx.foldResult_last (lat : Nat) (d : BitVec 6) (ls : List (Lane × List Word × BitVec 7)) (c : Ctx) (wid : Nat)
    (h : ∀ p ∈ ls, p.1.wid ≠ wid) :
    sget none (ls.foldl (fun c p => (c.result lat p.1 d p.2.1).stick p.1.wid p.2.2) c).g.last wid
      = sget none c.g.last wid := by
  induction ls generalizing c with
  | nil => rfl
  | cons p r ih =>
    simp only [List.foldl_cons]
    rw [ih _ fun q hq => h q (by simp [hq])]
    simp only [Ctx.stick, Ctx.result, Ctx.setLast]
    rw [sget_sset_ne _ _ _ _ _ (Ne.symm (h p (by simp))), (Ctx.setWords_spec lat p.1 p.2.1 c d.toNat).2.2.1]

theorem holds_v (t : Team) (g : Group) (w r : Nat) : (holds t g (.v w r)).setWidth 32 = sget 0 t.win (w * 64 + r) := by
  simp [holds]

/-- A location of one window is no destination of a lane of another. -/
theorem not_mem_destLocs (ls : List Lane) (d : BitVec 6) (n wid : Nat) (l : Loc)
    (hl : l = .last wid ∨ (∃ r, l = .v wid r) ∨ ∃ i, l = .q wid i) (h : ∀ ln ∈ ls, ln.wid ≠ wid) :
    l ∉ destLocs ls d n := by
  simp only [destLocs, List.mem_flatMap, List.mem_cons, List.mem_filterMap, List.mem_range, not_exists, not_and, not_or]
  intro ln hln
  have hw := h ln hln
  refine ⟨?_, fun i _ he => ?_⟩
  · rintro rfl
    rcases hl with h | ⟨r, h⟩ | ⟨r, h⟩ <;> simp at h
    exact hw h
  · rcases hl with rfl | ⟨r, rfl⟩ | ⟨r, rfl⟩
    · split at he <;> [skip; split at he] <;> simp at he
    · split at he <;> [skip; split at he] <;> simp at he
      exact hw he.1
    · split at he <;> [skip; split at he] <;> simp at he
      exact hw he.1

/-- What the lane writes of an instruction do (R128, R189, R229): the lanes have written their results. -/
theorem Ctx.foldLanes_written (c : Ctx) (lat : Nat) (d : BitVec 6) (n : Nat) (ls : List Lane)
    (f : Lane → List Word × BitVec 7) (hn : ∀ ln ∈ ls, (f ln).1.length = n) :
    let c' := (ls.map fun ln => (ln, f ln)).foldl (fun c p => (c.result lat p.1 d p.2.1).stick p.1.wid p.2.2) c
    c.Kin c' ∧ c.Written lat d n ls f c'.t c'.g := by
  intro c'
  obtain ⟨hk, hf, hs⟩ := Ctx.foldResult_spec lat d n (ls.map fun ln => (ln, f ln)) c (by simpa using hn)
  refine ⟨hk, ⟨fun pre ln post he hd => ?_, ?_, ?_, hk.team, ?_⟩⟩
  · have hpre : ∀ l ∈ pre, l.wid ≠ ln.wid := fun l hl => hd l (by simp [hl])
    have hpost : ∀ l ∈ post, l.wid ≠ ln.wid := fun l hl => hd l (by simp [hl])
    let c1 := (pre.map fun ln => (ln, f ln)).foldl (fun c p => (c.result lat p.1 d p.2.1).stick p.1.wid p.2.2) c
    let c2 := (c1.result lat ln d (f ln).1).stick ln.wid (f ln).2
    have hc' : c' = (post.map fun ln => (ln, f ln)).foldl (fun c p => (c.result lat p.1 d p.2.1).stick p.1.wid p.2.2) c2 := by
      simp [c', he, c1, c2]
    have hln : (f ln).1.length = n := hn ln (by simp [he])
    obtain ⟨k1, f1, s1⟩ := Ctx.foldResult_spec lat d n (pre.map fun ln => (ln, f ln)) c
      (by simp; exact fun a ha => hn a (by simp [he, ha]))
    obtain ⟨-, s2, l2, -, r2, n2⟩ := Ctx.resultStick_spec c1 lat ln d (f ln).1 (f ln).2
    obtain ⟨-, f3, s3⟩ := Ctx.foldResult_spec lat d n (post.map fun ln => (ln, f ln)) c2
      (by simp; exact fun a ha => hn a (by simp [he, ha]))
    have hpm : ((post.map fun ln => (ln, f ln)).map (·.1)) = post := by simp [Function.comp_def]
    have hpm1 : ((pre.map fun ln => (ln, f ln)).map (·.1)) = pre := by simp [Function.comp_def]
    rw [hpm] at f3
    rw [hpm1] at f1
    rw [hc']
    have same : ∀ r, r < 64 → _ := fun r hr => f3 (.v ln.wid r)
      (not_mem_destLocs post d n ln.wid _ (.inr (.inl ⟨r, rfl⟩)) hpost)
      (fun w r' h => by simp at h; omega) (fun w i h => by simp at h)
    refine ⟨fun i v hv => ⟨fun h48 => ?_, fun h48 h56 => ?_⟩, ?_, ?_, fun l hl => ?_⟩
    · have h1 := (same (d.toNat + i) (by omega)).1
      rw [← (r2 i v hv).1 h48, ← holds_v _ _ _ _, h1, holds_v]
    · rw [← (r2 i v hv).2 h48 h56]
      exact Ctx.foldResult_temps lat d _ c2 ln.wid (d.toNat + i - 48) (by omega) (by simpa using hpost)
    · rw [← l2]
      exact Ctx.foldResult_last lat d _ c2 ln.wid (by simpa using hpost)
    · rw [s3 ln.wid (by simpa using hpost)]
      show sget 0 c2.t.sticky ln.wid = _
      rw [s2, sget_sset_same, s1 ln.wid (by simpa using hpre)]
    · have hk1 : c1.clk = c.clk := k1.clk
      have hform : (l = .last ln.wid ∨ (∃ r, l = .v ln.wid r) ∨ ∃ i, l = .q ln.wid i) ∧
          (∀ w r, l = .v w r → r < 64) ∧ (∀ w i, l = .q w i → i < 8) := by
        simp only [destLocs, List.flatMap_cons, List.flatMap_nil, List.append_nil, List.mem_cons, List.mem_filterMap,
          List.mem_range] at hl
        rcases hl with rfl | ⟨i, hi, he⟩
        · simp
        · split at he <;> [skip; split at he] <;> simp at he <;> subst he <;> simp <;> omega
      have h2 := n2 l (by rw [hln]; exact hl)
      rw [hk1] at h2
      exact lands_of_same h2 (f1 l (not_mem_destLocs pre d n ln.wid l hform.1 hpre) hform.2.1 hform.2.2)
        (f3 l (not_mem_destLocs post d n ln.wid l hform.1 hpost) hform.2.1 hform.2.2).2
  · intro l hl
    refine hf l ?_
    simpa [Function.comp_def] using hl
  · intro wid hw
    exact hs wid (by simpa using hw)
  · have hg : c'.g = { c.g with temps := c'.g.temps, last := c'.g.last, hist := c'.g.hist } := hk.group
    rw [hg]; exact ⟨rfl, rfl, rfl, rfl, rfl⟩

/-- Passing the instruction leaves what lanes have written. -/
theorem Ctx.Written.retire {c : Ctx} {lat : Nat} {d : BitVec 6} {n : Nat} {ls : List Lane} {f : Lane → List Word × BitVec 7}
    {t' : Team} {g' : Group} (h : c.Written lat d n ls f t' g') (clk stall words : Nat) :
    c.Written lat d n ls f t' (g'.retire clk stall words) :=
  ⟨h.results, fun l h1 h2 h3 => by
    have := h.frame l h1 h2 h3
    refine ⟨Eq.trans ?_ this.1, this.2⟩
    cases l <;> rfl, h.sticky, h.team, h.group⟩

end Sys2Proof.Machine
end

