-- ==== Sys2Proof/Laws/PerInstr.lean ====
section
/-! SUPPORT. Statements made instruction by instruction: `OpcodeRow` says that the fields of each encoded instruction are
those of a row of the opcode maps (R202, R203), and that this row makes the instruction of them again. The events of
other agents have no fields. -/

namespace Sys2Proof.Laws.OpcodeRow

theorem part0 {r : Row} (h : r ∈ rows0) : r ∈ rows := by simp only [rows, List.mem_append]; tauto
theorem part1 {r : Row} (h : r ∈ rows1) : r ∈ rows := by simp only [rows, List.mem_append]; tauto
theorem part2 {r : Row} (h : r ∈ rows2) : r ∈ rows := by simp only [rows, List.mem_append]; tauto
theorem part3 {r : Row} (h : r ∈ rows3) : r ∈ rows := by simp only [rows, List.mem_append]; tauto
theorem part4 {r : Row} (h : r ∈ rows4) : r ∈ rows := by simp only [rows, List.mem_append]; tauto
theorem part5 {r : Row} (h : r ∈ rows5) : r ∈ rows := by simp only [rows, List.mem_append]; tauto
theorem part6 {r : Row} (h : r ∈ rows6) : r ∈ rows := by simp only [rows, List.mem_append]; tauto
theorem part7 {r : Row} (h : r ∈ rows7) : r ∈ rows := by simp only [rows, List.mem_append]; tauto
theorem part8 {r : Row} (h : r ∈ rows8) : r ∈ rows := by simp only [rows, List.mem_append]; tauto
theorem part9 {r : Row} (h : r ∈ rows9) : r ∈ rows := by simp only [rows, List.mem_append]; tauto
theorem part10 {r : Row} (h : r ∈ rows10) : r ∈ rows := by simp only [rows, List.mem_append]; tauto

/-- An instruction's top byte and fields belong to a row of the opcode maps, which makes the instruction of them. -/
def Statement (i : Instr) : Prop :=
  ∀ op f, i.fields? = some (op, f) → ∃ r ∈ rows, r.op = op ∧ r.make f = some i

/-- An instruction with the fields `f` at the row `k` of a part of the maps. -/
theorem of_row {i : Instr} {op : Nat} {f : Fields} (l : List Row) (hl : ∀ {r}, r ∈ l → r ∈ rows) (k : Nat) (h : k < l.length)
    (hi : i.fields? = some (op, f)) (ho : l[k].op = op) (hm : l[k].make f = some i) : Statement i := fun op' f' h' => by
  rw [hi] at h'; cases h'; exact ⟨_, hl (List.getElem_mem h), ho, hm⟩

/-- An instruction without fields. -/
theorem of_none {i : Instr} (hi : i.fields? = none) : Statement i := fun op' f' h' => by
  rw [hi] at h'; cases h'

theorem nop (w : W3) : Statement (.nop w) := of_row rows0 part0 0 (by decide) rfl rfl rfl
theorem iaddI32 (w : W3) : Statement (.iaddI32 w) := of_row rows0 part0 1 (by decide) rfl rfl rfl
theorem iaddI32Li (w : WI) : Statement (.iaddI32Li w) := of_row rows0 part0 2 (by decide) rfl rfl rfl
theorem isubI32 (w : W3) : Statement (.isubI32 w) := of_row rows0 part0 3 (by decide) rfl rfl rfl
theorem imulI32 (w : W3) : Statement (.imulI32 w) := of_row rows0 part0 4 (by decide) rfl rfl rfl
theorem imulI32Li (w : WI) : Statement (.imulI32Li w) := of_row rows0 part0 5 (by decide) rfl rfl rfl
theorem imulhI32 (w : W3) : Statement (.imulhI32 w) := of_row rows0 part0 6 (by decide) rfl rfl rfl
theorem imulhN32 (w : W3) : Statement (.imulhN32 w) := of_row rows0 part0 7 (by decide) rfl rfl rfl
theorem imadI32 (w : W3) : Statement (.imadI32 w) := of_row rows0 part0 8 (by decide) rfl rfl rfl
theorem iabsI32 (w : W3) : Statement (.iabsI32 w) := of_row rows0 part0 9 (by decide) rfl rfl rfl
theorem idivI32 (w : W3) : Statement (.idivI32 w) := of_row rows0 part0 10 (by decide) rfl rfl rfl
theorem idivN32 (w : W3) : Statement (.idivN32 w) := of_row rows0 part0 11 (by decide) rfl rfl rfl
theorem iremI32 (w : W3) : Statement (.iremI32 w) := of_row rows0 part0 12 (by decide) rfl rfl rfl
theorem iremN32 (w : W3) : Statement (.iremN32 w) := of_row rows0 part0 13 (by decide) rfl rfl rfl
theorem iminI32 (w : W3) : Statement (.iminI32 w) := of_row rows0 part0 14 (by decide) rfl rfl rfl
theorem iminN32 (w : W3) : Statement (.iminN32 w) := of_row rows0 part0 15 (by decide) rfl rfl rfl
theorem imaxI32 (w : W3) : Statement (.imaxI32 w) := of_row rows0 part0 16 (by decide) rfl rfl rfl
theorem imaxN32 (w : W3) : Statement (.imaxN32 w) := of_row rows0 part0 17 (by decide) rfl rfl rfl
theorem andL (w : W3) : Statement (.andL w) := of_row rows0 part0 18 (by decide) rfl rfl rfl
theorem andLi (w : WI) : Statement (.andLi w) := of_row rows0 part0 19 (by decide) rfl rfl rfl
theorem orL (w : W3) : Statement (.orL w) := of_row rows1 part1 0 (by decide) rfl rfl rfl
theorem orLi (w : WI) : Statement (.orLi w) := of_row rows1 part1 1 (by decide) rfl rfl rfl
theorem xorL (w : W3) : Statement (.xorL w) := of_row rows1 part1 2 (by decide) rfl rfl rfl
theorem xorLi (w : WI) : Statement (.xorLi w) := of_row rows1 part1 3 (by decide) rfl rfl rfl
theorem shl (w : W3) : Statement (.shl w) := of_row rows1 part1 4 (by decide) rfl rfl rfl
theorem shlLi (w : WI) : Statement (.shlLi w) := of_row rows1 part1 5 (by decide) rfl rfl rfl
theorem shr (w : W3) : Statement (.shr w) := of_row rows1 part1 6 (by decide) rfl rfl rfl
theorem shrLi (w : WI) : Statement (.shrLi w) := of_row rows1 part1 7 (by decide) rfl rfl rfl
theorem sar (w : W3) : Statement (.sar w) := of_row rows1 part1 8 (by decide) rfl rfl rfl
theorem sarLi (w : WI) : Statement (.sarLi w) := of_row rows1 part1 9 (by decide) rfl rfl rfl
theorem rotl (w : W3) : Statement (.rotl w) := of_row rows1 part1 10 (by decide) rfl rfl rfl
theorem rotlLi (w : WI) : Statement (.rotlLi w) := of_row rows1 part1 11 (by decide) rfl rfl rfl
theorem popc (w : W3) : Statement (.popc w) := of_row rows1 part1 12 (by decide) rfl rfl rfl
theorem clz (w : W3) : Statement (.clz w) := of_row rows1 part1 13 (by decide) rfl rfl rfl
theorem brev (w : W3) : Statement (.brev w) := of_row rows1 part1 14 (by decide) rfl rfl rfl
theorem bfxI32 (w : W3) : Statement (.bfxI32 w) := of_row rows1 part1 15 (by decide) rfl rfl rfl
theorem bfxN32 (w : W3) : Statement (.bfxN32 w) := of_row rows1 part1 16 (by decide) rfl rfl rfl
theorem bfi (w : W3) : Statement (.bfi w) := of_row rows1 part1 17 (by decide) rfl rfl rfl
theorem perm (w : W3) : Statement (.perm w) := of_row rows1 part1 18 (by decide) rfl rfl rfl
theorem sel (w : W3) : Statement (.sel w) := of_row rows1 part1 19 (by decide) rfl rfl rfl
theorem mov (w : W3) : Statement (.mov w) := of_row rows2 part2 0 (by decide) rfl rfl rfl
theorem movLi (w : WI) : Statement (.movLi w) := of_row rows2 part2 1 (by decide) rfl rfl rfl
theorem movU (w : W3) : Statement (.movU w) := of_row rows2 part2 2 (by decide) rfl rfl rfl
theorem icmpI32 (w : WC) : Statement (.icmpI32 w) := of_row rows2 part2 3 (by decide) rfl rfl rfl
theorem icmpN32 (w : WC) : Statement (.icmpN32 w) := of_row rows2 part2 4 (by decide) rfl rfl rfl
theorem faddF32 (w : W3) : Statement (.faddF32 w) := of_row rows2 part2 5 (by decide) rfl rfl rfl
theorem fsubF32 (w : W3) : Statement (.fsubF32 w) := of_row rows2 part2 6 (by decide) rfl rfl rfl
theorem fmulF32 (w : W3) : Statement (.fmulF32 w) := of_row rows2 part2 7 (by decide) rfl rfl rfl
theorem fmulzF32 (w : W3) : Statement (.fmulzF32 w) := of_row rows2 part2 8 (by decide) rfl rfl rfl
theorem ffmaF32 (w : W3) : Statement (.ffmaF32 w) := of_row rows2 part2 9 (by decide) rfl rfl rfl
theorem fminF32 (w : W3) : Statement (.fminF32 w) := of_row rows2 part2 10 (by decide) rfl rfl rfl
theorem fmaxF32 (w : W3) : Statement (.fmaxF32 w) := of_row rows2 part2 11 (by decide) rfl rfl rfl
theorem fcmpF32 (w : WC) : Statement (.fcmpF32 w) := of_row rows2 part2 12 (by decide) rfl rfl rfl
theorem fclassF32 (w : W3) : Statement (.fclassF32 w) := of_row rows2 part2 13 (by decide) rfl rfl rfl
theorem fdivF32 (w : W3) : Statement (.fdivF32 w) := of_row rows2 part2 14 (by decide) rfl rfl rfl
theorem frcpF32 (w : W3) : Statement (.frcpF32 w) := of_row rows2 part2 15 (by decide) rfl rfl rfl
theorem frsqF32 (w : W3) : Statement (.frsqF32 w) := of_row rows2 part2 16 (by decide) rfl rfl rfl
theorem fsqrtF32 (w : W3) : Statement (.fsqrtF32 w) := of_row rows2 part2 17 (by decide) rfl rfl rfl
theorem fexp2F32 (w : W3) : Statement (.fexp2F32 w) := of_row rows2 part2 18 (by decide) rfl rfl rfl
theorem flog2F32 (w : W3) : Statement (.flog2F32 w) := of_row rows2 part2 19 (by decide) rfl rfl rfl
theorem fsinF32 (w : W3) : Statement (.fsinF32 w) := of_row rows3 part3 0 (by decide) rfl rfl rfl
theorem fcosF32 (w : W3) : Statement (.fcosF32 w) := of_row rows3 part3 1 (by decide) rfl rfl rfl
theorem ftanhF32 (w : W3) : Statement (.ftanhF32 w) := of_row rows3 part3 2 (by decide) rfl rfl rfl
theorem daddF64 (w : W3) : Statement (.daddF64 w) := of_row rows3 part3 3 (by decide) rfl rfl rfl
theorem dmulF64 (w : W3) : Statement (.dmulF64 w) := of_row rows3 part3 4 (by decide) rfl rfl rfl
theorem dfmaF64 (w : W3) : Statement (.dfmaF64 w) := of_row rows3 part3 5 (by decide) rfl rfl rfl
theorem hadd2F16 (w : W3) : Statement (.hadd2F16 w) := of_row rows3 part3 6 (by decide) rfl rfl rfl
theorem hadd2BF16 (w : W3) : Statement (.hadd2BF16 w) := of_row rows3 part3 7 (by decide) rfl rfl rfl
theorem hmul2F16 (w : W3) : Statement (.hmul2F16 w) := of_row rows3 part3 8 (by decide) rfl rfl rfl
theorem hmul2BF16 (w : W3) : Statement (.hmul2BF16 w) := of_row rows3 part3 9 (by decide) rfl rfl rfl
theorem hfma2F16 (w : W3) : Statement (.hfma2F16 w) := of_row rows3 part3 10 (by decide) rfl rfl rfl
theorem hfma2BF16 (w : W3) : Statement (.hfma2BF16 w) := of_row rows3 part3 11 (by decide) rfl rfl rfl
theorem cfma (w : W3) : Statement (.cfma w) := of_row rows3 part3 12 (by decide) rfl rfl rfl
theorem cvt (w : W3) : Statement (.cvt w) := of_row rows3 part3 13 (by decide) rfl rfl rfl
theorem rndp (w : W3) : Statement (.rndp w) := of_row rows3 part3 14 (by decide) rfl rfl rfl
theorem pand (w : W3) : Statement (.pand w) := of_row rows3 part3 15 (by decide) rfl rfl rfl
theorem por (w : W3) : Statement (.por w) := of_row rows3 part3 16 (by decide) rfl rfl rfl
theorem pxor (w : W3) : Statement (.pxor w) := of_row rows3 part3 17 (by decide) rfl rfl rfl
theorem pnot (w : W3) : Statement (.pnot w) := of_row rows3 part3 18 (by decide) rfl rfl rfl
theorem pmovw (w : W3) : Statement (.pmovw w) := of_row rows3 part3 19 (by decide) rfl rfl rfl
theorem pldw (w : W3) : Statement (.pldw w) := of_row rows4 part4 0 (by decide) rfl rfl rfl
theorem shfl (w : W3) : Statement (.shfl w) := of_row rows4 part4 1 (by decide) rfl rfl rfl
theorem vote (w : W3) : Statement (.vote w) := of_row rows4 part4 2 (by decide) rfl rfl rfl
theorem matchx (w : W3) : Statement (.matchx w) := of_row rows4 part4 3 (by decide) rfl rfl rfl
theorem redx (w : W3) : Statement (.redx w) := of_row rows4 part4 4 (by decide) rfl rfl rfl
theorem fredx (w : W3) : Statement (.fredx w) := of_row rows4 part4 5 (by decide) rfl rfl rfl
theorem scanx (w : W3) : Statement (.scanx w) := of_row rows4 part4 6 (by decide) rfl rfl rfl
theorem bcast (w : W3) : Statement (.bcast w) := of_row rows4 part4 7 (by decide) rfl rfl rfl
theorem elect (w : W3) : Statement (.elect w) := of_row rows4 part4 8 (by decide) rfl rfl rfl
theorem qscale (w : W3) : Statement (.qscale w) := of_row rows4 part4 9 (by decide) rfl rfl rfl
theorem cvtnPack (w : W3) : Statement (.cvtnPack w) := of_row rows4 part4 10 (by decide) rfl rfl rfl
theorem cvtnExp (w : W3) : Statement (.cvtnExp w) := of_row rows4 part4 11 (by decide) rfl rfl rfl
theorem ld (w : W3) : Statement (.ld w) := of_row rows4 part4 12 (by decide) rfl rfl rfl
theorem st (w : W3) : Statement (.st w) := of_row rows4 part4 13 (by decide) rfl rfl rfl
theorem lds (w : W3) : Statement (.lds w) := of_row rows4 part4 14 (by decide) rfl rfl rfl
theorem sts (w : W3) : Statement (.sts w) := of_row rows4 part4 15 (by decide) rfl rfl rfl
theorem atom (w : W3) : Statement (.atom w) := of_row rows4 part4 16 (by decide) rfl rfl rfl
theorem atoms (w : W3) : Statement (.atoms w) := of_row rows4 part4 17 (by decide) rfl rfl rfl
theorem red (w : W3) : Statement (.red w) := of_row rows4 part4 18 (by decide) rfl rfl rfl
theorem cas (w : W3) : Statement (.cas w) := of_row rows4 part4 19 (by decide) rfl rfl rfl
theorem fenceT (w : W3) : Statement (.fenceT w) := of_row rows5 part5 0 (by decide) rfl rfl rfl
theorem fenceD (w : W3) : Statement (.fenceD w) := of_row rows5 part5 1 (by decide) rfl rfl rfl
theorem fenceS (w : W3) : Statement (.fenceS w) := of_row rows5 part5 2 (by decide) rfl rfl rfl
theorem lcpy (w : W3) : Statement (.lcpy w) := of_row rows5 part5 3 (by decide) rfl rfl rfl
theorem optaw (w : W3) : Statement (.optaw w) := of_row rows5 part5 4 (by decide) rfl rfl rfl
theorem shard (w : W3) : Statement (.shard w) := of_row rows5 part5 5 (by decide) rfl rfl rfl
theorem jmpi (w : W3) : Statement (.jmpi w) := of_row rows5 part5 6 (by decide) rfl rfl rfl
theorem calli (w : W3) : Statement (.calli w) := of_row rows5 part5 7 (by decide) rfl rfl rfl
theorem fork (w : W3) : Statement (.fork w) := of_row rows5 part5 8 (by decide) rfl rfl rfl
theorem fend (w : W3) : Statement (.fend w) := of_row rows5 part5 9 (by decide) rfl rfl rfl
theorem sadd (w : W3) : Statement (.sadd w) := of_row rows5 part5 10 (by decide) rfl rfl rfl
theorem saddYi (w : WI) : Statement (.saddYi w) := of_row rows5 part5 11 (by decide) rfl rfl rfl
theorem ssub (w : W3) : Statement (.ssub w) := of_row rows5 part5 12 (by decide) rfl rfl rfl
theorem smul (w : W3) : Statement (.smul w) := of_row rows5 part5 13 (by decide) rfl rfl rfl
theorem smad (w : W3) : Statement (.smad w) := of_row rows5 part5 14 (by decide) rfl rfl rfl
theorem sand (w : W3) : Statement (.sand w) := of_row rows5 part5 15 (by decide) rfl rfl rfl
theorem sandYi (w : WI) : Statement (.sandYi w) := of_row rows5 part5 16 (by decide) rfl rfl rfl
theorem sor (w : W3) : Statement (.sor w) := of_row rows5 part5 17 (by decide) rfl rfl rfl
theorem sorYi (w : WI) : Statement (.sorYi w) := of_row rows5 part5 18 (by decide) rfl rfl rfl
theorem sxor (w : W3) : Statement (.sxor w) := of_row rows5 part5 19 (by decide) rfl rfl rfl
theorem sxorYi (w : WI) : Statement (.sxorYi w) := of_row rows6 part6 0 (by decide) rfl rfl rfl
theorem sshl (w : W3) : Statement (.sshl w) := of_row rows6 part6 1 (by decide) rfl rfl rfl
theorem sshlYi (w : WI) : Statement (.sshlYi w) := of_row rows6 part6 2 (by decide) rfl rfl rfl
theorem sshr (w : W3) : Statement (.sshr w) := of_row rows6 part6 3 (by decide) rfl rfl rfl
theorem sshrYi (w : WI) : Statement (.sshrYi w) := of_row rows6 part6 4 (by decide) rfl rfl rfl
theorem ssar (w : W3) : Statement (.ssar w) := of_row rows6 part6 5 (by decide) rfl rfl rfl
theorem ssarYi (w : WI) : Statement (.ssarYi w) := of_row rows6 part6 6 (by decide) rfl rfl rfl
theorem sminI64 (w : W3) : Statement (.sminI64 w) := of_row rows6 part6 7 (by decide) rfl rfl rfl
theorem sminN64 (w : W3) : Statement (.sminN64 w) := of_row rows6 part6 8 (by decide) rfl rfl rfl
theorem smaxI64 (w : W3) : Statement (.smaxI64 w) := of_row rows6 part6 9 (by decide) rfl rfl rfl
theorem smaxN64 (w : W3) : Statement (.smaxN64 w) := of_row rows6 part6 10 (by decide) rfl rfl rfl
theorem ssel (w : W3) : Statement (.ssel w) := of_row rows6 part6 11 (by decide) rfl rfl rfl
theorem scmpI64 (w : WC) : Statement (.scmpI64 w) := of_row rows6 part6 12 (by decide) rfl rfl rfl
theorem scmpN64 (w : WC) : Statement (.scmpN64 w) := of_row rows6 part6 13 (by decide) rfl rfl rfl
theorem smov (w : W3) : Statement (.smov w) := of_row rows6 part6 14 (by decide) rfl rfl rfl
theorem smovYi (w : WI) : Statement (.smovYi w) := of_row rows6 part6 15 (by decide) rfl rfl rfl
theorem spopc (w : W3) : Statement (.spopc w) := of_row rows6 part6 16 (by decide) rfl rfl rfl
theorem sclz (w : W3) : Statement (.sclz w) := of_row rows6 part6 17 (by decide) rfl rfl rfl
theorem slane (w : W3) : Statement (.slane w) := of_row rows6 part6 18 (by decide) rfl rfl rfl
theorem bra (w : WB) : Statement (.bra w) := of_row rows6 part6 19 (by decide) rfl rfl rfl
theorem br (w : WB) : Statement (.br w) := of_row rows7 part7 0 (by decide) rfl rfl rfl
theorem brg (w : WB) : Statement (.brg w) := of_row rows7 part7 1 (by decide) rfl rfl rfl
theorem call (w : WB) : Statement (.call w) := of_row rows7 part7 2 (by decide) rfl rfl rfl
theorem ret (w : W3) : Statement (.ret w) := of_row rows7 part7 3 (by decide) rfl rfl rfl
theorem rjoin (w : W3) : Statement (.rjoin w) := of_row rows7 part7 4 (by decide) rfl rfl rfl
theorem yield (w : W3) : Statement (.yield w) := of_row rows7 part7 5 (by decide) rfl rfl rfl
theorem endRun (w : WEnd) : Statement (.endRun w) := of_row rows7 part7 6 (by decide) rfl rfl rfl
theorem segset (w : W3) : Statement (.segset w) := of_row rows7 part7 7 (by decide) rfl rfl rfl
theorem segget (w : W3) : Statement (.segget w) := of_row rows7 part7 8 (by decide) rfl rfl rfl
theorem barInit (w : WE) : Statement (.barInit w) := of_row rows7 part7 9 (by decide) rfl rfl rfl
theorem barArv (w : WE) : Statement (.barArv w) := of_row rows7 part7 10 (by decide) rfl rfl rfl
theorem barWt (w : WE) : Statement (.barWt w) := of_row rows7 part7 11 (by decide) rfl rfl rfl
theorem barSync (w : WE) : Statement (.barSync w) := of_row rows7 part7 12 (by decide) rfl rfl rfl
theorem qpushRes (w : WE) : Statement (.qpushRes w) := of_row rows7 part7 13 (by decide) rfl rfl rfl
theorem qpushPub (w : WE) : Statement (.qpushPub w) := of_row rows7 part7 14 (by decide) rfl rfl rfl
theorem qpopTake (w : WE) : Statement (.qpopTake w) := of_row rows7 part7 15 (by decide) rfl rfl rfl
theorem qpopRel (w : WE) : Statement (.qpopRel w) := of_row rows7 part7 16 (by decide) rfl rfl rfl
theorem qpeek (w : WE) : Statement (.qpeek w) := of_row rows7 part7 17 (by decide) rfl rfl rfl
theorem launch (w : WE) : Statement (.launch w) := of_row rows7 part7 18 (by decide) rfl rfl rfl
theorem ldu (w : W3) : Statement (.ldu w) := of_row rows7 part7 19 (by decide) rfl rfl rfl
theorem stu (w : W3) : Statement (.stu w) := of_row rows8 part8 0 (by decide) rfl rfl rfl
theorem bcpy (w : WE) : Statement (.bcpy w) := of_row rows8 part8 1 (by decide) rfl rfl rfl
theorem gath (w : WE) : Statement (.gath w) := of_row rows8 part8 2 (by decide) rfl rfl rfl
theorem layx (w : WE) : Statement (.layx w) := of_row rows8 part8 3 (by decide) rfl rfl rfl
theorem wmrd (w : WE) : Statement (.wmrd w) := of_row rows8 part8 4 (by decide) rfl rfl rfl
theorem wmwait (w : WE) : Statement (.wmwait w) := of_row rows8 part8 5 (by decide) rfl rfl rfl
theorem cpycan (w : WE) : Statement (.cpycan w) := of_row rows8 part8 6 (by decide) rfl rfl rfl
theorem pin (w : WE) : Statement (.pin w) := of_row rows8 part8 7 (by decide) rfl rfl rfl
theorem unpin (w : WE) : Statement (.unpin w) := of_row rows8 part8 8 (by decide) rfl rfl rfl
theorem hres (w : WE) : Statement (.hres w) := of_row rows8 part8 9 (by decide) rfl rfl rfl
theorem hrel (w : WE) : Statement (.hrel w) := of_row rows8 part8 10 (by decide) rfl rfl rfl
theorem hstat (w : WE) : Statement (.hstat w) := of_row rows8 part8 11 (by decide) rfl rfl rfl
theorem mma (w : WE) : Statement (.mma w) := of_row rows8 part8 12 (by decide) rfl rfl rfl
theorem mmak (w : WE) : Statement (.mmak w) := of_row rows8 part8 13 (by decide) rfl rfl rfl
theorem aclr (w : WE) : Statement (.aclr w) := of_row rows8 part8 14 (by decide) rfl rfl rfl
theorem ald (w : WE) : Statement (.ald w) := of_row rows8 part8 15 (by decide) rfl rfl rfl
theorem ast (w : WE) : Statement (.ast w) := of_row rows8 part8 16 (by decide) rfl rfl rfl
theorem achk (w : WE) : Statement (.achk w) := of_row rows8 part8 17 (by decide) rfl rfl rfl
theorem pair (w : WE) : Statement (.pair w) := of_row rows8 part8 18 (by decide) rfl rfl rfl
theorem unpair (w : WE) : Statement (.unpair w) := of_row rows8 part8 19 (by decide) rfl rfl rfl
theorem mmap (w : WE) : Statement (.mmap w) := of_row rows9 part9 0 (by decide) rfl rfl rfl
theorem guide (w : WE) : Statement (.guide w) := of_row rows9 part9 1 (by decide) rfl rfl rfl
theorem maskp (w : WE) : Statement (.maskp w) := of_row rows9 part9 2 (by decide) rfl rfl rfl
theorem mmam (w : WE) : Statement (.mmam w) := of_row rows9 part9 3 (by decide) rfl rfl rfl
theorem tokpub (w : WE) : Statement (.tokpub w) := of_row rows9 part9 4 (by decide) rfl rfl rfl
theorem tkissue (w : WE) : Statement (.tkissue w) := of_row rows9 part9 5 (by decide) rfl rfl rfl
theorem tkstat (w : WE) : Statement (.tkstat w) := of_row rows9 part9 6 (by decide) rfl rfl rfl
theorem tkdrop (w : WE) : Statement (.tkdrop w) := of_row rows9 part9 7 (by decide) rfl rfl rfl
theorem tkfeed (w : WE) : Statement (.tkfeed w) := of_row rows9 part9 8 (by decide) rfl rfl rfl
theorem tkredeem (w : WE) : Statement (.tkredeem w) := of_row rows9 part9 9 (by decide) rfl rfl rfl
theorem tkbindVer (w : WE) : Statement (.tkbindVer w) := of_row rows9 part9 10 (by decide) rfl rfl rfl
theorem tkbindOut (w : WE) : Statement (.tkbindOut w) := of_row rows9 part9 11 (by decide) rfl rfl rfl
theorem wpst (w : WE) : Statement (.wpst w) := of_row rows9 part9 12 (by decide) rfl rfl rfl
theorem coll (w : WE) : Statement (.coll w) := of_row rows9 part9 13 (by decide) rfl rfl rfl
theorem publish (w : WE) : Statement (.publish w) := of_row rows9 part9 14 (by decide) rfl rfl rfl
theorem publishSkip (w : WE) : Statement (.publishSkip w) := of_row rows9 part9 15 (by decide) rfl rfl rfl
theorem steprd (w : W3) : Statement (.steprd w) := of_row rows9 part9 16 (by decide) rfl rfl rfl
theorem trap (w : WI) : Statement (.trap w) := of_row rows9 part9 17 (by decide) rfl rfl rfl
theorem eret (w : W3) : Statement (.eret w) := of_row rows9 part9 18 (by decide) rfl rfl rfl
theorem srd (w : W3) : Statement (.srd w) := of_row rows9 part9 19 (by decide) rfl rfl rfl
theorem swr (w : W3) : Statement (.swr w) := of_row rows10 part10 0 (by decide) rfl rfl rfl
theorem icinv (w : W3) : Statement (.icinv w) := of_row rows10 part10 1 (by decide) rfl rfl rfl
theorem commit (w : W3) : Statement (.commit w) := of_row rows10 part10 2 (by decide) rfl rfl rfl
theorem texit (w : W3) : Statement (.texit w) := of_row rows10 part10 3 (by decide) rfl rfl rfl
theorem bkpt (w : WI) : Statement (.bkpt w) := of_row rows10 part10 4 (by decide) rfl rfl rfl
theorem clk (w : W3) : Statement (.clk w) := of_row rows10 part10 5 (by decide) rfl rfl rfl
theorem coldReset : Statement .coldReset := of_none rfl
theorem perstWarmReset : Statement .perstWarmReset := of_none rfl
theorem functionLevelReset : Statement .functionLevelReset := of_none rfl
theorem timestampTick : Statement .timestampTick := of_none rfl
theorem currentLimiterHold : Statement .currentLimiterHold := of_none rfl
theorem governorStepDown : Statement .governorStepDown := of_none rfl
theorem governorStepUp : Statement .governorStepUp := of_none rfl
theorem functionInitComplete : Statement .functionInitComplete := of_none rfl
theorem trainTimeout : Statement .trainTimeout := of_none rfl
theorem linkDown : Statement .linkDown := of_none rfl
theorem linkRetrainComplete : Statement .linkRetrainComplete := of_none rfl
theorem lateTraining : Statement .lateTraining := of_none rfl
theorem hostMemAccess : Statement .hostMemAccess := of_none rfl
theorem intenWrite : Statement .intenWrite := of_none rfl
theorem intpendClear : Statement .intpendClear := of_none rfl
theorem mscFlush : Statement .mscFlush := of_none rfl
theorem mscResize : Statement .mscResize := of_none rfl
theorem mscFlushComplete : Statement .mscFlushComplete := of_none rfl
theorem mscMissFill : Statement .mscMissFill := of_none rfl
theorem fillLineSnoop : Statement .fillLineSnoop := of_none rfl
theorem fillLineReread : Statement .fillLineReread := of_none rfl
theorem ringEnable : Statement .ringEnable := of_none rfl
theorem ringEnginePublish : Statement .ringEnginePublish := of_none rfl
theorem ringTailPoll : Statement .ringTailPoll := of_none rfl
theorem flitCrcFail : Statement .flitCrcFail := of_none rfl
theorem korbenPacketReceive : Statement .korbenPacketReceive := of_none rfl
theorem topoWrite : Statement .topoWrite := of_none rfl
theorem ownerWrite : Statement .ownerWrite := of_none rfl
theorem keyEvict : Statement .keyEvict := of_none rfl
theorem keyEvictComplete : Statement .keyEvictComplete := of_none rfl
theorem getVersion : Statement .getVersion := of_none rfl
theorem getCapabilities : Statement .getCapabilities := of_none rfl
theorem negotiateAlgorithms : Statement .negotiateAlgorithms := of_none rfl
theorem getDigests : Statement .getDigests := of_none rfl
theorem getCertificate : Statement .getCertificate := of_none rfl
theorem challenge : Statement .challenge := of_none rfl
theorem getMeasurements : Statement .getMeasurements := of_none rfl
theorem keyExchange : Statement .keyExchange := of_none rfl
theorem finish : Statement .finish := of_none rfl
theorem stateRead : Statement .stateRead := of_none rfl
theorem stateWrite : Statement .stateWrite := of_none rfl
theorem logRead : Statement .logRead := of_none rfl
theorem logAck : Statement .logAck := of_none rfl
theorem keyLoad : Statement .keyLoad := of_none rfl
theorem warmReset : Statement .warmReset := of_none rfl
theorem floorRaise : Statement .floorRaise := of_none rfl
theorem graphBind : Statement .graphBind := of_none rfl
theorem graphBindComplete : Statement .graphBindComplete := of_none rfl
theorem graphUnbind : Statement .graphUnbind := of_none rfl
theorem agingInterval : Statement .agingInterval := of_none rfl
theorem instanceDispatch : Statement .instanceDispatch := of_none rfl
theorem teamPlace : Statement .teamPlace := of_none rfl
theorem instanceComplete : Statement .instanceComplete := of_none rfl
theorem pctlEnWrite : Statement .pctlEnWrite := of_none rfl
theorem preempt : Statement .preempt := of_none rfl
theorem resume : Statement .resume := of_none rfl
theorem reset : Statement .reset := of_none rfl
theorem partitionHalted : Statement .partitionHalted := of_none rfl
theorem contextSaveComplete : Statement .contextSaveComplete := of_none rfl
theorem restoreStart : Statement .restoreStart := of_none rfl
theorem contextRestoreComplete : Statement .contextRestoreComplete := of_none rfl
theorem partitionResetComplete : Statement .partitionResetComplete := of_none rfl
theorem faultResolve : Statement .faultResolve := of_none rfl
theorem faultEntryWrite : Statement .faultEntryWrite := of_none rfl
theorem storeBufferDrain : Statement .storeBufferDrain := of_none rfl
theorem teamRelaunch : Statement .teamRelaunch := of_none rfl
theorem runFetch : Statement .runFetch := of_none rfl
theorem formGroup : Statement .formGroup := of_none rfl
theorem parkPartialGroup : Statement .parkPartialGroup := of_none rfl
theorem pageWalk : Statement .pageWalk := of_none rfl
theorem tlbInvalidate : Statement .tlbInvalidate := of_none rfl
theorem tlbInvalidateComplete : Statement .tlbInvalidateComplete := of_none rfl
theorem copyUnitLand : Statement .copyUnitLand := of_none rfl
theorem matrixKStep : Statement .matrixKStep := of_none rfl
theorem collectiveComplete : Statement .collectiveComplete := of_none rfl
theorem stepWrite : Statement .stepWrite := of_none rfl
theorem registerWrite : Statement .registerWrite := of_none rfl
theorem softError : Statement .softError := of_none rfl
theorem resultWrite : Statement .resultWrite := of_none rfl
theorem accessPerformed : Statement .accessPerformed := of_none rfl
theorem cxlCacheSnoop : Statement .cxlCacheSnoop := of_none rfl
theorem configurationSpaceWrite : Statement .configurationSpaceWrite := of_none rfl
theorem dynamicCapacityEvent : Statement .dynamicCapacityEvent := of_none rfl

end Sys2Proof.Laws.OpcodeRow
end

