-- ==== Sys2Proof/Laws/Shapes.lean ====
section
/-! SUPPORT. What the shapes that instructions share can do: each theorem says once what every instruction of its
shape writes and leaves. -/

namespace Sys2Proof.Machine

theorem foldl_max_ge (p : Early → Bool) (h : List Early) (c : Nat) :
    c ≤ h.foldl (fun c e => if p e then Nat.max c e.due else c) c := by
  induction h generalizing c with
  | nil => exact Nat.le_refl c
  | cons e r ih =>
    simp only [List.foldl_cons]
    refine Nat.le_trans ?_ (ih _)
    split
    · exact Nat.le_max_left _ _
    · exact Nat.le_refl _

/-- An instruction issues no earlier than it stands at its turn (R135). -/
theorem namedDue_ge (locs : List Loc) (h : List Early) (clk : Nat) : clk ≤ namedDue locs h clk :=
  foldl_max_ge (fun e => e.named && locs.contains e.loc) h clk

/-- A group's registers are no memory. -/
theorem State.acted_homeByte (s : State) (clk : Nat) (t : Team) (g : Group) (a : Nat) :
    (s.acted clk t g).homeByte a = s.homeByte a := rfl

theorem retire_passed (g : Group) (clk stall words : Nat) : g.Passed (g.retire clk stall words) clk stall words :=
  ⟨rfl, rfl, rfl, rfl, ⟨rfl, rfl⟩, ⟨rfl, rfl, rfl, rfl⟩, rfl⟩

/-- Passing an instruction that has changed only a group's registers. -/
theorem Ctx.finish_acted (c : Ctx) (s : State) (stall words : Nat) :
    c.finish { s with clk := c.clk } stall words = s.acted c.clk c.t (c.g.retire c.clk stall words) := by
  simp [Ctx.finish, State.acted]

theorem laneRun_clear {s : State} {t : Team} {g : Group} {gd : Guard} {m : Mods} {locs : Lane → List Loc}
    (hi : s.issuing t g) (h : (laneCtx s t g gd m locs).operandTrap gd locs = none) (f : State → Ctx → Res) :
    laneRun s gd m locs f = f { s with clk := (laneCtx s t g gd m locs).clk } (laneCtx s t g gd m locs) := by
  have h' := h
  unfold laneCtx at h'
  simp only [laneRun, withGroup, hi, h', laneCtx]

/-- A lane instruction that writes words and sticky bits to lanes does so and no more. -/
theorem laneRun_writes (run : State → Res) (gd : Guard) (m : Mods) (stall lat : Nat) (d : BitVec 6) (n : Nat)
    (locs : Lane → List Loc) (f : Ctx → Lane → List Word × BitVec 7) (sel : Ctx → List Lane) (ok : Ctx → Prop)
    (hn : ∀ c, ∀ ln ∈ sel c, (f c ln).1.length = n) (F : State → Ctx → Res) (hrun : run = fun s => laneRun s gd m locs F)
    (hF : ∀ s c, ok c → F s c = .next ((((sel c).map fun ln => (ln, f c ln)).foldl
      (fun c p => (c.result lat p.1 d p.2.1).stick p.1.wid p.2.2) c).finish s stall m.words)) :
    LaneWrites run gd m stall lat d n locs f sel ok := by
  intro s t g hi c h hok
  obtain ⟨hk, hw⟩ := Ctx.foldLanes_written c lat d n (sel c) (f c) (hn c)
  generalize hc' : ((sel c).map fun ln => (ln, f c ln)).foldl
      (fun c p => (c.result lat p.1 d p.2.1).stick p.1.wid p.2.2) c = c' at hk hw
  refine ⟨c'.t, c'.g.retire c.clk stall m.words, ?_, hw.retire _ _ _, ?_, s.acted_homeByte _ _ _⟩
  · rw [hrun]
    show laneRun s gd m locs F = _
    rw [laneRun_clear hi h, hF _ _ hok]
    show Host.Outcome.next ((((sel c).map fun ln => (ln, f c ln)).foldl
      (fun c p => (c.result lat p.1 d p.2.1).stick p.1.wid p.2.2) c).finish { s with clk := c.clk } stall m.words) = _
    rw [hc', ← hk.clk, Ctx.finish_acted]
  · have hg : c'.g = { g with temps := c'.g.temps, last := c'.g.last, hist := c'.g.hist } := hk.group
    refine ⟨?_, ?_, rfl, rfl, ?_, ?_, ?_⟩ <;> simp only [Group.retire] <;> rw [hg] <;> simp

/-- The plain lane instructions: every executing lane is written. -/
theorem laneInstr_writes (gd : Guard) (m : Mods) (stall lat : Nat) (d : BitVec 6) (n : Nat) (locs : Lane → List Loc)
    (f : Ctx → Lane → List Word × BitVec 7) (hn : ∀ c ln, (f c ln).1.length = n) :
    LaneWrites (fun s => laneInstr s gd m stall locs fun c => c.mapSticky gd lat d (f c)) gd m stall lat d n locs f :=
  laneRun_writes _ gd m stall lat d n locs f _ _ (fun c ln _ => hn c ln) _ rfl fun _ _ _ => rfl

/-! ### Predicates -/

theorem getLsbD_ofNat_pow (n i j : Nat) (hj : j < n) : (BitVec.ofNat n (2 ^ i)).getLsbD j = decide (j = i) := by
  rw [BitVec.getLsbD_ofNat, Nat.testBit_two_pow]
  by_cases h : i = j
  · subst h; simp [hj]
  · simp [hj, h, Ne.symm h]

theorem bitAt_setField_one (w : DWord) (i j : Nat) (b : Bool) (hj : j < 64) :
    bitAt (setField w i 1 (if b then 1 else 0)) j = if j = i then b else bitAt w j := by
  have h1 : (BitVec.ofNat 64 ((2 ^ 1 - 1) * 2 ^ i)).getLsbD j = decide (j = i) := by
    rw [show (2 ^ 1 - 1) * 2 ^ i = 2 ^ i by omega]; exact getLsbD_ofNat_pow _ _ _ hj
  have h2 : (BitVec.ofNat 64 ((if b = true then 1 else 0) % 2 ^ 1 * 2 ^ i)).getLsbD j = (b && decide (j = i)) := by
    cases b
    · simp
    · rw [show (if true = true then 1 else 0) % 2 ^ 1 * 2 ^ i = 2 ^ i by simp]; simpa using getLsbD_ofNat_pow 64 i j hj
  simp only [setField, bitAt, BitVec.getLsbD_or, BitVec.getLsbD_and, BitVec.getLsbD_not, h1, h2, hj, decide_true, Bool.true_and]
  by_cases h : j = i <;> simp [h]

/-- The predicate word after a write of one predicate (R123). -/
theorem Ctx.setP_word (c : Ctx) (lat wid d : Nat) (b : Bool) :
    (∀ i < 64, bitAt ((c.setP lat wid d b).t.predWord wid) i = if i = 0 then true else if i = d then b else bitAt (c.t.predWord wid) i) ∧
    (∀ w, w ≠ wid → (c.setP lat wid d b).t.predWord w = c.t.predWord w) := by
  have h1 : ∀ i < 64, bitAt (1 : DWord) i = decide (i = 0) := fun i hi => getLsbD_ofNat_pow 64 0 i hi
  have hor : ∀ (w : DWord) (i : Nat), i < 64 → bitAt (w ||| 1) i = (bitAt w i || decide (i = 0)) := fun w i hi => by
    rw [← h1 i hi]; simp [bitAt]
  unfold Ctx.setP
  by_cases h : d = 0
  · simp only [h, if_true]
    refine ⟨fun i hi => ?_, fun _ _ => trivial⟩
    by_cases hi0 : i = 0
    · subst hi0; simp only [Team.predWord, hor _ 0 hi]; simp
    · simp [hi0]
  · simp only [h, if_false, Team.predWord]
    refine ⟨fun i hi => ?_, fun w hw => by rw [sget_sset_ne _ _ _ _ _ hw]⟩
    simp only [sget_sset_same, hor _ i hi, bitAt_setField_one _ _ _ _ hi]
    by_cases hi0 : i = 0
    · simp [hi0]
    · by_cases hid : i = d <;> simp [hid, hi0, h]

/-- What one lane's predicate write does. -/
theorem Ctx.setPStick_spec (c : Ctx) (lat wid d : Nat) (b : Bool) (st : BitVec 7) :
    let c' := (c.setP lat wid d b).stick wid st
    c'.t = { c.t with preds := c'.t.preds, sticky := c'.t.sticky } ∧
    c'.g = { c.g with hist := c'.g.hist } ∧ c'.clk = c.clk ∧
    c'.t.sticky = sset 0 c.t.sticky wid (sget 0 c.t.sticky wid ||| st) ∧
    (∀ i < 64, bitAt (c'.t.predWord wid) i = if i = 0 then true else if i = d then b else bitAt (c.t.predWord wid) i) ∧
    (∀ w, w ≠ wid → c'.t.predWord w = c.t.predWord w) ∧
    (∀ l, l ≠ .p wid d → ∀ k x, seenAt k l c'.g.hist x = seenAt k l c.g.hist x) ∧
    (d ≠ 0 → lands c.clk lat c.t c.g c'.g (.p wid d)) := by
  intro c'
  obtain ⟨h1, h2⟩ := Ctx.setP_word c lat wid d b
  have hp : d ≠ 0 → lands c.clk lat c.t c.g c'.g (.p wid d) := fun h0 => by
    refine lands_noteWrite c.t c.g c'.g c.clk lat _ ?_
    simp only [c', Ctx.stick, Ctx.setP, if_neg h0]
    rfl
  refine ⟨?_, ?_, ?_, ?_, h1, h2, fun l hl k x => ?_, hp⟩
  all_goals simp only [c', Ctx.stick, Ctx.setP]
  all_goals split <;> first | rfl | exact seenAt_noteWrite_ne _ _ _ _ _ _ _ _ hl

/-- What the predicate writes of several lanes do. -/
theorem Ctx.foldPred_spec (lat d : Nat) (ls : List (Lane × Bool × BitVec 7)) (c : Ctx) :
    let c' := ls.foldl (fun c p => (c.setP lat p.1.wid d p.2.1).stick p.1.wid p.2.2) c
    c'.t = { c.t with preds := c'.t.preds, sticky := c'.t.sticky } ∧
    c'.g = { c.g with hist := c'.g.hist } ∧ c'.clk = c.clk ∧
    (∀ w, (∀ p ∈ ls, p.1.wid ≠ w) → c'.t.predWord w = c.t.predWord w ∧ sget 0 c'.t.sticky w = sget 0 c.t.sticky w) ∧
    ∀ l, (∀ p ∈ ls, l ≠ .p p.1.wid d) → ∀ k x, seenAt k l c'.g.hist x = seenAt k l c.g.hist x := by
  induction ls generalizing c with
  | nil => exact ⟨rfl, rfl, rfl, fun _ _ => ⟨rfl, rfl⟩, fun _ _ _ _ => rfl⟩
  | cons p r ih =>
    intro c'
    obtain ⟨a1, a2, a3, a4, -, a6, a7, -⟩ := Ctx.setPStick_spec c lat p.1.wid d p.2.1 p.2.2
    obtain ⟨b1, b2, b3, b4, b5⟩ := ih ((c.setP lat p.1.wid d p.2.1).stick p.1.wid p.2.2)
    refine ⟨?_, ?_, b3.trans a3, fun w hw => ?_, fun l hl k x => ?_⟩
    · refine b1.trans ?_; rw [a1]; rfl
    · refine b2.trans ?_; rw [a2]; rfl
    · have h := b4 w fun q hq => hw q (by simp [hq])
      have hp := Ne.symm (hw p (by simp))
      refine ⟨h.1.trans (a6 w hp), h.2.trans ?_⟩
      rw [a4, sget_sset_ne _ _ _ _ _ hp]
    · exact (b5 l (fun q hq => hl q (by simp [hq])) k x).trans (a7 l (hl p (by simp)) k x)

/-- A lane instruction that writes a predicate of its executing lanes does so and no more. -/
theorem laneInstr_sets (gd : Guard) (m : Mods) (stall lat d : Nat) (locs : Lane → List Loc)
    (f : Ctx → Lane → Bool × BitVec 7) :
    LaneSets (fun s => laneInstr s gd m stall locs fun c => c.mapPred gd lat d (f c)) gd m stall lat d locs f := by
  intro s t g hi c h
  obtain ⟨a1, a2, a3, a4, a5⟩ := Ctx.foldPred_spec lat d ((c.exec gd).map fun ln => (ln, f c ln)) c
  refine ⟨(c.mapPred gd lat d (f c)).t, (c.mapPred gd lat d (f c)).g.retire c.clk stall m.words, ?_, ?_, ?_, ?_,
    a1, ?_, ?_, ?_, ?_, ?_, ?_, s.acted_homeByte _ _ _⟩
  · show laneRun s gd m locs _ = _
    rw [laneRun_clear hi h]
    show Host.Outcome.next ((c.mapPred gd lat d (f c)).finish { s with clk := c.clk } stall m.words) = _
    have hclk : (c.mapPred gd lat d (f c)).clk = c.clk := a3
    rw [← hclk, Ctx.finish_acted]
  · intro pre ln post he hd'
    have hpre : ∀ l ∈ pre, l.wid ≠ ln.wid := fun l hl => hd' l (by simp [hl])
    have hpost : ∀ l ∈ post, l.wid ≠ ln.wid := fun l hl => hd' l (by simp [hl])
    let c1 := (pre.map fun ln => (ln, f c ln)).foldl (fun c p => (c.setP lat p.1.wid d p.2.1).stick p.1.wid p.2.2) c
    let c2 := (c1.setP lat ln.wid d (f c ln).1).stick ln.wid (f c ln).2
    have hc' : c.mapPred gd lat d (f c)
        = (post.map fun ln => (ln, f c ln)).foldl (fun c p => (c.setP lat p.1.wid d p.2.1).stick p.1.wid p.2.2) c2 := by
      simp [Ctx.mapPred, he, c1, c2]
    obtain ⟨p1, p2, p3, p4, p5⟩ := Ctx.foldPred_spec lat d (pre.map fun ln => (ln, f c ln)) c
    obtain ⟨-, -, -, q4, q5, -, -, q8⟩ := Ctx.setPStick_spec c1 lat ln.wid d (f c ln).1 (f c ln).2
    obtain ⟨-, -, -, r4, r5⟩ := Ctx.foldPred_spec lat d (post.map fun ln => (ln, f c ln)) c2
    have hp := p4 ln.wid (by simpa using hpre)
    have hr := r4 ln.wid (by simpa using hpost)
    rw [hc']
    refine ⟨fun i hi' => ?_, ?_, fun h0 => ?_⟩
    · rw [hr.1]
      show bitAt (c2.t.predWord ln.wid) i = _
      rw [q5 i hi']
      show (if i = 0 then true else if i = d then _ else bitAt (c1.t.predWord ln.wid) i) = _
      rw [show c1.t.predWord ln.wid = t.predWord ln.wid from hp.1]
    · rw [hr.2]
      show sget 0 c2.t.sticky ln.wid = _
      rw [q4, sget_sset_same]
      show sget 0 c1.t.sticky ln.wid ||| _ = _
      rw [show sget 0 c1.t.sticky ln.wid = sget 0 t.sticky ln.wid from hp.2]
    · have h8 := q8 h0
      rw [show c1.clk = c.clk from p3] at h8
      refine lands_of_same h8 ⟨?_, p5 _ (by simp; exact fun a ha h => hpre a ha h.symm)⟩ (r5 _ (by simp; exact fun a ha h => hpost a ha h.symm))
      show (if bitAt (c1.t.predWord ln.wid) d then (1 : DWord) else 0) = if bitAt (t.predWord ln.wid) d then 1 else 0
      rw [show c1.t.predWord ln.wid = t.predWord ln.wid from hp.1]
  · intro wid hw
    exact a4 wid (by simpa using hw)
  · intro l hl
    exact a5 l (by simpa using hl)
  · have hg : (c.mapPred gd lat d (f c)).g = { g with hist := (c.mapPred gd lat d (f c)).g.hist } := a2
    refine ⟨?_, ?_, rfl, rfl, ?_, ?_, ?_⟩ <;> simp only [Group.retire] <;> rw [hg] <;> simp
  all_goals
    have hg : (c.mapPred gd lat d (f c)).g = { g with hist := (c.mapPred gd lat d (f c)).g.hist } := a2
    simp only [Group.retire]; rw [hg]

/-! ### Uniform instructions -/

theorem uniInstr_clear {s : State} {t : Team} {g : Group} {gd : Guard} {m : Mods} {locs : List Loc} {stall : Nat}
    (hi : s.issuing t g) (h : (uniCtx s t g gd m locs).uniTrap gd locs = none) (f : State → Ctx → Res)
    (point : Option Nat) :
    uniInstr s gd m stall locs f point =
      if (uniCtx s t g gd m locs).groupGuard gd then
        if (uniCtx s t g gd m locs).uniDiffers && point.isSome then
          (uniCtx s t g gd m locs).sdcUni { s with clk := (uniCtx s t g gd m locs).clk } (point.getD 7)
        else f { s with clk := (uniCtx s t g gd m locs).clk } (uniCtx s t g gd m locs)
      else .next ((uniCtx s t g gd m locs).finish { s with clk := (uniCtx s t g gd m locs).clk } stall m.words) := by
  have hfin : (uniCtx s t g gd m locs).finish s stall m.words
      = (uniCtx s t g gd m locs).finish { s with clk := (uniCtx s t g gd m locs).clk } stall m.words := by
    have hge : s.clk ≤ (uniCtx s t g gd m locs).clk := namedDue_ge _ _ _
    have h1 : Nat.max s.clk (uniCtx s t g gd m locs).clk = (uniCtx s t g gd m locs).clk := Nat.max_eq_right hge
    have h2 : Nat.max (uniCtx s t g gd m locs).clk (uniCtx s t g gd m locs).clk = (uniCtx s t g gd m locs).clk := Nat.max_self _
    simp only [Ctx.finish, h1, h2]
  rw [← hfin]
  simp only [uniInstr, withGroup, hi]
  show (match (uniCtx s t g gd m locs).uniTrap gd locs with
    | some tr => trapRes { s with clk := (uniCtx s t g gd m locs).clk } t g tr
    | none => _) = _
  rw [h]
  rfl

/-- A uniform instruction whose guard does not hold passes. -/
theorem uniInstr_passes (gd : Guard) (m : Mods) (stall : Nat) (locs : List Loc) (f : State → Ctx → Res)
    (point : Option Nat := some 7) :
    UniPasses (fun s => uniInstr s gd m stall locs f point) gd m stall locs := by
  intro s t g hi c h hg
  refine ⟨g.retire c.clk stall m.words, ?_, retire_passed _ _ _ _, rfl, rfl, rfl, rfl, rfl, rfl⟩
  show uniInstr s gd m stall locs f point = _
  rw [uniInstr_clear hi h]
  simp only [show (uniCtx s t g gd m locs).groupGuard gd = false from hg, Bool.false_eq_true, if_false]
  exact congrArg Host.Outcome.next (Ctx.finish_acted c s stall m.words)

/-- A uniform instruction that writes an s-register does so and no more. -/
theorem uniWrite_writes (gd : Guard) (m : Mods) (stall lat d : Nat) (locs : List Loc) (f : Ctx → DWord) :
    UniWrites (fun s => uniWrite s gd m stall locs lat d f) gd m stall lat d locs f := by
  refine ⟨uniInstr_passes gd m stall locs _, ?_⟩
  intro s t g hi c h hg hd _
  refine ⟨(c.setS lat d (f c)).g.retire c.clk stall m.words, ?_, fun i => ?_, lands_noteWrite t g _ c.clk lat _ rfl, fun l hl k x => ?_,
    ⟨rfl, rfl, rfl, rfl, ⟨rfl, rfl⟩, ⟨rfl, rfl, rfl, rfl⟩, rfl⟩, rfl, rfl, rfl, rfl, s.acted_homeByte _ _ _⟩
  · show uniInstr s gd m stall locs _ = _
    rw [uniInstr_clear hi h]
    simp only [show (uniCtx s t g gd m locs).groupGuard gd = true from hg, if_true,
      show (uniCtx s t g gd m locs).uniDiffers = false from hd, Bool.false_and, Bool.false_eq_true, if_false]
    exact congrArg Host.Outcome.next (Ctx.finish_acted (c.setS lat d (f c)) s stall m.words)
  · exact sget_sset _ _ _ _ _
  · exact seenAt_noteWrite_ne _ _ _ _ _ _ _ _ hl

/-- A uniform compare writes its group predicate and no more. -/
theorem uniInstr_sets (gd : Guard) (m : Mods) (stall lat d : Nat) (locs : List Loc) (f : Ctx → Bool) :
    UniSets (fun s => uniInstr s gd m stall locs fun s c => .next ((c.setG lat d (f c)).finish s stall m.words))
      gd m stall lat d locs f := by
  refine ⟨uniInstr_passes gd m stall locs _, ?_⟩
  intro s t g hi c h hg hd
  have hclk : (c.setG lat d (f c)).clk = c.clk := by unfold Ctx.setG; split <;> rfl
  have ht : (c.setG lat d (f c)).t = t := by unfold Ctx.setG; split <;> rfl
  have hgr : (c.setG lat d (f c)).g = { g with gpred := (c.setG lat d (f c)).g.gpred, hist := (c.setG lat d (f c)).g.hist } := by
    unfold Ctx.setG; split <;> rfl
  refine ⟨(c.setG lat d (f c)).g.retire c.clk stall m.words, ?_, fun i hi8 => ?_, fun h0 => ?_, fun l hl k x => ?_, ?_, ?_, ?_, ?_, ?_,
    s.acted_homeByte _ _ _⟩
  · show uniInstr s gd m stall locs _ = _
    rw [uniInstr_clear hi h]
    simp only [show (uniCtx s t g gd m locs).groupGuard gd = true from hg, if_true,
      show (uniCtx s t g gd m locs).uniDiffers = false from hd, Bool.false_and, Bool.false_eq_true, if_false]
    rw [show (uniCtx s t g gd m locs) = c from rfl, ← hclk, Ctx.finish_acted, ht]
  · show bitAt (c.setG lat d (f c)).g.gpred i = _
    unfold Ctx.setG
    by_cases h0 : d = 0
    · simp only [h0, if_true]
      by_cases hi0 : i = 0
      · subst hi0; rfl
      · simp only [hi0, if_false]; rfl
    · simp only [h0, if_false]
      have hb : ∀ j < 8, (BitVec.ofNat 8 (2 ^ d)).getLsbD j = decide (j = d) := getLsbD_ofNat_pow 8 d
      have hif : (if f c then BitVec.ofNat 8 (2 ^ d) else 0).getLsbD i = (f c && decide (i = d)) := by
        cases f c
        · simp
        · simpa using hb i hi8
      simp only [bitAt, BitVec.getLsbD_or, BitVec.getLsbD_and, BitVec.getLsbD_not, hb i hi8, hif, hi8, decide_true, Bool.true_and]
      have hcg : c.g.gpred = g.gpred := rfl
      rw [hcg]
      by_cases hi0 : i = 0
      · subst hi0; simp [Ne.symm h0]
      · by_cases hid : i = d <;> simp [hi0, hid, h0]
  · refine lands_noteWrite t g _ c.clk lat _ ?_
    show (c.setG lat d (f c)).g.hist = _
    simp only [Ctx.setG, if_neg h0]
    rfl
  · show seenAt k l (c.setG lat d (f c)).g.hist x = _
    unfold Ctx.setG
    split
    · rfl
    · exact seenAt_noteWrite_ne _ _ _ _ _ _ _ _ hl
  · refine ⟨?_, ?_, rfl, rfl, ?_, ?_, ?_⟩ <;> simp only [Group.retire] <;> rw [hgr] <;> simp
  all_goals simp only [Group.retire]; rw [hgr]

/-! ### Families -/

/-- A run that is another everywhere writes what that one does. -/
theorem LaneWrites.of_run {run run' : State → Res} {gd : Guard} {m : Mods} {stall lat : Nat} {d : BitVec 6} {n : Nat}
    {locs : Lane → List Loc} {f : Ctx → Lane → List Word × BitVec 7} {sel : Ctx → List Lane} {ok : Ctx → Prop}
    (h : LaneWrites run gd m stall lat d n locs f sel ok) (hr : ∀ s, run' s = run s) :
    LaneWrites run' gd m stall lat d n locs f sel ok := (funext hr : run' = run) ▸ h

/-- An instruction whose meaning is the three-operand shape belongs to its family. -/
theorem lane3_of (mk : W3 → Instr) (lat : Nat) (f : Mods → Word → Word → Word → Word × BitVec 7)
    (hx : ∀ w s, exec (mk w) s = lane3 s w lat 0 (f w.m)) : Lane3 mk lat f := fun w =>
  (laneInstr_writes (guard3 w) w.m w.s.toNat lat w.d 1 (w3Locs w 1 1 1)
    (fun c ln => let r := f w.m (c.l32 ln w.a) (c.b32 ln w) (c.c32 ln w.m 0); ([r.1], r.2)) (fun _ _ => rfl)).of_run (hx w)

/-- An instruction whose meaning is the shape of an immediate belongs to its family. -/
theorem laneI_of (mk : WI → Instr) (lat : Nat) (f : Mods → Word → Word → Word × BitVec 7)
    (hx : ∀ w s, exec (mk w) s = laneI s w lat (f w.m)) : LaneImm mk lat f := fun w =>
  (laneInstr_writes (guardX w.m) w.m w.s.toNat lat w.d 1 (fun ln => laneLocs ln w.a 1)
    (fun c ln => let r := f w.m (c.l32 ln w.a) (imm32 w.imm); ([r.1], r.2)) (fun _ _ => rfl)).of_run (hx w)

/-- A uniform instruction of the shape that writes an s-register belongs to its family. -/
theorem uni3_of (mk : W3 → Instr) (f : DWord → DWord → DWord → DWord)
    (hx : ∀ w s, exec (mk w) s = uni3 s w f) : Uni3 mk f := fun w => by
  rw [show exec (mk w) = fun s => uni3 s w f from funext (hx w)]
  exact uniWrite_writes _ _ _ _ _ _ _

/-- What `post` says of a uniform instruction is what its body does where its guard holds, no operand traps and its two
executions agree. -/
theorem uniInstr_runs {gd : Guard} {m : Mods} {stall : Nat} {locs : List Loc} {f : State → Ctx → Res} {point : Option Nat}
    {post : State → Team → Group → Ctx → Res → Prop}
    (h : ∀ s t g, s.issuing t g → (uniCtx s t g gd m locs).uniDiffers = false →
      post { s with clk := (uniCtx s t g gd m locs).clk } t g (uniCtx s t g gd m locs)
        (f { s with clk := (uniCtx s t g gd m locs).clk } (uniCtx s t g gd m locs))) :
    UniRuns (fun s => uniInstr s gd m stall locs f point) gd m stall locs post := by
  refine ⟨uniInstr_passes gd m stall locs f point, ?_⟩
  intro s t g hi c hn hg hd
  show post _ t g c (uniInstr s gd m stall locs f point)
  rw [uniInstr_clear hi hn, if_pos (show (uniCtx s t g gd m locs).groupGuard gd = true from hg),
    show (uniCtx s t g gd m locs).uniDiffers = false from hd]
  exact h s t g hi hd

end Sys2Proof.Machine
end

