-- ==== Sys2Proof/Laws/Teams.lean ====
section
/-! SUPPORT. Teams and groups in their places, and what taking a trap comes to. -/

namespace Sys2Proof.Machine

/-! ### Places -/

/-- A found team stands at the place that was asked for. -/
theorem team?_place {s : State} {core slot : Nat} {t : Team} (h : s.team? core slot = some t) :
    t ∈ s.teams ∧ t.core = core ∧ t.slot = slot := by
  have hm := List.mem_of_find?_eq_some h
  have hp := List.find?_some h
  simp only [Bool.and_eq_true, decide_eq_true_eq] at hp
  exact ⟨hm, hp⟩

/-- A found group has the number that was asked for. -/
theorem group?_num {t : Team} {num : Nat} {g : Group} (h : t.group? num = some g) : g ∈ t.groups ∧ g.num = num := by
  have hm := List.mem_of_find?_eq_some h
  have hp := List.find?_some h
  exact ⟨hm, by simpa using hp⟩

theorem find?_put {α : Type} (l : List α) (p : α → Bool) (q : α → Prop) [DecidablePred q] (x : α) (hq : ∀ a, q a ↔ p a = true)
    (hx : p x = true) (h : ∃ a ∈ l, p a = true) : (l.map fun a => if q a then x else a).find? p = some x := by
  induction l with
  | nil => simp at h
  | cons a r ih =>
    by_cases ha : p a = true
    · have : q a := (hq a).2 ha
      simp [this, hx]
    · have hn : ¬ q a := fun hc => ha ((hq a).1 hc)
      simp only [List.map_cons, if_neg hn]
      rw [List.find?_cons_of_neg (by simpa using ha)]
      refine ih ?_
      obtain ⟨b, hb, hpb⟩ := h
      rcases List.mem_cons.1 hb with rfl | hb
      · exact absurd hpb ha
      · exact ⟨b, hb, hpb⟩

/-- A team that is put back is the one that its place then gives. -/
theorem team?_putTeam {s : State} {t u : Team} (h : s.team? t.core t.slot = some u) : (s.putTeam t).team? t.core t.slot = some t := by
  obtain ⟨hm, hc, hs⟩ := team?_place h
  refine find?_put s.teams (fun v => decide (v.core = t.core) && decide (v.slot = t.slot)) (fun v => v.core = t.core ∧ v.slot = t.slot) t
    (fun a => by simp) (by simp) ⟨u, hm, by simp [hc, hs]⟩

/-- A group that is put back is the one that its number then gives. -/
theorem group?_putGroup {t : Team} {g u : Group} (h : t.group? g.num = some u) : (t.putGroup g).group? g.num = some g := by
  obtain ⟨hm, hn⟩ := group?_num h
  exact find?_put t.groups (fun v => decide (v.num = g.num)) (fun v => v.num = g.num) g (fun a => by simp) (by simp)
    ⟨u, hm, by simp [hn]⟩

/-- The issuing group's place. -/
theorem issuing_place {s : State} {t : Team} {g : Group} (h : s.issuing t g) :
    ∃ p, s.cur = some p ∧ s.team? p.core p.slot = some t ∧ t.group? p.num = some g := by
  unfold State.issuing State.curGroup? at h
  split at h
  · cases h
  · next p hp =>
    split at h
    · cases h
    · next t' ht =>
      cases hg : t'.group? p.num with
      | none => rw [hg] at h; cases h
      | some g' =>
        rw [hg] at h
        simp only [Option.map_some, Option.some.injEq, Prod.mk.injEq] at h
        obtain ⟨rfl, rfl⟩ := h
        exact ⟨p, hp, ht, hg⟩

/-- After the issuing group and its team are put back, they are the ones that issue. -/
theorem issuing_put {s : State} {t t' : Team} {g g' : Group} (h : s.issuing t g) (hc : t'.core = t.core) (hs : t'.slot = t.slot)
    (hg : t'.groups = t.groups) (hn : g'.num = g.num) : (s.put t' g').issuing (t'.putGroup g') g' := by
  obtain ⟨p, hp, ht, hgr⟩ := issuing_place h
  obtain ⟨-, hpc, hps⟩ := team?_place ht
  obtain ⟨-, hpn⟩ := group?_num hgr
  have h1 : (s.putTeam (t'.putGroup g')).team? (t'.putGroup g').core (t'.putGroup g').slot = some (t'.putGroup g') := by
    refine team?_putTeam (u := t) ?_
    show s.team? t'.core t'.slot = some t
    rw [hc, hs, hpc, hps]; exact ht
  have h2 : (t'.putGroup g').group? g'.num = some g' := by
    refine group?_putGroup (u := g) ?_
    show t'.groups.find? _ = some g
    rw [hg, hn, hpn]; exact hgr
  unfold State.issuing State.curGroup?
  rw [show (s.put t' g').cur = some p from hp]
  have e1 : (t'.putGroup g').core = p.core := hc.trans hpc
  have e2 : (t'.putGroup g').slot = p.slot := hs.trans hps
  have e3 : g'.num = p.num := hn.trans hpn
  simp only [State.put]
  rw [← e1, ← e2, h1]
  simp only
  rw [← e3, h2]
  rfl

/-! ### Taking a trap -/

/-- Whether a trap relaunches its team (R116). -/
abbrev relaunches (t : Team) (tr : Trap) : Prop :=
  causeClass tr.cause = 2 ∧ startsRelaunch tr.cause = true ∧ t.launch.contain = true ∧ t.restartable = true

/-- What a class 2 trap or another gives as its detail. -/
def trapDetail (t : Team) (g : Group) (tr : Trap) : DWord :=
  if causeClass tr.cause = 2 then class2Detail t g tr true 0xFFFFFFFF else tr.detail

/-- Everything that taking a trap can come to: a relaunch; the end of the instance, in the handler or without one; or the
handler, with a log entry or without. -/
theorem takeTrap_cases (s : State) (t : Team) (g : Group) (tr : Trap) :
    (relaunches t tr ∧ s.takeTrap t g tr = s.startRelaunch t g tr) ∨
    (¬ relaunches t tr ∧ (g.inHandler = true ∨ t.launch.handler = 0) ∧
      s.takeTrap t g tr = ((s.put t g).addLog (s.trapEntry t g tr
        (if g.inHandler then outerDetail g (trapDetail t g tr) else trapDetail t g tr) g.pc)).failInstance t.inst 0x0D 0 0) ∨
    (¬ relaunches t tr ∧ g.inHandler = false ∧ t.launch.handler ≠ 0 ∧ ∃ s1 : State,
      (s1 = s ∨ s1 = s.addLog (s.trapEntry t g tr (trapDetail t g tr) g.pc)) ∧
      s.takeTrap t g tr = State.put { s1 with free := if (g.lowestOf tr.mask).isSome then s1.free else s1.free + 1 } t
        (g.enterHandler t s.clk s1.free tr (trapDetail t g tr))) := by
  by_cases hr : relaunches t tr
  · left; exact ⟨hr, by unfold State.takeTrap; exact if_pos hr⟩
  · right
    unfold State.takeTrap
    simp only [if_neg hr]
    by_cases hh : g.inHandler = true
    · left; exact ⟨hr, Or.inl hh, by simp only [hh, if_true]; rfl⟩
    · have hh' : g.inHandler = false := by simpa using hh
      by_cases h0 : t.launch.handler = 0
      · left; exact ⟨hr, Or.inr h0, by simp only [hh', Bool.false_eq_true, if_false, if_pos h0]; rfl⟩
      · right
        refine ⟨hr, hh', h0, ?_⟩
        simp only [hh', Bool.false_eq_true, if_false, if_neg h0]
        exact ⟨_, (ite_eq_or_eq _ _ _).symm, rfl⟩

/-- A handled trap changes neither memory. -/
theorem takeTrap_memory (s : State) (t : Team) (g : Group) (tr : Trap) (hr : ¬ relaunches t tr) (hh : g.inHandler = false)
    (h0 : t.launch.handler ≠ 0) : (s.takeTrap t g tr).mem = s.mem ∧ (s.takeTrap t g tr).pool = s.pool := by
  rcases takeTrap_cases s t g tr with ⟨h, -⟩ | ⟨-, h, -⟩ | ⟨-, -, -, s1, h1, h⟩
  · exact absurd h hr
  · rcases h with h | h
    · rw [hh] at h; cases h
    · exact absurd h h0
  · rw [h]
    rcases h1 with rfl | rfl
    · exact ⟨rfl, rfl⟩
    · exact addLog_memory _ _

/-- The group that enters its handler (R104): where it goes on, and the registers that hold the record. -/
theorem enterHandler_spec (g : Group) (t : Team) (clk free : Nat) (tr : Trap) (detail : DWord) :
    let h := g.enterHandler t clk free tr detail
    h.pc = t.launch.handler ∧ h.inHandler = true ∧ h.lanes = g.lanes ∧ h.num = g.num ∧ h.core = g.core ∧ h.gpred = g.gpred ∧
    h.wait = .none ∧ h.issued = 0 ∧ h.buf = [] ∧ (∀ i, i < 56 ∨ 61 < i → sget 0 h.sregs i = sget 0 g.sregs i) ∧
    sget 0 h.sregs 57 = g.pc ∧ sget 0 h.sregs 58 = tr.mask ∧ sget 0 h.sregs 59 = tr.addr ∧ sget 0 h.sregs 60 = detail ∧
    sget 0 h.sregs 61 = (if tr.completed then tr.next else g.pc) := by
  refine ⟨rfl, rfl, rfl, rfl, rfl, rfl, rfl, rfl, rfl, fun i hi => ?_, ?_, ?_, ?_, ?_, ?_⟩
  · exact sget_ssetList_out _ _ _ _ _ (by simp; omega)
  all_goals
    show sget 0 (ssetList 0 g.sregs 56 _) _ = _
    first
      | exact sget_ssetList_in _ _ _ 56 1 (by simp)
      | exact sget_ssetList_in _ _ _ 56 2 (by simp)
      | exact sget_ssetList_in _ _ _ 56 3 (by simp)
      | exact sget_ssetList_in _ _ _ 56 4 (by simp)
      | exact sget_ssetList_in _ _ _ 56 5 (by simp)

end Sys2Proof.Machine
end

