-- ==== Sys2Proof/Tests/Slice0.lean ====
section
/-! SUPPORT. The model's own tests: terms that are not well formed, words of the spec's worked encodings, single
instructions of its worked examples, and a state and operands that meet the hypotheses of every obligation. -/

namespace Sys2Proof.Tests

-- The theorems of this file are elaborated one after another, which bounds the threads and so the memory.
set_option Elab.async false

open Sys2Proof.Machine

/-! ### Well-formed instructions -/

/-- A lane word without prefixes. -/
def w3 (d a b f s : Nat) (m : Mods := {}) : W3 :=
  { d := BitVec.ofNat 6 d, a := BitVec.ofNat 6 a, b := BitVec.ofNat 6 b, f := BitVec.ofNat 3 f, s := BitVec.ofNat 3 s, m := m }

/-- An engine word without prefixes. -/
def we (d a b sub : Nat) (m : Mods := {}) : WE :=
  { d := BitVec.ofNat 6 d, a := BitVec.ofNat 6 a, b := BitVec.ofNat 6 b, sub := BitVec.ofNat 6 sub, m := m }

/-- The prefixes of a literal word. -/
def lit (v : Word) : Mods := { lit := some v }

/-- A MODA without a field set, a MODX and a MODM in the forms of the spec's examples. -/
def plainA : ModA :=
  { na := false, nb := false, nc := false, aa := false, ab := false, sat := false, clamp := 0, scale := 0, rnd := 0 }
def plainX : ModX := { hc := false, c := 0, hg := false, gn := false, gs := false, gi := 0, ub := false }
def plainM : ModM := { w := 4, scope := 0, ord := 0, hint := 0, aop := 0, disp := 0 }

/-- R187, R189, R190: operand codes that a window, a destination or a multiword operand does not letIssue. -/
theorem test_wf_operands : WellFormed 16 (.iaddI32 (w3 15 1 2 0 0)) ∧ ¬ WellFormed 16 (.iaddI32 (w3 16 1 2 0 0)) ∧
    ¬ WellFormed 16 (.iaddI32 (w3 3 61 2 0 0)) ∧ ¬ WellFormed 16 (.iaddI32 (w3 58 1 2 0 0)) ∧
    ¬ WellFormed 16 (.daddF64 (w3 3 4 6 0 0)) ∧ ¬ WellFormed 16 (.rndp (w3 8 6 20 0 0)) ∧
    ¬ WellFormed 16 (.sadd (w3 15 20 21 0 0)) ∧ ¬ WellFormed 16 (.shard (w3 3 4 0 0 0)) := by decide

/-- R191: a literal word stands exactly where a field names it. -/
theorem test_wf_literal : WellFormed 16 (.iaddI32 (w3 3 1 63 0 0 (lit 5))) ∧ ¬ WellFormed 16 (.iaddI32 (w3 3 1 63 0 0)) ∧
    ¬ WellFormed 16 (.iaddI32 (w3 3 1 2 0 0 (lit 5))) := by decide

/-- R195 to R198, R228, R264: prefixes that an instruction does not take, and values that a prefix does not. -/
theorem test_wf_prefixes : ¬ WellFormed 16 (.iaddI32 (w3 3 1 2 0 0 { a := some { plainA with rnd := 1 } })) ∧
    ¬ WellFormed 16 (.faddF32 (w3 3 1 2 0 0 { a := some { plainA with rnd := 6 } })) ∧
    ¬ WellFormed 16 (.iaddI32 (w3 3 1 2 0 0 { x := some { plainX with hc := true, c := 4 } })) ∧
    ¬ WellFormed 16 (.iaddI32 (w3 3 1 2 3 0 { x := some { plainX with hg := true, gi := 4 } })) ∧
    ¬ WellFormed 16 (.sadd (w3 20 20 21 0 0 { x := some { plainX with ub := true } })) ∧
    ¬ WellFormed 16 (.iaddI32 (w3 3 1 2 0 0 { m := some plainM })) ∧
    ¬ WellFormed 16 (.ld (w3 3 1 2 0 0 { m := some { plainM with w := 7 } })) ∧
    ¬ WellFormed 16 (.ld (w3 3 1 2 0 0 { m := some { plainM with ord := 2, scope := 1 } })) ∧
    ¬ WellFormed 16 (.ld (w3 3 1 2 0 0 { m := some { plainM with ord := 1 } })) := by decide

/-- R193, R199, R206, R222, R244, R246, R316, R408: fields with values that their instruction does not letIssue, and an
instruction under another's sub bits. -/
theorem test_wf_fields : ¬ WellFormed 16 (.brg { n := false, pred := 10, off := 4 }) ∧
    ¬ WellFormed 16 (.bra { n := true, pred := 0, off := 4 }) ∧ ¬ WellFormed 16 (.endRun { z := 1, n0 := 4, n1 := 0x7F, n2 := 0x7F }) ∧
    ¬ WellFormed 16 (.endRun { z := 0, n0 := 16, n1 := 0x7F, n2 := 0x7F }) ∧ ¬ WellFormed 16 (.qpopTake (we 30 20 57 7)) ∧
    ¬ WellFormed 16 (.qpeek (we 30 57 57 56)) ∧ ¬ WellFormed 16 (.cvt (w3 2 7 0x24 0 0)) ∧ ¬ WellFormed 16 (.pmovw (w3 4 57 2 0 0)) ∧
    ¬ WellFormed 16 (.ald (we 20 29 57 3)) ∧ ¬ WellFormed 16 (.trap { d := 57, a := 57, imm := 0x1FF, s := 0 }) ∧
    ¬ WellFormed 16 (.icmpI32 { d := 4, a := 1, b := 2, cond := 6, s := 0 }) ∧
    WellFormed 16 (.tkbindVer (we 31 22 23 0)) ∧ ¬ WellFormed 16 (.tkbindVer (we 31 22 23 1)) := by decide

/-! ### Words of the worked encodings -/

/-- Words that decode to an instruction, all of them taken. -/
abbrev Reads (ws : List Word) (i : Instr) : Prop := decode 48 ws = .instr i ws.length

/-- Framing and formats (the worked encodings of chapter 11, R187 to R199). -/
theorem test_words_formats : Reads [0x3010109B] (.faddF32 (w3 4 1 2 3 3)) ∧
    Reads [0x23082008] (.iaddI32Li { d := 2, a := 2, imm := 1, s := 0 }) ∧ Reads [0x23145FF8] (.iaddI32Li { d := 5, a := 5, imm := 0x1FF, s := 0 }) ∧
    Reads [0x7D93A800, 0x061C1FC3, 0x000186A0]
      (.imadI32 (w3 7 1 63 0 3 { x := some { plainX with hc := true, c := 9, hg := true, gn := true, gi := 40 }, lit := some 100000 })) ∧
    Reads [0xA105FFFB] (.br { n := false, pred := 2, off := 0x1FFFB }) ∧ Reads [0xA7012A7F] (.endRun { z := 0, n0 := 4, n1 := 0x54, n2 := 0x7F }) ∧
    decode 48 [0x000186A0] = .illegal 7 ∧ decode 48 [0x7D93A808, 0x061C1FC3, 0x000186A0] = .illegal 2 := by decide

/-- Control (the worked encodings of chapter 12). -/
theorem test_words_control : Reads [0xA001FFFD] (.bra { n := false, pred := 0, off := 0x1FFFD }) ∧
    Reads [0xA18A0008] (.br { n := true, pred := 5, off := 8 }) ∧ Reads [0xA2040004] (.brg { n := false, pred := 2, off := 4 }) ∧
    Reads [0x6FE46E40] (.jmpi (w3 57 6 57 0 0)) ∧ Reads [0x72E79E48] (.fend (w3 57 57 57 1 0)) ∧ Reads [0xA5515580] (.rjoin (w3 20 21 22 0 0)) ∧
    Reads [0xA8E7FE40, 8] (.segset (w3 57 63 57 0 0 (lit 8))) ∧ Reads [0xAD2B9E41] (.barSync (we 10 57 57 1)) ∧
    Reads [0xAF7BFE40, 1] (.qpopTake (we 30 63 57 0 (lit 1))) ∧ decode 48 [0xA2140004] = .illegal 2 ∧ decode 48 [0x6FE46000] = .illegal 7 := by decide

/-- Lane and uniform arithmetic (the worked encodings of chapter 13). -/
theorem test_words_arithmetic : Reads [0x1E0C10A0] (.sel (w3 3 1 2 4 0)) ∧
    Reads [0x7C040000, 0x010C3140] (.iaddI32 (w3 3 3 5 0 0 { a := some { plainA with sat := true } })) ∧
    Reads [0x7C88F500, 0x32181080] (.fmulF32 (w3 6 1 2 0 0 { a := some { plainA with na := true, ab := true, scale := 0x3D, rnd := 2 } })) ∧
    Reads [0x21244150] (.icmpN32 { d := 9, a := 4, b := 5, cond := 2, s := 0 }) ∧ Reads [0x080C1080] (.idivI32 (w3 3 1 2 0 0)) ∧
    Reads [0x4C087800] (.cvt (w3 2 7 0x20 0 0)) ∧ Reads [0x4D204500] (.rndp (w3 8 4 20 0 0)) ∧
    Reads [0x8F794550] (.ssel (w3 30 20 21 2 0)) ∧ Reads [0x910D0450] (.scmpN64 { d := 3, a := 16, b := 17, cond := 2, s := 0 }) := by decide

/-- Collectives (the worked encodings of chapter 14). -/
theorem test_words_collectives : Reads [0x9D439FF8] (.smovYi { d := 16, a := 57, imm := 0x1FF, s := 0 }) ∧
    Reads [0x7DFE0000, 0x560C2408, 1] (.shfl (w3 3 2 16 1 0 { x := some { plainX with hc := true, c := 63 }, lit := some 1 })) ∧
    Reads [0x5B184400] (.scanx (w3 6 4 16 0 0)) ∧ Reads [0x59284400] (.redx (w3 10 4 16 0 0)) ∧ Reads [0x58206400] (.matchx (w3 8 6 16 0 0)) ∧
    Reads [0x57304FD0, 0xFFFFFFFF] (.vote (w3 12 4 63 2 0 (lit 0xFFFFFFFF))) ∧ Reads [0x5D1F9400] (.elect (w3 7 57 16 0 0)) ∧
    decode 48 [0x58206410] = .illegal 2 := by decide

/-- Loads, stores and atomics (the worked encodings of chapter 15). -/
theorem test_words_memory : Reads [0x7E200000, 0x7D000080, 0x61081100]
      (.ld (w3 2 1 4 0 0 { x := some { plainX with ub := true }, m := some { plainM with w := 1 } })) ∧
    Reads [0x7D000080, 0x622B9150] (.st (w3 10 57 5 2 0 { x := some { plainX with ub := true } })) ∧
    Reads [0x7E920000, 0x7D000080, 0x610B9140]
      (.ld (w3 2 57 5 0 0 { x := some { plainX with ub := true }, m := some { plainM with scope := 2, ord := 1 } })) ∧
    Reads [0x7E800010, 0x611B9100] (.ld (w3 6 57 4 0 0 { m := some { plainM with disp := 16 } })) ∧
    Reads [0x7EA00000, 0x7D900080, 0x65102180]
      (.atom (w3 4 2 6 0 0 { x := some { plainX with hc := true, c := 8, ub := true }, m := some { plainM with w := 5 } })) ∧
    Reads [0x6AE79E40] (.fenceD (w3 57 57 57 0 0)) ∧
    Reads [0x7EA00000, 0x7D8C0080, 0x6C0C2100]
      (.lcpy (w3 3 2 4 0 0 { x := some { plainX with hc := true, c := 6, ub := true }, m := some { plainM with w := 5 } })) := by decide

/-- Copies, the Hamper and the narrow formats (the worked encodings of chapters 16 and 17). -/
theorem test_words_copies : Reads [0xB4E50E43] (.bcpy (we 57 16 57 3)) ∧ Reads [0xB5E58E41] (.gath (we 57 24 57 1)) ∧
    Reads [0xB6E50E44] (.layx (we 57 16 57 4)) ∧ Reads [0xB7539E53] (.wmrd (we 20 57 57 0x13)) ∧ Reads [0xB8E79E42] (.wmwait (we 57 57 57 2)) ∧
    Reads [0xB9E79E43] (.cpycan (we 57 57 57 3)) ∧ Reads [0xBA794540] (.pin (we 30 20 21 0)) ∧ Reads [0xBBE5FE40] (.unpin (we 57 31 57 0)) ∧
    Reads [0xBCE58E43] (.hres (we 57 24 57 3)) ∧ Reads [0xBDE79E43] (.hrel (we 57 57 57 3)) ∧ Reads [0xBE53FE43, 2] (.hstat (we 20 63 57 3 (lit 2))) := by
  decide

theorem test_words_narrow : Reads [0x5E144FC0, 0x40C00000] (.qscale (w3 5 4 63 0 0 (lit 0x40C00000))) ∧
    Reads [0x60185E70] (.cvtnExp (w3 6 5 57 6 0)) ∧
    Reads [0x7D900000, 0x5F2041A0] (.cvtnPack (w3 8 4 6 4 0 { x := some { plainX with hc := true, c := 8 } })) ∧
    decode 48 [0x5F2041B0] = .illegal 2 := by decide

/-- Tiles, products and pairs (the worked encodings of chapters 18 to 20). -/
theorem test_words_tiles : Reads [0xC0FFF040, 0] (.mma (we 63 63 1 0 (lit 0))) ∧ Reads [0xC1FFF040, 0] (.mmak (we 63 63 1 0 (lit 0))) ∧
    Reads [0xC05158E2] (.mma (we 20 21 0x23 0x22)) ∧ Reads [0xC2FF9E40, 0] (.aclr (we 63 57 57 0 (lit 0))) ∧
    Reads [0xC3FDDE40, 0] (.ald (we 63 29 57 0 (lit 0))) ∧ Reads [0xC4FDDE40, 0] (.ast (we 63 29 57 0 (lit 0))) ∧
    Reads [0xC57BF700, 0] (.achk (we 30 63 28 0 (lit 0))) ∧ Reads [0xCAFD4E40, 1] (.maskp (we 63 20 57 0 (lit 1))) ∧
    Reads [0xCBFD5040, 0] (.mmam (we 63 21 1 0 (lit 0))) := by decide

theorem test_words_pairs : Reads [0xC67B9E40] (.pair (we 30 57 57 0)) ∧ Reads [0xC67B9E48] (.pair (we 30 57 57 8)) ∧
    Reads [0xC8FDD081, 1] (.mmap (we 63 29 2 1 (lit 1))) ∧ Reads [0xC9FDB700, 0] (.guide (we 63 27 28 0 (lit 0))) ∧
    Reads [0xC7E79E40] (.unpair (we 57 57 57 0)) ∧ decode 48 [0xC67B9E50] = .illegal 2 := by decide

/-- Rings, tickets, the optimizer and collectives (the worked encodings of chapters 20 to 23). -/
theorem test_words_tickets : Reads [0xCC798642] (.tokpub (we 30 24 25 2)) ∧ Reads [0xD0790E40] (.tkissue (we 30 16 57 0)) ∧
    Reads [0xD17DEFC0, 0] (.tkstat (we 31 30 63 0 (lit 0))) ∧ Reads [0xD27DEE40] (.tkdrop (we 31 30 57 0)) ∧
    Reads [0xD3A1EE40] (.tkfeed (we 40 30 57 0)) ∧ Reads [0xD4794542] (.tkredeem (we 30 20 21 2)) ∧
    Reads [0xD57D65C0] (.tkbindVer (we 31 22 23 0)) ∧ Reads [0xD57D1FC1, 16] (.tkbindOut (we 31 17 63 1 (lit 16))) := by decide

theorem test_words_training : Reads [0x6D208500] (.optaw (w3 8 8 20 0 0)) ∧ Reads [0x6E0C4E40] (.shard (w3 3 4 57 0 0)) ∧
    Reads [0xD6E58E40] (.wpst (we 57 24 57 0)) ∧ Reads [0xD7798E41] (.coll (we 30 24 57 1)) ∧ Reads [0xD8798E40] (.publish (we 30 24 57 0)) ∧
    Reads [0xD8798E41] (.publishSkip (we 30 24 57 1)) ∧ Reads [0xD953FE40, 0] (.steprd (w3 20 63 57 0 0 (lit 0))) := by decide

/-- System instructions (the worked encodings of chapter 24). -/
theorem test_words_system : Reads [0xE0E79028] (.trap { d := 57, a := 57, imm := 5, s := 0 }) ∧
    Reads [0xE7E79000] (.bkpt { d := 57, a := 57, imm := 0, s := 0 }) ∧ Reads [0xE1E79E40] (.eret (w3 57 57 57 0 0)) ∧
    Reads [0xE5E79E40] (.commit (w3 57 57 57 0 0)) ∧ Reads [0xE6E79E40] (.texit (w3 57 57 57 0 0)) ∧ Reads [0xE2515E40] (.srd (w3 20 21 57 0 0)) ∧
    Reads [0xE3E55580] (.swr (w3 57 21 22 0 0)) ∧ Reads [0xE4E54540] (.icinv (w3 57 20 21 0 0)) ∧
    Reads [0xE853FE40, 0] (.clk (w3 20 63 57 0 0 (lit 0))) := by decide

/-! ### A small machine -/

/-- A launch of one team of eight fibres under the widest window, with a little of every resource. -/
def launch0 : Launch := { entry := 0x400, handler := 0x800, fpt := 8, window := 48, scratch := 2, acc := 4, hamper := 2 }

/-- Its group, and its team on core 0 with some fields changed. -/
def group0 : Group := { num := 0, core := 0, pc := 0x400, lanes := (List.range 8).map some, formed := 0xFF }
def team0 : Team :=
  { core := 0, slot := 0, part := 0, inst := 7, index := 0, launch := launch0, groups := [group0], live := List.range 8, cores := [0] }

/-- A group with values in its s-registers, and the team of one group. -/
def grp (s : Sparse DWord) : Group := { group0 with sregs := s }
def of (g : Group) (t : Team := team0) : Team := { t with groups := [g] }

/-- The device with one running partition and its instance, and with a team whose group 0 issues. -/
def world : State :=
  { State.reset.installRegs.setReg 0x000 0xFFFFFFFFFFF with
    cur := some { core := 0, slot := 0, num := 0 }, clk := 100
    insts := [{ id := 7, part := 0, index := 0, launch := launch0, placed := 1 }]
    tlb := [{ core := some 0, die := 0, part := 0, vpn := 0, bits := 16, ver := none, leaf := 0xC000000000000300 }] }
def on (t : Team) (s : State := world) : State := { s with teams := [t] }

/-- What the claims about lane instructions and about uniform ones ask of a state. -/
abbrev LaneReady (s : State) (t : Team) (g : Group) (gd : Guard) (m : Mods) (locs : Lane → List Loc) : Prop :=
  s.issuing t g ∧ (laneCtx s t g gd m locs).operandTrap gd locs = none
abbrev UniReady (s : State) (t : Team) (g : Group) (gd : Guard) (m : Mods) (locs : List Loc) : Prop :=
  s.issuing t g ∧ (uniCtx s t g gd m locs).uniTrap gd locs = none ∧ (uniCtx s t g gd m locs).groupGuard gd = true

/-- The contexts of a lane word and of a uniform word on the small machine. -/
abbrev L (t : Team) (g : Group) (w : W3) (locs : Lane → List Loc := fun _ => []) (s : State := on t) : Ctx := laneCtx s t g (guard3 w) w.m locs
abbrev U (t : Team) (g : Group) (m : Mods := {}) (locs : List Loc := []) (s : State := on t) : Ctx := uniCtx s t g (guardYX m) m locs

theorem issuing_on : (on team0).issuing team0 group0 := by decide

/-- Where nothing of a team is in error and its launch asks for no check, no operand raises a trap. -/
theorem calm (c : Ctx) (gd : Guard) (locs : Lane → List Loc) (he : c.t.errors = []) (hc : c.t.launch.chk = false)
    (hp : c.t.launch.prot = false) : c.operandTrap gd locs = none := by
  have hb : c.badWords locs gd = 0 := by
    unfold Ctx.badWords
    rw [List.filter_eq_nil_iff.2 fun ln _ => ?_]
    · rfl
    · have : ((locs ln).any fun l => match l with | .v w r => c.t.errors.any fun e => e.isReg w r | _ => false) = false := by
        rw [List.any_eq_false]; intro l _; cases l <;> simp [he]
      rw [Bool.and_eq_true, not_and]; intro _ h; exact absurd (h.symm.trans this) (by decide)
  simp [Ctx.operandTrap, hb, Ctx.guardDiffers, hc, hp]

/-- Every lane instruction of the small machine is ready, whatever its guard, its prefixes and its operands. -/
theorem lane_ready (gd : Guard) (m : Mods) (locs : Lane → List Loc) : LaneReady (on team0) team0 group0 gd m locs :=
  ⟨issuing_on, calm _ _ _ rfl rfl rfl⟩

/-- So is every uniform one whose guard holds, and one whose guard does not hold passes. -/
theorem uni_ready (m : Mods) (locs : List Loc) : UniReady (on team0) team0 group0 {} m locs := by
  refine ⟨issuing_on, ?_, rfl⟩
  simp [Ctx.uniTrap, uniCtx, ctxFor, team0, launch0]
theorem uni_passes (m : Mods) (locs : List Loc) : (on team0).issuing team0 group0 ∧
    (uniCtx (on team0) team0 group0 { idx := 2 } m locs).uniTrap { idx := 2 } locs = none ∧
    (uniCtx (on team0) team0 group0 { idx := 2 } m locs).groupGuard { idx := 2 } = false := by
  refine ⟨issuing_on, ?_, ?_⟩
  · simp [Ctx.uniTrap, uniCtx, ctxFor, team0, launch0]
  · simp [Ctx.groupGuard, Ctx.gp, uniCtx, ctxFor, group0, seenAt, bitAt]

/-! ### Lane and uniform arithmetic

`lane_ready` and `uni_ready` meet the hypotheses of the statements about lane and uniform instructions at every
operand; the theorems here meet the further ones. -/

/-- IntegerArithmeticResults, LogicAndShiftResults, CompareSelectMoveResults, FloatResults, SpecialFunctionResults and
WideHalfComplexAndRandomResults: words of each shape on the small machine, its destination the highest register too. -/
theorem witness_IntegerArithmeticResults : let w := w3 47 1 2 0 0;
    LaneReady (on team0) team0 group0 (guard3 w) w.m (w3Locs w 1 1 1) ∧ LaneReady (on team0) team0 group0 (guardX {}) {} fun ln => laneLocs ln 1 1 :=
  ⟨lane_ready _ _ _, lane_ready _ _ _⟩
theorem witness_LogicAndShiftResults : let w := w3 47 1 2 0 0;
    LaneReady (on team0) team0 group0 (guard3 w) w.m (w3Locs w 1 1 1) ∧ LaneReady (on team0) team0 group0 (guardX {}) {} fun ln => laneLocs ln 1 1 :=
  ⟨lane_ready _ _ _, lane_ready _ _ _⟩
theorem witness_CompareSelectMoveResults : let w := w3 3 1 2 4 0;
    LaneReady (on team0) team0 group0 (guardX {}) {} (w3Locs w 1 1 0) ∧ LaneReady (on team0) team0 group0 (guard3 w) w.m (fun _ => uniLocs 20) ∧
    LaneReady (on team0) team0 group0 (guardX w.m) w.m fun ln => w3Locs w 1 1 0 ln ++ [.p ln.wid 4] :=
  ⟨lane_ready _ _ _, lane_ready _ _ _, lane_ready _ _ _⟩
theorem witness_FloatResults : let w := w3 6 1 2 0 0 { a := some { plainA with na := true, ab := true, scale := 0x3D, rnd := 2 } };
    LaneReady (on team0) team0 group0 (guard3 w) w.m (w3Locs w 1 1 1) := lane_ready _ _ _
theorem witness_SpecialFunctionResults : LaneReady (on team0) team0 group0 {} {} (w3Locs (w3 3 1 57 0 0) 1 0 0) := lane_ready _ _ _
theorem witness_WideHalfComplexAndRandomResults : LaneReady (on team0) team0 group0 {} {} (w3Locs (w3 4 6 8 0 0) 2 2 2) ∧
    LaneReady (on team0) team0 group0 {} {} (fun ln => laneLocs ln 4 4 ++ uniLocs 20 ++ uniLocs 21) := ⟨lane_ready _ _ _, lane_ready _ _ _⟩

/-- DivisionResults: no bad case, and one, without DZTRAP and with it; v2 of the lanes is 0. -/
theorem witness_DivisionResults : let t : Nat → Bool → Team := fun b z => { team0 with
      win := (List.range 8).map fun f => (64 * f + 2, (b : Word)), launch := { launch0 with dztrap := z } };
    (team0.launch.dztrap = false ∧ LaneReady (on team0) team0 group0 (guard3 (w3 3 1 2 0 0)) {} (w3Locs (w3 3 1 2 0 0) 1 1 0)) ∧
    ((on (t 5 true)).issuing (t 5 true) group0 ∧ (t 5 true).launch.dztrap = true ∧
      ∀ ln ∈ (L (t 5 true) group0 (w3 3 1 2 0 0)).execVisible {}, (L (t 5 true) group0 (w3 3 1 2 0 0)).b32 ln (w3 3 1 2 0 0) = 5) ∧
    (LaneReady (on (t 0 true)) (t 0 true) group0 (guard3 (w3 3 1 2 0 0)) {} (w3Locs (w3 3 1 2 0 0) 1 1 0) ∧
      ∃ ln ∈ (L (t 0 true) group0 (w3 3 1 2 0 0)).execVisible {}, (L (t 0 true) group0 (w3 3 1 2 0 0)).b32 ln (w3 3 1 2 0 0) = 0) := by
  refine ⟨⟨rfl, lane_ready _ _ _⟩, by decide, ⟨by decide, calm _ _ _ rfl rfl rfl⟩, ?_⟩
  decide

/-- PredicateResults: PMOVW of the predicates, and with .STKC. -/
theorem witness_PredicateResults : let w := w3 4 57 63 0 0 (lit 2);
    (¬ ((w3 4 57 57 0 0).b = 63 ∧ (L team0 group0 (w3 4 57 57 0 0)).lit = 2)) ∧ w.b = 63 ∧ w.m.lit = some 2 ∧
    LaneReady (on team0) team0 group0 (guard3 w) w.m (fun _ => []) := by
  refine ⟨by decide, rfl, rfl, lane_ready _ _ _⟩

/-- CollectiveResults: no member has exited, and one has: the fibre of lane 0 has left a group formed with eight. -/
theorem witness_CollectiveResults : let w := w3 10 4 16 0 0;
    let g : Group := grp [(16, 0xFF)]; let g' : Group := { g with lanes := none :: (List.range 7).map fun i => some (i + 1) };
    (LaneReady (on (of g)) (of g) g (guardX w.m) w.m (collectiveLocs w 1 0) ∧ (L (of g) g w).exited w = 0) ∧
    LaneReady (on (of g')) (of g') g' (guardX w.m) w.m (collectiveLocs w 1 0) ∧ (L (of g') g' w).exited w ≠ 0 := by
  refine ⟨⟨⟨by decide, calm _ _ _ rfl rfl rfl⟩, by decide⟩, ⟨by decide, calm _ _ _ rfl rfl rfl⟩, by decide⟩

/-- NarrowConversionResults: quotients of 0, of exactly 31 and above it, magnitudes and targets that are no numbers,
and a negative target. -/
theorem witness_NarrowConversionResults :
    (f32.decode false 0 = .fin false 0 (-149) ∧ f32.decode false 0x41F80000 = .fin false 0xF80000 (-19) ∧
      f32.decode false 0x3F800000 = .fin false 0x800000 (-23) ∧ f32.decode false 0x42000000 = .fin false 0x800000 (-18)) ∧
    ((0xF80000 : Rat) * 2 ^ (-19 : Int) / (0x800000 * 2 ^ (-23 : Int)) ≤ 31 ∧ (31 : Rat) < 0x800000 * 2 ^ (-18 : Int) / (0x800000 * 2 ^ (-23 : Int))) ∧
    (f32.decode false 0x7FC00000).isNan = true ∧ f32.decode false 0x7F800000 = .inf false ∧ f32.decode false 0xFF800000 = .inf true ∧
    f32.decode false 0xBF800000 = .fin true 0x800000 (-23) := by
  refine ⟨by decide, by norm_num, by decide, by decide, by decide, by decide⟩

/-- UniformResults: a lane whose sides agree under PROT, and one whose sides differ. -/
theorem witness_UniformResults : let w := w3 20 4 57 0 0; let g : Group := { group0 with lanes := [some 0, some 1, some 2, some 3] };
    let t : Word → Team := fun v => { of g with launch := { launch0 with prot := true, fpt := 4 }, live := List.range 4, win := [(4, v), (64 + 4, 9)] };
    (UniReady (on (t 9)) (t 9) g (guardY w) w.m (uniLocs w.b) ∧ (t 9).launch.prot = true ∧ (t 9).launch.chk = false) ∧
    UniReady (on (t 8)) (t 8) g (guardY w) w.m (uniLocs w.b) ∧ ((lanesOn (t 8) g 0).head?.map fun ln => (U (t 8) g).l32 ln w.a) = some 8 ∧
    ((lanesOn (t 8) g 1).head?.map fun ln => (U (t 8) g).l32 ln w.a) = some 9 := by decide

/-! ### Control flow -/

/-- Two fibres, whose registers and predicates can differ. -/
def two : Group := { group0 with lanes := [some 0, some 1, none, none, none, none, none, none], formed := 3 }
def pairOf (win : Sparse Word := []) (preds : Sparse DWord := []) : Team := { of two with win := win, preds := preds, live := [0, 1] }

/-- NopEndAndJumpsOfWholeGroups: END of a result in flight that it names; BRG whose predicate holds and does not; JMPI
to a target that is no place for an instruction, to targets that differ, and to one. -/
theorem witness_NopEndAndJumpsOfWholeGroups : let w := w3 57 6 57 0 0; let locs : Lane → List Loc := fun ln => laneLocs ln w.a 2;
    let e : Early := { loc := .s 20, old := 0, due := 104 }; let g : Group := { group0 with hist := [e] };
    ((on (of g)).issuing (of g) g ∧ e ∈ g.hist ∧ e.loc = .s ((0x54 : Nat) - 64) ∧ e.loc.runLocal = false) ∧
    (UniReady (on team0) team0 group0 {} {} [.g 2] ∧ (U team0 group0).gp 2 = false ∧ (U team0 group0).gp 0 = true) ∧
    (∀ win ∈ [([(6, 2)] : Sparse Word), [(6, 8)], [(6, 8), (70, 8)]], LaneReady (on (pairOf win)) (pairOf win) two (guard3 w) w.m locs ∧
      (pairOf win).launch.prot = false ∧ (lanesOn (pairOf win) two 0).head?.isSome = true) ∧
    ((lanesOn (pairOf [(6, 2)]) two 0).map fun ln => (L (pairOf [(6, 2)]) two w).l64 ln w.a) = [2, 0] ∧
    ((lanesOn (pairOf [(6, 8)]) two 0).map fun ln => (L (pairOf [(6, 8)]) two w).l64 ln w.a) = [8, 0] ∧
    ((lanesOn (pairOf [(6, 8), (70, 8)]) two 0).map fun ln => (L (pairOf [(6, 8), (70, 8)]) two w).l64 ln w.a) = [8, 8] := by
  refine ⟨by decide, ⟨uni_ready _ _, by decide, by decide⟩, by decide, by decide, by decide, by decide⟩

/-- Under PROT both sides of a comparison point agree in the states that a run reaches (R110): the hypothesis that the
statements on jumps, branches, forks and accesses share. -/
theorem witness_agree : let g : Group := { group0 with lanes := [some 0, some 1, some 2, some 3] };
    let t : Team := { of g with launch := { launch0 with prot := true, fpt := 4 }, live := List.range 4, win := [(6, 8), (64 + 6, 8)] };
    (on t).issuing t g ∧ t.launch.prot = true ∧ (L t g (w3 57 6 57 0 0)).Agree {} (fun ln => [(L t g (w3 57 6 57 0 0)).l64 ln 6]) := by
  refine ⟨by decide, rfl, fun _ => ?_⟩
  decide

/-- BranchesSplitGroups: no lane takes BR p5, every lane does, and one of two does. -/
theorem witness_BranchesSplitGroups : let p : Sparse DWord → List Bool := fun ps =>
      (lanesOn (pairOf [] ps) two 0).map fun ln => (laneCtx (on (pairOf [] ps)) (pairOf [] ps) two {} {} fun ln => [.p ln.wid 5]).p ln.wid 5;
    (p [] = [false, false] ∧ p [(0, 0x21), (1, 0x21)] = [true, true] ∧ p [(0, 0x21)] = [true, false]) ∧
    ∀ ps ∈ [([] : Sparse DWord), [(0, 0x21), (1, 0x21)], [(0, 0x21)]],
      LaneReady (on (pairOf [] ps)) (pairOf [] ps) two {} {} fun ln => [.p ln.wid 5] := by decide

/-- ReturnsRejoinTheMajority: a link pair that is no place for an instruction, and two addresses with a vote each. -/
theorem witness_ReturnsRejoinTheMajority : let w := w3 57 57 57 0 0; let t := pairOf [(46, 8)];
    let T : Lane → DWord := fun ln => (U t two).v ln.wid 47 ++ (U t two).v ln.wid 46;
    (∀ win ∈ [([(46, 2)] : Sparse Word), [(46, 8)]], UniReady (on (pairOf win)) (pairOf win) two (guardY w) w.m [] ∧
      (U (pairOf win) two).operandTrap {} (fun ln => laneLocs ln 46 2) = none) ∧
    (lanesOn t two 0).map T = [8, 0] ∧ (lanesOn (pairOf [(46, 2)]) two 0).map (fun ln => (U (pairOf [(46, 2)]) two).v ln.wid 46) = [2, 0] := by decide

/-! ### Fibres, segments and barriers -/

/-- ForkCreatesFibres: a bad target, and two fibres of a team with six free ids. -/
theorem witness_ForkCreatesFibres : let w := w3 3 6 8 0 0; let locs : Lane → List Loc := fun ln => laneLocs ln w.a 2 ++ laneLocs ln w.b 1;
    let ls := (L (pairOf) two w).execVisible {};
    (∀ win ∈ [([(6, 2)] : Sparse Word), []], LaneReady (on (pairOf win)) (pairOf win) two (guard3 w) w.m locs) ∧
    (ls.map fun ln => ((L (pairOf) two w).l64 ln w.a, ln.fid)) = [(0, 0), (0, 1)] ∧
    ((List.range ((pairOf).launch.groups * (pairOf).launch.wv)).filter fun f => !(pairOf).live.contains f).take ls.length = [2, 3] ∧
    (L (pairOf [(6, 2)]) two w).l64 { pos := 0, fid := 0, wid := 0, side := 0 } w.a = 2 := by decide

/-- FendEndsFibres: one of two fibres ends, and both do. -/
theorem witness_FendEndsFibres : let w := w3 57 57 57 1 0; let gone : Sparse DWord → List Nat := fun ps =>
      ((L (pairOf [] ps) two w).execVisible (guard3 w)).map Lane.fid;
    gone [(0, 3)] = [0] ∧ gone [(0, 3), (1, 3)] = [0, 1] ∧ two.active = [(0, 0), (1, 1)] ∧
    ∀ ps ∈ [([(0, 3)] : Sparse DWord), [(0, 3), (1, 3)]], LaneReady (on (pairOf [] ps)) (pairOf [] ps) two (guard3 w) w.m fun _ => [] := by decide

/-- RjoinParksUntilComplete. -/
theorem witness_RjoinParksUntilComplete : let w := w3 20 21 22 0 0; let g := grp [(20, 5), (22, 0xFF)];
    UniReady (on (of g)) (of g) g (guardY w) w.m (uniLocs w.d ++ uniLocs w.a ++ uniLocs w.b) ∧ g.active ≠ [] := by decide

/-- A parked fibre, and a team that keeps it and two more in its one group. -/
def waiting : Parked := { fid := 7, core := 0, slot := 0, pc := 0x800, parked := 36 }
def yielder : Team := { of two with attic := [waiting], live := [0, 1, 7] }
/-- YieldAndSegments: a full group does not park; a partial one does when no record is free and a fibre has waited 64
clocks; a segment size of the least and the greatest value, and one that is none. -/
theorem witness_YieldAndSegments :
    (UniReady (on team0) team0 group0 {} {} [] ∧ ¬ group0.active.length < team0.launch.wv) ∧
    (UniReady (on yielder) yielder two {} {} [] ∧ two.active.length < yielder.launch.wv ∧ (yielder.freeRecord two.core).isNone = true ∧
      waiting ∈ yielder.attic ∧ waiting.st = .formable ∧ waiting.core = two.core ∧ fieldOf (world.reg 0x00D) 0 16 ≤ (U yielder two).clk - waiting.parked) ∧
    ∀ v ∈ [0, 2, 8, 16], let g := grp [(20, BitVec.ofNat 64 v)]; UniReady (on (of g)) (of g) g {} {} (uniLocs 20) ∧ (U (of g) g).u 20 = BitVec.ofNat 64 v := by
  refine ⟨⟨uni_ready _ _, by decide⟩, ⟨by decide, by decide, by decide, by decide, rfl, rfl, ?_⟩, by decide⟩
  decide

/-- BarrierArrivals: the least and the greatest count of BAR.INIT, and BAR.ARV at an initialised barrier and at one that
is not. -/
theorem witness_BarrierArrivals : let w := we 10 57 57 1; let t : Team := { team0 with barriers := [(1, barWord 0xFFFF 7 8)] };
    (1 ≤ 1 ∧ 1 ≤ 1024 ∧ bitAt (barWord 0 0 1024) 63 = true ∧ fieldOf (barWord 0 0 1024) 16 11 < fieldOf (barWord 0 0 1024) 0 11) ∧
    UniReady (on team0) team0 group0 (guardYX w.m) w.m (uniLocs 57) ∧ (UniReady (on team0) team0 group0 (guardYX w.m) w.m [] ∧ bitAt (team0.bar 1) 63 = false) ∧
    UniReady (on t) t group0 (guardYX w.m) w.m [] ∧ (U t group0).operandTrap {} (fun ln => laneLocs ln w.d 1) = none ∧ bitAt (t.bar 1) 63 = true := by
  refine ⟨by decide, uni_ready _ _, ⟨uni_ready _ _, by decide⟩, ?_⟩
  decide

/-- BarrierWaits: no lane waits; one does and the team has no fibre that waits for its record; BAR.SYNC completes the phase;
and it finds that its fibres arrived in a phase that has passed. -/
theorem witness_BarrierWaits : let w := we 10 57 57 1; let locs : Lane → List Loc := fun ln => laneLocs ln w.d 1;
    let t : Team := { of two with win := [(10, 0x80010000)], barriers := [(1, barWord 0 6 8)] }; let g : Group := { two with synced := [0, 1] };
    let u : Team := { of g with barriers := [(1, barWord 1 0 8)], win := [(10, 0x80010000), (74, 0x80010000)] };
    ((UniReady (on team0) team0 group0 (guardYX w.m) w.m [] ∧ (U team0 group0).operandTrap {} locs = none) ∧
      ∀ ln ∈ lanesOn team0 group0 0, (U team0 group0).v ln.wid 10 = 0) ∧
    (UniReady (on t) t two (guardYX w.m) w.m [] ∧ (U t two).operandTrap {} locs = none ∧ State.mustPark { on t with clk := (U t two).clk } t two = false ∧
      ((lanesOn t two 0).map fun ln => (U t two).v ln.wid 10) = [0x80010000, 0] ∧ fieldOf (t.bar 1) 32 16 = 0 ∧ bitAt (t.bar 1) 63 = true) ∧
    (let v : Team := { of two with barriers := [(1, barWord 0 6 8)] }; UniReady (on v) v two (guardYX w.m) w.m [] ∧ two.synced = [] ∧
      fieldOf (v.bar 1) 0 11 ≤ fieldOf (v.bar 1) 16 11 + (lanesOn v two 0).length ∧ ∀ ln ∈ lanesOn v two 0, (U v two).v ln.wid 10 = 0) ∧
    (UniReady (on u) u g (guardYX w.m) w.m [] ∧ (∀ ln ∈ lanesOn u g 0, ln.fid ∈ g.synced) ∧ fieldOf (u.bar 1) 16 11 < fieldOf (u.bar 1) 0 11 ∧
      ∀ ln ∈ lanesOn u g 0, fieldOf ((U u g).v ln.wid 10) 0 16 ≠ fieldOf (u.bar 1) 32 16) := by
  refine ⟨⟨⟨uni_ready _ _, calm _ _ _ rfl rfl rfl⟩, by decide⟩, by decide, by decide, by decide⟩

/-- BarrierWaits, R138: a lane waits at BAR.WT where the group gives up its record; BAR.SYNC whose arrivals do not complete
the phase, where it does so and where it does not; one that the phase has let pass; and a barrier that is off. -/
theorem witness_BAR_parks : let w := we 10 57 57 1; let locs : Lane → List Loc := fun ln => laneLocs ln w.d 1;
    let t := fun (g : Group) (a : List Parked) (word : DWord) (win : Sparse Word) => ({ of g with attic := a, live := [0, 1, 7], barriers := [(1, word)], win := win } : Team);
    let a := t two [waiting] (barWord 0 6 8) [(10, 0x80010000)]; let p : Group := { two with barPass := true };
    (UniReady (on a) a two (guardYX w.m) w.m [] ∧ (U a two).operandTrap {} locs = none ∧ two.barPass = false ∧
      ((lanesOn a two 0).map fun ln => (U a two).v ln.wid 10) = [0x80010000, 0] ∧ State.mustPark { on a with clk := (U a two).clk } a two = true) ∧
    (∀ x ∈ [([], two), ([waiting], two), ([], p)], let u := t x.2 x.1 (barWord 0 0 8) []; UniReady (on u) u x.2 (guardYX w.m) w.m [] ∧
      (U u x.2).operandTrap {} locs = none ∧ x.2.synced = [] ∧ lanesOn u x.2 0 ≠ [] ∧ bitAt (u.bar 1) 63 = true ∧
      fieldOf (u.bar 1) 16 11 + (lanesOn u x.2 0).length < fieldOf (u.bar 1) 0 11 ∧
      State.mustPark { on u with clk := (U u x.2).clk } u x.2 = !x.1.isEmpty) ∧
    UniReady (on (of two)) (of two) two (guardYX w.m) w.m [] ∧ bitAt ((of two).bar 1) 63 = false := by
  refine ⟨by decide, by decide, by decide⟩

/-! ### Queues and child launches -/

/-- The small machine's edges: a streaming one of four slots, two of them filled, as input 0 and output 0, and an edge with
a firing rule as input 1 and output 1; the others are absent. -/
def edge0 : Edge := { slotcnt := 4, fill := 2, free := 2 }
def edge1 : Edge := { slotcnt := 4, fill := 2, free := 2, needFill := 1, needFree := 1 }
def flow : State := { world with parts := [(0, { graph := some { edges := [edge0, edge1] } })] }
def queued (g : Group) (ranges : List QRange := []) (contain : Bool := false) : Team :=
  { of g with ranges := ranges, launch := { launch0 with contain := contain, ins := [0, 1, 0xFFFF, 0xFFFF], outs := [0, 1, 0xFFFF] } }

/-- QueueReservations: a code of the other direction, an absent edge, one that does not stream, more slots than the edge
has, none, 32 ranges held, as many slots as there are, and more. -/
theorem witness_QueueReservations : let t := fun n : Nat => queued (grp [(20, BitVec.ofNat 64 n)]); let g := fun n : Nat => grp [(20, BitVec.ofNat 64 n)];
    (∀ n ∈ [0, 1, 2, 3, 4, 5], UniReady (on (t n) flow) (t n) (g n) {} {} (uniLocs 20) ∧ ((U (t n) (g n)).u 20).toNat = n) ∧
    (¬ (4 ≤ (we 30 20 57 0).sub.toNat % 8) ∧ 4 ≤ (we 30 20 57 4).sub.toNat % 8) ∧
    ((t 1).launch.edge 2 = 0xFFFF ∧ (t 1).launch.edge 6 = 0xFFFF) ∧
    ((t 1).launch.edge 1 = 1 ∧ (t 1).launch.edge 5 = 1 ∧ (on (t 1) flow).edge? 0 1 = some edge1 ∧ edge1.streaming = false) ∧
    ((t 1).launch.edge 0 = 0 ∧ (t 1).launch.edge 4 = 0 ∧ (on (t 1) flow).edge? 0 0 = some edge0 ∧ edge0.streaming = true ∧
      edge0.slotcnt < 5 ∧ 4 ≤ edge0.slotcnt ∧ 2 ≤ edge0.fill ∧ 2 ≤ edge0.free ∧ edge0.fill < 3 ∧ edge0.free < 3) ∧
    (∀ q ∈ (t 1).ranges, q.replay = false) ∧ 32 ≤ (queued (g 1) (List.replicate 32 { edge := 4, first := 0, count := 1, taken := false })).ranges.length ∧
    State.mustPark (on (t 3) flow) (t 3) (g 3) = false := by
  refine ⟨by decide, by decide, by decide, by decide, by decide, by decide, by decide, by decide⟩

/-- QueuePublications: more slots than the team has outstanding, none, and one, with the store buffer and without; and
slots published above an unpublished one. -/
theorem witness_QueuePublications : let held : List QRange := [{ edge := 4, first := 0, count := 2, taken := false }, { edge := 0, first := 0, count := 2, taken := true }];
    let g := fun n : Nat => grp [(20, BitVec.ofNat 64 n)]; let t := fun (n : Nat) (c : Bool) => queued (g n) held c;
    (∀ n ∈ [0, 1, 3], ∀ c ∈ [true, false], UniReady (on (t n c) flow) (t n c) (g n) {} {} (uniLocs 20) ∧ ((U (t n c) (g n)).u 20).toNat = n ∧
      (t n c).launch.contain = c ∧ (t n c).outstanding 4 false - (t n c).pushed 4 = 2 ∧ (t n c).outstanding 0 true - sget 0 (t n c).relLater 0 = 2 ∧
      (t n c).closeEntries.sbUsed < 2048 ∧ (t n c).draining = false) ∧
    (on (t 1 false) flow).edge? 0 0 = some edge0 ∧ edge0.streaming = true ∧ 3 ≤ edge0.slotcnt := by
  refine ⟨by decide, by decide, by decide, by decide⟩

/-- QueuePublications, R35: port 0 with nothing on its way, down, and with a remote store of an instance that released slots. -/
theorem witness_returns : let s : State := world.setPart 0 { graph := some { edges := [{ edge0 with source := true, retWait := [7] }] } }
    let r : State := { s with remotes := [{ owner := 3, part := 0, inst := 7, fid := 0, va := 0, data := [1] }] }
    (s.edge? 0 0).map (·.retWait) = some [7] ∧ s.port0 = true ∧ s.remotes = [] ∧ (s.setReg 0x000 0).port0 = false ∧ ∃ x ∈ r.remotes, x.inst ∈ [7] := by
  refine ⟨by decide, by decide, rfl, by decide, by decide⟩

/-- The bytes of a read that succeeds. -/
def bytesOf : GroupGot → Option (List Byte)
  | .ok bs _ => some bs
  | _ => none

/-- QueuePeeksAndChildLaunches: an absent edge, the grant of a streaming one, and another value; a record that is not
aligned, and one that is read while the queue has room, while it has none, and under CONTAIN. -/
theorem witness_QueuePeeksAndChildLaunches : let g := fun n : Nat => grp [(20, BitVec.ofNat 64 n)]; let t := fun (n : Nat) (c : Bool) => queued (g n) [] c;
    (UniReady (on (t 0 false) flow) (t 0 false) (g 0) {} {} [] ∧ (t 0 false).launch.edge 2 = 0xFFFF ∧ (t 0 false).launch.edge 0 ≠ 0xFFFF ∧
      (on (t 0 false) flow).edge? 0 0 = some edge0 ∧ edge0.streaming = true ∧ (on (t 0 false) flow).edge? 0 1 = some edge1 ∧ edge1.streaming = false) ∧
    (∀ n ∈ [0x1004, 0x1000], ∀ c ∈ [true, false], UniReady (on (t n c) flow) (t n c) (g n) {} {} (uniLocs 20) ∧ ((U (t n c) (g n)).u 20).toNat = n) ∧
    (∀ c ∈ [true, false], (bytesOf ((U (t 0x1000 c) (g 0x1000)).groupRead (on (t 0x1000 c) flow) 0 (t 0x1000 c).plainVia 0x1000 64)).isSome = true ∧
      (t 0x1000 c).launch.contain = c ∧ (t 0x1000 c).closeEntries.sbUsed ≤ 2046 ∧ (t 0x1000 c).draining = false) ∧
    ¬ 4096 ≤ (flow.part 0).children.length ∧
      4096 ≤ ((flow.setPart 0 { children := List.replicate 4096 { index := 0, bytes := [], since := 0, prio := 0 } }).part 0).children.length := by
  refine ⟨by decide, by decide, by decide, by decide, ?_⟩
  show 4096 ≤ (List.replicate 4096 _).length
  rw [List.length_replicate]

/-! ### Loads, stores, atomics and fences -/

/-- The word of an access through s4, under the .U form, and a group whose s4 is an address. -/
def uAt (d : Nat) (m : Mods := {}) : W3 := w3 d 57 4 0 0 { m with x := some { plainX with ub := true } }
def at4 (a : Nat) : Group := grp [(4, BitVec.ofNat 64 a)]
def dest0 (pa : Nat) : Dest := .local pa 0xC000000000000300 false

/-- What the statements on global accesses ask of the lanes of a team at address 0x1000: loads, stores and
atomics that no copy meets. -/
theorem global_ready (t : Team) (ht : t = of (at4 0x1000) ∨ t = of (at4 0x1000) { team0 with launch := { launch0 with contain := true } }) :
    LaneReady (on t) t (at4 0x1000) (guard3 (uAt 2)) (uAt 2).m (w3Locs (uAt 2) 1 2 0) ∧
    (∀ ln ∈ (L t (at4 0x1000) (uAt 2)).execVisible {}, (L t (at4 0x1000) (uAt 2)).gAddr ln (uAt 2) = 0x1000) ∧
    (L t (at4 0x1000) (uAt 2)).Clear (on t) {} 4 (fun _ => 0x1000) .read false false (fun _ => dest0 0x1000) ∧
    (L t (at4 0x1000) (uAt 2)).Clear (on t) {} 4 (fun _ => 0x1000) .write true true (fun _ => dest0 0x1000) ∧
    (L t (at4 0x1000) (uAt 2)).Clear (on t) {} 8 (fun _ => 0x1000) .write false true (fun _ => dest0 0x1000) ∧
    (on t).remotePending t = false := by
  rcases ht with rfl | rfl <;>
    exact ⟨⟨by decide, calm _ _ _ rfl rfl rfl⟩, by decide, ⟨by decide, by decide, by decide⟩, ⟨by decide, by decide, by decide⟩,
      ⟨by decide, by decide, by decide⟩, by decide⟩

/-- The lanes of an access at one address share a key, and no sector of a device without seals was encrypted by others. -/
theorem keyed_dest0 (c : Ctx) (s : State) (gd : Guard) (size pa : Nat) (h : s.seals = []) : c.Keyed s gd size (fun _ => dest0 pa) where
  slots := fun _ _ _ _ _ _ _ _ _ _ old h2 => by rw [h] at h2; exact absurd h2 (by simp [sget])
  shared := fun _ _ _ _ _ _ _ _ _ _ h1 h2 _ => by cases h1; cases h2; rfl

/-- LoadResults: a plain load at HBM, which is not poisoned. -/
theorem witness_LoadResults : let t := of (at4 0x1000); let g := at4 0x1000; let c := L t g (uAt 2);
    LaneReady (on t) t g (guard3 (uAt 2)) (uAt 2).m (w3Locs (uAt 2) 1 2 0) ∧
    c.Clear (on t) {} 4 (fun _ => 0x1000) .read false false (fun _ => dest0 0x1000) ∧ acqWide (uAt 2).m = false ∧ c.loadVia (uAt 2).m = .l1 ∧
    (∀ x ∈ ((c.afterXlat (on t) (c.going {} (fun _ => 0x1000) (fun _ => dest0 0x1000))).readLanes t 0 4 .l1
      (c.going {} (fun _ => 0x1000) (fun _ => dest0 0x1000))).2, x.bad = false) ∧
    c.Keyed (on t) {} 4 (fun _ => dest0 0x1000) ∧ 0x1000 + 4 ≤ 2 ^ 40 := by
  refine ⟨(global_ready _ (.inl rfl)).1, (global_ready _ (.inl rfl)).2.2.1, by decide, by decide, by decide +kernel,
    keyed_dest0 _ _ _ _ _ rfl, by decide⟩

/-- R174: LD of v2 at 0x1000 and then a plain ST: the load may be performed after a store elsewhere, and not after one that
meets its bytes or reads its register. -/
def lateRun (d b : Nat) : State :=
  let ub : Mods := { x := some { plainX with ub := true } }
  let ld := w3 2 57 20 0 0 ub
  let st := w3 d 57 b 0 0 ub
  let g : Group := { two with sregs := [(20, 0x1000), (21, 0x2000)], buf := encode (.ld ld) ++ encode (.st st), bufPc := 0x400 }
  let p : Pos := { core := 0, slot := 0, num := 0 }
  match (on (of g)).runLate p with
  | .next s => (match s.runGroup p with
    | .next s1 => ({ s1 with l1 := [] }.writeHome 0x1000 [7]).runAgain p 0
    | _ => s)
  | _ => on (of g)
theorem test_late_load : ((lateRun 3 21).curGroup?.map fun x => (sget 0 x.1.win 2, sget 0 x.1.win 66, x.2.pc)) = some (7, 7, 0x410) ∧
    ((lateRun 3 20).curGroup?.map fun x => sget 0 x.1.win 2) = some 0 ∧ ((lateRun 2 21).curGroup?.map fun x => sget 0 x.1.win 2) = some 0 := by
  decide +kernel

/-- ScratchAccessResults: the last word of the scratchpad. -/
theorem witness_ScratchAccessResults : let w := w3 2 57 63 0 0 (lit 2044); let c := L team0 group0 w;
    LaneReady (on team0) team0 group0 (guard3 w) w.m (w3Locs w 1 1 0) ∧ (∀ ln ∈ c.execVisible {}, c.b32 ln w + c.l32 ln w.a = 2044) ∧
    c.ScratchClear {} 4 (fun _ => 2044) false ∧ c.ScratchClear {} 4 (fun _ => 2044) true ∧ team0.errors = [] ∧ team0.scratchBad 2044 4 = false ∧
    (List.replicate 16 (0 : Byte)).length = 16 ∧ relSys w.m = false ∧ isRel w.m = false := by
  refine ⟨lane_ready _ _ _, by decide, ⟨by decide, by decide⟩, ⟨by decide, by decide⟩, by decide, by decide, by decide, by decide, by decide⟩

/-- StoreResults: outside CONTAIN, and as one sector of a store buffer. -/
theorem witness_StoreResults : let t := of (at4 0x1000); let u := of (at4 0x1000) { team0 with launch := { launch0 with contain := true } };
    (t.launch.contain = false ∧ t.launch.paircore = false ∧ (on t).remotePending t = false ∧
      (L t (at4 0x1000) (uAt 2)).Keyed (on t) {} 4 (fun _ => dest0 0x1000) ∧
      (L t (at4 0x1000) (uAt 2)).Clear (on t) {} 4 (fun _ => 0x1000) .write true true (fun _ => dest0 0x1000)) ∧
    (u.launch.contain = true ∧ memHint (uAt 2).m ≠ 3 ∧ isRel (uAt 2).m = false ∧ u.draining = false ∧
      (L u (at4 0x1000) (uAt 2)).Clear (on u) {} 4 (fun _ => 0x1000) .write true true (fun _ => dest0 0x1000) ∧
      (u.bufferStores (putsOf (((L u (at4 0x1000) (uAt 2)).execVisible {}).map fun ln =>
        (({ ln := ln, addr := 0x1000 } : Acc), dest0 0x1000, (L u (at4 0x1000) (uAt 2)).dataBytes ln 2 4)))).sbUsed ≤ 2048) ∧ 0x1000 + 4 ≤ 2 ^ 40 := by
  have h1 := global_ready _ (.inl rfl)
  have h2 := global_ready _ (.inr rfl)
  refine ⟨⟨rfl, rfl, h1.2.2.2.2.2, keyed_dest0 _ _ _ _ _ rfl, h1.2.2.2.1⟩, ⟨rfl, by decide, by decide, rfl, h2.2.2.2.1, by decide⟩, by decide⟩

/-- UniformLoadsAndStores: an address that is not aligned, and one that is, with and without CONTAIN. -/
theorem witness_UniformLoadsAndStores : let g := fun a : Nat => at4 a; let t := fun (a : Nat) (c : Bool) => of (g a) { team0 with launch := { launch0 with contain := c } };
    (∀ a ∈ [0x1002, 0x1000], ∀ c ∈ [true, false], UniReady (on (t a c)) (t a c) (g a) {} {} (uniLocs 4 ++ uniLocs 57 ++ uniLocs 5) ∧
      ((U (t a c) (g a)).u 4).toNat = a) ∧
    ∀ c ∈ [true, false], (bytesOf ((U (t 0x1000 c) (g 0x1000)).groupRead (on (t 0x1000 c)) 0 ((U (t 0x1000 c) (g 0x1000)).loadVia {}) 0x1000 4)).isSome = true ∧
      (U (t 0x1000 c) (g 0x1000)).reach (on (t 0x1000 c)) .write true 0x1000 = some (dest0 0x1000) ∧
      (match (t 0x1000 c).storeMeets .global 0 0x1000 4 with | .pass => true | _ => false) = true ∧ (t 0x1000 c).launch.contain = c ∧
      (on (t 0x1000 c)).remotePending (t 0x1000 c) = false ∧ (t 0x1000 c).draining = false ∧
      let u := t 0x1000 c; let ln : Lane := { pos := 0, fid := 0, wid := 0, side := 0 }
      (u.bufferStores (putsOf [(({ ln := ln, addr := 0x1000 } : Acc), dest0 0x1000, (bytes64 0).take 4)])).sbUsed ≤ 2048 := by
  refine ⟨by decide, by decide⟩

/-- ReadsReturnStores: a range that ends with its block, stores at the ends of HBM, of the pool's space and of host memory, an address without
an L1 line, a store that is posted at a sector under its key, and a sector that other keys encrypted. -/
theorem witness_ReadsReturnStores : let c := U team0 group0; let p : Posted := { core := 0, team := 7, fid := 0, pa := 2 ^ 40 - 4, data := [1, 2, 3, 4] };
    ((0 : Nat) < 8 ∧ 0xFFF8 % 2 ^ 16 + 8 ≤ 2 ^ 16 ∧ c.reach (on team0) .read false 0xFFF8 = some (dest0 0xFFF8) ∧
      (bytesOf (c.groupRead (on team0) 0 .l1 0xFFF8 8)).isSome = true) ∧
    (2 ^ 40 - 4 + 4 ≤ 2 ^ 40 ∧ (2 ^ 40 ≤ 2 ^ 40 ∧ 2 ^ 40 + 4 ≤ 2 ^ 55 ∧ let s : State := { world with poolL2 := [{ line := 2 ^ 33, cells := [] }] };
      ∀ i < 4, (s.poolL2Line (2 ^ 40 + i)).isSome = true) ∧ 2 ^ 55 ≤ 2 ^ 55) ∧ (on team0).l1Line 0 0 0 0x1000 = none ∧
    (let s : State := { on team0 with posted := [p], seals := [(2 ^ 35 - 1, some 0)] }
     p ∈ s.posted ∧ ∀ q ∈ s.posted, q.pa + q.data.length ≤ 2 ^ 40 ∧ s.keyLoaded q.key = true ∧
      ∀ sec ∈ sectorsOf q.pa q.data.length, sget none s.seals sec = some (sget {} s.keys q.key).pair) ∧
    (let s : State := { on team0 with seals := [(5, some 1)] }
     5 * 32 < 2 ^ 40 ∧ s.keyLoaded 0 = true ∧ sget none s.seals 5 = some 1 ∧ 1 ≠ (sget {} s.keys 0).pair) := by
  refine ⟨by decide, by decide, by decide, ?_, ?_⟩ <;> decide +kernel

/-- AtomicResults: atomics of 64-bit words at HBM outside CONTAIN, DET or not. -/
theorem witness_AtomicResults : let t := of (at4 0x1000); let w := uAt 2 { m := some { plainM with w := 5 } }; let c := L t (at4 0x1000) (uAt 2);
    (∀ locs, LaneReady (on t) t (at4 0x1000) (guard3 w) w.m locs) ∧ (memAop w.m < 9 ∧ memW w.m = 5 ∧ t.launch.contain = false) ∧
    c.Clear (on t) {} 8 (fun _ => 0x1000) .write false true (fun _ => dest0 0x1000) ∧
    c.Clear (on t) {} 4 (fun _ => 0x1000) .write true true (fun _ => dest0 0x1000) ∧
    ((c.going {} (fun _ => 0x1000) (fun _ => dest0 0x1000)).foldl (fun s q => s.prepLane t 0 8 .home q)
      (c.afterXlat (on t) (c.going {} (fun _ => 0x1000) (fun _ => dest0 0x1000)))).homePoisoned 0x1000 8 = false := by
  have h := global_ready _ (.inl rfl)
  refine ⟨fun locs => ⟨by decide, calm _ _ _ rfl rfl rfl⟩, by decide, h.2.2.2.2.1, h.2.2.2.1, by decide +kernel⟩

/-- ReadModifyWrite: both sizes at the end of HBM, and an update that takes place and one that does not. -/
theorem witness_ReadModifyWrite : (2 ^ 40 - 4 + 4 ≤ 2 ^ 40 ∧ 2 ^ 40 - 8 + 8 ≤ 2 ^ 40 ∧ world.keyed 0 (2 ^ 40 - 8) 8) ∧
    (∃ f : DWord → Option DWord, f 0 = some 1) ∧ ∃ f : DWord → Option DWord, f 0 = none :=
  ⟨⟨by decide, by decide, fun _ _ _ _ _ h => absurd h (by rw [show world.seals = [] from rfl]; simp [sget])⟩, ⟨fun _ => some 1, rfl⟩, fun _ => none, rfl⟩

/-- ScratchAtomicResults: one lane at the last word of the scratchpad, and two at the last eight bytes, with a release. -/
theorem witness_ScratchAtomicResults : let w := w3 2 57 63 1 0 (lit 2044); let t := pairOf [] [(0, 3)]; let c := L t two w;
    LaneReady (on t) t two (guard3 w) w.m (w3Locs w 1 1 1) ∧ ((c.execVisible (guard3 w)).map fun ln => (ln.fid, c.b32 ln w + c.l32 ln w.a)) = [(0, 2044)] ∧
    c.ScratchClear (guard3 w) 4 (fun _ => 2044) true ∧ t.errors = [] ∧ t.scratchBad 2044 4 = false ∧ t.launch.det = false := by
  refine ⟨by decide, by decide, ⟨by decide, by decide⟩, by decide, by decide, by decide⟩
theorem witness_two_scratch_atomics : let w := w3 2 57 63 1 0 { lit := some 2040, m := some { plainM with w := 5, ord := 2, scope := 3 } };
    let v : Team := { pairOf [] [(0, 3), (1, 3)] with launch := { launch0 with contain := true } }; let c := L v two w;
    LaneReady (on v) v two (guard3 w) w.m (w3Locs w 1 1 2) ∧ ((c.execVisible (guard3 w)).map fun ln => (ln.fid, c.b32 ln w + c.l32 ln w.a)) = [(0, 2040), (1, 2040)] ∧
    c.ScratchClear (guard3 w) 8 (fun _ => 2040) true ∧ v.errors = [] ∧ v.scratchBad 2040 8 = false ∧ v.launch.det = false ∧
    relSys w.m = true ∧ memW w.m = 5 ∧ (on v).remotePending v = false := by
  refine ⟨by decide, by decide, ⟨by decide, by decide⟩, by decide, by decide, by decide, by decide, by decide, by decide⟩

/-- FencesOrderAccesses: a fence of no lane, of lanes, and FENCE.S while a remote store is on its way. -/
theorem witness_FencesOrderAccesses : let s : State := { on team0 with remotes := [{ owner := 3, part := 0, inst := 7, fid := 0, va := 0, data := [1] }] };
    (LaneReady (on team0) team0 group0 {} {} (fun _ => []) ∧ (laneCtx (on team0) team0 group0 {} {} fun _ => []).execVisible {} ≠ [] ∧
      (on team0).remotePending team0 = false) ∧
    (laneCtx (on team0) team0 group0 { idx := 1 } {} fun _ => []).execVisible { idx := 1 } = [] ∧
    LaneReady s team0 group0 {} {} (fun _ => []) ∧ s.remotePending team0 = true := by
  refine ⟨⟨lane_ready _ _ _, by decide, by decide⟩, by decide, by decide, by decide⟩

/-! ### Copies, watermarks and pins -/

/-- s-registers from one on, without the zeros. -/
def from_ (k : Nat) (vs : List DWord) : Sparse DWord :=
  ((List.range vs.length).map fun i => (k + i, vs.getD i 0)).filter fun p => decide (p.2 ≠ 0)

/-- The descriptors of a BCPY of 128 bytes to the scratchpad, of one to memory, of one to a Hamper record and of one of no
bytes; of a GATH of four rows of 16 bytes; and of a LAYX of one row of eight bytes at 0x2000. -/
def bcpyD : List DWord := [0x1000, 0, 0x8000000040, 0, 0, 0, 0, 0]
def bcpyG : List DWord := [0x1000, 0x3000, 0x8000000000, 0, 0, 0, 0, 0]
def bcpyH : List DWord := [0x1000, 0, 0x8000000080, 0, 0, 0, 0, 0]
def bcpyZ : List DWord := [0x1000, 0, 0x40, 0, 0, 0, 0, 0]
def gathD : List DWord := [0x1000, 0, 0x1000000040, 0x2000, 0x800000004, 0, 0, 0]
def layxD : List DWord := [0x1000, 0x2000, 0x800000000, 0x100010001, 0x0101000001010101, 0x10001, 8, 0]

/-- The group of a descriptor in s16 on, and its team with a watermark register and a pin slot. -/
def copier (d : List DWord) (lanes : List (Option Nat) := group0.lanes) : Group := { grp (from_ 16 d) with lanes := lanes }
def copying (g : Group) (st : CopyState := .idle) (contain : Bool := false) : Team :=
  { of g with copies := if st = .idle then [] else [(3, { st := st })], launch := { launch0 with contain := contain }
              pins := [(0, some { addr := 0x2000, len := 128, lines := [64] })] }
def words8 (g : Group) (t : Team) : List DWord := (List.range 8).map fun i => (U t g).s (16 + i)
def regs8 : List Loc := (List.range 8).map fun i => .s (16 + i)

/-- CopiesAreIssued: a bad descriptor, a partial group, a register of each state, and for each instruction and
destination a descriptor that starts a copy, of no bytes and of some. -/
theorem witness_CopiesAreIssued :
    (∀ d ∈ [bcpyD, bcpyG, bcpyH, bcpyZ, gathD, layxD], ∀ c ∈ [true, false], UniReady (on (copying (copier d) .idle c)) (copying (copier d) .idle c) (copier d) {} {} regs8 ∧
      words8 (copier d) (copying (copier d) .idle c) = d ∧ ((copying (copier d) .idle c).copy 3).st = .idle ∧
      (copying (copier d) .idle c).launch.wv ≤ (copier d).active.length) ∧
    (∀ st ∈ [CopyState.failed, .landing, .frozen], UniReady (on (copying (copier bcpyD) st)) (copying (copier bcpyD) st) (copier bcpyD) {} {} regs8 ∧
      ((copying (copier bcpyD) st).copy 3).st = st) ∧
    (UniReady (on (copying (copier bcpyD [some 0]))) (copying (copier bcpyD [some 0])) (copier bcpyD [some 0]) {} {} regs8 ∧ (copier bcpyD [some 0]).active.length < 8) ∧
    (bcpyBad [0, 0, 0x1000000] = true ∧ gathBad [0, 0, 0] = true ∧ layxBad [0, 0, 0] = true ∧
      (∀ d ∈ [bcpyD, bcpyG, bcpyH, bcpyZ], bcpyBad d = false) ∧ gathBad gathD = false ∧ (layxBad layxD || !pinsCover (copying (copier layxD)) (layxDstRange layxD) 9) = false) ∧
    (bcpyTotal bcpyZ = 0 ∧ bcpyTotal bcpyG = 128 ∧ spaceOf (fieldOf (bcpyH.getD 2 0) 6 2) = .hamper ∧ gathCount gathD * gathRow gathD = 64 ∧ (layxOf layxD).total = 8) ∧
    (Issue.trap? { copy := {}, src := some (.global, bcpySrcRange bcpyG), dst := (.global, 0, bcpyDstRange bcpyG), idx := none, bytes := 128 } team0 0 = none ∧
      (copying (copier bcpyG) .idle true).sbUsed + ((128 + 31) / 32 + 1) ≤ 2048 ∧ (copying (copier bcpyG) .idle true).draining = false ∧
      bcpyTotal [0x1000, 0, 0x10040] = 0 ∧ bitAt (0x10040 : DWord) 16 = true ∧ (copying (copier bcpyG)).exiting = false) ∧
    Issue.trap? { copy := {}, src := some (.global, bcpySrcRange bcpyD), dst := (.scratch, 0, bcpyDstRange bcpyD), idx := none, bytes := 128 } team0 0 = none ∧
    Issue.trap? { copy := {}, src := some (.global, gathSrcRange gathD), dst := (.scratch, 0, gathDstRange gathD), idx := some (.global, gathIdxRange gathD), bytes := 64 } team0 0 = none ∧
    Issue.trap? { copy := {}, src := some (.global, layxSrcRange layxD), dst := (.global, 0, layxDstRange layxD), idx := none, bytes := 8 } team0 0 = none := by
  refine ⟨by decide, by decide, by decide, by decide, by decide, by decide, by decide, by decide, by decide⟩

/-- CopiesAreIssued: a group that waits for its register is past its checks. -/
theorem witness_inIssue : ({ copier bcpyD with wait := .watermark } : Group).inIssue = true ∧ (copier bcpyD).inIssue = false ∧
    (let g : Group := { copier bcpyD with wait := .watermark }; UniReady (on (copying g .landing)) (copying g .landing) g {} {} regs8 ∧ (copying g .landing).launch.wv ≤ g.active.length) := by
  refine ⟨by decide, by decide, by decide⟩

/-- LaneCopiesAreIssued: a partial group, and a full one whose offsets end with the scratchpad. -/
theorem witness_LaneCopiesAreIssued : let w := w3 3 57 4 0 0 { x := some { plainX with ub := true, hc := true, c := 63 }, m := some { plainM with w := 6 }, lit := some 2032 };
    let g := at4 0x1000; let t := of g; let c := L t g w; let p : Group := { g with lanes := [some 0] };
    (LaneReady (on t) t g (guard3 w) w.m (w3Locs w 1 2 1) ∧ (t.copy 3).st = .idle ∧ c.execVisible {} ≠ [] ∧ t.launch.wv ≤ (c.execVisible {}).length) ∧
    (∀ ln ∈ c.execVisible {}, c.b64 ln w + (c.l32 ln w.a).signExtend 64 = 0x1000 ∧ (c.c32 ln w.m 0).toNat = 2032 ∧ 2032 % 16 = 0 ∧ 2032 + 16 ≤ 1024 * t.launch.scratch) ∧
    (LaneReady (on (of p)) (of p) p (guard3 w) w.m (w3Locs w 1 2 1) ∧ ((L (of p) p w).execVisible {}).length < (of p).launch.wv) ∧ t.draining = false ∧
    let no : W3 := { w with m := { w.m with x := some { plainX with ub := true, hc := true, c := 63, hg := true, gs := true, gi := 1 } } };
    LaneReady (on t) t g (guard3 no) no.m (w3Locs no 1 2 1) ∧ (guard3 no).isG = true ∧ (L t g no).groupGuard (guard3 no) = false ∧ (guard3 w).isG = false := by
  refine ⟨⟨⟨by decide, calm _ _ _ rfl rfl rfl⟩, by decide, by decide, by decide⟩, by decide, ⟨⟨by decide, calm _ _ _ rfl rfl rfl⟩, by decide⟩, by decide,
    ⟨by decide, calm _ _ _ rfl rfl rfl⟩, by decide, by decide, by decide⟩

/-- WatermarksAndPins: registers of each state, an arrival, lengths of 0, 2^28 and more, a free slot and none, a set with
room and one without, and slots that UNPIN finds full, empty and beyond the last. -/
theorem witness_WatermarksAndPins : let arr : Copy := { st := .failed, desc := [0, 0, 0x10000] }; let t : Team := { team0 with copies := [(3, arr)] };
    let g := fun n : Nat => grp [(20, 0x1000), (21, BitVec.ofNat 64 n)];
    (∀ st ∈ [CopyState.idle, .failed, .landing, .frozen], UniReady (on (copying group0 st)) (copying group0 st) group0 {} {} [] ∧ ((copying group0 st).copy 3).st = st) ∧
    (UniReady (on t) t group0 {} {} [] ∧ (t.copy 3).st ≠ .idle ∧ (t.copy 3).kind ≠ .lcpyGS ∧ bitAt ((t.copy 3).d 2) 16 = true ∧ t.exiting = false ∧
      let u : Team := { team0 with copies := [(3, { arr with st := .landing, part := 1, kind := .lcpyGS })] }; UniReady (on u) u group0 {} {} [] ∧ (u.copy 3).st = .landing ∧ (u.copy 3).part ≠ 0) ∧
    (∀ n ∈ [0, 1, 0x10000000, 0x10000001], UniReady (on (of (g n))) (of (g n)) (g n) {} {} (uniLocs 20 ++ uniLocs 21) ∧ ((U (of (g n)) (g n)).u 21).toNat = n) ∧
    ((∀ j < 8, sget none ((List.range 8).map fun j => (j, some ({ addr := 0, len := 128 } : PinSlot))) j ≠ none) ∧ sget none (copying group0).pins 1 = none ∧
      (∀ i < 1, sget none (copying group0).pins i ≠ none)) ∧
    (((on (of (g 1))).pinLines (U (of (g 1)) (g 1)) [] (blocksOf 0x1000 128 2)).2.1 = none ∧
      (({ on (of (g 1)) with tlb := [] } : State).pinLines (U (of (g 1)) (g 1)) [] (blocksOf 0x1000 128 2)).2.1 = some (.page 0 none)) ∧
    (∀ j ∈ [0, 1, 8], UniReady (on (copying (grp [(20, BitVec.ofNat 64 j)]))) (copying (grp [(20, BitVec.ofNat 64 j)])) (grp [(20, BitVec.ofNat 64 j)]) {} {} (uniLocs 20)) ∧
    (sget none (copying group0).pins 0 ≠ none ∧ (copying group0).copies = []) := by
  refine ⟨by decide, by decide, by decide, by decide, by decide, by decide, by decide⟩

/-- One line finds its set full exactly when the set may hold none, whatever set it is. -/
theorem pantry_one (s : State) (l : Nat) (h : s.pinned = []) :
    s.pantryFull [l] = decide (s.rfield (0x014 + homeDie (l * 128)) 20 5 < 1) := by
  simp [State.pantryFull, h, List.eraseDups, List.eraseDupsBy, List.eraseDupsBy.loop]
theorem witness_pantry : world.pantryFull [32] = false ∧ (world.setReg (0x014 + homeDie 0x1000) 0).pantryFull [32] = true := by
  rw [pantry_one _ _ rfl, pantry_one _ _ rfl]
  decide

/-! ### The Hamper, tiles and matrix products -/

/-- The record of chapter 18: 16 rows of 16 BF16 elements at offset 0 of the Hamper, held. -/
def rec0 : HRecord := { w0 := 0x20000000, w1 := 0x00100010, w3 := 0x80000000 }

/-- HamperRecords: a bad record, one beyond the Hamper's two KiB, one that ends with it, a record that lands, and selectors. -/
theorem witness_HamperRecords : let g := fun w0 : Nat => grp [(24, BitVec.ofNat 64 w0), (25, 0x00100010)]; let locs : List Loc := (List.range 3).map fun i => .s (24 + i);
    let new := fun w0 : Nat => ({ w0 := BitVec.ofNat 64 w0, w1 := 0x00100010, w3 := 0x80000000 } : HRecord);
    let busy : HRecord := { rec0 with w3 := 0x82600000 }; let t : Team := { of (g 0x20000000) with hrecs := [(3, busy)], copies := [(3, { st := .landing, dst := some { space := .hamper, first := 0, last := 127, hrec := 3 } })] };
    (∀ w0 ∈ [0x1020000000, 0x20000600, 0x20000640, 0x20000000], UniReady (on (of (g w0))) (of (g w0)) (g w0) {} {} locs ∧ (U (of (g w0)) (g w0)).s 24 = BitVec.ofNat 64 w0) ∧
    ((new 0x20000600).bad = false ∧ (new 0x20000600).hbase + (new 0x20000600).hlen = 2048 ∧ (new 0x20000640).bad = false ∧ 2048 < (new 0x20000640).hbase + (new 0x20000640).hlen ∧
      ({ w0 := 0, w1 := 0, w3 := 0x80000000 } : HRecord).bad = true) ∧
    (UniReady (on t) t (g 0x20000000) {} {} locs ∧ (t.hrec 3).held = true ∧ t.landingBusy (t.hrec 3) = true) ∧ (team0.hrec 3).held = false ∧
    ∀ v ∈ [0, 3, 4], UniReady (on (of (grp [(20, BitVec.ofNat 64 v)]))) (of (grp [(20, BitVec.ofNat 64 v)])) (grp [(20, BitVec.ofNat 64 v)]) {} {} (uniLocs 20) := by
  refine ⟨by decide, by decide, by decide, by decide, by decide⟩

/-- TileResults: a partial group, a tile beyond the last, the last tile, a scratchpad range that ends with the scratchpad,
an s-register pair, and a mask header. -/
theorem witness_TileResults : let g := fun n : Nat => grp [(20, BitVec.ofNat 64 n), (29, 1024), (30, 1920), (31, 2032)]; let t := fun n : Nat => of (g n);
    let p : Group := { g 3 with lanes := [some 0] };
    (∀ n ∈ [3, 4], UniReady (on (t n)) (t n) (g n) {} {} (uniLocs 20 ++ uniLocs 29) ∧ (t n).launch.wv ≤ (g n).active.length ∧ ((U (t n) (g n)).u 20).toNat = n ∧ (g n).progress = none) ∧
    (UniReady (on (of p)) (of p) p {} {} (uniLocs 20 ++ uniLocs 29) ∧ p.active.length < (of p).launch.wv ∧ p.progress = none) ∧
    (team0.copies = [] ∧ team0.errors = [] ∧ team0.scratchPoison = [] ∧ team0.hpoison = []) ∧
    (1024 % 64 = 0 ∧ 1024 + 1024 ≤ 1024 * team0.launch.scratch ∧ 1920 % 64 = 0 ∧ 1920 + 128 ≤ 1024 * team0.launch.scratch ∧
      (match team0.storeMeets .scratch 0 1024 1024 with | .pass => true | _ => false) = true) ∧ 62 + 1 < 64 ∧
    (maskHeader 0x00010004 0 = some (4, 1, 0) ∧ 2032 % 8 = 0 ∧ 2032 + 8 + 2 * 4 * 1 ≤ 1024 * team0.launch.scratch) := by
  refine ⟨by decide, by decide, by decide, by decide, by decide, by decide⟩

/-- A team with two held records, and with a mask of 16 rows in tile 2. -/
def mixer (g : Group) : Team := { of g with hrecs := [(0, rec0), (1, rec0)], sums := [(2 * 32, 0x00010010)] }

/-- MatrixProducts: a partial group; a full one with the records of chapter 18 and a mask tile; and lists of one length. -/
theorem witness_MatrixProducts : let g := grp [(20, 3), (21, 0x200000000)]; let p : Group := { g with lanes := [some 0] }; let w := we 20 21 1 0;
    (UniReady (on (mixer p)) (mixer p) p {} {} (uniLocs 20 ++ uniLocs 21) ∧ p.active.length < 8 ∧ p.progress = none) ∧
    (UniReady (on (mixer g)) (mixer g) g {} {} (uniLocs 20 ++ uniLocs 21) ∧ 8 ≤ g.active.length ∧ g.progress = none) ∧
    (let o := (U (mixer g) g).matOp w; (mixer g).hrec o.aKey = rec0 ∧ (mixer g).hrec o.bKey = rec0 ∧ o.tile = 3 ∧
      o.recordTrap (mixer g) 0xFF false = none ∧ o.recordTrap (mixer g) 0xFF true = none ∧ (mixer g).maskOfTile o.half 2 = some (16, 1, 0)) ∧
    (rec0.rf = false ∧ rec0.rfail = false ∧ rec0.fmt ≠ 7 ∧ fieldOf (0x200000000 : DWord) 32 8 = 2 ∧ 3 < team0.launch.acc) ∧
    ((mixer g).copies = [] ∧ (mixer g).errors = [] ∧ (mixer g).scratchPoison = [] ∧ (mixer g).hpoison = []) ∧ [(1 : Int)].length = [(2 : Int)].length := by
  refine ⟨by decide, by decide, by decide, by decide, by decide, by decide⟩

/-! ### Guided pairs -/

/-- Two groups of a team, each with the eight fibres of a half, and the entry that they share. -/
def left : Group := grp [(27, 1), (28, 0x40200000), (29, 0)]
def right : Group := { num := 1, core := 0, pc := 0x400, lanes := (List.range 8).map fun i => some (8 + i), formed := 0xFF }
def couple (e : PairEntry) (a : Option Arrival := none) (g : Group := left) (r : Group := right) : Team :=
  { team0 with groups := [g, { r with arrival := a }], live := List.range 16, launch := { launch0 with fpt := 16 }
               hrecs := [(0, rec0), (1, rec0), (2, rec0)], pairs := if e = {} then [] else [(0, e)] }
def openBy (role : Nat) (g : Group) : PairEntry := let r := ({} : PairEntry).record role g; { r with w3 := setField (setField 0 3 1 role) 0 3 1 }
def bound (pend role : Nat) (alone : Bool := false) : PairEntry :=
  let r := (({} : PairEntry).record 0 left).record 1 right
  let b : PairEntry := { r with w3 := 2 }
  if alone then b.leave 1 else b.setPend pend role 0

/-- PairsBindAndGuide, PAIR and UNPAIR: an empty slot, one opened in the same role and in the other with and without its
group, one bound, fibres that another slot names, and fibres that are too far apart. -/
theorem witness_PairsBindAndGuide : let arr : Arrival := { slot := 0, kind := 0, words := 1, ops := [30] };
    let far : Group := { left with lanes := [some 0, some 1, some 2, some 3, some 4, some 5, some 6, some 64] };
    (∀ t ∈ [couple {}, couple (openBy 1 right) (some arr), couple (openBy 1 right), couple (openBy 0 right), couple (bound 0 0), couple (openBy 0 left)],
      UniReady (on t) t left {} {} [] ∧ t.launch.wv ≤ left.active.length ∧ left.progress = none) ∧
    (left.inReach = true ∧ far.inReach = false ∧ UniReady (on (couple {} none far)) (couple {} none far) far {} {} []) ∧
    ((openBy 1 right).state = 1 ∧ (openBy 1 right).orole ≠ 0 ∧ (openBy 0 right).orole = 0 ∧ left.isSet ((openBy 0 right).set 0) = false ∧ (bound 0 0).state = 2) ∧
    ((couple (openBy 1 right) (some arr)).arrivedAt 0 0 = some ({ right with arrival := some arr }, arr) ∧ right.core = left.core ∧
      (couple (openBy 1 right)).arrivedAt 0 0 = none) ∧
    ((∀ f ∈ (openBy 1 right).set 1, f ∉ left.fibres) ∧ ∃ f ∈ (bound 0 0).set 0, f ∈ left.fibres) := by
  refine ⟨by decide, by decide, by decide, by decide, by decide⟩

/-- PairsBindAndGuide: a waiting half that a fault has parked, on the partner's core and on the other core of a pair, and a half
that waits at its own slot. -/
theorem witness_parkedHalf : let t : Team := couple (openBy 1 right); let u : Team := { t with groups := [left], attic := right.fibres.map fun f => { fid := f, core := 1, slot := 0, pc := 0x400, st := .fault } }
    (t.arrivedAt 0 0 = none ∧ ∀ f ∈ (openBy 1 right).set 1, t.coreOf f = left.core) ∧
    (u.arrivedAt 0 0 = none ∧ ∃ f ∈ (openBy 1 right).set 1, u.coreOf f ≠ left.core) ∧ left.isSet ((openBy 0 left).set 0) = true := by
  refine ⟨by decide, by decide, by decide⟩

/-- PairsBindAndGuide, GUIDE, and PairedProducts: a half alone, one that arrives first and one that finds its partner. -/
theorem witness_PairedProducts : let ops : List DWord := [3, 1, 0x40200000]; let k : List DWord := [2, 0, 0, 0, 2, 1];
    let y : Arrival := { slot := 0, kind := 1, words := 2, ops := k }; let b : Arrival := { slot := 0, kind := 2, words := 1, ops := ops };
    let locs : List Loc := uniLocs 20 ++ uniLocs 29 ++ uniLocs 28; let g : Group := { left with sregs := (20, 3) :: left.sregs };
    (∀ t ∈ [couple (bound 0 0 true) none g, couple (bound 0 0) none g, couple (bound 2 1) (some b) g, couple (bound 1 1) (some y) g],
      UniReady (on t) t g {} {} locs ∧ t.launch.wv ≤ g.active.length ∧ g.progress = none ∧ g.arrival = none ∧ (t.pair 0).half? g = some 0 ∧
      t.errors = [] ∧ t.copies = [] ∧ t.hpoison = []) ∧
    ((bound 0 0 true).state = 3 ∧ (bound 0 0).state = 2 ∧ (bound 0 0).pend = 0 ∧ (bound 2 1).pend ≠ 0 ∧ (bound 2 1).prole ≠ 0 ∧ (bound 2 1).pstep = 0) ∧
    ((couple (bound 2 1) (some b) g).arrivedAt 0 0 = some ({ right with arrival := some b }, b) ∧ b.kind = 2 ∧
      (couple (bound 1 1) (some y) g).arrivedAt 0 0 = some ({ right with arrival := some y }, y) ∧ y.kind = 1) ∧
    (let t := couple (bound 1 1) (some y) g; let o := (U t g).matOp (we 20 29 2 0); o.recordTrap t 0xFF false = none ∧ y.ops.take 4 = [BitVec.ofNat 64 o.bKey, (U t g).u 29 &&& 0xFFFFFFFF, 0, 0] ∧
      o.tile = 3 ∧ (y.ops.getD 4 0).toNat ≠ o.tile ∧ (t.hrec (y.ops.getD 5 0).toNat).fmt = (t.hrec o.aKey).fmt ∧
      let z : Arrival := { y with ops := [2, 0, 0, 0, 3, 1] }; (couple (bound 1 1) (some z) g).arrivedAt 0 0 = some ({ right with arrival := some z }, z) ∧ (z.ops.getD 4 0).toNat = o.tile) := by
  refine ⟨by decide, by decide, by decide, by decide⟩

/-! ### Token rings and claim tickets -/

/-- The device with ring 1 of eight entries for partition 0, and a group whose s20 and s21 are an offset and a count. -/
def ringed : State := (world.setReg 0x049 0x1000).setReg 0x059 0x23
def toks (off n : Nat) : Group := grp (from_ 20 [BitVec.ofNat 64 off, BitVec.ofNat 64 n])
def tokTeam (off n : Nat) (contain : Bool := false) : Team := of (toks off n) { team0 with launch := { launch0 with contain := contain } }

/-- TokensArePublished: a ring that is off and one of another partition, no token, an offset that is not aligned, tokens
that end with the scratchpad and beyond it, as many tokens as the ring has and more, with the store buffer and without; and the
engine's step on a ring with room and on a full one. -/
theorem witness_TokensArePublished : let at_ := fun (k off n : Nat) (c : Bool) (s : State) => UniReady (on (tokTeam off n c) s) (tokTeam off n c) (toks off n) {} {} (uniLocs 20 ++ uniLocs 21) ∧
      (we 30 20 21 k).sub.toNat % 16 = k ∧ fieldOf ((U (tokTeam off n c) (toks off n)).u 20) 0 32 = off ∧ ((U (tokTeam off n c) (toks off n)).u 21).toNat = n ∧
      (toks off n).progress = none ∧ (tokTeam off n c).closeSystem.sbUsed < 2048 ∧ (tokTeam off n c).draining = false;
    (at_ 0 0 1 false ringed ∧ ringed.ringOn 0 0 = false ∧ at_ 1 0 1 false (ringed.setReg 0x059 0x63) ∧ (ringed.setReg 0x059 0x63).ringOn 1 0 = false) ∧
    (∀ p ∈ [(0, 0), (8, 1), (2032, 1), (2032, 2), (0, 8), (0, 9)], ∀ c ∈ [true, false], at_ 1 p.1 p.2 c ringed) ∧
    (ringed.ringOn 1 0 = true ∧ ringed.ringSize 1 = 8 ∧ 2032 % 16 = 0 ∧ 2032 + 16 * 1 ≤ 1024 * launch0.scratch ∧ 1024 * launch0.scratch < 2032 + 16 * 2) ∧
    (team0.copies = [] ∧ team0.errors = [] ∧ team0.scratchPoison = []) ∧
    (ringed.ringCross (ringed.coreSec 0) 1 8 = none ∧ ringed.port0 = true ∧ ∀ p ∈ [(2032, 1), (0, 8)], ringed.remotePending (tokTeam p.1 p.2) = false) ∧
    (ringed.bufail 24 = false ∧ (List.replicate 16 (0 : Byte)).length = 16 ∧ (ringed.ring 1).next + 8 ≤ (ringed.ring 1).tseen + 8 ∧
      let f : State := { ringed with rings := [(1, { next := 8 })] }; f.ringTail 1 + 8 < (f.ring 1).next + 1) := by
  refine ⟨by decide, by decide, by decide, by decide, by decide, by decide⟩

/-- Claim tickets: the device whose partition 0 has a page table that maps its first GiB to itself, a Larder of n slots at
0x20000, and a bound graph of one node; words of its memory; and slot 0 with a status, an input of `il` bytes at 0x30000 and
its feedback. -/
def book (n : Nat) (ws : List (Nat × DWord)) : State :=
  let r : State := (((world.setReg (pidx 0 10) 0x10001).setReg (pidx 0 12) 0x20001).setReg (pidx 0 13) (BitVec.ofNat 64 n)).setReg (pidx 0 9) 0x80000000
  let m := ([(0x10000, (0x8000000000010100 : DWord)), (0x10100, 0x8000000000010200), (0x10200, 0xC000000000000300)] ++ ws).foldl (fun (m : Memory) (p : Nat × DWord) => ssetList 0 m p.1 (bytes64 p.2)) r.mem
  { r with parts := [(0, { graph := some { nodes := [launch0] } })], mem := m }
def word0Of (gen status : Nat) : DWord := BitVec.ofNat 64 (2 ^ 32 * gen + 2 ^ 48 * status)

/-- What an allocation, an engine step, a handle's judgement and a read gave. -/
def Alloc.found? : Alloc → Option (Nat × Nat)
  | .found i gen _ => some (i, gen)
  | _ => none
def Alloc.full? : Alloc → Bool
  | .full _ => true
  | _ => false
def ended : Engine → Option Nat
  | .done st _ _ => some st
  | _ => none
def judged : Ticket → Option Nat
  | .ok _ _ => some 0
  | .no st _ _ => some st
  | _ => none
def put? : State × Xlat → Bool
  | (_, .ok _ _ _) => true
  | _ => false
def got : GroupGot → State → State
  | .ok _ s, _ => s
  | _, s => s

/-- TKISSUE's s16 to s21: five bytes at 0x30000 and none, and a fourth word. -/
def issuer (a il : Nat) (d3 : DWord) : Group := grp (from_ 16 [BitVec.ofNat 64 a, BitVec.ofNat 64 il, 0x30010, d3])
def bytesIn (s : State) (g : Group) (a : DWord) (n : Nat) : State := got ((U (of g) g).ticketGot (on (of g) s) a n) (on (of g) s)

/-- TicketsAreIssued: a reserved bit, a range beyond the global space, a Larder that is off, one whose slots are in use, and
one whose second slot is FREE. -/
theorem witness_TicketsAreIssued : let g := issuer 0x30000 5 3; let used : List (Nat × DWord) := [(0x20000, word0Of 1 2)];
    (∀ p ∈ [(0x30000, 5, 0x1000000000), (2 ^ 56 - 4, 5, 0), (0x30000, 5, 3)], let h := issuer p.1 p.2.1 (BitVec.ofNat 64 p.2.2); UniReady (on (of h) (book 2 [])) (of h) h {} {} ((List.range 6).map fun i => .s (16 + i)) ∧
      ((U (of h) h).s 16).toNat = p.1 ∧ fieldOf ((U (of h) h).s 17) 0 32 = p.2.1 ∧ ((U (of h) h).s 19).toNat = p.2.2) ∧
    (∀ n ∈ [0, 1, 2], let s := book n used; let c := U (of g) g;
      (bytesOf (c.ticketGot (on (of g) s) 0x30000 5)).isSome = true ∧ (bytesOf (c.ticketGot (bytesIn s g 0x30000 5) 0x30010 3)).isSome = true ∧
      (on (of g) s).larderOff 0 = (n == 0) ∧ (on (of g) s).remotePending (of g) = false) ∧
    (Alloc.full? ((on (of g) (book 1 used)).allocFrom (some 0) 0 none 16) = true ∧ Alloc.found? ((on (of g) (book 2 used)).allocFrom (some 0) 0 none 16) = some (1, 0)) ∧
    (put? (((on (of g) (book 2 used)).release (of g) g).enginePut (some 0) 0 none (0x20080 + 8) (List.replicate 120 0)) = true) := by
  refine ⟨by decide, ?_, ?_, ?_⟩
  · decide +kernel
  · decide +kernel
  · decide +kernel

/-- TicketsAreIssued, R369: the same under CONTAIN, where the slot becomes PENDING and its ticket fits the store buffer. -/
theorem witness_PENDING : let g := issuer 0x30000 5 3; let t : Team := of g { team0 with launch := { launch0 with contain := true } }; let s := on t (book 2 [(0x20000, word0Of 1 2)]);
    (UniReady s t g {} {} ((List.range 6).map fun i => .s (16 + i)) ∧ t.launch.contain = true ∧ t.draining = false ∧ s.larderOff 0 = false) ∧
    (bytesOf ((U t g).ticketGot s 0x30000 5)).isSome = true ∧
    (match s.allocFrom (some 0) 0 none 16 with
      | .found i gen S => decide (i = 1) && decide (gen = 0) && put? (S.enginePut (some 0) 0 none (S.slotAddr 0 1) (bytes64 (2 ^ 48 + 1)))
      | _ => false) = true ∧
    (t.closeSystem.bufferStores [{ owner := none, addr := 0x20080, data := List.replicate 128 0 }]).sbUsed ≤ 2048 ∧ t.closeSystem.sbUsed ≤ 2048 := by
  refine ⟨by decide, by decide +kernel, by decide +kernel, by decide +kernel⟩
/-- TicketsAreIssued, the search: a slot in use and one whose word 0 is unusable are passed, and the FREE one after them is found. -/
theorem witness_search : (match (book 3 [(0x20000, word0Of 1 2), (0x20080, word0Of 1 9), (0x20100, word0Of 5 0)]).allocFrom none 0 none 3 with
    | .found i gen _ => decide (i = 2) && decide (gen = 5) | _ => false) = true := by
  decide +kernel

/-- TicketsAreRead, the instructions: selectors 15 and 16; a Larder that is off, a handle beyond its slots, one with high
bits, and one of a slot that is issued, with feedback of its generation, of another and without, with the store buffer and without. -/
theorem witness_TicketsAreRead : let g := fun h : Nat => grp (from_ 20 [BitVec.ofNat 64 h, 15]); let h1 : DWord := 0x100000000;
    let t := fun (h : Nat) (c : Bool) => of (g h) { team0 with launch := { launch0 with contain := c } };
    let fed := fun f : DWord => on (t 0x100000000 false) (book 1 [(0x20000, word0Of 1 2), (0x20040, f)]);
    (∀ h ∈ [0x100000000, 1, 0x1000000000000], ∀ c ∈ [true, false], UniReady (on (t h c) (book 1 [])) (t h c) (g h) {} {} (uniLocs 20 ++ uniLocs 21) ∧ ((U (t h c) (g h)).u 20).toNat = h ∧
      ((U (t h c) (g h)).u 21).toNat = 15 ∧ (t h c).launch.contain = c ∧ (t h c).sbUsed < 2048 ∧ (t h c).draining = false) ∧
    ((book 0 []).larderOff 0 = true ∧ (book 1 []).larderOff 0 = false ∧ (book 1 []).handleOut 0 1 = true ∧ (book 1 []).handleOut 0 0x1000000000000 = true ∧ (book 1 []).handleOut 0 h1 = false) ∧
    (let u := of (grp [(20, h1), (21, 16)]); UniReady (on u) u (grp [(20, h1), (21, 16)]) {} {} (uniLocs 20 ++ uniLocs 21)) ∧
    (∀ f ∈ [0x1000100000000, 0x2000100000000, 0], let s := fed (BitVec.ofNat 64 f); let c := U (t 0x100000000 false) (g 0x100000000);
      (bytesOf (c.ticketGot s (s.slotAddr 0 0 + BitVec.ofNat 64 (8 * 15)) 8)).isSome = true ∧ judged (s.ticket (some 0) 0 none h1 [1]) = some 0 ∧
      ended (s.dropStep (some 0) 0 none h1) = some 0 ∧ ended (s.fedStep (some 0) 0 none h1) = some 0 ∧
      (bytesOf (c.ticketGot s (s.slotAddr 0 0 + 0x40) 32)).map (fun bs => (bs.length, wordAt bs 4)) = some (32, (BitVec.ofNat 64 f >>> 32).setWidth 32)) ∧
    judged ((on (t 0 false) (book 0 [])).ticket (some 0) 0 none h1 [1]) = some 5 := by
  refine ⟨by decide, by decide, by decide, ?_, ?_⟩
  · decide +kernel
  · decide +kernel

/-- What the engine reads in word 0. -/
def word0? : Word0 × State → Option (Bool × DWord)
  | (.ok w, _) => some (true, w)
  | (.unusable w, _) => some (false, w)
  | _ => none

/-- TicketsAreRead, the engine: a slot of each status from FREE to one that is unusable, under a handle of its generation and
of another; and word 0 can be written. -/
theorem witness_the_engine_judges : let s := fun st : Nat => book 1 [(0x20000, word0Of 1 st)];
    (∀ st ∈ [0, 1, 2, 3, 7, 8], word0? ((s st).word0 (some 0) 0 none 0) = some (decide (st < 8), word0Of 1 st) ∧ fieldOf (word0Of 1 st) 32 16 = 1 ∧ fieldOf (word0Of 1 st) 48 8 = st ∧
      (s st).larderOff 0 = false ∧ (s st).handleOut 0 0x100000000 = false ∧ (s st).handleOut 0 0x200000000 = false) ∧
    ∀ st ∈ [2, 3, 7], put? ((s st).enginePut (some 0) 0 none ((s st).slotAddr 0 0) (bytes64 0)) = true := by
  decide +kernel

/-- A slot whose ticket names an input of five bytes at 0x30000, their digest, a version and a node. -/
def ticketOf (ver node : Nat) (dig : DWord) (fed : DWord := 0) : List (Nat × DWord) :=
  [(0x20000, word0Of 1 2), (0x20008, BitVec.ofNat 64 (ver + 2 ^ 32 * node)), (0x20020, 0x30000), (0x20028, 5), (0x20030, dig), (0x20040, fed)]
def redeemer (c : Bool) : Team := of (grp [(20, 0x100000000)]) { team0 with launch := { launch0 with contain := c } }
def words15 (s : State) : Option (List DWord) :=
  (bytesOf ((U (redeemer false) (grp [(20, 0x100000000)])).ticketGot s (s.slotAddr 0 0 + 8) 120)).map fun bs => 0 :: (List.range 15).map fun i => dwordAt bs (8 * i)

/-- TicketsAreRedeemed, TKREDEEM: a handle that is judged, a node that is absent, an input that has changed, and one that
has not, with the store buffer and without; a version that is retained and one that is not; and a Cellar without room. -/
theorem witness_TicketsAreRedeemed : let g := grp [(20, 0x100000000)]; let c := U (redeemer false) g; let h : DWord := 0x100000000;
    let s := fun (ver node : Nat) (dig : DWord) (f : DWord) => on (redeemer false) (book 1 (ticketOf ver node dig f));
    (∀ c ∈ [true, false], UniReady (on (redeemer c) (book 1 [])) (redeemer c) g {} {} (uniLocs 20 ++ uniLocs 57) ∧ (redeemer c).launch.contain = c ∧ (redeemer c).closeSystem.sbUsed < 2048 ∧ (redeemer c).draining = false) ∧
    (∀ m ∈ [0, 1, 2], (we 30 20 57 m).sub.toNat % 4 = m) ∧
    (judged ((s 0 0 5 0).ticket (some 0) 0 none 0 [1, 3]) = some 2 ∧ ∀ p ∈ [(0, 0, 5, 0), (0, 1, 5, 0), (0, 0, 6, 0), (9, 0, 5, 0), (0, 0, 5, 0x1000100000000)],
      let S := s p.1 p.2.1 (BitVec.ofNat 64 p.2.2.1) (BitVec.ofNat 64 p.2.2.2)
      judged (S.ticket (some 0) 0 none h [1, 3]) = some 0 ∧ (S.redeemNode 0 0).isSome = true ∧ S.redeemNode 0 1 = none ∧
      words15 S = some ((List.range 16).map fun i => if i = 1 then BitVec.ofNat 64 (p.1 + 2 ^ 32 * p.2.1) else if i = 4 then 0x30000 else if i = 5 then 5
        else if i = 6 then BitVec.ofNat 64 p.2.2.1 else if i = 8 then BitVec.ofNat 64 p.2.2.2 else 0) ∧
      (bytesOf (c.ticketGot S 0x30000 5)).map digest = some 5 ∧ S.remotePending (redeemer false) = false ∧ S.childFull 0 = false ∧
      S.publishing = false ∧ S.retained 0 = true ∧ S.retained 9 = false ∧ (S.bindHold 0).isSome = true ∧ ((S.setRfield 0x010 32 7 127).bindHold 0).isSome = false ∧
      put? (S.enginePut (some 0) 0 none (S.slotAddr 0 0) (bytes64 0)) = true) ∧
    (let S := s 0 0 5 0; (words15 S).map (fun ws => ended ((S.release (redeemer false) g).redeemStep (some 0) 0 none h 0 0 ws)) = some (some 0)) := by
  refine ⟨by decide, by decide, ?_, ?_⟩
  · decide +kernel
  · decide +kernel
theorem witness_childFull : (flow.setPart 0 { children := List.replicate 4096 { index := 0, bytes := [], since := 0, prio := 0 } }).childFull 0 = true := by
  show decide (4096 ≤ (List.replicate 4096 _).length) = true
  rw [List.length_replicate]
  rfl

/-- TicketsAreRedeemed, TKBIND: a record that is not aligned, the greatest version and one beyond it, a retained one; an
instance of no redeem; and the greatest length and one beyond it, an output that agrees, and one that differs, under each mode. -/
theorem witness_TKBIND : let g := fun a v : Nat => grp (from_ 20 [BitVec.ofNat 64 a, BitVec.ofNat 64 v]);
    let t := fun (a v : Nat) (c : Bool) => of (g a v) { team0 with launch := { launch0 with contain := c } };
    let ws := fun (m : Nat) (d : DWord) => (List.range 16).map fun i => if i = 5 then BitVec.ofNat 64 (2 ^ 32 * m) else if i = 11 then d else 0;
    let w := fun (m : Nat) (d : DWord) => ({ world with insts := [{ id := 7, part := 0, index := 0, launch := launch0, placed := 1, redeem := some (ws m d) }] } : State);
    (∀ p ∈ [(0x1020, 0), (0x1000, 0x100000000), (0x1000, 0xFFFFFFFF), (0x1000, 0), (0x1000, 5)], ∀ c ∈ [true, false],
      UniReady (on (t p.1 p.2 c)) (t p.1 p.2 c) (g p.1 p.2) {} {} (uniLocs 20 ++ uniLocs 21) ∧ ((U (t p.1 p.2 c) (g p.1 p.2)).u 20).toNat = p.1 ∧
      ((U (t p.1 p.2 c) (g p.1 p.2)).u 21).toNat = p.2 ∧ (t p.1 p.2 c).launch.contain = c ∧ (t p.1 p.2 c).closeEntries.sbUsed < 2048 ∧ (t p.1 p.2 c).draining = false) ∧
    (let u := t 0x1000 0 false; ((on u).release u (g 0x1000 0)).publishing = false ∧ (bytesOf ((U u (g 0x1000 0)).groupRead (on u) 0 u.plainVia 0x1000 64)).isSome = true ∧ ((on u).release u (g 0x1000 0)).retained 0 = true ∧
      ((on u).release u (g 0x1000 0)).retained 0xFFFFFFFF = false ∧ ((on u).release u (g 0x1000 0)).childFull 0 = false ∧ (((on u).release u (g 0x1000 0)).bindHold 0).isSome = true) ∧
    ((world.inst? 7).bind (·.redeem) = none ∧ ∀ m ∈ [0, 1], ∀ d ∈ [5, 6], let u := t 0x1000 5 false;
      ((on u (w m (BitVec.ofNat 64 d))).inst? 7).bind (·.redeem) = some (ws m (BitVec.ofNat 64 d)) ∧ (ws m (BitVec.ofNat 64 d)).getD 11 0 = BitVec.ofNat 64 d ∧ fieldOf ((ws m 0).getD 5 0) 32 8 = m ∧
      (bytesOf ((U u (g 0x1000 5)).ticketGot (on u (w m (BitVec.ofNat 64 d))) 0x1000 5)).map digest = some 5) := by
  refine ⟨by decide, ?_, ?_⟩
  · decide +kernel
  · decide +kernel

/-- TicketsAreRedeemed, R406: a PUBLISH on which the devices have agreed is in flight. -/
theorem witness_publishing : let c : Collective := { core := 0, inst := 7, team := 0, num := 1, dest := 30, words := 1, kind := 1, form := 0, shape := [0], index := 0, agreed := true };
    let s := (on (redeemer false) (book 1 (ticketOf 0 0 5 0))).setPart 0 { coll := some c, graph := some { nodes := [launch0] } };
    s.publishing = true ∧ judged (s.ticket (some 0) 0 none 0x100000000 [1, 3]) = some 0 ∧ (s.redeemNode 0 0).isSome = true ∧
    ((s.release (redeemer false) (grp [(20, 0x100000000)])).publishing = true) := by
  refine ⟨by decide, by decide +kernel, by decide, by decide⟩

/-- TicketsAreRedeemed, the Cellar: the version that stands, one that an entry holds within the depth, at the count's end and
below it, and one that no entry holds. -/
theorem witness_Cellar : let s := fun (n m : Nat) => ((world.setReg 0x010 (BitVec.ofNat 64 (0x11 + 2 ^ 32 * m))).setReg 0x011 2).setReg 0x038 (BitVec.ofNat 64 (0x10 * 2 ^ 32 + 2 ^ 31 + 2 ^ 24 * n));
    ((s 0 0).retained 0x11 = true ∧ (s 0 0).retained 0xF = false) ∧ ∀ n ∈ [126, 127], ∀ m ∈ [126, 127], let S := s n m;
      let e := S.reg (0x038 + (0x10 : Word).toNat % 16); fieldOf e 24 7 = n ∧ S.rfield 0x010 32 7 = m ∧ bitAt e 31 = true ∧ fieldOf e 32 32 = (0x10 : Word).toNat ∧ S.retained 0x10 = true := by
  decide

/-! ### The optimizer step, weight tiles and collectives -/

/-- OptimizerSteps: WPST with a set reserved bit, with copies that meet, and with plain ones at whose rows every page can be
written; and STEPRD's selectors. OPTAW and SHARD ask for nothing that `lane_ready` does not give. -/
theorem witness_OptimizerSteps : let g := fun (b pp r : Nat) => grp (from_ 16 [0x1000, BitVec.ofNat 64 b, BitVec.ofNat 64 (pp + 2 ^ 32 * 16), BitVec.ofNat 64 (1792 + 2 ^ 32 * r)]);
    let locs : List Loc := (List.range 4).map fun i => .s (16 + i);
    (∀ p ∈ [(0x2000, 16, 0), (0x2000, 16, 1), (0x10F0, 16, 0), (0x1100, 16, 0), (0x2000, 0, 0)], let u := g p.1 p.2.1 p.2.2; UniReady (on (of u)) (of u) u {} {} locs ∧
      ((U (of u) u).s 16).toNat = 0x1000 ∧ ((U (of u) u).s 17).toNat = p.1 ∧ fieldOf ((U (of u) u).s 18) 0 32 = p.2.1 ∧ fieldOf ((U (of u) u).s 18) 32 32 = 16 ∧
      fieldOf ((U (of u) u).s 19) 0 32 = 1792 ∧ fieldOf ((U (of u) u).s 19) 32 32 = p.2.2) ∧
    ((0x1000 < 0x10F0 + 15 * 16 + 16 ∧ 0x10F0 < 0x1000 + 15 * 16 + 16) ∧ ¬ (0x1100 < 0x1000 + 15 * 16 + 16)) ∧
    (let u := g 0x2000 16 0; ∀ x < 16, (U (of u) u).reach (on (of u)) .write false (BitVec.ofNat 64 (0x1000 + x * 16)) = some (dest0 (0x1000 + x * 16)) ∧
      (U (of u) u).reach (on (of u)) .write false (BitVec.ofNat 64 (0x2000 + x * 16)) = some (dest0 (0x2000 + x * 16))) ∧
    (1792 % 32 = 0 ∧ 1792 + 256 * 1 ≤ 1024 * launch0.scratch ∧ team0.Quiet ∧ ∀ p ∈ (on team0).posted, p.core ≠ 0) ∧
    ∀ n ∈ [0, 1, 2, 3], let u := grp [(20, BitVec.ofNat 64 n)]; UniReady (on (of u)) (of u) u {} {} (uniLocs 20) ∧ ((U (of u) u).u 20).toNat = n := by
  refine ⟨by decide, by decide, by decide, ⟨by decide, by decide, ⟨rfl, rfl, rfl, rfl⟩, by decide⟩, by decide⟩

/-- The device as position 0 of two, with 64 MiB of live weights at 2^26 when `live` holds. -/
def meshed (live : Bool := false) : State :=
  let s := ((world.setReg 0x009 2).setReg 0x200 0x8000).setReg 0x201 0x8101
  if live then s.setReg 0x00F (BitVec.ofNat 64 (2 ^ 16 + 2 ^ 40)) else s
def goes : Sum (DWord × Xlat) (List Piece × State) → Bool
  | .inr _ => true
  | _ => false
def after : Sum (DWord × Xlat) (List Piece × State) → State → State
  | .inr p, _ => p.2
  | _, s => s

/-- CollectivesStart, COLL: one in flight, a descriptor that is not right in one way or another, a device without a topology,
and for each form a descriptor that starts. -/
theorem witness_CollectivesStart : let d := fun (b2 b3 : Nat) => grp (from_ 16 [0x1000, 0x3000, BitVec.ofNat 64 b2, BitVec.ofNat 64 b3]);
    let locs : List Loc := (List.range 4).map fun i => .s (16 + i);
    let busy : Collective := { core := 0, inst := 7, team := 0, num := 1, dest := 30, words := 1, kind := 0, form := 0, shape := [64, 0, 0], index := 0 };
    (∀ p ∈ [(64, 5), (0x10000000040, 5), (64, 0x10000), (48, 5), (0, 5), (0x100000040, 5), (0x200000040, 5)], let u := d p.1 p.2; UniReady (on (of u) meshed) (of u) u {} {} locs ∧
      ((U (of u) u).s 18).toNat = p.1 ∧ ((U (of u) u).s 19).toNat = p.2) ∧
    (((meshed.setPart 0 { coll := some busy }).part 0).coll = some busy ∧ busy.num ≠ group0.num ∧ (meshed.part 0).coll = none ∧
      (on team0 meshed).engineQueue 0 = [] ∧ (let s := (on ({ team0 with groups := [group0, { right with wait := .engine }] }) meshed).setPart 0 { collQueue := [(7, 0, 1)] };
        s.engineQueue 0 = [(7, 0, 1)] ∧ (7, 0, 0) ∉ s.engineQueue 0)) ∧
    (world.self? = none ∧ meshed.self? = some 0 ∧ ∀ f ∈ [0, 1, 2, 3], (we 30 16 57 f).sub.toNat % 4 = f) ∧
    (let u := d 64 5; let c := U (of u) u; let s := on (of u) meshed; ∀ p ∈ [(64, 128), (128, 64), (128, 128), (64, 64)],
      (0x1000 + p.1 ≤ 2 ^ 56 ∧ 0x3000 + p.2 ≤ 2 ^ 56 ∧ ¬ (0x3000 ≤ 0x1000 + p.1 - 1)) ∧ goes (c.collMap s .read [] (partsOf [(0x1000, p.1)])) = true ∧
      goes (c.collMap (after (c.collMap s .read [] (partsOf [(0x1000, p.1)])) s) .write [] (partsOf [(0x3000, p.2)])) = true ∧
      c.collTable { kind := 0, form := 0, shape := [64, 0, 5], src := [(0x1000, p.1)], dst := [(0x3000, p.2)] } = none) := by
  refine ⟨by decide, by decide, by decide +kernel, by decide +kernel⟩
theorem witness_Collectives_wait : (on team0 meshed).remotePending team0 = false ∧ launch0.contain = false := by decide

/-- CollectivesStart, PUBLISH: device 5 of the same mesh, which owns four of the 1024 blocks of the staging range at 0. -/
def staged : State := ((({ meshed with mem := (book 1 []).mem } : State).setReg (pidx 0 10) 0x10001).setReg 0x00F (BitVec.ofNat 64 (2 ^ 16 + 2 ^ 40))).setReg 0x008 5 |>.setReg 0x201 0x8105 |>.setReg 0x300 5
def stagedBlocks : List (Nat × Nat) :=
  ((List.range 1024).map fun i => ((0 : DWord) + BitVec.ofNat 64 (2 ^ 16 * i))).filterMap fun a => if staged.ownerOf a = fieldOf (staged.reg 0x008) 0 8 then some (a.toNat, 2 ^ 16) else none
theorem witness_PUBLISH : let d := fun (a b : Nat) => grp (from_ 16 [BitVec.ofNat 64 a, BitVec.ofNat 64 b]); let locs : List Loc := (List.range 2).map fun i => .s (16 + i);
    (∀ p ∈ [(0, 1024), (0, 1023), (0x8000, 1024), (0, 0x100000400)], let u := d p.1 p.2; UniReady (on (of u) staged) (of u) u {} {} locs ∧
      ((U (of u) u).s 16).toNat = p.1 ∧ ((U (of u) u).s 17).toNat = p.2) ∧
    (2 ^ 16 * 1024 = 2 ^ 26 * fieldOf (staged.reg 0x00F) 40 24 ∧ (staged.part 0).coll = none) ∧
    (staged.self? = some 1 ∧ stagedBlocks = [0, 257, 514, 771].map fun i => (2 ^ 16 * i, 2 ^ 16)) ∧
    (let u := d 0 1024; let c := U (of u) u; let s := on (of u) staged; let r := c.collMap s .read [] (partsOf stagedBlocks);
      goes r = true ∧ c.collTable { kind := 1, form := 0, shape := [1024], src := stagedBlocks, dst := [] } = none ∧
      (after r s).liveCross ((after r s).psec 0) = false ∧ (after r s).remotePending (of u) = false ∧ ∀ q ∈ stagedBlocks, q.1 + q.2 ≤ 2 ^ 56) := by
  refine ⟨by decide, by decide, by decide +kernel, by decide +kernel⟩

/-- A collective of the group of the small machine, its team, and the device with a contribution of position 1 for it. -/
def joint (kind form len : Nat) (dst : List Piece) : Collective :=
  { core := 0, inst := 7, team := 0, num := 0, dest := 30, words := 1, kind := kind, form := form, shape := if kind = 0 then [64, 0, 5] else [0], index := 0
    src := if len = 0 then [] else [{ pa := 0x1000, n := len, lost := false, key := 0 }], dst := dst }
def caller : Group := { group0 with wait := .collective }
def joiner : Team := of caller
def joined (c : Collective) (n step : Nat) : State :=
  let x : Contribution := { pos := 1, kind := c.kind, form := c.form, shape := c.shape, step := BitVec.ofNat 64 step, hash := meshed.reg 0x00A, index := 0, data := List.replicate n 1 }
  { (on joiner meshed).setPart 0 { coll := some c } with request := { k := 0, contribs := [x] } }

/-- What that contribution says, and what this device holds of it: its kind and its form, its lists and its counts. -/
def sent (s : State) : Option Contribution := s.request.contribs.find? fun x => decide (x.pos = 1)
def echoOf (c : Collective) (s : State) : Contribution := { pos := 1, kind := c.kind, form := c.form, shape := c.shape, step := s.reg 0x013, ver := (s.reg 0x010).setWidth 32, hash := s.reg 0x00A, index := c.index }

/-- CollectivesComplete: each form of COLL with contributions of its length, PUBLISH with and without SKIP, and a contribution
of another step. -/
theorem witness_COLL_completes :
    ∀ p ∈ [(0, 64, 128, 64), (1, 128, 64, 128), (2, 128, 128, 128), (3, 64, 64, 0)], let c := joint 0 p.1 p.2.1 [{ pa := 0x3000, n := p.2.2.1, lost := false, key := 0 }]; let s := joined c p.2.2.2 0;
      ((s.part 0).coll = some c ∧ s.self? = some 0 ∧ fieldOf (s.reg 0x009) 0 9 = 2 ∧ c.kind = 0 ∧ c.form = p.1 ∧ c.shape = [64, 0, 5] ∧ 64 % 32 = 0) ∧
      (sent s = some { echoOf c s with data := List.replicate p.2.2.2 1 } ∧ ((s.collSource c.core c.src).map (·.1)).length = p.2.1) ∧
      ((∀ x ∈ s.request.contribs, x.waits s = false) ∧ (∀ q ∈ c.src ++ s.collPieces 0 c, s.pieceHeld q = false) ∧ s.keyLoaded 0 = true ∧
        s.targetFailed 0x3000 = false) ∧
      (joiner ∈ s.teams ∧ joiner.collGroup c = some caller) := by
  decide +kernel
theorem witness_PUBLISH_completes :
    ∀ f ∈ [0, 1], let c := joint 1 f 0 []; let s := joined c 0 0; ((s.part 0).coll = some c ∧ s.self? = some 0 ∧ s.heldWrites = []) ∧
      ((s.collRelease 0 c).retireVersion 0).isSome = true ∧ s.retirePieces 0 = [] ∧ (∀ x ∈ s.request.contribs, x.waits s = false) ∧ joiner.collGroup c = some caller ∧ sent s = some (echoOf c s) := by
  decide +kernel
theorem witness_CollectivesComplete : let c := joint 1 0 0 []; let s := joined c 0 9;
    mismatch [s.agreement c 0, (sent s).getD (echoOf c s)] ≠ 0 ∧ (s.part 0).saved = [] ∧ s.teams = [joiner] ∧ joiner.collGroup c = some caller := by
  decide +kernel

/-- CollectivesComplete: a PUBLISH whose version is still held, and one contribution of two that names another index. -/
theorem witness_PUBLISH_waits : let c := joint 1 0 0 []; let s := (joined c 0 0).setReg 0x010 0x100000000;
    (sent s = some (echoOf c s) ∧ ((s.collRelease 0 c).retireVersion 0).isSome = false ∧ s.heldWrites = []) ∧
    (let u := { joined c 0 0 with request := { k := 0, contribs := [{ echoOf c (joined c 0 0) with index := 4 }] } };
      u.self? = some 0 ∧ (u.part 0).coll = some c ∧ (∃ x ∈ u.request.contribs, x.pos ≠ 0 ∧ x.waits u = false ∧ x.index ≠ c.index) ∧ (u.part 0).saved = []) ∧
    (let u := { joined c 0 0 with request := { k := 0 } }; u.request.contribs = [] ∧ (u.agreement c 0).index = c.index) := by
  refine ⟨by decide +kernel, by decide +kernel, by decide +kernel⟩

/-! ### System instructions, state registers and traps -/

/-- A group in its handler, and a team that may be relaunched. -/
def handling : Group := { grp [(20, 2), (56, 0x115), (61, 0x440)] with inHandler := true }
def again (n : Nat) (handler : DWord := 0x800) : Team := { team0 with relaunches := n, restartable := true, launch := { launch0 with contain := true, handler := handler } }

/-- SystemInstructions: CLK's selectors, ERET in the handler and outside it, no range, one and all of memory under ICINV,
COMMIT with and without CONTAIN, and TEXIT of the only group and of one that leaves another behind. -/
theorem witness_SystemInstructions : let g := fun (a n : Nat) => grp (from_ 20 [BitVec.ofNat 64 a, BitVec.ofNat 64 n]);
    (∀ p ∈ [(0, 1), (1, 1), (2, 0), (0x1000, 0x100000000)], let u := g p.1 p.2; UniReady (on (of u)) (of u) u {} {} (uniLocs 20 ++ uniLocs 21) ∧
      ((U (of u) u).u 20).toNat = p.1 ∧ ((U (of u) u).u 21).toNat = p.2) ∧
    (UniReady (on (of handling)) (of handling) handling {} {} [] ∧ handling.inHandler = true ∧ group0.inHandler = false) ∧
    (team0.launch.contain = false ∧ (on team0).remotePending team0 = false) ∧
    (UniReady (on (again 0)) (again 0) group0 {} {} [] ∧ (again 0).launch.contain = true ∧
      (match (on (again 0)).drain (again 0) with | .done S T => !S.remotePending { T with restartable := false } | _ => false) = true) ∧
    (team0.exiting = false ∧ (∀ u ∈ team0.groups, u.num = group0.num) ∧ team0.copies = []) ∧
    (let r : Group := { right with issued := 1 }; let t : Team := { team0 with groups := [group0, r] }; UniReady (on t) t group0 {} {} [] ∧ r ∈ t.groups ∧
      r.num ≠ group0.num ∧ r.wait = .none ∧ r.issued ≠ 0) := by
  refine ⟨by decide, by decide, by decide, ⟨by decide, by decide, by decide⟩, by decide, by decide⟩

/-- StateRegisterAccess: an address that is not aligned, one with a high byte, and the first and last register of each range
that is assigned and of each that is not; what each writer finds there; and a secure partition's registers. -/
theorem witness_StateRegisterAccess : let g := fun a : Nat => grp [(20, BitVec.ofNat 64 a)]; let assigned : Nat → Prop := fun i => i ≤ 0x0E9 ∨ (0x100 ≤ i ∧ i < 0x200 ∧ i % 16 ≠ 15) ∨ (0x200 ≤ i ∧ i ≤ 0x3FF) ∨ (0x4000 ≤ i ∧ i < 0x8000);
    (∀ a ∈ [4, 0, 8 * 0x0E9, 8 * 0x0EA, 8 * 0x10E, 8 * 0x10F, 8 * 0x3FF, 8 * 0x400, 8 * 0x4000, 8 * 0x7FFF, 8 * 0x8000, 2 ^ 56, 8 * 2 ^ 56],
      UniReady (on (of (g a))) (of (g a)) (g a) {} {} (uniLocs 20 ++ uniLocs 57) ∧ ((U (of (g a)) (g a)).u 20).toNat = a) ∧
    ((∀ i ∈ [0, 0x0E9, 0x100, 0x10E, 0x1FE, 0x200, 0x3FF, 0x4000, 0x7FFF], assigned i) ∧ ∀ i ∈ [0x0EA, 0x0FF, 0x10F, 0x1FF, 0x400, 0x3FFF, 0x8000], ¬ assigned i) ∧
    (world.psec 0 = false ∧ ((world.setReg 0x018 2).psec 1) = true ∧ fieldOf (world.reg 0x010) 32 7 = 0) ∧
    (let s := (world.setReg 0x10C 1).setReg 0x10D 16; bitAt (s.reg (0x100 + 16 * 0 + 12)) 0 = true ∧ (17 : DWord) &&& 0x1FFFFFF ≠ s.reg (0x100 + 16 * 0 + 13) ∧
      fieldOf (17 : DWord) 0 25 ≤ 2 ^ 24) := by
  refine ⟨by decide, by decide, by decide, by decide⟩
/-- StateRegisterAccess, SWR: a write that is held, while it is held and once it has been made, and one that ends its team. -/
theorem witness_held_write : let g : Group := { grp [(20, 8 * 0x300), (21, 5)] with swr := true }; let u := grp [(20, 8 * 0x300), (21, 5)];
    let sec := world.setReg (pidx 0 0) (setField (world.reg (pidx 0 0)) 30 1 1);
    let s := (on (of u) sec).setPart 0 { coll := some (joint 0 0 0 []) }; let h : HeldWrite := { reg := 0x300, value := 5, waits := [] };
    (UniReady s (of u) u {} {} (uniLocs 20 ++ uniLocs 21) ∧ s.psec 0 = true ∧ u.swr = false ∧ (match s.writeReg .secure 0x300 5 with | .held S => decide (S.curGroup? = some (of u, u)) | _ => false) = true) ∧
    (UniReady (on (of g)) (of g) g {} {} (uniLocs 20 ++ uniLocs 21) ∧ (on (of g)).holdsReg 0x300 = false ∧ ({ on (of g) with heldWrites := [h] } : State).holdsReg 0x300 = true) ∧
    (on team0).psec 0 = false ∧ (match (on team0).writeReg (.part 0) (pidx 0 0) (setField (world.reg (pidx 0 0)) 0 4 3) with | .done S => S.curGroup?.isNone | _ => false) = true := by
  refine ⟨?_, by decide, by decide, ?_⟩ <;> decide +kernel

/-- TrapsAreTaken: a handled trap of each class, one in the handler, one without a handler, and one of a team that is
relaunched, for the first time and for the last. -/
theorem witness_TrapsAreTaken : let tr := fun c : Nat => ({ cause := c, mask := 1 } : Trap); let re := fun (t : Team) (c : Nat) => c ∈ [0x300, 0x301, 0x302, 0x304] ∧ t.launch.contain = true ∧ t.restartable = true;
    (∀ c ∈ [0x100, 0x200, 0x201, 0x300], ¬ re team0 c ∧ group0.inHandler = false ∧ team0.launch.handler ≠ 0 ∧
      (group0.active.find? fun p => bitAt (tr c).mask p.1) = some (0, 0)) ∧
    (¬ re team0 0x115 ∧ ¬ re team0 0x302 ∧ handling.inHandler = true ∧ (handling.active.find? fun p => bitAt (tr 0x302).mask p.1) = some (0, 0)) ∧ (¬ re (again 0 0) 0x115 ∧ (again 0 0).launch.handler = 0) ∧
    (re (again 0) 0x300 ∧ (again 0).relaunches ≠ 2 ∧ ((on (again 0)).inst? (again 0).inst).isSome = true) ∧ (re (again 2) 0x304 ∧ (again 2).relaunches = 2) := by
  refine ⟨by decide, by decide, by decide, by decide, by decide⟩

/-! ### Events of the device -/

/-- The device as it is asked: by a request, and with READY and BUFAIL as given. -/
def asked (q : Request) (s : State := world) : State := { s with request := q }
def fns (ready bufail : DWord) : State := (world.setReg 0x000 ready).setReg 0x001 bufail

/-- PowerAndReadinessEvents: the first and the last function and one beyond it, each of the kinds of function, idle, ready and
failed, with the outcome of its check; and a link's replays. -/
theorem witness_PowerAndReadinessEvents :
    (∀ fn ∈ [0, 23, 24, 27, 28, 39, 40, 41, 42, 43], ∀ ok ∈ [true, false], let q : Request := { k := fn, ok := ok };
      ((asked q (fns 0 0)).ready fn = false ∧ (asked q (fns 0 0)).bufail fn = false ∧ (asked q (fns 0 0)).request = q) ∧
      (asked q).ready fn = true ∧ (asked q (fns 0 0xFFFFFFFFFFF)).bufail fn = true) ∧
    (∀ fn ∈ [41, 42], let q : Request := { k := fn, ok := true }; let s := asked q (fns (2 ^ 40 + 1) 0); s.ready fn = false ∧ s.bufail fn = false ∧ s.ready 40 = true ∧
      s.bufail 40 = false ∧ s.ready 0 = true ∧ s.verifyImage (if fn = 42 then 1 else 2) q.bytes = none ∧ (asked q (fns 0 (2 ^ 40))).bufail 40 = true) ∧
    (∀ n ∈ [0, 7, 8], ∀ ok ∈ [true, false], let s := asked { k := 11, ok := ok } { world with flitReplays := sset 0 [] 11 n }; s.ready (28 + 11) = true ∧ sget 0 s.flitReplays 11 = n) := by
  refine ⟨by decide, by decide, by decide⟩

/-- R59: the digests of no bytes and of "abc" that the standard of SHA-384 gives. -/
theorem test_sha384 : sha384Bytes [] = (leBytes 48 0x38b060a751ac96384cd9327eb1b1e36a21fdb71114be07434c0cc7bf63f6e1da274edebfe76f65fbd51ad2f14898b95b).reverse ∧
    sha384Bytes [0x61, 0x62, 0x63] = (leBytes 48 0xcb00753f45a35e8bb5a03d699ac65007272c32ab0eded1631a8b605a43ff5bed8086072ba1e7cc2358baeca134c825a7).reverse := by
  refine ⟨by decide +kernel, by decide +kernel⟩

/-- FIPS 197, appendix C.3: AES-256 of its example block under the key 00 01 … 1F, and back. -/
theorem test_aes : let key : List Byte := (List.range 32).map (BitVec.ofNat 8);
    let block : List Byte := (List.range 16).map fun i => BitVec.ofNat 8 (0x11 * i);
    let cipher : List Byte := (leBytes 16 0x8ea2b7ca516745bfeafc49904b496089).reverse;
    aesEncrypt key block = cipher ∧ aesDecrypt key cipher = block := by
  refine ⟨by decide +kernel, by decide +kernel⟩

/-- R56 and R63: a sector comes back under its own keys, and not under others. -/
theorem test_xts : let plain : List Byte := (List.range 32).map (BitVec.ofNat 8); let k : KeySlot := { dataKey := 5, tweakKey := 6 };
    k.misread k.pair 9 plain = plain ∧ k.misread (1 : BitVec 512) 9 plain ≠ plain := by
  refine ⟨by decide +kernel, by decide +kernel⟩

/-- An image of no code, whose trailer bears its hash: it verifies if its signature is right. -/
def image0 (target : Nat) : List Byte :=
  leBytes 4 0x44584639 ++ [BitVec.ofNat 8 target] ++ List.replicate 11 0 ++ sha384Bytes [] ++ List.replicate 128 0
theorem witness_verifyImage (target : Nat) (ht : target = 1 ∨ target = 2)
    (g : signatureHolds Config.fusedKey ((image0 target).take 64) (((image0 target).drop 0x40).take 96) = true) :
    (fns (2 ^ 40 + 1) 0).verifyImage target (image0 target) = some 0 := by
  have hl : (image0 target).length - 192 = 0 := by rcases ht with rfl | rfl <;> decide +kernel
  unfold State.verifyImage
  rw [if_pos]
  · rcases ht with rfl | rfl <;> decide +kernel
  · rw [hl, List.drop_zero, g]
    rcases ht with rfl | rfl <;> decide +kernel

/-- A team with a fibre that waits for block 5 of partition 0, and a waiting partition. -/
def waits5 : Team := { team0 with attic := [{ fid := 0, core := 0, pc := 0, slot := 0, st := .fault, fault := 0x50000 }] }

/-- RegisterWriteEvents: a graph that is bound and one that is not, a partition in each state, a key, a translation
invalidation while one is pending, and a block that a fibre waits for. -/
theorem witness_RegisterWriteEvents : let st := fun n : Nat => asked { writer := .secure, value := 0xC0000000 } ((world.setRfield (pidx 0 0) 27 3 n));
    (∀ n ∈ [0, 1, 2, 3, 4, 5, 6], fieldOf ((st n).reg (pidx 0 0)) 27 3 = n ∧ (st n).request.writer = .secure ∧ bitAt (st n).request.value 31 = true ∧ (st n).heldWrites = []) ∧
    ((st 1).reserved + (st 1).contextBytes 0 ≤ (st 1).contextSpace ∧
      (let p : State := (st 1).setPart 0 { room := 16 * 2 ^ 26 }; p.contextSpace < p.reserved + p.contextBytes 0)) ∧
    (∀ v ∈ [0, 1, 48, 0x80000000], let s := asked { value := BitVec.ofNat 64 v } world; s.request.value.toNat = v ∧ fieldOf (s.reg 0x004) 0 6 = 0 ∧ bitAt (s.reg 0x004) 30 = false) ∧
    (bitAt (world.reg 0x058) 5 = false ∧ bitAt (world.reg (pidx 0 9)) 31 = false ∧ bitAt (world.reg (pidx 0 9)) 30 = false ∧ bitAt (world.reg (pidx 0 11)) 63 = false) ∧
    (let s := (world.setReg (pidx 0 9) 0x80000000).setReg (pidx 0 11) 0x8000000000000000; bitAt (s.reg (pidx 0 9)) 31 = true ∧ (s.part 0).pendingBind = none ∧ (s.part 0).heldBind = none ∧
      bitAt (s.reg (pidx 0 11)) 63 = true) ∧
    ((∀ j < 16, (world.part j).coll = none) ∧ ∃ c, ((world.setPart 3 { coll := some (joint 0 0 0 []) }).part 3).coll = some c) ∧
    (world.waitsOn 0 5 = false ∧ (on waits5).waitsOn 0 (fieldOf (0x50000 : DWord) 16 40) = true) := by
  refine ⟨by decide, by decide, by decide, by decide, by decide, ⟨by decide, _, rfl⟩, by decide⟩
theorem witness_due_edges : let s := (world.setReg (pidx 0 9) 0x80000000).setPart 0 { graph := some { edges := [{ edge0 with wbDue := true }] } };
    bitAt (s.reg (pidx 0 9)) 31 = true ∧ s.bufail 41 = false ∧ (s.part 0).pendingBind = none ∧ ∃ g, (s.part 0).graph = some g ∧ ∃ x ∈ g.edges, x.wbDue = true ∨ x.retDue = true := by
  refine ⟨by decide, by decide, rfl, _, rfl, by decide⟩

/-- Port 0 with a decoder that maps host addresses from 2^32 on to HBM. -/
def ported (q : Request) (s : State := world) : State := { asked q (s.setReg 0x00B 0) with decoders := [(0, { base := 2 ^ 32, size := 2 ^ 40, dpa := 0, en := true })] }
def hostAt (write : Bool) (pa : Nat) : Request := { host := some { write := write, hpa := 2 ^ 32 + pa, len := 64, data := List.replicate 64 1, poison := true } }

/-- MemoryAndLinkEvents, port 0: an access to the last line of HBM and beyond it, one while a reset discards, one of a port
that failed, and each write of the configuration space. -/
theorem witness_MemoryAndLinkEvents :
    (∀ w ∈ [true, false], ∀ pa ∈ [0, 2 ^ 40 - 64], let s := ported (hostAt w pa); let d : Decoder := sget {} s.decoders 0;
      (d.dpa + (2 ^ 32 + pa - d.base) = pa ∧ d.en = true ∧ d.base ≤ 2 ^ 32 + pa ∧ 2 ^ 32 + pa + 64 ≤ d.base + d.size) ∧
      (s.resetDiscards = none ∧ s.bufail 24 = false ∧ s.ready 24 = true ∧ ¬ (s.carve < pa + 64) ∧ s.regionSec pa = false ∧ s.portSec 0 = s.regionSec pa) ∧
      ((∀ f ∈ s.functionsOf pa, s.bufail f = false ∧ s.ready f = true) ∧ pa + 64 ≤ 2 ^ 40 ∧ pa < 2 ^ 40)) ∧
    ((ported (hostAt true 0) (world.setReg 0x004 1)).carve < 2 ^ 40 - 2 ^ 34 + 64 ∧ ({ ported (hostAt true 0) with resetDiscards := some (0, 1) } : State).resetDiscards ≠ none ∧
      (ported (hostAt true 0) (fns 0xFFFFFFFFFFF 0x1000000)).bufail 24 = true) ∧
    (∀ c ∈ [ConfigWrite.decoder 1 0 0 0 true, .option 0 13 true, .option 3 10 true, .option 0 3 true, .vectorMask 15 false, .other 4 0], (asked { config := some c }).request.config = some c) ∧
    ((1 ≤ (asked { k := 1 }).request.k ∧ (asked { k := 3 }).request.k ≤ 3) ∧ ¬ bitAt (world.reg 0x004) 30 = true ∧ bitAt ((world.setReg 0x004 0x40000000).reg 0x004) 30 = true ∧
      (world.setReg 0x004 0x40000000).canFlush = true) := by
  refine ⟨by decide, by decide, by decide, by decide⟩

/-- A device with one source edge, a ring, and a packet, a posted store and a remote one that await it. -/
def linked (q : Request) : State :=
  let s := meshed.setPart 0 { graph := some { edges := [{ edge0 with source := true, snooped := true, fillLine := 0x4000, retLine := 0x5000 }] } };
  let p : Posted := { core := 0, team := 7, fid := 0, pa := 2 ^ 40 - 4, data := [1, 2, 3, 4] };
  asked q { s.setReg 0x058 0x23 with posted := [p], mem := (book 1 []).mem } |>.setReg (pidx 0 10) 0x10001 |>.setReg 0x00B 0
def packet0 (red : Option (Nat × Bool × Bool)) (dest : Nat) : Packet := { link := 11, dest := dest, part := 0, addr := 0x3000, data := List.replicate 4 (some 1), poison := 0, red := red }
def walked : Xlat → Option (Nat × Bool)
  | .ok pa _ lost => some (pa, lost)
  | _ => none

/-- MemoryAndLinkEvents, the rest: a fill line, a ring's TAIL, packets for this device and for another, a posted store, and
the sites of soft errors. -/
theorem witness_links :
    (let s := linked { value := 3 }; (s.edge? 0 0).map (fun x => (x.source, x.snooped)) = some (true, true) ∧ s.ready 24 = true ∧ s.ready 41 = true ∧
      s.homePoisoned (2 ^ 55 + 0x4000) 8 = false ∧ bitAt (s.reg 0x058) 5 = true ∧ s.port0 = true) ∧
    (∀ r ∈ [none, some (0, false, false)], ∀ dest ∈ [0, 1], let s := linked { packet := some (packet0 r dest) }; s.ready (28 + 11) = true ∧ fieldOf (s.reg 0x008) 0 8 = 0 ∧
      walked (s.xlateWalk (s.linkSec 11) 0 none 0x3000 .write false) = some (0x3000, false) ∧ s.homePoisoned 0x3000 4 = false) ∧
    (let s := linked {}; s.posted[0]? ≠ none ∧ (s.posted.take 0 = []) ∧ 2 ^ 40 - 4 + 4 ≤ 2 ^ 40 ∧ s.hop 1 = some 1 ∧ s.ready (28 + 1) = true) ∧
    (∀ c ∈ [ErrorSite.memory 0 false true, .memory (2 ^ 40 - 1) true false, .register 0 0 1 2 3 false, .scratch 0 0 2047 false], (asked { site := some c } (on team0)).request.site = some c ∧
      (asked { site := some c } (on team0)).team? 0 0 = some team0) ∧
    (let s := { world.setReg 0x004 1 with decoders := [] }; fieldOf (s.reg 0x004) 0 6 ≠ 0) := by
  refine ⟨?_, ?_, ?_, ?_, ?_⟩
  · decide +kernel
  · decide +kernel
  · decide +kernel
  · decide
  · decide

/-- MemoryAndLinkEvents, packets and what is on its way: a packet that is formed and one whose address is not aligned; a
relay with no hop, toward a link that is up, one that is down and one that failed; a remote store that may leave and one
behind another or toward a link that is down; a landing of two bytes; a fill line that is poisoned and one that the host writes. -/
theorem witness_relays : let r : Remote := { owner := 1, part := 0, inst := 7, fid := 0, va := 0, data := [1], link := 1 }
    let p : Posted := { core := 0, team := 7, fid := 2 ^ 32, pa := 0x1000, data := [1, 2], landing := true }
    let down : State := (linked {}).setReg 0x000 (0xFFFFFFFFFFF - 2 ^ 29); let bad : State := down.setReg 0x001 (2 ^ 29)
    ((packet0 none 1).formed = true ∧ ({ packet0 none 1 with addr := 1 } : Packet).formed = false) ∧
    ((linked {}).hop 5 = none ∧ (linked {}).hop 1 = some 1 ∧ (linked {}).ready 29 = true ∧ (linked {}).bufail 29 = false ∧ down.ready 29 = false ∧
      down.bufail 29 = false ∧ bad.bufail 29 = true ∧ ∀ s ∈ [down, bad], s.hop 1 = some 1 ∧ s.ready (28 + 11) = true) ∧
    (let s : State := { linked {} with remotes := [r, r] }; s.remotes[0]? = some r ∧ s.remotes.take 0 = [] ∧ r.link < 12 ∧ s.ready (28 + r.link) = true ∧
      ∃ o ∈ s.remotes.take 1, o.owner = r.owner ∧ o.inst = r.inst ∧ o.team = r.team ∧ o.fid = r.fid) ∧
    (let s : State := { linked { e := 2 } with posted := [p] }; s.posted[0]? = some p ∧ p.landing = true ∧ p.rel = false ∧ 1 < p.data.length ∧ s.posted.take 0 = [] ∧
      p.pa + p.data.length ≤ 2 ^ 40 ∧ s.seals = []) ∧
    (({ linked {} with poison := [(2 ^ 50 + 512, true)] } : State).homePoisoned (2 ^ 55 + 0x4000) 8 = true ∧ (linked {}).down 24 = false ∧
      (0x4000 : DWord).toNat < 0x4020 % 2 ^ 55 + [(1 : Byte)].length ∧ 0x4020 % 2 ^ 55 < (0x4000 : DWord).toNat + 64) := by
  refine ⟨by decide, by decide +kernel, by decide +kernel, by decide +kernel, by decide +kernel⟩

/-- MemoryAndLinkEvents: a pool line that the L2 holds, one that the memory-side cache holds, one to fill; and a 64-byte unit
that the host writes whole. -/
theorem witness_pool_copies : let s := (world.setReg 0x005 (BitVec.ofNat 64 (2 ^ 40 + 1))).setReg 0x004 1;
    (({ s with poolL2 := [{ line := 2 ^ 33, cells := [] }] } : State).poolL2Line (2 ^ 40)).isSome = true ∧
    (s.poolL2Line (2 ^ 40)).isNone = true ∧ ((s.mscFill (2 ^ 40)).mscLine (2 ^ 40)).isSome = true ∧
    ((s.poolPort (2 ^ 40)).isSome = true ∧ s.targetHeld (2 ^ 40) = false ∧ s.targetFailed (2 ^ 40) = false ∧ s.mscBlocked (2 ^ 40) = false ∧
      (s.mscPlace (2 ^ 40)).2 ≤ 0x3FFE ∧ fieldOf (s.reg 0x004) 0 6 ≠ 0) ∧
    2 ^ 55 + (0x40 : DWord).toNat % 2 ^ 55 ≤ (2 ^ 50 + 2) / 2 * 64 ∧ (2 ^ 50 + 2) / 2 * 64 + 64 ≤ 2 ^ 55 + (0x40 : DWord).toNat % 2 ^ 55 + (List.replicate 64 (0 : Byte)).length := by
  refine ⟨by decide, by decide, by decide +kernel, ⟨by decide, by decide, by decide, by decide, by decide, by decide⟩, by decide⟩

/-- A command of the management path: its payload in words, or bytes, and whether the session carries it. -/
def payload (ws : List Nat) : List Byte := ws.flatMap (leBytes 8)
def command (bs : List Byte) (inside : Bool := true) (s : State := world) : State :=
  { asked { bytes := bs, ok := inside } s with spdm := { session := inside } }

/-- ManagementEvents, the mailbox: every command at its length, at and beyond the bounds of its fields, inside a session and
outside one, with and without the function it needs. -/
theorem witness_ManagementEvents : let s := fun (bs : List Byte) (i : Bool) => command bs i;
    (∀ i ∈ [true, false], (s [] i).ready 42 = true ∧ (s [] i).ready 24 = true ∧ (s [] i).ready 40 = true ∧ (s [] i).ready 43 = true ∧ (s [] i).request.ok = i ∧ (s [] i).spdm.session = i) ∧
    (∀ fs ∈ [2 ^ 42, 2 ^ 24, 2 ^ 40, 2 ^ 43], let t := command [] true (fns (BitVec.ofNat 64 (2 ^ 44 - 1 - fs)) 0);
      (t.ready 42 && t.ready 24) = decide (fs ∈ [2 ^ 40, 2 ^ 43]) ∧ t.ready 43 = decide (fs ≠ 2 ^ 43) ∧ t.ready 40 = decide (fs ≠ 2 ^ 40)) ∧
    (∀ a ∈ [0, 4, 8 * 0xE7, 8 * 0x3FFF], ∀ n ∈ [0, 1, 32, 33, 256, 257], let bs := leBytes 8 a ++ leBytes 4 n; bs.length = 12 ∧ (dwordAt bs 0).toNat = a ∧ (wordAt bs 8).toNat = n) ∧
    (∀ a ∈ [4, 8 * 0x0E8, 8 * 0x0EA], let bs := payload [a, 5]; bs.length = 16 ∧ (dwordAt bs 0).toNat = a ∧ a < 2 ^ 56 ∧ dwordAt bs 8 = 5) ∧
    (∀ t ∈ [0, 2, 3, 4], let bs := payload [t]; bs.length = 8 ∧ (dwordAt bs 0).toNat = t) ∧
    (let l := { world with logHead := 3, logTail := 2, log := List.replicate 3 { time := 0, seq := 0, cause := 0, cls := 0 } }; l.logHead - 65535 = 0 ∧
      (∀ j < 3, (l.log[j]?).isSome = true) ∧ l.logTail ≤ 3 ∧ l.bufail 43 = false ∧ l.logHead - l.logTail < 65535 ∧ l.logLost = false) := by
  refine ⟨by decide, by decide, by decide, by decide, by decide, by decide⟩

/-- ManagementEvents: the header of each opcode, one of another, and one whose last byte is set; a function that failed; a slot
that is evicted; and portions of the certificate chain within it and beyond it. -/
theorem witness_headers : (∀ op ∈ [0xC900, 0xC906], (BitVec.ofNat 32 op).toNat = op ∧ (BitVec.ofNat 32 (op + 1)).toNat % 2 ^ 16 ≠ op ∧
      (BitVec.ofNat 32 (op + 2 ^ 24)).toNat % 2 ^ 16 = op ∧ 2 ^ 24 ≤ (BitVec.ofNat 32 (op + 2 ^ 24)).toNat) ∧
    (command [] true (fns 0 (2 ^ 42))).bufail 42 = true ∧ bitAt ((world.setReg (0x0A8 + 63) 0xE0).reg (0x0A8 + 63)) 5 = true ∧
    Config.certChain.drop Config.certChain.length = [] ∧ ([0x30] : List Byte).drop 0 ≠ [] := by
  refine ⟨by decide, by decide, by decide, List.drop_length, by decide⟩

/-- ManagementEvents, keys and floors: a load that is right, into a slot that is free, loaded and evicted; one with a slot
beyond the last, a world beyond the second, a set reserved byte and equal keys; an eviction; and a floor that is reached, one
to raise, and one that was raised 64 times. -/
theorem witness_keys : let load := fun (slot w r d : Nat) => payload [slot + 2 ^ 8 * w + 2 ^ 16 * r, d, 0, 0, 0, 0, 0, 0, 0];
    (∀ p ∈ [(63, 1, 0, 1), (64, 0, 0, 1), (0, 2, 0, 1), (0, 0, 1, 1), (0, 0, 0, 0)], let bs := load p.1 p.2.1 p.2.2.1 p.2.2.2;
      bs.length = 72 ∧ (bs.getD 0 0).toNat = p.1 ∧ (bs.getD 1 0).toNat = p.2.1 ∧ (bs.getD 2 0).toNat = p.2.2.1 ∧ leWord ((bs.drop 8).take 32) = p.2.2.2 ∧ leWord ((bs.drop 0x28).take 32) = 0) ∧
    (∀ i < 6, (load 63 1 0 1).getD (i + 2) 0 = 0) ∧
    (∀ v ∈ [0, 0x80, 0x20], let s := world.setReg (0x0A8 + 63) (BitVec.ofNat 64 v); (s.reg (0x0A8 + 63)).toNat = v) ∧
    (bitAt (0 : DWord) 7 = false ∧ bitAt (0 : DWord) 5 = false ∧ bitAt (0x80 : DWord) 7 = true ∧ bitAt (0x20 : DWord) 5 = true) ∧
    (∀ t ∈ [0, 1, 2, 3], ([BitVec.ofNat 8 t].getD 0 0).toNat = t) ∧
    (∀ v ∈ [3, 4], ∀ n ∈ [63, 64], let s : State := { world with otpFloor := [(1, 3)], svn := [(1, v)], otpRaises := [(1, n)] }; sget 0 s.otpFloor 1 = 3 ∧ sget 0 s.svn 1 = v ∧
      sget 0 s.otpRaises 1 = n) := by
  refine ⟨by decide, by decide, by decide, by decide, by decide, by decide⟩

/-- ManagementEvents, SPDM: each stage of the responder, each index of a measurement, and a request that fails. -/
theorem witness_SPDM (v c a x ok : Bool) (e : Nat) : let s := { asked { e := e, ok := ok } with spdm := { version := v, caps := c, algs := a, exchanged := x } };
    s.ready 24 = true ∧ s.spdm.version = v ∧ s.spdm.caps = c ∧ s.spdm.algs = a ∧ s.spdm.exchanged = x ∧ s.request.ok = ok ∧ s.request.e = e :=
  ⟨show world.ready 24 = true by decide, rfl, rfl, rfl, rfl, rfl, rfl⟩
theorem witness_SPDM_absent : (asked {} (fns 0 0)).ready 24 = false ∧ (asked {} (fns 0 0)).bufail 24 = false ∧ (asked {} (fns 0 0x1000000)).bufail 24 = true ∧ world.bufail 24 = false := by
  decide

/-- ManagementEvents: a read of the error log while it is down, and while it is up; and a slot that is evicted while a line of
its key waits for port 1, in the L2 and in the memory-side cache, and while none does. -/
theorem witness_log_reads : (let s := command (leBytes 8 (6 * 2 ^ 56) ++ leBytes 4 1) true (fns 0x7FFFFFFFFFF 0);
      s.ready 43 = false ∧ s.bufail 43 = false ∧ fieldOf (BitVec.ofNat 64 (6 * 2 ^ 56) : DWord) 56 8 = 6 ∧ s.ready 42 = true ∧ s.ready 24 = true ∧ s.bufail 42 = false ∧ s.bufail 24 = false) ∧
    world.ready 43 = true := by decide
theorem witness_evictions : let l : PoolLine := { line := 2 ^ 33, key := 5, cells := [], dirty := [2 ^ 35] };
    let s := fun (a b : List PoolLine) (r : DWord) => ({ asked { e := 5 } ((world.setReg (0x0A8 + 5) 0xA0).setReg 0x000 r) with poolL2 := a, msc := b } : State);
    (let u := s [l] [] 0; bitAt (u.reg (0x0A8 + 5)) 5 = true ∧ u.posted = [] ∧ l.dirty ≠ [] ∧ u.poolHeld (l.line * 128) = true) ∧
    (let u := s [] [{ l with line := 0 }] 0; u.down (u.portOf (u.mscBase { l with line := 0 })) = true) ∧ (s [] [] 0).poolL2 = [] ∧ (s [] [] 0).msc = [] := by
  refine ⟨by decide, by decide, rfl, rfl⟩

/-! ### Partitions -/

/-- A partition with room for anything, a bound graph of one node that is ready, and its image. -/
def launch1 : Launch := { launch0 with args := 0, image := 0x100, ins := [0, 0xFFFF, 0xFFFF, 0xFFFF], outs := [1, 0xFFFF, 0xFFFF] }
def graphed (l : Launch := launch1) (insts : List Inst := []) : State :=
  let s := ((world.setReg (pidx 0 1) 0xFFFFFFFFFFFFFFFF).setReg (pidx 0 9) 0x80000000).setReg 0x028 0
  let g : Graph := { nodes := [l], edges := [{ edge0 with needFill := 1 }, { edge0 with needFree := 1 }], ready := [{ ready := true, since := 50 }] }
  { s.setPart 0 { graph := some g, images := [{ va := 0x100, code := 0x100, size := 0x1000 }] } with insts := insts, teams := [] }
def chosen (s : State) : Option (Nat × Option Launch) :=
  (s.choose 0).map fun c => (c.index, match c.pick with | .node _ l => some l | .child _ => none)

/-- A launch record of one team of `fpt` fibres, as the eight words of its 64 bytes. -/
def recWords (fpt : Nat) : List DWord := [0x400, 0, 0, 0x100, BitVec.ofNat 64 (1 + 2 ^ 32 * fpt), 0, 0xFFFFFFFFFFFF0000, 0xFFFFFFFFFFFFFFFF]
def recBytes (fpt : Nat) : List Byte := (recWords fpt).flatMap bytes64
def binding (fpt : Nat) (ready : DWord := 0xFFFFFFFFFFF) : State :=
  let s := (book 1 ((recWords fpt).zipIdx.map fun p => (0x2000 + 8 * p.2, p.1))).setReg 0x000 ready
  s.setPart 0 { pendingBind := some (0x2000, 0x3000, 1) }
def tabled (s : State) : Option (List (DWord × Option (List Byte)) × State) := s.readTable 0 0x2000 0 1
def instances (i : Inst) : State := { graphed launch1 [i] with nextInst := 9 }

/-- PartitionEvents, records and binding: a record of 1024 fibres and one of more; a bind that reads them, one that waits for
the scheduler, and none. -/
theorem witness_PartitionEvents :
    (∀ n ∈ [1, 1024, 1025], (recBytes n).length = 64 ∧ leWord (((recBytes n).drop 0x24).take 2) = n ∧ (world.checkRecord 0 (recBytes n) (some 0) none).isSome = decide (n = 1025)) ∧
    (∀ n ∈ [8, 1025], let s := binding n; (s.part 0).pendingBind = some (0x2000, 0x3000, 1) ∧ s.ready 41 = true ∧ (s.part 0).heldBind = none ∧
      ((tabled s).map fun r => (r.1.map fun x => (x.1, x.2.isSome), (r.2.readTable 0 0x3000 0 0).isSome, (r.2.checkNodes 0 0 [] ([], []) 0 r.1).isSome,
        ((r.2.fillLines 0).length : Nat))) = some ([(0x2000, true)], true, decide (n = 1025), 0)) ∧
    ((binding 8 0).ready 41 = false ∧ (world.part 0).pendingBind = none) := by
  refine ⟨by decide +kernel, by decide +kernel, by decide⟩

/-- PartitionEvents: an edge table of which the scheduler's access is held; a redeem's instance with a store to another device
on its way; a slot that the Larder engine owes a write; and a saved context with a range that its records save. -/
theorem witness_partition_holds : (let s := (book 1 []).setReg 0x000 0; s.checkEdges 0 0 [((0x3000 : DWord), some (List.replicate 64 0))] = none) ∧
    (let r : Remote := { owner := 3, part := 0, inst := 7, fid := 0, va := 0, data := [1] }; let i : Inst := { id := 7, part := 0, index := 0, launch := launch0, redeem := some [] };
      i.redeem ≠ none ∧ ∃ x ∈ [r], x.inst = i.id) ∧
    ((world.setPart 0 { slotsDue := [{ slot := 0, act := .free }] }).part 0).slotsDue ≠ [] ∧ (world.part 0).slotsDue = [] ∧
    (let t : Team := { team0 with hrecs := [(3, { rec0 with w3 := 0xA0000000 })] }; (t.hrec 3).saved = true ∧ t.hbyteAt 3 0 = 0 ∧ 0 < (t.hrec 3).hlen ∧ 0 < 1024 * t.launch.hamper) := by
  refine ⟨?_, by decide, by decide, by decide, by decide⟩
  decide +kernel

/-- PartitionEvents, dispatch: a node that waits, one of a partition without quotas, and one that no core has room for. -/
theorem witness_dispatch : let s := graphed; let a := s.age 0;
    (fieldOf (s.reg (pidx 0 0)) 27 3 = 1 ∧ bitAt (s.reg (pidx 0 0)) 31 = true ∧ s.ready 41 = true ∧ s.teamsWait 0 = false) ∧
    (chosen a = some (0, some launch1) ∧ chosen (graphed.setPart 0 {}) = none ∧ s.insts = [] ∧ (∀ t ∈ s.teams, t.inst ≠ s.nextInst)) ∧
    (s.overQuota 0 launch1 = false ∧ (s.setReg (pidx 0 1) 0).overQuota 0 launch1 = true ∧ bitAt (s.reg (pidx 0 9)) 31 = true ∧ bitAt (s.reg (pidx 0 9)) 29 = false ∧
      fieldOf (s.reg (pidx 0 9)) 0 8 = 0) ∧
    (launch1.args = 0 ∧ ((s.part 0).images.find? fun x => decide (x.va = launch1.image)) = some { va := 0x100, code := 0x100, size := 0x1000 } ∧
      (⟨0x100, 0x100, 0x1000, none⟩ : Image).holds launch1.entry = true ∧ (⟨0x100, 0x100, 0x1000, none⟩ : Image).holds launch1.handler = true) ∧
    ((s.edge? 0 0).map (·.needFill) = some 1 ∧ launch1.ins.count 0 = 1 ∧ 0 ∉ launch1.outs) := by
  refine ⟨by decide, by decide, by decide, by decide, by decide⟩
theorem witness_bestCore : (graphed.age 0).worldHasCore 0 = true ∧ (graphed.age 0).bestCore 0 launch1 (fun _ => true) = some 0 ∧
    ((graphed.setReg 0x000 0x30000000000).age 0).bestCore 0 launch1 (fun _ => true) = none ∧ graphed.placeable 0 launch1 5 = true ∧ graphed.slotFor launch1 0 = some 0 := by
  decide +kernel

/-- PartitionEvents, placement and relaunch: an instance with a team to place, and one with a team to place again, with a core
that it has not used. -/
theorem witness_placement : let i : Inst := { id := 7, part := 0, index := 0, launch := launch1 }; let j : Inst := { i with placed := 1, relaunch := [again 1] };
    ((instances i).insts.find? fun x => decide (x.part = 0) && decide (x.placed < x.launch.teams)) = some i ∧ i.relaunch = [] ∧
    ((instances j).insts.find? fun x => decide (x.part = 0) && !x.relaunch.isEmpty) = some j ∧ j.relaunch = again 1 :: [] ∧ (again 1).cores.getLastD 0 = 0 ∧
    (instances i).slotFor i.launch 0 = some 0 := by decide
theorem witness_relaunch : (graphed.bestCore 0 (again 1).launch fun c => !(again 1).cores.contains c) = some 1 ∧ graphed.slotFor (again 1).launch 1 = some 0 := by
  decide +kernel

/-- PartitionEvents, the rest: instances apart, each state of the partition, groups that stand still, a saved context with
room, and a fault queue with room and a full one. -/
theorem witness_partition_states : let st := fun n : Nat => (on joiner).setRfield (pidx 0 0) 27 3 n; let w : FaultWait := { block := 5, va := 0x50000 };
    (∀ n ∈ [0, 1, 2, 3, 4, 5, 6], fieldOf ((st n).reg (pidx 0 0)) 27 3 = n) ∧
    (∀ t ∈ (st 2).teams, t.part = 0 → ∀ g ∈ t.groups, (g.wait ≠ .none ∨ g.issued = 0) ∧ ∀ x ∈ g.hist, x.named = true → x.due ≤ (st 2).clk) ∧
    (let s := { (graphed.setRfield (pidx 0 0) 27 3 4).setPart 0 { resuming := true, saved := [joiner] } with teams := [] }; let p := s.part 0; p.resuming = true ∧
      ∀ c ∈ (p.saved.flatMap fun t => if t.launch.paircore then [t.core, t.core + 1] else [t.core]).eraseDups,
        s.coreFits 0 c (p.saved.foldl (fun a t => a.add (t.chargeOn c)) {}) = true ∧ s.coreSec c = s.psec 0 ∧ s.ready (c / 128) = true) ∧
    (∀ tail ∈ [2, 3], let s := { (world.setReg (pidx 0 3) 0x6000).setReg (pidx 0 4) 1 with mem := ssetList 0 (ssetList 0 [] 0x6000 (bytes64 4)) 0x6008 (bytes64 (BitVec.ofNat 64 tail)) };
      64 * fieldOf (s.reg (pidx 0 3)) 6 50 = 0x6000 ∧ 2 ^ fieldOf (s.reg (pidx 0 4)) 0 5 = 2 ∧ leWord (s.homeBytes 0x6000 8) = 4 ∧ leWord (s.homeBytes 0x6008 8) = tail ∧
      (∀ a ∈ [0x6000, 0x6000 + 64 + 32 * (4 % 2)], (s.targetHeld a = false ∧ ∀ f ∈ s.functionsOf a, s.bufail f = false) ∧
        let b := (s.setReg 0x000 0).setReg 0x001 0xFFFFFFFFFFF; b.targetHeld a = false ∧ ∃ f ∈ b.functionsOf a, b.bufail f = true) ∧ 0x6000 + 64 + 32 * 2 ≤ 2 ^ 40) ∧
    ((((world.setPart 0 { faults := [w] }).part 0).faults.find? fun x => !x.written) = some w ∧ ∀ f ∈ (world.part 0).faults, f.written = true) ∧
    world.insts.Pairwise (fun a b => a.id ≠ b.id) := by
  refine ⟨by decide, by decide, by decide, by decide +kernel, by decide, by decide⟩

/-! ### Cores -/

/-- A group whose loop buffer holds the words of an instruction at its PC, and the instruction that a turn prepares. -/
def holding (i : Instr) (g : Group := group0) : Group := { g with buf := encode i, bufPc := g.pc }
def prepared : Prepared → Option (Instr × Nat × List Nat)
  | .ready i s => some (i, s.clk, s.teams.flatMap fun t => t.groups.map (·.num))
  | _ => none
def pos0 : Pos := { core := 0, slot := 0, num := 0 }
def fetched : FetchRun → Option (List Word)
  | .ok ws _ => some ws
  | _ => none

/-- CoreEvents, runs: no group, one whose words are there, one that has issued 24 instructions, one whose PC is not aligned,
and one whose run is fetched; and results in flight. -/
theorem witness_CoreEvents : let odd : Group := { group0 with pc := 0x402 }; let long : Group := { group0 with issued := 24 };
    let e : Early := { loc := .s 1, old := 0, due := 105, named := false }; let early : Group := { group0 with hist := [e, { e with due := 103 }] };
    ({ on team0 with cur := some { core := 5, slot := 0, num := 0 } } : State).curGroup? = none ∧
    (∀ g ∈ [group0, odd, long, early, holding (.sel (w3 3 1 2 4 0))], (on (of g)).curGroup? = some (of g, g) ∧ (on (of g)).issues (of g) g = true ∧ (of g).cut = false ∧ g.abort = []) ∧
    (group0.wordsAt = [] ∧ (holding (.sel (w3 3 1 2 4 0))).wordsAt ≠ [] ∧ odd.pc.toNat % 4 ≠ 0 ∧ group0.pc.toNat % 4 = 0 ∧ early.hist ≠ [] ∧ group0.hist = []) ∧
    fetched ((on team0).fetchFrom team0 0 group0.pc [] [] (24 - group0.issued) 121) ≠ none := by
  refine ⟨by decide, by decide, by decide, by decide +kernel⟩

/-- CoreEvents, parking and forming: a partial group at a barrier beside a fibre that has waited, and a team of parked fibres. -/
def barred : Group := { group0 with lanes := [some 0], wait := .barrier }
def parkable : Team := { of barred with attic := [{ fid := 1, core := 0, slot := 0, pc := 0x440 }], live := [0, 1] }
def parked : Team := { parkable with groups := [] }
theorem witness_forming :
    ((on parkable).curGroup? = some (parkable, barred) ∧ fieldOf (world.reg (pidx 0 0)) 27 3 = 1 ∧ barred.active.length < parkable.launch.wv ∧ parkable.freeRecord 0 = none ∧
      barred.active ≠ [] ∧ barred.barPass = false ∧ fieldOf (world.reg 0x00D) 0 16 ≤ 100 - 0) ∧
    (((on parked).formable 0 101).map (fun c => (c.rejoin, c.pc, c.fibres.map (·.fid))) = some (none, 0x440, [1]) ∧ parked.freeRecord 0 = some 0 ∧ parked.errors = [] ∧
      ((on team0).formable 0 101).isNone = true) := by
  refine ⟨by decide, by decide⟩

/-- CoreEvents, TOKPUB at the ring engine and a K step: turns that prepare each, and turns that prepare neither. -/
theorem witness_engines : let k : Instr := .tokpub (we 30 20 21 1); let m : Instr := .mma (we 20 21 1 0);
    prepared ((on (of (holding k (toks 0 8))) ringed).prepare pos0) = some (k, 100, [0]) ∧
    (∀ q ∈ [false, true], let i : Instr := if q then .mmak (we 20 21 1 0) else m; let g := grp [(20, 3), (21, 0x200000000)];
      prepared ((on (mixer (holding i g))).prepare pos0) = some (i, 100, [0])) ∧
    (Instr.isMatrix m = true ∧ Instr.isMatrix k = false ∧ group0.startStep < rec0.steps ∧
      (on (mixer (holding m (grp [(20, 3), (21, 0x200000000)])))).productsBeside (mixer (holding m)) 0 [0] = []) ∧
    prepared (({ on team0 with teams := [] } : State).prepare pos0) = none := by
  refine ⟨by decide +kernel, by decide +kernel, by decide, by decide⟩

/-- CoreEvents, the rest: an exiting team, a walk that finds a leaf and one that finds none, an invalidation that another
awaits, and a copy with a unit to land. -/
def exits : Team := { again 0 with exiting := true, drained := false }
def landing : Copy := { st := .landing, total := 128, kind := .bcpy, desc := bcpyD, dst := some { space := .scratch, first := 0, last := 127 } }
def lands (st : CopyState) : Team := { team0 with copies := [(3, { landing with st := st })] }
def leafOf : Walk → Option (DWord × Nat)
  | .leaf e n => some (e, n)
  | _ => none
theorem witness_cores :
    ((on exits).team? 0 0 = some exits ∧ exits.launch.contain = true ∧ exits.copies = [] ∧ (match (on exits).drain exits with
      | .done S T => decide (T.core = 0) && decide (T.slot = 0) && decide (T.copies = []) && decide (T.launch = exits.launch) && !S.remotePending T | _ => false) = true) ∧
    (leafOf ((book 1 []).walk 0 0x20000) = some (0xC000000000000300, 30) ∧ (book 1 []).tlbHit 0 0 none 0x20000 = none ∧ leafOf ((book 1 []).walk 0 0x8000000000) = none ∧
      (book 1 []).noTarget 0xC000000000000300 30 0x20000 = false ∧ bitAt (0xC000000000000300 : DWord) 58 = false ∧
      (book 1 []).noTarget 0xC100000000000300 30 0x20000 = true ∧
      (book 1 []).tlbHit 0 0 none 0x1000 ≠ none ∧ walked ((book 1 []).xlate ((book 1 []).coreSec 0) 0 0 none 0x20000 .read true) = some (0x20000, false) ∧
      walked ((book 1 []).xlate (!(book 1 []).coreSec 0) 0 0 none 0x20000 .read true) = none) ∧
    (bitAt (world.reg (pidx 0 11)) 63 = false ∧ let s := (world.setReg (pidx 0 11) 0x8000000000000000).setPart 0 { heldTlb := [5] }; bitAt (s.reg (pidx 0 11)) 63 = true ∧
      (s.part 0).heldTlb = [5] ∧ (world.part 0).heldTlb = []) ∧
    (∀ st ∈ [CopyState.landing, .frozen], (on (lands st)).team? 0 0 = some (lands st)) ∧
    (bcpyBad landing.desc = false ∧ landing.total = bcpyTotal landing.desc ∧ landing.count < landing.total ∧ bcpyDims landing.desc = 0 ∧ bcpyConv landing.desc = 0 ∧
      fieldOf (landing.desc.getD 2 0) 4 2 = 0 ∧ landing.dstSpace = .scratch ∧ walked ((on (lands .landing)).engineXlat (lands .landing) landing 0x1000 .read) = some (0x1000, false) ∧
      0 + 128 ≤ 1024 * launch0.scratch ∧ 0x1000 + 128 ≤ 2 ^ 40 ∧ (on (lands .landing)).seals = [] ∧ (on (lands .landing)).posted = [] ∧
      let b : Copy := { landing with desc := [0x1000, 0, 0x8000010040, 0, 0, 0, 0, 0] }; bcpyBad b.desc = false ∧ b.total = bcpyTotal b.desc ∧ bitAt (b.desc.getD 2 0) 16 = true) := by
  refine ⟨by decide +kernel, by decide +kernel, by decide, by decide, by decide⟩

/-! ### The step, reset and the encodings -/

/-- StepRunsTheDecodedInstruction: the device after reset with the word of an IADD placed where the next step fetches it, with
one that decodes to nothing, and a group that holds such words or has issued 24. -/
def placed (w : Nat) : State := State.reset.withFetchWord 32 w
theorem witness_StepRunsTheDecodedInstruction :
    (placed 0).agenda = [.group 0 0 0] ∧ ((({ ({ placed 0 with agenda := [] } : State).upkeep (.group 0 0 0) with cur := some pos0 } : State).curGroup?).map fun p => (p.1.cut, p.2.issued, p.2.wordsAt, p.2.abort, p.2.late)) = some (false, 0, [], [], []) := by
  refine ⟨by decide +kernel, by decide +kernel⟩
theorem witness_held_words : let g := holding (.sel (w3 3 1 2 4 0)); let x : Group := { g with buf := [0x7F000000] };
    (∀ u ∈ [g, x, { g with issued := 24 }], let s := { ({ on (of u) with agenda := [] } : State).upkeep (.group 0 0 0) with cur := some pos0 }; s.curGroup? = some (of u, u) ∧ s.issues (of u) u = true ∧ u.abort = [] ∧ u.late = []) ∧
    decode 48 x.wordsAt = .illegal 1 ∧ decode 48 g.wordsAt = .instr (.sel (w3 3 1 2 4 0)) 1 := by
  refine ⟨by decide, by decide, by decide⟩
/-- Its clauses on the issue slots: a lane and a uniform instruction that are admitted, one behind a uniform issue of the clock,
one behind a group that holds every position, and one behind another that waits; and slot 1 where slot 0 has more claims (R130). -/
def wide (g h : Group) : Team := { team0 with launch := { launch0 with width := 64 }, groups := [g, { h with num := 1 }] }
theorem witness_slots : let l : Instr := .sel (w3 3 1 2 4 0); let u : Instr := .tokpub (we 30 20 21 1); let held : Group := { group0 with positions := some 0 };
    let got := fun (s : State) (t : Team) (g : Group) (i : Instr) => (s.letIssue t g i).map fun v => (v.positions, v.seeks, v.runStart)
    got (on team0) team0 group0 l = some (some 0, .none, 100) ∧ got (on team0) team0 group0 u = some (some 0, .granted, 100) ∧
    got { on team0 with uniClk := [(0, 101)] } team0 group0 u = none ∧ got { on team0 with uniClk := [(0, 100)] } team0 group0 u ≠ none ∧
    (let t := wide group0 held; got (on t) t group0 l = none ∧ (on t).lacks t group0 = .positions ∧ (on t).issueSlot 0 = 1 ∧ ((on team0).slotted t).groups.map (·.islot) = [0, 1]) ∧
    (let t := wide group0 { group0 with seeks := .positions }; let g : Group := { group0 with runStart := 1 }; got (on t) t g l = none ∧ got (on t) t group0 l ≠ none) := by
  refine ⟨by decide, by decide, by decide, by decide, by decide, by decide⟩
theorem witness_upkeep : (∀ t ∈ (on team0).teams, t.attic = []) ∧ (∀ i ∈ (on team0).insts, i.redeem = none ∨ i.exited ≠ i.launch.teams) ∧
    ∀ p ∈ (on team0).parts, p.2.slotsDue = [] ∧ ∀ g, p.2.graph = some g → ∀ x ∈ g.edges, x.wbDue = false ∧ x.retDue = false :=
  ⟨by decide, by decide, fun _ h => absurd h (by rw [show (on team0).parts = [] from rfl]; exact List.not_mem_nil)⟩
theorem witness_fetchWord : let s := on team0; s.seals = [] ∧ s.codeLine 0 0 0x400 = none ∧ walked (s.xlate (s.coreSec 0) 0 0 (s.version team0) 0x400 .exec false) = some (0x400, false) ∧
    s.homePoison (0x400 / 32) = false ∧ (Instr.timestampTick).fields? = none ∧ (∀ r, (({ s with agenda := [.event .timestampTick r] } : State).agenda) = .event .timestampTick r :: []) := by
  refine ⟨rfl, by decide, by decide, by decide, by decide, fun _ => rfl⟩

/-- DecodeAndEncodeAgree: a well-formed instruction with words after its own. -/
theorem witness_DecodeAndEncodeAgree : let i : Instr := .sel (w3 3 1 63 4 0 (lit 7)); i.fields?.isSome = true ∧ WellFormed 16 i ∧ decode 16 (encode i ++ [0]) = .instr i 2 := by
  decide

/-- StepsKeepTheMemoryForm: the state after reset has the form, and its next step is one. -/
theorem witness_StepsKeepTheMemoryForm : State.reset.MemoryForm ∧ ∃ s', step State.reset = .next s' := by
  refine ⟨memoryForm_reset, ?_⟩
  exact ⟨_, rfl⟩

/-! ### Worked examples of the spec: one instruction on the small machine, and the result of its first fibre -/

/-- Fibres 0 to 7 with the same values in v1 on, and what an instruction leaves in v-register r and in the sticky word. -/
def seeded (vs : List Word) (g : Group := group0) (ftz : Bool := false) : Team :=
  { of g with win := (List.range 8).flatMap fun f => vs.zipIdx.filterMap fun p => if p.1 = 0 then none else some (64 * f + 1 + p.2, p.1)
              launch := { launch0 with ftz := ftz } }
def next? : Res → Option State
  | .next s => some s
  | _ => none
def result (i : Instr) (t : Team) (r : Nat) (fid : Nat := 0) : Option (Word × BitVec 7) :=
  ((next? (exec i (on t))).bind (·.team? 0 0)).map fun t => (sget 0 t.win (64 * fid + r), sget 0 t.sticky fid)
def value (i : Instr) (t : Team) (r : Nat) (fid : Nat := 0) : Option Word := (result i t r fid).map (·.1)

/-- R231, its table of divisions. -/
theorem test_IDIV : ∀ p ∈ [(7, 2, 3, 1, 3, 0), (0xFFFFFFF9, 2, 0xFFFFFFFD, 0xFFFFFFFF, 0x7FFFFFFC, 0), (7, 0, 0xFFFFFFFF, 7, 0xFFFFFFFF, 2), (0x80000000, 0xFFFFFFFF, 0x80000000, 0, 0, 2)],
    let t := seeded [BitVec.ofNat 32 p.1, BitVec.ofNat 32 p.2.1]; let w := w3 3 1 2 0 0;
    result (.idivI32 w) t 3 = some (BitVec.ofNat 32 p.2.2.1, BitVec.ofNat 7 p.2.2.2.2.2) ∧ value (.iremI32 w) t 3 = some (BitVec.ofNat 32 p.2.2.2.1) ∧
      value (.idivN32 w) t 3 = some (BitVec.ofNat 32 p.2.2.2.2.1) := by decide

/-- The worked trial of R236: 1.0 + 2^-24 and 1.0 + 2^-149, rounded in each way, scaled, and under FTZ. -/
theorem test_FADD : (∀ p ∈ [(0, 0, 0x3F800000), (5, 0, 0x3F800001), (3, 0, 0x3F800001), (2, 0, 0x3F800000), (0, 1, 0x40000000)],
      result (.faddF32 (w3 3 1 2 0 0 { a := some { plainA with rnd := BitVec.ofNat 3 p.1, scale := BitVec.ofNat 6 p.2.1 } })) (seeded [0x3F800000, 0x33800000]) 3 =
        some (BitVec.ofNat 32 p.2.2, 32)) ∧
    ∀ z ∈ [true, false], result (.faddF32 (w3 3 1 2 0 0 { a := some { plainA with rnd := 3 } })) (seeded [0x3F800000, 1] group0 z) 3 =
      some (if z then (0x3F800000, 0) else (0x3F800001, 32)) := by decide

/-- R233, PERM's example. -/
theorem test_PERM : (∀ p ∈ [(0xC567, 0x00667788), (0xF567, 0xFF667788)],
    value (.perm (w3 4 1 2 0 0 { x := some { plainX with hc := true, c := 3 } })) (seeded [0x44332211, BitVec.ofNat 32 p.1, 0x88776655]) 4 = some (BitVec.ofNat 32 p.2)) := by decide

/-- R245, RNDP of a zero key and a zero counter. -/
theorem test_RNDP : [8, 9, 10, 11].map (value (.rndp (w3 8 4 20 0 0)) team0) = [0x6627E8D5, 0xE169C58D, 0xBC57AC4C, 0x9B00DBD8].map some := by decide

/-- R260, the fixed tree: 2^24 in lane 0 and 1.0 in the others, with lane 1 and without it. -/
theorem test_FREDX : ∀ m ∈ [0xFF, 0xFD], let t := seeded [0, 0x3F800000] (grp [(16, BitVec.ofNat 64 m)]);
    result (.fredx (w3 3 2 16 0 0)) { t with win := sset 0 t.win 2 0x4B800000 } 3 = some (0x4B800003, if m = 0xFF then 32 else 0) := by decide

/-- R47 and R398, SHARD's example: device 2 of four. -/
theorem test_SHARD : let s : State := ((((on (seeded [0, 0, 0, 0x789A0000, 0x00123456])).setReg 0x008 2).setReg 0x392 2).setReg 0x202 0x8002);
    ((next? (exec (.shard (w3 3 4 57 0 0)) s)).bind (·.team? 0 0)).map (fun t => sget 0 t.win 3) = some 0x00920102 := by decide

/-- R396, one step of the optimizer. -/
theorem test_OPTAW : let t := seeded [0, 0, 0, 0x3F800000, 0, 0, 0x3F000000] (grp (from_ 20 [0x3F0000003E800000, 0x3F4000003F000000, 0x3F80000030800000, 0x4080000040000000]));
    [8, 9, 10, 11].map (value (.optaw (w3 8 4 20 0 0)) t) = [0x3F200000, 0x3E800000, 0x3D800000, 0x3F800000].map some := by decide +kernel

/-- R313 to R315, the quantised block: its scale, and the eighth element. -/
theorem test_QSCALE : value (.qscale (w3 5 4 63 0 0 (lit 0x40C00000))) (seeded [0, 0, 0, 0x40A00000]) 5 = some 0x56 := by decide +kernel

/-- R269, eight lanes at one word that holds 10: each receives the sum of those before it, and the word holds 46. -/
def adds : Instr := .atom (w3 10 57 6 0 0 { x := some { plainX with ub := true, hc := true, c := 9 }, m := some plainM })
theorem test_ATOM : let t : Team := { seeded [] (grp [(6, 0x1000)]) with win := (List.range 8).map fun f => (64 * f + 9, BitVec.ofNat 32 (f + 1)) };
    (next? (exec adds { on t with mem := [(0x1000, 10)] })).map (fun s => ((s.team? 0 0).map fun t => (List.range 8).map fun f => sget 0 t.win (64 * f + 10), s.homeBytes 0x1000 4)) =
      some (some [10, 11, 13, 16, 20, 25, 31, 38], [46, 0, 0, 0]) := by decide +kernel

/-- R131, R200 and R230: the step after reset with the chapter's word for an addition of 1 to v2 placed at its PC. -/
theorem test_step_runs_a_placed_word : ((next? (step (State.reset.withFetchWord 32 0x23082008))).bind (·.team? 0 0)).map (fun t => sget 0 t.win 2) = some 1 ∧
    decodeTableWord 32 0x23082008 = some (.iaddI32Li { d := 2, a := 2, imm := 1, s := 0 }) := by decide +kernel

end Sys2Proof.Tests
end

section
/-! SUPPORT. What leaves the clock alone: the operations that a write of a state register can come to, in the order of
their definitions, and the write itself. -/

namespace Sys2Proof.Machine

/-- A fold of steps that leave the clock alone leaves it alone. -/
theorem foldl_clk {α : Type} (f : State → α → State) (h : ∀ s a, (f s a).clk = s.clk) (l : List α) (s : State) :
    (l.foldl f s).clk = s.clk :=
  foldl_keeps (fun b => b.clk = s.clk) f (fun b a hb => (h b a).trans hb) l s rfl

/-! ### The log, the interrupts and the registers -/

@[simp] theorem State.sendMessage_clk (s : State) (e : Nat) : (s.sendMessage e).clk = s.clk := by
  unfold State.sendMessage; split <;> rfl

@[simp] theorem State.raise_clk (s : State) (e : Nat) : (s.raise e).clk = s.clk := by
  unfold State.raise; split
  · rfl
  · simp only; split <;> simp

@[simp] theorem State.appendLog_clk (s : State) (e : LogEntry) : (s.appendLog e).clk = s.clk := State.raise_clk _ _

@[simp] theorem State.addLog_clk (s : State) (e : LogEntry) : (s.addLog e).clk = s.clk := by
  unfold State.addLog
  simp only
  split_ifs <;> simp

@[simp] theorem State.foldBufail_clk (s : State) (fn : Nat) : (s.foldBufail fn).clk = s.clk := rfl

@[simp] theorem State.hashOwners_clk (s : State) : s.hashOwners.clk = s.clk := rfl

@[simp] theorem State.applyShared_clk (s : State) (i : Nat) (v : DWord) : (s.applyShared i v).clk = s.clk := by
  unfold State.applyShared; split_ifs <;> simp

@[simp] theorem State.applyHeld_clk (s : State) : s.applyHeld.clk = s.clk :=
  foldl_clk _ (fun _ _ => State.applyShared_clk _ _ _) _ _

@[simp] theorem State.writeMsc_clk (s : State) (v : DWord) : (s.writeMsc v).clk = s.clk := by
  unfold State.writeMsc; simp only; split <;> rfl

@[simp] theorem State.writeInten_clk (s : State) (v : DWord) : (s.writeInten v).clk = s.clk :=
  foldl_clk _ State.sendMessage_clk _ _

/-! ### Memory -/

@[simp] theorem State.dirtyLine_clk (s : State) (line : Nat) : (s.dirtyLine line).clk = s.clk := by
  unfold State.dirtyLine; simp only; split_ifs <;> rfl

@[simp] theorem State.writeBackLine_clk (s : State) (line : Nat) : (s.writeBackLine line).clk = s.clk := by
  unfold State.writeBackLine; split
  · rfl
  · simp only; split_ifs <;> rfl

@[simp] theorem State.mscWriteBack_clk (s : State) (l : PoolLine) (base : Nat) : (s.mscWriteBack l base).clk = s.clk := by
  unfold State.mscWriteBack; simp only; split
  · rfl
  · refine foldl_clk _ (fun s u => ?_) _ _
    rfl

@[simp] theorem State.mscFill_clk (s : State) (pa key : Nat) : (s.mscFill pa key).clk = s.clk := by
  unfold State.mscFill; simp only; split_ifs
  · rfl
  · rfl
  · split <;> simp

@[simp] theorem State.cleanPoolLine_clk (s : State) (l : PoolLine) : (s.cleanPoolLine l).clk = s.clk := by
  unfold State.cleanPoolLine; simp only; split_ifs
  · rfl
  · split <;> simp

@[simp] theorem State.evictPoolLine_clk (s : State) (l : PoolLine) : (s.evictPoolLine l).clk = s.clk := by
  unfold State.evictPoolLine; simp only; split_ifs <;> simp

@[simp] theorem State.l2Room_clk (s : State) (line : Nat) : (s.l2Room line).clk = s.clk := by
  unfold State.l2Room
  split
  · split
    · split <;> simp
    · rfl
  · rfl

@[simp] theorem State.poolFill_clk (s : State) (pa key : Nat) : (s.poolFill pa key).clk = s.clk := by
  unfold State.poolFill; simp only; split_ifs <;> simp

@[simp] theorem State.touch_clk (s : State) (pa n key : Nat) : (s.touch pa n key).clk = s.clk := by
  unfold State.touch; split
  · exact foldl_clk _ (fun _ _ => State.poolFill_clk _ _ _) _ _
  · rfl

@[simp] theorem State.setPoison_clk (s : State) (sec : Nat) (p : Bool) : (s.setPoison sec p).clk = s.clk := by
  unfold State.setPoison; split <;> simp

@[simp] theorem State.putByte_clk (s : State) (pa : Nat) (b : Byte) : (s.putByte pa b).clk = s.clk := by
  unfold State.putByte; split <;> simp

@[simp] theorem State.putBytes_clk (s : State) (pa : Nat) (bs : List Byte) : (s.putBytes pa bs).clk = s.clk := by
  induction bs generalizing s pa with
  | nil => rfl
  | cons b bs ih => simp [State.putBytes, ih]

@[simp] theorem State.writeHome_clk (s : State) (pa : Nat) (bs : List Byte) : (s.writeHome pa bs).clk = s.clk :=
  (foldl_clk _ (fun _ _ => State.setPoison_clk _ _ _) _ _).trans (by simp)

@[simp] theorem State.rekeySector_clk (s : State) (key : Nat) (write : Bool) (sec : Nat) :
    (s.rekeySector key write sec).clk = s.clk := by
  unfold State.rekeySector; simp only; split
  · split <;> rfl
  · split <;> simp

@[simp] theorem State.rekey_clk (s : State) (key : Nat) (write : Bool) (pa n : Nat) : (s.rekey key write pa n).clk = s.clk := by
  unfold State.rekey; split
  · exact foldl_clk _ (fun _ _ => State.rekeySector_clk _ _ _ _) _ _
  · simp

@[simp] theorem State.l1DropRange_clk (s : State) (core : Nat) (pair : Bool) (pa n : Nat) :
    (s.l1DropRange core pair pa n).clk = s.clk := rfl

@[simp] theorem State.performOne_clk (s : State) (p : Posted) (left : List Posted) : (s.performOne p left).clk = s.clk := by
  have hp : ∀ (b : Bool) (ns : List Nat) (s : State), (ns.foldl (fun s n => s.setPoison n b) s).clk = s.clk :=
    fun b => foldl_clk _ fun _ _ => State.setPoison_clk _ _ _
  simp [State.performOne, hp]

@[simp] theorem State.performAll_clk (s : State) (ps : List Posted) : (s.performAll ps).clk = s.clk := by
  induction ps generalizing s with
  | nil => rfl
  | cons p ps ih => simp [State.performAll, ih]

@[simp] theorem State.performWhere_clk (s : State) (f : Posted → Bool) : (s.performWhere f).clk = s.clk :=
  State.performAll_clk _ _

@[simp] theorem State.performInst_clk (s : State) (id : Nat) : (s.performInst id).clk = s.clk := State.performWhere_clk _ _

@[simp] theorem State.hostPut_clk (s : State) (pa : Nat) (bs : List Byte) : (s.hostPut pa bs).clk = s.clk := by
  unfold State.hostPut; split <;> simp

/-! ### Accesses of the scheduler and the engines -/

@[simp] theorem State.atHome_clk (s : State) (core : Option Nat) (pa n : Nat) : (s.atHome core pa n).clk = s.clk := by
  unfold State.atHome; split <;> simp

@[simp] theorem State.noteAccess_clk (s : State) (pa key k unit : Nat) (byCore : Bool) :
    (s.noteAccess pa key k unit byCore).clk = s.clk := by
  unfold State.noteAccess
  have hf := foldl_clk State.foldBufail State.foldBufail_clk
    ((s.functionsOf pa ++ if pa < 2 ^ 40 then [40] else []).filter s.bufail) s
  generalize List.foldl State.foldBufail s _ = s1 at hf ⊢
  simp only
  split
  · exact (State.addLog_clk _ _).trans hf
  · exact hf

@[simp] theorem State.noteKeyEmpty_clk (s : State) (pa : Nat) (leaf : DWord) (k unit : Nat) (byCore : Bool) :
    (s.noteKeyEmpty pa leaf k unit byCore).clk = s.clk := State.noteAccess_clk _ _ _ _ _ _

@[simp] theorem State.enginePut_clk (s : State) (core : Option Nat) (k : Nat) (ver : Option Word) (va : DWord) (bs : List Byte) :
    (s.enginePut core k ver va bs).1.clk = s.clk := by
  unfold State.enginePut; split
  · simp only; split <;> simp
  · rfl

@[simp] theorem State.setWord0_clk (s : State) (core : Option Nat) (k : Nat) (ver : Option Word) (i : Nat) (w : DWord) :
    (s.setWord0 core k ver i w).1.clk = s.clk := State.enginePut_clk _ _ _ _ _ _

@[simp] theorem State.schedPut_clk (s : State) (k : Nat) (ver : Option Word) (va : DWord) (bs : List Byte) :
    (s.schedPut k ver va bs).1.clk = s.clk := State.enginePut_clk _ _ _ _ _ _

theorem State.schedParts_clk {s s1 : State} {sec : Bool} {core : Option Nat} {k : Nat} {ver : Option Word} {acc bs : List Byte}
    {poison poison' : Option Nat} {ps : List (Nat × Nat)} (h : s.schedParts sec core k ver acc poison ps = .ok bs poison' s1) :
    s1.clk = s.clk := by
  induction ps generalizing s acc poison with
  | nil => cases h; rfl
  | cons p ps ih =>
    unfold State.schedParts at h
    simp only at h
    split at h
    · simpa using ih h
    · cases h

@[simp] theorem State.word0_clk (s : State) (core : Option Nat) (k : Nat) (ver : Option Word) (i : Nat) :
    (s.word0 core k ver i).2.clk = s.clk := by
  unfold State.word0
  simp only
  split
  · rfl
  · next bs poison s1 hget =>
    have h1 : s1.clk = s.clk := State.schedParts_clk hget
    split_ifs <;> simp [h1]

@[simp] theorem State.logXlat_clk (s : State) (k : Nat) (x : Xlat) (va : DWord) (e : LogEntry → LogEntry) :
    (s.logXlat k x va e).clk = s.clk := by
  unfold State.logXlat; split
  · simp
  · split <;> simp
  · rfl

theorem State.slotStep_clk {s s' : State} {k : Nat} {d : SlotDue} (h : s.slotStep k d = some s') : s'.clk = s.clk := by
  unfold State.slotStep at h
  have hw := s.word0_clk d.core k d.ver d.slot
  split at h
  · cases h
  · next hx => cases h; simpa [hx] using hw
  · next hx => cases h; simpa [hx] using hw
  · next s1 hx =>
    rw [hx] at hw
    split at h
    · cases h; exact hw
    · next w' _ =>
      have hs := s1.setWord0_clk d.core k d.ver d.slot w'
      split at h
      · cases h
      · next hy =>
        rw [hy] at hs
        cases h
        split <;> simpa using hs.trans hw
      · next hy =>
        rw [hy] at hs
        cases h
        simpa using hs.trans hw

@[simp] theorem State.slotWrite_clk (s : State) (k : Nat) (d : SlotDue) : (s.slotWrite k d).clk = s.clk := by
  unfold State.slotWrite; split
  · next h => exact State.slotStep_clk h
  · rfl

@[simp] theorem State.freePending_clk (s : State) (core k : Nat) (ver : Option Word) (slots : List Nat) :
    (s.freePending core k ver slots).clk = s.clk :=
  foldl_clk _ (fun _ _ => State.slotWrite_clk _ _ _) _ _

@[simp] theorem State.endRedeem_clk (s : State) (k : Nat) (ver : Option Word) (handle : DWord) (status : Nat) :
    (s.endRedeem k ver handle status).clk = s.clk := State.slotWrite_clk _ _ _

@[simp] theorem State.failRedeems_clk (s : State) (k : Nat) (slots : List Nat) : (s.failRedeems k slots).clk = s.clk :=
  foldl_clk _ (fun _ _ => State.slotWrite_clk _ _ _) _ _

/-! ### Edges, launches and teams -/

@[simp] theorem State.setEdge_clk (s : State) (k e : Nat) (x : Edge) : (s.setEdge k e x).clk = s.clk := rfl

@[simp] theorem State.writeBack_clk (s : State) (k e : Nat) : (s.writeBack k e).clk = s.clk := by
  unfold State.writeBack; split
  · rfl
  · simp only; split
    · simp
    · simp
    · split <;> simp

@[simp] theorem State.writeReturn_clk (s : State) (k e : Nat) : (s.writeReturn k e).clk = s.clk := by
  have hp : ∀ (ids : List Nat) (s : State), (ids.foldl State.performInst s).clk = s.clk := foldl_clk _ State.performInst_clk
  unfold State.writeReturn; split
  · rfl
  · split <;> simp [hp]

@[simp] theorem State.publishSlots_clk (s : State) (k e : Nat) (idxs : List Nat) : (s.publishSlots k e idxs).clk = s.clk := by
  unfold State.publishSlots; split <;> simp

@[simp] theorem State.releaseSlots_clk (s : State) (k e inst : Nat) (idxs : List Nat) :
    (s.releaseSlots k e inst idxs).clk = s.clk := by
  unfold State.releaseSlots; split
  · rfl
  · simp only; split_ifs <;> simp

@[simp] theorem State.handOn_clk (s : State) (i : Inst) : (s.handOn i).clk = s.clk :=
  foldl_clk _ (fun _ _ => by simp only; split <;> simp) _ _

@[simp] theorem State.releaseHold_clk (s : State) (v : Word) : (s.releaseHold v).clk = s.clk := by
  unfold State.releaseHold; simp only; split_ifs <;> simp

@[simp] theorem State.endBinding_clk (s : State) (i : Inst) (status : Nat) : (s.endBinding i status).clk = s.clk := by
  unfold State.endBinding
  simp only
  split
  · split_ifs
    · rw [State.releaseHold_clk]
      split <;> simp
    · split <;> simp
  · split <;> simp

@[simp] theorem State.startBind_clk (s : State) (k : Nat) : (s.startBind k).clk = s.clk := rfl

@[simp] theorem State.settleBusy_clk (s : State) (k : Nat) : (s.settleBusy k).clk = s.clk := by
  unfold State.settleBusy; simp only; split_ifs <;> rfl

@[simp] theorem State.checkInstance_clk (s : State) (id : Nat) : (s.checkInstance id).clk = s.clk := by
  unfold State.checkInstance; split
  · rfl
  · split
    · simp
    · rfl

@[simp] theorem State.unpinTeam_clk (s : State) (t : Team) : (s.unpinTeam t).clk = s.clk := rfl

@[simp] theorem State.killTeam_clk (s : State) (t : Team) : (s.killTeam t).clk = s.clk := by simp [State.killTeam]

@[simp] theorem State.flushRelaunchLog_clk (s : State) (id : Nat) : (s.flushRelaunchLog id).clk = s.clk :=
  foldl_clk _ (fun _ _ => State.addLog_clk _ _) _ _

@[simp] theorem State.putOrphan_clk (s : State) (t : Team) : (s.putOrphan t).clk = s.clk := by
  unfold State.putOrphan; simp only; split <;> simp

@[simp] theorem State.logLateFail_clk (s : State) (t : Team) (core : Nat) (addr : DWord) :
    (s.logLateFail t core addr).clk = s.clk := by
  unfold State.logLateFail; split <;> simp

@[simp] theorem State.logAborted_clk (s : State) (t u : Team) : (s.logAborted t u).clk = s.clk :=
  foldl_clk _ (fun _ _ => State.logLateFail_clk _ _ _ _) _ _

@[simp] theorem State.settleRanges_clk (s : State) (t : Team) : (s.settleRanges t).1.clk = s.clk :=
  foldl_clk _ (fun _ _ => by simp only; split <;> simp) _ _

@[simp] theorem State.settleFaults_clk (s : State) (k : Nat) : (s.settleFaults k).clk = s.clk := rfl

@[simp] theorem State.leaveTeam_clk (s : State) (t : Team) : (s.leaveTeam t).clk = s.clk := by
  unfold State.leaveTeam
  simp only
  split
  · simp
  · rw [State.checkInstance_clk, State.settleFaults_clk]
    split
    · simp only [State.putInst_clk, State.unpinTeam_clk, State.dropTeam_clk, State.settleRanges_clk]
      split_ifs <;> rfl
    · simp only [State.unpinTeam_clk, State.dropTeam_clk, State.settleRanges_clk]
      split_ifs <;> rfl

/-! ### The partitions' commands and the writes of registers -/

@[simp] theorem State.discardPart_clk (s : State) (k : Nat) : (s.discardPart k).clk = s.clk := by
  unfold State.discardPart
  simp only [State.settleBusy_clk, State.failRedeems_clk, State.setPart_clk]
  rw [foldl_clk _ fun s c => ?_, foldl_clk _ fun s i => ?_, foldl_clk _ fun s t => ?_, foldl_clk _ State.killTeam_clk]
  · simp
  · split
    · split <;> simp
    · simp
  · split <;> simp

@[simp] theorem State.resolveNow_clk (s : State) (k block : Nat) (abort : Bool) : (s.resolveNow k block abort).clk = s.clk := by
  unfold State.resolveNow
  simp only [State.setPart_clk]
  rw [foldl_clk _ fun s t => ?_, foldl_clk _ fun s t => ?_]
  · simp
  · split <;> simp

@[simp] theorem State.resolveFault_clk (s : State) (k : Nat) (v : DWord) : (s.resolveFault k v).clk = s.clk := by
  unfold State.resolveFault; simp only; split_ifs <;> simp

@[simp] theorem State.setPstate_clk (s : State) (k st : Nat) : (s.setPstate k st).clk = s.clk := rfl
@[simp] theorem State.setPerr_clk (s : State) (k e : Nat) : (s.setPerr k e).clk = s.clk := rfl

@[simp] theorem State.command_clk (s : State) (k cmd : Nat) : (s.command k cmd).clk = s.clk := by
  unfold State.command; split
  · unfold State.preempt; simp only; split_ifs <;> rfl
  · unfold State.resume; split <;> rfl
  · unfold State.resetPart; split <;> simp
  · rfl

@[simp] theorem State.writeEn_clk (s : State) (k : Nat) (en : Bool) : (s.writeEn k en).1.clk = s.clk := by
  unfold State.writeEn; simp only; split_ifs <;> rfl

@[simp] theorem State.tlbInvalidate_clk (s : State) (k : Nat) (v : DWord) : (s.tlbInvalidate k v).clk = s.clk := rfl

/-! ### What a write of a register comes to -/

/-- The state that a register write leaves, whatever it comes to. -/
def RegOut.state : RegOut → State
  | .done s => s
  | .ignored s => s
  | .held s => s

@[simp] theorem RegOut.state_done (s : State) : (RegOut.done s).state = s := rfl
@[simp] theorem RegOut.state_ignored (s : State) : (RegOut.ignored s).state = s := rfl
@[simp] theorem RegOut.state_held (s : State) : (RegOut.held s).state = s := rfl

@[simp] theorem RegOut.state_judged (s : State) (b : Bool) : (RegOut.judged s b).state = s := by
  unfold RegOut.judged; split <;> rfl

theorem clk_ite {c : Prop} [Decidable c] {a b : RegOut} {n : Nat} (ha : a.state.clk = n) (hb : b.state.clk = n) :
    (if c then a else b).state.clk = n := by
  split
  · exact ha
  · exact hb

@[simp] theorem State.store_clk (s : State) (i : Nat) (v : DWord) : (s.store i v).state.clk = s.clk := rfl

@[simp] theorem State.storeUnless_clk (s : State) (i : Nat) (locked : Bool) (v : DWord) :
    (s.storeUnless i locked v).state.clk = s.clk := by
  unfold State.storeUnless; split <;> simp

@[simp] theorem State.writeShared_clk (s : State) (i : Nat) (v : DWord) : (s.writeShared i v).state.clk = s.clk := by
  unfold State.writeShared; split <;> simp

@[simp] theorem State.writeRing_clk (s : State) (i : Nat) (v : DWord) : (s.writeRing i v).state.clk = s.clk := by
  unfold State.writeRing; simp only [RegOut.state_judged]; split <;> rfl

@[simp] theorem State.writeBind_clk (s : State) (k : Nat) (v : DWord) : (s.writeBind k v).state.clk = s.clk := by
  unfold State.writeBind; simp only; split_ifs <;> simp

@[simp] theorem State.writePctl_clk (s : State) (k : Nat) (v : DWord) : (s.writePctl k v).state.clk = s.clk := by
  unfold State.writePctl
  simp only [RegOut.state_judged, State.applyHeld_clk, State.command_clk, State.writeEn_clk]
  split <;> rfl

@[simp] theorem State.writePart_clk (s : State) (k j : Nat) (v : DWord) : (s.writePart k j v).state.clk = s.clk :=
  match j with
  | 0 => State.writePctl_clk _ _ _
  | 1 | 2 | 3 | 4 | 10 => State.store_clk _ _ _
  | 5 => State.resolveFault_clk _ _ _
  | 6 | 7 | 8 | 13 | 14 => State.storeUnless_clk _ _ _ _
  | 9 => State.writeBind_clk _ _ _
  | 11 => by unfold State.writePart; simp only; split <;> rfl
  | 12 => by unfold State.writePart; simp only; split <;> rfl
  | _ + 15 => rfl

@[simp] theorem State.writeSecure_clk (s : State) (i : Nat) (v : DWord) : (s.writeSecure i v).state.clk = s.clk := by
  have store : ∀ i v, (s.store i v).state.clk = s.clk := s.store_clk
  have locked : ∀ i b v, (s.storeUnless i b v).state.clk = s.clk := s.storeUnless_clk
  have shared : ∀ i v, (s.writeShared i v).state.clk = s.clk := s.writeShared_clk
  have devid : ∀ w, (if s.devidLocked then .judged s (decide (w ≠ s.reg i))
      else RegOut.done { s.setReg i w with devidLocked := true }).state.clk = s.clk :=
    fun w => clk_ite (by simp) rfl
  have evict : (RegOut.done (if bitAt v 4 then s.setRfield i 5 1 1 else s)).state.clk = s.clk := by split <;> rfl
  unfold State.writeSecure
  exact clk_ite (store _ _) <| clk_ite (s.writeMsc_clk v) <| clk_ite (store _ _) <| clk_ite (devid _) <|
    clk_ite (shared _ _) <| clk_ite (store _ _) <| clk_ite (store _ _) <| clk_ite (locked _ _ _) <|
    clk_ite (store _ _) <| clk_ite (locked _ _ _) <| clk_ite (store _ _) <| clk_ite (store _ _) <|
    clk_ite (shared _ _) <| clk_ite (store _ _) <| clk_ite rfl <| clk_ite (store _ _) <| clk_ite (locked _ _ _) <|
    clk_ite (locked _ _ _) <| clk_ite (s.writeRing_clk i v) <| clk_ite (store _ _) <| clk_ite evict <|
    clk_ite (shared _ _) rfl

/-- Time does not pass in a write of a state register. -/
@[simp] theorem State.writeReg_clk (s : State) (w : Writer) (i : Nat) (v : DWord) : (s.writeReg w i v).state.clk = s.clk := by
  unfold State.writeReg
  split
  · rfl
  · split
    · simp
    · split
      · rfl
      · split
        · split <;> simp
        · split <;> simp

end Sys2Proof.Machine
end

section
/-! PROOFS. The state registers: which there are, what SRD and SWR do with them, and how they stand after a reset. -/

namespace Sys2Proof.Machine

/-! ### Fields -/

theorem fieldOf_zero (a : DWord) (n : Nat) : fieldOf a 0 n = a.toNat % 2 ^ n := by
  simp [fieldOf, BitVec.extractLsb'_toNat]

/-- The low bits that make an address misaligned. -/
theorem fieldOf_zero_three (a : DWord) : fieldOf a 0 3 = a.toNat % 8 := fieldOf_zero a 3

/-! ### What passing an instruction writes -/

/-- Where the clock of the state is that of the issue, passing an instruction puts the group and its team back. -/
theorem Ctx.finish_of_clk {c : Ctx} {S : State} (h : S.clk = c.clk) (stall words : Nat) :
    c.finish S stall words = S.acted c.clk c.t (c.g.retire c.clk stall words) := by
  simp [Ctx.finish, State.acted, h]

theorem State.acted_of_clk {s : State} {clk : Nat} (h : s.clk = clk) (t : Team) (g : Group) : s.acted clk t g = s.put t g := by
  subst h; rfl

theorem Ctx.setS_wroteS (c : Ctx) (stall words lat d : Nat) (v : DWord) :
    c.g.WroteS ((c.setS lat d v).g.retire c.clk stall words) c.t c.clk stall words lat d v :=
  ⟨⟨rfl, rfl, rfl, rfl, ⟨rfl, rfl⟩, ⟨rfl, rfl, rfl, rfl⟩, rfl⟩, fun _ => sget_sset _ _ _ _ _,
    lands_noteWrite c.t c.g _ c.clk lat _ rfl, fun _ hl _ _ => seenAt_noteWrite_ne _ _ _ _ _ _ _ _ hl, rfl, rfl, rfl, rfl⟩

/-! ### Which registers there are, and whose they are -/

/-- The indices that name a state register (R419, R420). -/
def Assigned (i : Nat) : Prop :=
  i ≤ 0x0E9 ∨ (0x100 ≤ i ∧ i < 0x200 ∧ i % 16 ≠ 15) ∨ (0x200 ≤ i ∧ i ≤ 0x3FF) ∨ (0x4000 ≤ i ∧ i < 0x8000)

theorem regAssigned_iff (i : Nat) : regAssigned i = true ↔ Assigned i := by
  simp [regAssigned, Assigned, or_assoc, and_assoc]

theorem regAssigned_eq_false_iff (i : Nat) : regAssigned i = false ↔ ¬ Assigned i := by
  rw [← regAssigned_iff, Bool.not_eq_true]

/-- Whether a register belongs to a partition of the secure world (R66). -/
theorem regPart_any_psec (s : State) (i : Nat) : (regPart i).any s.psec = true ↔
    if 0x100 ≤ i ∧ i < 0x200 then s.psec ((i - 0x100) / 16) = true
    else 0x4000 ≤ i ∧ i < 0x8000 ∧ s.psec ((i - 0x4000) / 1024) = true := by
  unfold regPart
  split
  · simp
  · split
    · next h => simp [h]
    · next h => simpa using fun h1 h2 => absurd ⟨h1, h2⟩ h

/-- The register of a partition's block. -/
theorem regPart_pidx {k j : Nat} (hk : k < 16) (hj : j < 16) : regPart (pidx k j) = some k := by
  unfold regPart pidx
  rw [if_pos (by omega), show (0x100 + 16 * k + j - 0x100) / 16 = k by omega]

theorem regPart_eq_none {i : Nat} (h : i < 0x100 ∨ (0x200 ≤ i ∧ i < 0x4000)) : regPart i = none := by
  unfold regPart
  rw [if_neg (by omega), if_neg (by omega)]

theorem assigned_pidx {k j : Nat} (hk : k < 16) (hj : j < 15) : Assigned (pidx k j) := by
  unfold Assigned pidx; omega

theorem regReadOnly_iff (i : Nat) : regReadOnly i = true ↔
    i ≤ 1 ∨ i = 3 ∨ i = 0x00A ∨ (0x01C ≤ i ∧ i < 0x028) ∨ 0x4000 ≤ i := by
  simp [regReadOnly, or_assoc]

/-! ### Reading (R65, R66, R412) -/

/-- A stored register reads as it stands; QUSED and PSTAT are computed (R15, R91). -/
theorem State.regRead_stored (s : State) {i : Nat} (h : i < 0x4000) (h3 : i ≠ 0x003) (ha : Assigned i) : s.regRead i = s.reg i := by
  unfold State.regRead
  rw [if_neg (by omega), if_neg h3, if_pos ((regAssigned_iff i).2 ha)]

/-- Only an address of the error log can be held (R18). -/
theorem State.logHeld_eq_false (s : State) {a : DWord} (h : fieldOf a 56 8 ≠ 6) : s.logHeld a = false := by
  simp [State.logHeld, h]

/-- A read of an assigned register. -/
theorem State.readback_register (s : State) (who : Issuer) {a : DWord} (h0 : fieldOf a 56 8 = 0)
    (ha : Assigned (fieldOf a 0 56 / 8)) :
    s.readback who a = if (regPart (fieldOf a 0 56 / 8)).any s.psec && !who.sec then (0, s.addLog (who.entry 0x0405 a 0))
      else (s.regRead (fieldOf a 0 56 / 8), s) := by
  unfold State.readback State.readbackWord
  rw [h0]
  simp only [(regAssigned_iff _).2 ha, if_true]
  cases regPart (fieldOf a 0 56 / 8) <;> rfl

/-- A read of a place that holds nothing gives zero and a log entry. -/
theorem State.readback_bad {s : State} {who : Issuer} {a : DWord}
    (h : s.readbackWord who.sec (fieldOf a 56 8) (fieldOf a 0 56) = .bad) :
    s.readback who a = (0, s.addLog (who.entry 0x0405 a 0)) := by
  unfold State.readback
  rw [h]

/-- An index that names no register holds nothing. -/
theorem State.readbackWord_unassigned (s : State) (sec : Bool) {off : Nat} (ha : ¬ Assigned (off / 8)) :
    s.readbackWord sec 0 off = .bad := by
  simp only [State.readbackWord, (regAssigned_eq_false_iff _).2 ha, Bool.false_eq_true, if_false]

/-- There are no spaces but the eight of R65. -/
theorem State.readbackWord_noSpace (s : State) (sec : Bool) {space : Nat} (off : Nat) (h : 8 ≤ space) :
    s.readbackWord sec space off = .bad := by
  obtain ⟨n, rfl⟩ := Nat.exists_eq_add_of_le' h
  rfl

/-- What SRD does at its issue. -/
def srdBody (w : W3) (s : State) (c : Ctx) : Res :=
  let a := c.u w.a
  if fieldOf a 0 3 ≠ 0 then c.badOffset s a
  else if s.logHeld a then c.wait s .held
  else
    let r := s.readback (c.issuer s) a
    .next ((c.setS 0 w.d.toNat r.1).finish r.2 w.s.toNat w.m.words)

theorem execSrd_eq (w : W3) : execSrd w = fun s => uniInstr s (guardY w) w.m w.s.toNat (uniLocs w.a) (srdBody w) := rfl

/-- SRD has completed in a state with a word. -/
def Ctx.SrdGives (c : Ctx) (w : W3) (r : Res) (S : State) (v : DWord) : Prop :=
  ∃ g', r = .next (S.acted c.clk c.t g') ∧ c.g.WroteS g' c.t c.clk w.s.toNat w.m.words 0 w.d.toNat v

/-- A register of the secure world, read from outside it (R66). -/
def State.hides (s : State) (k i : Nat) : Prop :=
  s.psec k = false ∧ (if 0x100 ≤ i ∧ i < 0x200 then s.psec ((i - 0x100) / 16) = true
    else 0x4000 ≤ i ∧ i < 0x8000 ∧ s.psec ((i - 0x4000) / 1024) = true)

/-- What a group's read of an assigned register gives. -/
theorem State.readback_issuer (s : State) (c : Ctx) {a : DWord} (h0 : fieldOf a 56 8 = 0) (ha : Assigned (fieldOf a 0 56 / 8)) :
    (¬ s.hides c.t.part (fieldOf a 0 56 / 8) → s.readback (c.issuer s) a = (s.regRead (fieldOf a 0 56 / 8), s)) ∧
    (s.hides c.t.part (fieldOf a 0 56 / 8) → s.readback (c.issuer s) a = (0, s.addLog ((c.issuer s).entry 0x0405 a 0))) := by
  have hh : ((regPart (fieldOf a 0 56 / 8)).any s.psec && !(c.issuer s).sec) = true ↔ s.hides c.t.part (fieldOf a 0 56 / 8) := by
    rw [Bool.and_eq_true, regPart_any_psec, Bool.not_eq_true', and_comm]
    rfl
  rw [s.readback_register (c.issuer s) h0 ha]
  exact ⟨fun h => if_neg (mt hh.1 h), fun h => if_pos (hh.2 h)⟩

section Srd
variable {w : W3} {s : State} {c : Ctx}

theorem srdBody_misaligned (h : (c.u w.a).toNat % 8 ≠ 0) : s.traps c.t c.g (srdBody w s c) 0x108 (c.u w.a) 0 :=
  if_pos (by rwa [fieldOf_zero_three])

/-- SRD writes the word that the readback gives, in the state that it leaves. -/
theorem srdBody_gives {S : State} {v : DWord} (h : (c.u w.a).toNat % 8 = 0) (h6 : fieldOf (c.u w.a) 56 8 ≠ 6)
    (hr : s.readback (c.issuer s) (c.u w.a) = (v, S)) (hS : S.clk = c.clk) : c.SrdGives w (srdBody w s c) S v := by
  refine ⟨_, ?_, c.setS_wroteS w.s.toNat w.m.words 0 w.d.toNat v⟩
  simp only [srdBody, fieldOf_zero_three, h, s.logHeld_eq_false h6, hr, ne_eq, not_true_eq_false, Bool.false_eq_true, if_false]
  exact congrArg Host.Outcome.next (Ctx.finish_of_clk (c := c.setS 0 w.d.toNat v) hS _ _)

/-- A refused read gives zero in the state that has its log entry. -/
theorem srdBody_refused (hs : s.clk = c.clk) (h : (c.u w.a).toNat % 8 = 0) (h6 : fieldOf (c.u w.a) 56 8 ≠ 6)
    (hr : s.readback (c.issuer s) (c.u w.a) = (0, s.addLog ((c.issuer s).entry 0x0405 (c.u w.a) 0))) :
    c.SrdGives w (srdBody w s c) (s.addLog ((c.issuer s).entry 0x0405 (c.u w.a) 0)) 0 :=
  srdBody_gives h h6 hr ((State.addLog_clk _ _).trans hs)

/-- A register that its reader may see. -/
theorem srdBody_shown (hs : s.clk = c.clk) (h : (c.u w.a).toNat % 8 = 0) (h0 : fieldOf (c.u w.a) 56 8 = 0)
    (ha : Assigned (fieldOf (c.u w.a) 0 56 / 8)) (hh : ¬ s.hides c.t.part (fieldOf (c.u w.a) 0 56 / 8)) :
    c.SrdGives w (srdBody w s c) s (s.regRead (fieldOf (c.u w.a) 0 56 / 8)) :=
  srdBody_gives h (by omega) ((s.readback_issuer c h0 ha).1 hh) hs

/-- An index that names no register, or a register that its reader may not see. -/
theorem srdBody_hidden (hs : s.clk = c.clk) (h : (c.u w.a).toNat % 8 = 0) (h0 : fieldOf (c.u w.a) 56 8 = 0)
    (hh : ¬ Assigned (fieldOf (c.u w.a) 0 56 / 8) ∨ s.hides c.t.part (fieldOf (c.u w.a) 0 56 / 8)) :
    c.SrdGives w (srdBody w s c) (s.addLog ((c.issuer s).entry 0x0405 (c.u w.a) 0)) 0 := by
  refine srdBody_refused hs h (by omega) ?_
  by_cases ha : Assigned (fieldOf (c.u w.a) 0 56 / 8)
  · exact (s.readback_issuer c h0 ha).2 (hh.resolve_left (not_not.2 ha))
  · exact State.readback_bad (by rw [h0]; exact s.readbackWord_unassigned _ ha)

/-- A space that does not exist. -/
theorem srdBody_noSpace (hs : s.clk = c.clk) (h : (c.u w.a).toNat % 8 = 0) (h8 : 8 ≤ fieldOf (c.u w.a) 56 8) :
    c.SrdGives w (srdBody w s c) (s.addLog ((c.issuer s).entry 0x0405 (c.u w.a) 0)) 0 :=
  srdBody_refused hs h (by omega) (State.readback_bad (s.readbackWord_noSpace _ _ h8))

end Srd

/-! ### Writing (R413) -/

theorem State.writeReg_unassigned (s : State) (w : Writer) {i : Nat} (v : DWord) (h : ¬ Assigned i) :
    s.writeReg w i v = .ignored s := by
  unfold State.writeReg
  rw [if_pos (by simp [(regAssigned_eq_false_iff i).2 h])]

theorem State.writeReg_readOnly (s : State) (w : Writer) {i : Nat} (v : DWord) (h : regReadOnly i = true) :
    s.writeReg w i v = .ignored s := by
  unfold State.writeReg
  rw [if_pos (by simp [h])]

/-- A write of a device-wide register is the secure world's (R4). -/
theorem State.writeReg_device (s : State) (w : Writer) {i : Nat} (v : DWord) (ha : Assigned i) (hr : ¬ regReadOnly i = true)
    (h8 : i ≠ 0x0E8) (h9 : i ≠ 0x0E9) (hp : regPart i = none) :
    s.writeReg w i v = if w.isSec then s.writeSecure i v else .ignored s := by
  unfold State.writeReg
  rw [if_neg (by simp [(regAssigned_iff i).2 ha, hr]), if_neg h8, if_neg h9, hp]

/-- A write of a partition's register is judged by the partition's world (R89). -/
theorem State.writeReg_pidx (s : State) (w : Writer) {k j : Nat} (v : DWord) (hk : k < 16) (hj : j < 15) :
    s.writeReg w (pidx k j) v = if s.mayWrite w k then s.writePart k j v else .ignored s := by
  have hr : ¬ regReadOnly (pidx k j) = true := by rw [regReadOnly_iff]; unfold pidx; omega
  unfold State.writeReg
  rw [if_neg (by simp [(regAssigned_iff _).2 (assigned_pidx hk hj), hr]), if_neg (by unfold pidx; omega),
    if_neg (by unfold pidx; omega), regPart_pidx hk (by omega), show (pidx k j - 0x100) % 16 = j by unfold pidx; omega]

theorem State.writeReg_pending (s : State) (w : Writer) (v : DWord) :
    s.writeReg w 0x0E9 v = .done (s.setReg 0x0E9 (s.reg 0x0E9 &&& ~~~v)) := rfl

/-- No other than the secure world writes a register of the device. -/
theorem State.writeReg_device_refused (s : State) {w : Writer} {i : Nat} (v : DWord) (hw : w ≠ .secure)
    (hi : i < 0x0E8 ∨ (0x200 ≤ i ∧ i ≤ 0x3FF)) : s.writeReg w i v = .ignored s := by
  by_cases hr : regReadOnly i = true
  · exact s.writeReg_readOnly w v hr
  · rw [s.writeReg_device w v (by unfold Assigned; omega) hr (by omega) (by omega) (regPart_eq_none (by omega))]
    simp [Writer.isSec, hw]

/-- Who may not write a partition's registers: another partition, a secure partition itself, and management of a secure
partition. -/
theorem State.mayWrite_eq_false (s : State) {w : Writer} {k : Nat} (hp : ∀ m, w = .part m → m ≠ k ∨ s.psec k = true)
    (hs : w ≠ .secure) (hm : w = .mgmt → s.psec k = true) : s.mayWrite w k = false := by
  cases w with
  | secure => exact absurd rfl hs
  | part m => simpa [State.mayWrite] using (hp m rfl).resolve_left
  | mgmt => simpa [State.mayWrite] using hm rfl

/-- The secure world's write of a device-wide register that is not read only. -/
theorem State.writeReg_secure (s : State) {i : Nat} (v : DWord) (ha : i < 0x0E8 ∨ (0x200 ≤ i ∧ i ≤ 0x3FF))
    (hr : ¬ regReadOnly i = true) : s.writeReg .secure i v = s.writeSecure i v := by
  rw [s.writeReg_device .secure v (by unfold Assigned; omega) hr (by omega) (by omega) (regPart_eq_none (by omega))]
  rfl

/-- A single lowest field that stays below its maximum is the value's low bits. -/
theorem keepFields_low {v : DWord} {n max : Nat} (h : fieldOf v 0 n ≤ max) :
    keepFields v [(0, n, max)] = BitVec.ofNat 64 (v.toNat % 2 ^ n) := by
  have hmin : Nat.min (fieldOf v 0 n) max = v.toNat % 2 ^ n := (Nat.min_eq_left h).trans (fieldOf_zero v n)
  simp [keepFields, setField, hmin]

/-- PLIM.CAP saturates at both ends (R15). -/
theorem State.writeSecure_plim (s : State) (v : DWord) :
    s.writeSecure 0x002 v = .done (s.setReg 0x002 (BitVec.ofNat 64 (min (max (v.toNat % 2 ^ 16) 4000) 10000))) := by
  rw [← fieldOf_zero]
  rfl

/-- WCORE stores every bit (R52). -/
theorem State.writeSecure_wcore (s : State) (v : DWord) {j : Nat} (hj : j < 16) :
    s.writeSecure (0x028 + j) v = .done (s.setReg (0x028 + j) v) := by
  unfold State.writeSecure
  iterate 15 rw [if_neg (by omega)]
  exact if_pos (by omega)

/-- Of VCUR only VER is written, and only while CHOLD is zero (R375). -/
theorem State.writeSecure_vcur (s : State) (v : DWord) (h : fieldOf (s.reg 0x010) 32 7 = 0) :
    s.writeSecure 0x010 v = .done (s.setRfield 0x010 0 32 (fieldOf v 0 32)) := by
  have hc : ¬ decide (s.rfield 0x010 32 7 ≠ 0) = true := by simp [State.rfield, h]
  exact (if_neg hc : s.storeUnless 0x010 (decide (s.rfield 0x010 32 7 ≠ 0)) _ = _)

/-- While a partition's Larder is enabled its number of slots keeps its value (R358, R433). -/
theorem State.writePart_larderSlots (s : State) {k : Nat} {v : DWord} (hl : bitAt (s.reg (pidx k 12)) 0 = true)
    (hv : v &&& 0x1FFFFFF ≠ s.reg (pidx k 13)) (hmax : fieldOf v 0 25 ≤ 2 ^ 24) : s.writePart k 13 v = .ignored s := by
  have hw : keepFields v [(0, 25, 2 ^ 24)] = v &&& 0x1FFFFFF := by
    have hlow : v.toNat &&& 0x1FFFFFF = v.toNat % 2 ^ 25 := Nat.and_two_pow_sub_one_eq_mod v.toNat 25
    rw [keepFields_low hmax, ← hlow]
    exact BitVec.eq_of_toNat_eq (Nat.mod_eq_of_lt (Nat.lt_of_le_of_lt Nat.and_le_left v.isLt))
  show s.storeUnless (pidx k 13) (bitAt (s.reg (pidx k 12)) 0) (keepFields v [(0, 25, 2 ^ 24)]) = _
  rw [hw, State.storeUnless, if_pos hl, RegOut.judged, if_pos (decide_eq_true hv)]

/-! ### SWR (R413) -/

/-- What follows in a group that has made a write: the group that issues now, if the write has left one. -/
def Ctx.resume (c : Ctx) (S : State) (k : Ctx → Res) : Res :=
  match S.curGroup? with
  | some (t, g) => k { c with t := t, g := g }
  | none => .next S

theorem Ctx.resume_none {c : Ctx} {S : State} (h : S.curGroup? = none) (k : Ctx → Res) : c.resume S k = .next S := by
  unfold Ctx.resume; rw [h]

theorem Ctx.resume_some {c : Ctx} {S : State} {t : Team} {g : Group} (h : S.issuing t g) (k : Ctx → Res) :
    c.resume S k = k { c with t := t, g := g } := by
  unfold Ctx.resume; rw [h]

/-- A group whose write has been made passes its SWR. -/
def Ctx.swrDone (c : Ctx) (stall words : Nat) (S : State) : Res :=
  c.resume S fun c1 => .next (({ c1 with g := { c1.g with swr := false } } : Ctx).finish S stall words)

/-- What SWR does at its issue. -/
def swrBody (w : W3) (s : State) (c : Ctx) : Res :=
  let a := c.u w.a
  let v := c.u w.b
  if fieldOf a 0 3 ≠ 0 then c.badOffset s a
  else if c.g.swr then (if s.holdsReg (fieldOf a 0 56 / 8) then c.wait s .held else c.swrDone w.s.toNat w.m.words s)
  else
    match s.writeAddr (c.writer s) a v with
    | .held S => c.resume S fun c1 => ({ c1 with g := { c1.g with swr := true } } : Ctx).wait S .held
    | r => c.swrDone w.s.toNat w.m.words (r.settle (c.issuer s) a v).1

theorem execSwr_eq (w : W3) :
    execSwr w = fun s => uniInstr s (guardY w) w.m w.s.toNat (uniLocs w.a ++ uniLocs w.b) (swrBody w) := rfl

/-- SWR has completed in a state: the group that issues there, if there is one, has passed it. -/
def Ctx.SwrCompletes (c : Ctx) (stall words : Nat) (r : Res) (S : State) : Prop :=
  (S.curGroup? = none → r = .next S) ∧
  ∀ t g, S.curGroup? = some (t, g) → ∃ g', g.Only g' c.clk stall words ∧ g'.swr = false ∧ r = .next (S.acted c.clk t g')

theorem Ctx.swrDone_completes {c : Ctx} {S : State} (h : S.clk = c.clk) (stall words : Nat) :
    c.SwrCompletes stall words (c.swrDone stall words S) S := by
  refine ⟨fun hn => Ctx.resume_none hn _, fun t g hg => ?_⟩
  refine ⟨({ g with swr := false } : Group).retire c.clk stall words,
    ⟨⟨rfl, rfl, rfl, rfl, ⟨rfl, rfl⟩, ⟨rfl, rfl, rfl, rfl⟩, rfl⟩, rfl, rfl, rfl, rfl, rfl, rfl⟩, rfl, ?_⟩
  unfold Ctx.swrDone
  rw [Ctx.resume_some hg]
  exact congrArg Host.Outcome.next (Ctx.finish_of_clk (c := { c with t := t, g := { g with swr := false } }) h _ _)

section Swr
variable {w : W3} {s S : State} {c : Ctx}

theorem swrBody_misaligned (h : (c.u w.a).toNat % 8 ≠ 0) : s.traps c.t c.g (swrBody w s c) 0x108 (c.u w.a) 0 :=
  if_pos (by rwa [fieldOf_zero_three])

/-- A group whose write is still held at its register waits. -/
theorem swrBody_waits (hs : s.clk = c.clk) (h : (c.u w.a).toNat % 8 = 0) (hg : c.g.swr = true)
    (hh : s.holdsReg (fieldOf (c.u w.a) 0 56 / 8) = true) :
    swrBody w s c = .next (s.acted c.clk c.t { c.g with nextIssue := c.clk + 1, wait := .held }) := by
  have hb : swrBody w s c = c.wait s .held := by
    simp only [swrBody, fieldOf_zero_three, h, hg, hh, ne_eq, not_true_eq_false, if_false, if_true]
  exact hb.trans (congrArg Host.Outcome.next (State.acted_of_clk hs _ _).symm)

/-- A group passes once its register holds the write no more. -/
theorem swrBody_passes (hs : s.clk = c.clk) (h : (c.u w.a).toNat % 8 = 0) (hg : c.g.swr = true)
    (hh : s.holdsReg (fieldOf (c.u w.a) 0 56 / 8) = false) : c.SwrCompletes w.s.toNat w.m.words (swrBody w s c) s := by
  simp only [swrBody, fieldOf_zero_three, h, hg, hh, ne_eq, not_true_eq_false, Bool.false_eq_true, if_false, if_true]
  exact Ctx.swrDone_completes hs _ _

/-- The first attempt of a write of another space than the registers' (R413). -/
theorem swrBody_otherSpace (hs : s.clk = c.clk) (h : (c.u w.a).toNat % 8 = 0) (hg : c.g.swr = false)
    (h0 : fieldOf (c.u w.a) 56 8 ≠ 0) : c.SwrCompletes w.s.toNat w.m.words (swrBody w s c)
      (s.addLog ((c.issuer s).entry 0x0402 (c.u w.a) (c.u w.b))) := by
  have hb : swrBody w s c = c.swrDone w.s.toNat w.m.words (s.addLog ((c.issuer s).entry 0x0402 (c.u w.a) (c.u w.b))) := by
    simp [swrBody, fieldOf_zero_three, h, hg, State.writeAddr, h0, RegOut.settle]
  rw [hb]
  exact Ctx.swrDone_completes ((State.addLog_clk _ _).trans hs) _ _

/-- What SWR does with what its write comes to (R413). -/
def Ctx.SwrActs (c : Ctx) (w : W3) (s : State) (r : Res) : RegOut → Prop
  | .done S => c.SwrCompletes w.s.toNat w.m.words r S
  | .ignored S => c.SwrCompletes w.s.toNat w.m.words r (S.addLog ((c.issuer s).entry 0x0402 (c.u w.a) (c.u w.b)))
  | .held S => ∀ t g, S.issuing t g →
      r = .next (S.acted c.clk t { g with swr := true, nextIssue := c.clk + 1, wait := .held })

/-- The first attempt of a write of a register (R413). -/
theorem swrBody_write (hs : s.clk = c.clk) (h : (c.u w.a).toNat % 8 = 0) (hg : c.g.swr = false) (h0 : fieldOf (c.u w.a) 56 8 = 0)
    {out : RegOut} (hw : s.writeReg (c.writer s) (fieldOf (c.u w.a) 0 56 / 8) (c.u w.b) = out) :
    c.SwrActs w s (swrBody w s c) out := by
  have hclk : out.state.clk = c.clk := by rw [← hw, State.writeReg_clk, hs]
  have ha : s.writeAddr (c.writer s) (c.u w.a) (c.u w.b) = out := (if_pos h0).trans hw
  simp only [swrBody, fieldOf_zero_three, h, hg, ha, ne_eq, not_true_eq_false, Bool.false_eq_true, if_false]
  cases out with
  | done S => exact Ctx.swrDone_completes hclk _ _
  | ignored S => exact Ctx.swrDone_completes ((State.addLog_clk _ _).trans hclk) _ _
  | held S =>
    intro t g hi
    simp only [Ctx.resume_some hi]
    exact congrArg Host.Outcome.next (State.acted_of_clk hclk _ _).symm

end Swr

/-! ### The instructions at their issue -/

theorem execSrd_runs (w : W3) {post : State → Team → Group → Ctx → Res → Prop}
    (h : ∀ s c, s.clk = c.clk → post s c.t c.g c (srdBody w s c)) :
    UniRuns (exec (.srd w)) (guardY w) w.m w.s.toNat (uniLocs w.a) post := by
  rw [funext (exec_srd w), execSrd_eq]
  exact uniInstr_runs fun s t g _ _ => h _ (uniCtx s t g (guardY w) w.m (uniLocs w.a)) rfl

theorem execSwr_runs (w : W3) {post : State → Team → Group → Ctx → Res → Prop}
    (h : ∀ s c, s.clk = c.clk → post s c.t c.g c (swrBody w s c)) :
    UniRuns (exec (.swr w)) (guardY w) w.m w.s.toNat (uniLocs w.a ++ uniLocs w.b) post := by
  rw [funext (exec_swr w), execSwr_eq]
  exact uniInstr_runs fun s t g _ _ => h _ (uniCtx s t g (guardY w) w.m (uniLocs w.a ++ uniLocs w.b)) rfl

/-- Settles O49, by what SRD and SWR do at their issue and by whose write each register takes. That the clock stands still
in a write is what lets SWR complete at the clock of its issue. -/
theorem stateRegisterAccess : Obligations.StateRegisterAccess := by
  unfold Obligations.StateRegisterAccess
  intro assigned
  refine ⟨fun w => execSrd_runs w fun s c hs => ?_, fun w => execSwr_runs w fun s c hs => ?_,
    fun s i h h3 ha => s.regRead_stored h h3 ha, fun s w i v => ⟨s.writeReg_unassigned w v, fun h => ?_,
      s.writeReg_device_refused v, ?_, ?_, ?_, ?_, ?_, s.writeReg_pending w v, ?_⟩⟩
  · exact ⟨srdBody_misaligned, fun hal h0 => ⟨srdBody_shown hs hal h0, srdBody_hidden hs hal h0⟩, srdBody_noSpace hs⟩
  · exact ⟨swrBody_misaligned, swrBody_otherSpace hs, fun hal hg h0 => ⟨fun S hS => swrBody_write hs hal hg h0 hS,
      fun S hS => swrBody_write hs hal hg h0 hS, fun S hS => swrBody_write hs hal hg h0 hS⟩,
      fun hal hg => ⟨swrBody_waits hs hal hg, swrBody_passes hs hal hg⟩⟩
  · simp only [List.mem_cons, List.not_mem_nil, or_false] at h
    exact s.writeReg_readOnly w v ((regReadOnly_iff i).2 (by omega))
  · rintro k j rfl hk hj hp hw hm
    exact (s.writeReg_pidx w v hk hj).trans (by simp [s.mayWrite_eq_false hp hw hm])
  · exact (s.writeReg_secure v (by omega) (by decide)).trans (s.writeSecure_plim v)
  · exact s.writeReg_secure v (by omega) (by decide)
  · exact fun j hj => (s.writeReg_secure v (by omega) (by rw [regReadOnly_iff]; omega)).trans (s.writeSecure_wcore v hj)
  · exact fun h => (s.writeReg_secure v (by omega) (by decide)).trans (s.writeSecure_vcur v h)
  · exact fun k hk hl hv hmax => (s.writeReg_pidx .secure v hk (by omega)).trans (s.writePart_larderSlots hl hv hmax)

/-! ### The reset state -/

/-- After a reset no register differs from its reset value, so each reads as that (R419). -/
@[simp] theorem State.reset_reg (i : Nat) : State.reset.reg i = regDefault i := BitVec.zero_xor

/-- After a reset no byte of HBM is listed, so each reads zero (R21). -/
theorem State.reset_homeByte {a : Nat} (h : a < 2 ^ 40) : State.reset.homeByte a = 0 :=
  if_neg fun hp => absurd hp.1 (Nat.not_le.2 h)

/-- Settles O58: the registers by the table of their reset values, the empty state as it is written down, and each word by
decoding it. -/
theorem resetStateAndWords : Obligations.ResetStateAndWords := by
  unfold Obligations.ResetStateAndWords
  refine ⟨?_, ?_, by decide, by decide, by decide, by decide, by decide, by decide, by decide⟩
  · simp only [State.reset_reg]
    decide
  · exact ⟨rfl, rfl, rfl, rfl, rfl, rfl, rfl, rfl, rfl, rfl, rfl, rfl, memoryForm_reset, fun _ => State.reset_homeByte⟩

end Sys2Proof.Machine
end

section
/-! PROOFS. Clocks, power, readiness, links and resets: the fields of registers, what the log and the interrupts leave
alone, how a function's bits change, and what each reset keeps. -/

namespace Sys2Proof.Machine

/-! ### Fields of a register -/

theorem fieldOf_testBit (w : DWord) (lo n i : Nat) :
    (fieldOf w lo n).testBit i = (decide (i < n) && bitAt w (lo + i)) := by
  rw [fieldOf, BitVec.testBit_toNat, BitVec.getLsbD_extractLsb', bitAt]

theorem bitAt_setField (w : DWord) (lo n v j : Nat) (hj : j < 64) :
    bitAt (setField w lo n v) j = if lo ≤ j ∧ j < lo + n then v.testBit (j - lo) else bitAt w j := by
  simp only [setField, bitAt, BitVec.getLsbD_or, BitVec.getLsbD_and, BitVec.getLsbD_not, BitVec.getLsbD_ofNat, hj,
    Nat.testBit_mul_two_pow, Nat.testBit_two_pow_sub_one, Nat.testBit_mod_two_pow, decide_true, Bool.true_and]
  by_cases hlo : lo ≤ j
  · by_cases hn : j < lo + n
    · simp [hlo, hn, show j - lo < n by omega]
    · simp [hn, show ¬ j - lo < n by omega]
  · simp [hlo]

/-- A field that has been written reads back. -/
theorem fieldOf_setField_same (w : DWord) {lo n : Nat} (v : Nat) (h : lo + n ≤ 64) :
    fieldOf (setField w lo n v) lo n = v % 2 ^ n := by
  refine Nat.eq_of_testBit_eq fun i => ?_
  rw [fieldOf_testBit, Nat.testBit_mod_two_pow]
  by_cases hi : i < n
  · rw [bitAt_setField _ _ _ _ _ (by omega), if_pos (by omega), Nat.add_sub_cancel_left]
  · simp [hi]

/-- A write of a field leaves the fields beside it alone. -/
theorem fieldOf_setField_disjoint (w : DWord) {lo n lo' n' : Nat} (v : Nat) (h : lo + n ≤ 64)
    (hd : lo + n ≤ lo' ∨ lo' + n' ≤ lo) : fieldOf (setField w lo' n' v) lo n = fieldOf w lo n := by
  refine Nat.eq_of_testBit_eq fun i => ?_
  rw [fieldOf_testBit, fieldOf_testBit]
  by_cases hi : i < n
  · rw [bitAt_setField _ _ _ _ _ (by omega), if_neg (by omega)]
  · simp [hi]

/-- Writing a bit as it stands changes nothing. -/
theorem setField_bitAt (w : DWord) (i : Nat) : setField w i 1 (if bitAt w i then 1 else 0) = w :=
  BitVec.eq_of_getLsbD_eq fun j hj => (bitAt_setField_one w i j _ hj).trans <|
    (ite_congr rfl (fun h => by rw [h]) fun _ => rfl).trans (ite_id _)

/-- The registers alone hold their values. -/
theorem State.reg_congr {s t : State} (h : s.regs = t.regs) (i : Nat) : s.reg i = t.reg i :=
  congrArg (fun m => sget 0 m i ^^^ regDefault i) h

theorem State.setReg_reg (s : State) (i j : Nat) (v : DWord) : (s.setReg i v).reg j = if j = i then v else s.reg j := by
  unfold State.reg State.setReg
  rw [sget_sset]
  split
  · next h => rw [h, BitVec.xor_assoc, BitVec.xor_self, BitVec.xor_zero]
  · rfl

@[simp] theorem State.setRfield_reg_same (s : State) (i lo n v : Nat) :
    (s.setRfield i lo n v).reg i = setField (s.reg i) lo n v := (s.setReg_reg _ _ _).trans (if_pos rfl)

theorem State.setRfield_reg_ne (s : State) {i j : Nat} (lo n v : Nat) (h : j ≠ i) : (s.setRfield i lo n v).reg j = s.reg j :=
  (s.setReg_reg _ _ _).trans (if_neg h)

/-! ### What the log and the interrupts leave alone (R26, R68) -/

/-- From one state to another at most the log, INTPEND and the messages of port 0 change. -/
def State.LogsTo (s S : State) : Prop :=
  ∃ regs pba messages log logHead logDropped logLost,
    S = { s with regs := regs, pba := pba, messages := messages, log := log, logHead := logHead,
                 logDropped := logDropped, logLost := logLost } ∧
    ∀ i, i ≠ 0x0E9 → S.reg i = s.reg i

namespace State.LogsTo
variable {s S T : State}

theorem refl (s : State) : s.LogsTo s := ⟨_, _, _, _, _, _, _, rfl, fun _ _ => rfl⟩

theorem trans (h : s.LogsTo S) (h' : S.LogsTo T) : s.LogsTo T := by
  obtain ⟨_, _, _, _, _, _, _, rfl, hr⟩ := h
  obtain ⟨_, _, _, _, _, _, _, rfl, hr'⟩ := h'
  exact ⟨_, _, _, _, _, _, _, rfl, fun i hi => (hr' i hi).trans (hr i hi)⟩

theorem reg (h : s.LogsTo S) {i : Nat} (hi : i ≠ 0x0E9) : S.reg i = s.reg i := by
  obtain ⟨_, _, _, _, _, _, _, _, hr⟩ := h
  exact hr i hi

theorem mem (h : s.LogsTo S) : S.mem = s.mem := by obtain ⟨_, _, _, _, _, _, _, rfl, _⟩ := h; rfl

theorem l2Dirty (h : s.LogsTo S) : S.l2Dirty = s.l2Dirty := by obtain ⟨_, _, _, _, _, _, _, rfl, _⟩ := h; rfl

theorem time (h : s.LogsTo S) : S.time = s.time := by obtain ⟨_, _, _, _, _, _, _, rfl, _⟩ := h; rfl

theorem teams (h : s.LogsTo S) : S.teams = s.teams := by obtain ⟨_, _, _, _, _, _, _, rfl, _⟩ := h; rfl

theorem flitReplays (h : s.LogsTo S) : S.flitReplays = s.flitReplays := by
  obtain ⟨_, _, _, _, _, _, _, rfl, _⟩ := h; rfl

theorem resetDiscards (h : s.LogsTo S) : S.resetDiscards = s.resetDiscards := by
  obtain ⟨_, _, _, _, _, _, _, rfl, _⟩ := h; rfl

end State.LogsTo

theorem State.sendMessage_logsTo (s : State) (e : Nat) : s.LogsTo (s.sendMessage e) := by
  unfold State.sendMessage
  split <;> exact ⟨_, _, _, _, _, _, _, rfl, fun _ _ => rfl⟩

theorem State.raise_logsTo (s : State) (e : Nat) : s.LogsTo (s.raise e) := by
  have pend : s.LogsTo (s.setReg 0x0E9 (s.reg 0x0E9 ||| BitVec.ofNat 64 (2 ^ e))) :=
    ⟨_, _, _, _, _, _, _, rfl, fun i hi => (s.setReg_reg _ _ _).trans (if_neg hi)⟩
  unfold State.raise
  split
  · exact .refl s
  · dsimp only
    split
    · exact pend.trans (State.sendMessage_logsTo _ e)
    · exact pend

theorem State.appendLog_logsTo (s : State) (e : LogEntry) : s.LogsTo (s.appendLog e) :=
  .trans ⟨_, _, _, _, _, _, _, rfl, fun _ _ => rfl⟩ (State.raise_logsTo _ 0)

theorem State.logDrop_logsTo (s : State) (n : Nat) (lost : Bool) : s.LogsTo { s with logDropped := n, logLost := lost } :=
  ⟨_, _, _, _, _, _, _, rfl, fun _ _ => rfl⟩

theorem State.addLog_logsTo (s : State) (e : LogEntry) : s.LogsTo (s.addLog e) := by
  unfold State.addLog
  split
  · exact .refl s
  · split
    · exact s.logDrop_logsTo _ _
    · split
      · have lost : s.LogsTo (State.appendLog { s with logLost := false }
            { time := 0, seq := 0, cause := 0x0400, cls := 3, die := 0x10, detail := BitVec.ofNat 64 s.logDropped }) :=
          (s.logDrop_logsTo s.logDropped false).trans (State.appendLog_logsTo _ _)
        dsimp only
        split
        · exact lost.trans (State.logDrop_logsTo _ _ _)
        · exact lost.trans (State.appendLog_logsTo _ e)
      · exact s.appendLog_logsTo e

/-- The traps of teams that wait to be placed again go to the log alone (R116). -/
theorem State.relaunchLog_logsTo (s : State) (es : List (Nat × Nat × LogEntry)) :
    s.LogsTo (es.foldl (fun x e => x.addLog e.2.2) s) :=
  foldl_keeps s.LogsTo _ (fun b e hb => hb.trans (b.addLog_logsTo e.2.2)) es s (.refl s)

/-! ### READY and BUFAIL (R16) -/

/-- One function's READY and BUFAIL bits stand as given, those of the others as they stood. -/
def State.Sets (s S : State) (fn : Nat) (ready bufail : Bool) : Prop :=
  ∀ f < 44, S.ready f = (if f = fn then ready else s.ready f) ∧ S.bufail f = (if f = fn then bufail else s.bufail f)

/-- The bits of the functions but one stand as they stood. -/
def State.SameOthers (s S : State) (fn : Nat) : Prop :=
  ∀ f < 44, f ≠ fn → S.ready f = s.ready f ∧ S.bufail f = s.bufail f

/-- A function has become ready. -/
def State.Up (s S : State) (fn : Nat) : Prop := S.ready fn = true ∧ S.bufail fn = false ∧ s.SameOthers S fn

/-- A function has failed; a Korben link shows that it is down. -/
def State.Failed (s S : State) (fn : Nat) : Prop :=
  S.ready fn = false ∧ S.bufail fn = true ∧ s.SameOthers S fn ∧
    (28 ≤ fn → fn < 40 → fieldOf (S.reg (0x01C + (fn - 28))) 10 2 = 3)

/-- A function that has neither become ready nor failed. -/
def State.Idle (s : State) (fn : Nat) : Prop := s.ready fn = false ∧ s.bufail fn = false

namespace State.Sets
variable {s S T : State} {fn : Nat} {r b : Bool}

theorem ready (h : s.Sets S fn r b) (hf : fn < 44) : S.ready fn = r := (h fn hf).1.trans (if_pos rfl)

theorem bufail (h : s.Sets S fn r b) (hf : fn < 44) : S.bufail fn = b := (h fn hf).2.trans (if_pos rfl)

theorem sameOthers (h : s.Sets S fn r b) : s.SameOthers S fn := fun f hf hne =>
  ⟨(h f hf).1.trans (if_neg hne), (h f hf).2.trans (if_neg hne)⟩

theorem up (h : s.Sets S fn true false) (hf : fn < 44) : s.Up S fn := ⟨h.ready hf, h.bufail hf, h.sameOthers⟩

/-- Only READY and BUFAIL hold the bits. -/
theorem congr (h : s.Sets S fn r b) (hr : ∀ i < 2, T.reg i = S.reg i) : s.Sets T fn r b := fun f hf => by
  unfold State.ready State.bufail
  rw [hr 0 (by decide), hr 1 (by decide)]
  exact h f hf

theorem logsTo (h : s.Sets S fn r b) (hl : S.LogsTo T) : s.Sets T fn r b := h.congr fun _ hi => hl.reg (by omega)

end State.Sets

/-- A change of a function's bits writes them and raises at most an event. -/
theorem State.setBits_logsTo (s : State) (fn : Nat) (r b : Bool) :
    State.LogsTo ((s.setRfield 0x000 fn 1 (if r then 1 else 0)).setRfield 0x001 fn 1 (if b then 1 else 0)) (s.setBits fn r b) := by
  unfold State.setBits
  by_cases h : s.ready fn = r ∧ s.bufail fn = b
  · exact (if_pos h).symm ▸ .refl _
  · exact (if_neg h).symm ▸ State.raise_logsTo _ 7

theorem State.setBits_sets (s : State) (fn : Nat) (r b : Bool) : s.Sets (s.setBits fn r b) fn r b := by
  refine State.Sets.logsTo (fun f hf => ?_) (s.setBits_logsTo fn r b)
  constructor
  · unfold State.ready
    rw [State.setRfield_reg_ne _ _ _ _ (by decide), State.setRfield_reg_same, bitAt_setField_one _ _ _ _ (by omega)]
  · unfold State.bufail
    rw [State.setRfield_reg_same, State.setRfield_reg_ne _ _ _ _ (by decide), bitAt_setField_one _ _ _ _ (by omega)]

/-- Bits that are set as they stand raise no event. -/
theorem State.setBits_unchanged (s : State) (fn : Nat) :
    s.setBits fn (s.ready fn) (s.bufail fn) =
      (s.setRfield 0x000 fn 1 (if s.ready fn then 1 else 0)).setRfield 0x001 fn 1 (if s.bufail fn then 1 else 0) :=
  if_pos ⟨rfl, rfl⟩

theorem State.setBits_reg (s : State) (fn : Nat) (r b : Bool) {i : Nat} (h0 : i ≠ 0x000) (h1 : i ≠ 0x001) (h2 : i ≠ 0x0E9) :
    (s.setBits fn r b).reg i = s.reg i := by
  rw [(s.setBits_logsTo fn r b).reg h2, State.setRfield_reg_ne _ _ _ _ h1, State.setRfield_reg_ne _ _ _ _ h0]

theorem State.setBits_teams (s : State) (fn : Nat) (r b : Bool) : (s.setBits fn r b).teams = s.teams :=
  (s.setBits_logsTo fn r b).teams

theorem State.setBits_flitReplays (s : State) (fn : Nat) (r b : Bool) : (s.setBits fn r b).flitReplays = s.flitReplays :=
  (s.setBits_logsTo fn r b).flitReplays

/-! ### Functions that become ready or fail (R16 to R18, R42, R43) -/

theorem State.setWidth_width (s : State) (j : Nat) : fieldOf ((s.setWidth j 3).reg (0x01C + j)) 10 2 = 3 := by
  unfold State.setWidth
  exact (congrArg (fieldOf · 10 2) (s.setRfield_reg_same _ _ _ _)).trans (fieldOf_setField_same _ 3 (by decide))

theorem State.setWidth_reg_ne (s : State) {i j : Nat} (w : Nat) (h : i ≠ 0x01C + j) : (s.setWidth j w).reg i = s.reg i :=
  State.setRfield_reg_ne _ _ _ _ h

/-- The binds of a scheduler that failed go from the graphs' registers alone. -/
theorem State.discardBinds_reg (s : State) {i : Nat} (hi : i < 0x100) : s.discardBinds.reg i = s.reg i := by
  refine foldl_keeps (fun b => b.reg i = s.reg i) _ (fun b k hb => ?_) _ s rfl
  split
  · exact ((State.setReg_reg _ _ _ _).trans (if_neg (by unfold pidx; omega))).trans hb
  · exact hb

theorem State.failFunction_sets (s : State) (fn : Nat) : s.Sets (s.failFunction fn) fn false true := by
  have logged := (s.setBits_sets fn false true).logsTo (State.addLog_logsTo _ (bufailEntry fn))
  unfold State.failFunction
  generalize (s.setBits fn false true).addLog (bufailEntry fn) = S at logged
  dsimp only
  split
  · exact logged.congr fun i hi =>
      (State.reg_congr (t := S.setWidth (fn - 28) 3) rfl i).trans (S.setWidth_reg_ne 3 (by omega))
  · split
    · exact logged.congr fun i hi => State.discardBinds_reg _ (by omega)
    · split
      · exact logged.congr fun _ _ => rfl
      · exact logged

theorem State.failFunction_regs (s : State) {fn : Nat} (h : 28 ≤ fn ∧ fn < 40) :
    (s.failFunction fn).regs = (((s.setBits fn false true).addLog (bufailEntry fn)).setWidth (fn - 28) 3).regs := by
  unfold State.failFunction
  dsimp only
  rw [if_pos h]

theorem State.failFunction_width (s : State) {fn : Nat} (h : 28 ≤ fn ∧ fn < 40) :
    fieldOf ((s.failFunction fn).reg (0x01C + (fn - 28))) 10 2 = 3 := by
  rw [State.reg_congr (s.failFunction_regs h)]
  exact State.setWidth_width _ _

theorem State.failFunction_failed (s : State) {fn : Nat} (h : fn < 44) : s.Failed (s.failFunction fn) fn :=
  have hs := s.failFunction_sets fn
  ⟨hs.ready h, hs.bufail h, hs.sameOthers, fun h1 h2 => s.failFunction_width ⟨h1, h2⟩⟩

/-- A trained link shows its width and its peer in its own register. -/
theorem State.linkUp_reg (s : State) (j : Nat) {i : Nat} (h : i ≠ 0x01C + j) : (s.linkUp j).reg i = s.reg i :=
  (State.setRfield_reg_ne _ _ _ _ h).trans ((State.setRfield_reg_ne _ _ _ _ h).trans (State.setRfield_reg_ne _ _ _ _ h))

theorem State.becomeReady_sets (s : State) (fn : Nat) : s.Sets (s.becomeReady fn) fn true false := by
  have bits := s.setBits_sets fn true false
  unfold State.becomeReady
  generalize s.setBits fn true false = S at bits
  dsimp only
  split
  · exact bits.congr fun _ _ => rfl
  · split
    · exact bits.congr fun i hi => State.linkUp_reg _ _ (by omega)
    · split
      · exact bits.congr fun _ _ => rfl
      · split
        · have cleared := bits.congr (T := { S with resetDiscards := none }) fun _ _ => rfl
          split
          · exact cleared.logsTo (State.addLog_logsTo _ _)
          · exact cleared
        · exact bits

theorem State.becomeReady_up (s : State) {fn : Nat} (h : fn < 44) : s.Up (s.becomeReady fn) fn :=
  (s.becomeReady_sets fn).up h

/-! ### The events of readiness and of the links (R16, R17, R43, R59) -/

theorem isLink_iff (fn : Nat) : isLink fn = true ↔ 24 ≤ fn ∧ fn < 40 := by
  simp [isLink]

section Events
variable {s : State}

theorem execFunctionInitComplete_stays (h : 44 ≤ s.request.k ∨ ¬ s.Idle s.request.k) :
    execFunctionInitComplete s = .next s := by
  refine if_pos (h.imp_right fun hi => ?_)
  simpa [State.Idle, or_iff_not_imp_left] using hi

theorem State.Idle.initialises (hi : s.Idle s.request.k) (hf : s.request.k < 44) :
    ¬ (44 ≤ s.request.k ∨ s.ready s.request.k = true ∨ s.bufail s.request.k = true) := by
  simp [hi.1, hi.2, hf]

theorem execFunctionInitComplete_failed (hf : s.request.k < 44) (hi : s.Idle s.request.k) (hok : s.request.ok = false) :
    execFunctionInitComplete s = .next (s.failFunction s.request.k) :=
  (if_neg (hi.initialises hf)).trans (if_pos (by rw [hok]; rfl))

theorem execFunctionInitComplete_ready (hf : s.request.k < 44) (hi : s.Idle s.request.k) (hok : s.request.ok = true)
    (h1 : s.request.k ≠ 41) (h2 : s.request.k ≠ 42) : execFunctionInitComplete s = .next (s.becomeReady s.request.k) :=
  (if_neg (hi.initialises hf)).trans <| (if_neg (by simp [hok])).trans (if_neg (by simp [h1, h2]))

/-- The state once the image of the request has been verified (R59). -/
def State.verified (s : State) (svn : Nat) : State :=
  { s with
    svn := sset 0 s.svn (imageTarget s.request.k) svn
    images := sset none s.images (imageTarget s.request.k)
      (some (sha384 (s.request.bytes.take (s.request.bytes.length - 192)))) }

theorem imageFunction_lt {fn : Nat} (h : fn = 41 ∨ fn = 42) : fn < 44 := by omega

section Image
variable (hk : s.request.k = 41 ∨ s.request.k = 42) (hi : s.Idle s.request.k) (hok : s.request.ok = true)
include hk hi hok

/-- With a failed security controller no image is checked (R59). -/
theorem execFunctionInitComplete_noController (hb : s.bufail 40 = true) :
    execFunctionInitComplete s = .next (s.failFunction s.request.k) :=
  have hf := imageFunction_lt hk
  have himage : ¬ (!s.request.ok) = true := by simp [hok]
  (if_neg (hi.initialises hf)).trans <| (if_neg himage).trans <| (if_pos hk).trans (if_pos hb)

variable (hb : s.bufail 40 = false) (hr : s.ready 40 = true)
include hb hr

theorem execFunctionInitComplete_refused (hv : s.verifyImage (imageTarget s.request.k) s.request.bytes = none) :
    execFunctionInitComplete s = .next (s.failFunction s.request.k) := by
  have hf := imageFunction_lt hk
  unfold execFunctionInitComplete
  dsimp only
  rw [if_neg (hi.initialises hf), if_neg (by simp [hok]), if_pos hk, if_neg (by simp [hb]), if_neg (by simp [hr]), hv]

/-- The scheduler needs a compute die that is ready (R16). -/
theorem execFunctionInitComplete_verified (hd : s.request.k = 41 → ∃ d < 8, s.ready d = true) {v : Nat}
    (hv : s.verifyImage (imageTarget s.request.k) s.request.bytes = some v) :
    execFunctionInitComplete s = .next ((s.verified v).becomeReady s.request.k) := by
  have die : ¬ (s.request.k = 41 ∧ (List.range 8).any s.ready = false) := fun ⟨h41, hn⟩ => by
    obtain ⟨d, hd8, hrd⟩ := hd h41
    exact List.any_eq_false.1 hn d (List.mem_range.2 hd8) hrd
  have hf := imageFunction_lt hk
  unfold execFunctionInitComplete
  dsimp only
  rw [if_neg (hi.initialises hf), if_neg (by simp [hok]), if_pos hk, if_neg (by simp [hb]), if_neg (by simp [hr]), hv]
  exact if_neg die

end Image

/-- A link that has neither trained nor failed takes the outcome of its training; any other stays as it is. -/
theorem execTrainTimeout_link (hl : 24 ≤ s.request.k ∧ s.request.k < 40) (hi : s.Idle s.request.k) :
    execTrainTimeout s = .next (s.failFunction s.request.k) := by
  simp [execTrainTimeout, (isLink_iff _).2 hl, hi.1, hi.2]

theorem execLinkRetrainComplete_link (hl : 24 ≤ s.request.k ∧ s.request.k < 40) (hi : s.Idle s.request.k) :
    execLinkRetrainComplete s =
      .next (if s.request.ok then s.becomeReady s.request.k else s.failFunction s.request.k) := by
  simp [execLinkRetrainComplete, (isLink_iff _).2 hl, hi.1, hi.2]

theorem training_stays (h : ¬ ((24 ≤ s.request.k ∧ s.request.k < 40) ∧ s.Idle s.request.k)) :
    execTrainTimeout s = .next s ∧ execLinkRetrainComplete s = .next s := by
  rw [← isLink_iff] at h
  unfold execTrainTimeout execLinkRetrainComplete
  cases hl : isLink s.request.k
  · simp [hl]
  · cases hr : s.ready s.request.k
    · cases hb : s.bufail s.request.k
      · exact absurd ⟨hl, hr, hb⟩ h
      · simp [hb]
    · simp [hr]

theorem execLateTraining_failed (hl : 24 ≤ s.request.k ∧ s.request.k < 40) (hb : s.bufail s.request.k = true) :
    execLateTraining s = .next (s.becomeReady s.request.k) := by
  simp [execLateTraining, (isLink_iff _).2 hl, hb]

theorem execLateTraining_stays (h : ¬ ((24 ≤ s.request.k ∧ s.request.k < 40) ∧ s.bufail s.request.k = true)) :
    execLateTraining s = .next s := by
  rw [← isLink_iff, ← Bool.and_eq_true] at h
  exact congrArg Host.Outcome.next (if_neg h)

end Events

/-! ### Links that go down (R17, R43) -/

theorem State.dropLink_stays {s : State} {fn : Nat} (h : ¬ ((24 ≤ fn ∧ fn < 40) ∧ s.ready fn = true)) : s.dropLink fn = s := by
  rw [← isLink_iff, ← Bool.and_eq_true] at h
  exact if_neg h

theorem State.dropLink_ready {s : State} {fn : Nat} (h : (24 ≤ fn ∧ fn < 40) ∧ s.ready fn = true) :
    s.dropLink fn = if 28 ≤ fn then (s.setBits fn false false).setWidth (fn - 28) 3 else s.setBits fn false false := by
  rw [← isLink_iff, ← Bool.and_eq_true] at h
  exact if_pos h

theorem State.dropLink_sets {s : State} {fn : Nat} (h : (24 ≤ fn ∧ fn < 40) ∧ s.ready fn = true) :
    s.Sets (s.dropLink fn) fn false false := by
  rw [State.dropLink_ready h]
  split
  · exact (s.setBits_sets fn false false).congr fun i hi => State.setWidth_reg_ne _ _ (by omega)
  · exact s.setBits_sets fn false false

theorem State.dropLink_width {s : State} {fn : Nat} (h : (24 ≤ fn ∧ fn < 40) ∧ s.ready fn = true) (hk : 28 ≤ fn) :
    fieldOf ((s.dropLink fn).reg (0x01C + (fn - 28))) 10 2 = 3 := by
  rw [State.dropLink_ready h, if_pos hk]
  exact State.setWidth_width _ _

/-- A link that goes down takes no team with it and forgets no replay. -/
theorem State.dropLink_keeps (s : State) (fn : Nat) :
    (s.dropLink fn).teams = s.teams ∧ (s.dropLink fn).flitReplays = s.flitReplays := by
  by_cases h : (24 ≤ fn ∧ fn < 40) ∧ s.ready fn = true
  · rw [State.dropLink_ready h]
    split
    · exact ⟨s.setBits_teams _ _ _, s.setBits_flitReplays _ _ _⟩
    · exact ⟨s.setBits_teams _ _ _, s.setBits_flitReplays _ _ _⟩
  · rw [State.dropLink_stays h]
    exact ⟨rfl, rfl⟩

section Flits
variable {s : State} (hk : s.request.k < 12) (hr : s.ready (28 + s.request.k) = true)
include hk hr

/-- A replay of a flit counts in RETRY, and a failed one in its row of replays (R43). -/
theorem execFlitCrcFail_replays (hn : sget 0 s.flitReplays s.request.k ≠ 8) : ∃ S : State, execFlitCrcFail s = .next S ∧
    sget 0 S.flitReplays s.request.k = (if s.request.ok then 0 else sget 0 s.flitReplays s.request.k + 1) ∧
    fieldOf (S.reg (0x01C + s.request.k)) 32 32 = min (fieldOf (s.reg (0x01C + s.request.k)) 32 32 + 1) (2 ^ 32 - 1) ∧
    S.ready (28 + s.request.k) = true := by
  refine ⟨_, (if_neg (by simp [hr, hk])).trans (if_neg hn), sget_sset_same _ _ _ _, ?_, ?_⟩
  · exact (congrArg (fieldOf · 32 32) (s.setRfield_reg_same _ _ _ _)).trans
      ((fieldOf_setField_same _ _ (by decide)).trans (Nat.mod_eq_of_lt (Nat.lt_of_le_of_lt (Nat.min_le_right _ _) (by decide))))
  · exact (congrArg (bitAt · _) (s.setRfield_reg_ne _ _ _ (by omega))).trans hr

/-- After eight failed replays in a row the link goes down (R43). -/
theorem execFlitCrcFail_drops (hn : sget 0 s.flitReplays s.request.k = 8) : ∃ S : State, execFlitCrcFail s = .next S ∧
    S.ready (28 + s.request.k) = false ∧ sget 0 S.flitReplays s.request.k = 0 := by
  refine ⟨_, (if_neg (by simp [hr, hk])).trans (if_pos hn), ?_, ?_⟩
  · refine (State.dropLink_sets ⟨by omega, ?_⟩).ready (by omega)
    exact hr
  · exact (congrArg (sget 0 · _) (State.dropLink_keeps _ _).2).trans (sget_sset_same 0 s.flitReplays s.request.k 0)

end Flits

/-! ### Clocks and power (R10 to R15) -/

theorem State.setFreq_gives (s : State) {mhz : Nat} (h : mhz < 2 ^ 16) :
    fieldOf ((s.setFreq mhz).reg 0x003) 0 16 = mhz ∧ bitAt ((s.setFreq mhz).reg 0x003) 16 = decide (mhz < 2100) ∧
      ∀ i, i ≠ 3 → (s.setFreq mhz).reg i = s.reg i := by
  unfold State.setFreq
  refine ⟨?_, ?_, fun i hi => ?_⟩
  · rw [State.setRfield_reg_same, State.setRfield_reg_same, fieldOf_setField_disjoint _ _ (by decide) (.inl (by decide)),
      fieldOf_setField_same _ _ (by decide), Nat.mod_eq_of_lt h]
  · rw [State.setRfield_reg_same, bitAt_setField _ _ _ _ _ (by decide), if_pos (by decide)]
    by_cases h : mhz < 2100 <;> simp [h]
  · rw [State.setRfield_reg_ne _ _ _ _ hi, State.setRfield_reg_ne _ _ _ _ hi]

/-- The governor keeps the clock between 1.2 GHz and 2.1 GHz, so FREQ holds it (R13). -/
theorem State.stepDown_lt (s : State) : Nat.max (s.rfield 0x003 0 16 - 100) 1200 < 2 ^ 16 :=
  Nat.max_lt.2 ⟨Nat.lt_of_le_of_lt (Nat.sub_le _ _) (BitVec.isLt _), by decide⟩

theorem State.stepUp_lt (s : State) : Nat.min (s.rfield 0x003 0 16 + 100) 2100 < 2 ^ 16 :=
  Nat.lt_of_le_of_lt (Nat.min_le_right _ _) (by decide)

/-- The current limiter marks the clock, the dies and the microsecond, and counts each microsecond once (R12, R15). -/
theorem execCurrentLimiterHold_gives (s : State) : ∃ S : State, execCurrentLimiterHold s = .next S ∧
    S.holdClk = some s.clk ∧ S.holdDies = BitVec.ofNat 8 s.request.k ∧ S.holdUs = some (s.time / 1000) ∧
    fieldOf (S.reg 0x003) 32 32 = (if s.holdUs = some (s.time / 1000) then fieldOf (s.reg 0x003) 32 32
      else min (fieldOf (s.reg 0x003) 32 32 + 1) (2 ^ 32 - 1)) ∧
    ∀ i, i ≠ 3 → S.reg i = s.reg i := by
  unfold execCurrentLimiterHold
  by_cases h : s.holdUs = some (s.time / 1000)
  · simp only [if_pos h]
    exact ⟨_, rfl, rfl, rfl, rfl, rfl, fun _ _ => rfl⟩
  · simp only [if_neg h]
    refine ⟨_, rfl, rfl, rfl, rfl, ?_, fun i hi => State.setRfield_reg_ne _ _ _ _ hi⟩
    rw [State.setRfield_reg_same, fieldOf_setField_same _ _ (by decide)]
    exact Nat.mod_eq_of_lt (Nat.lt_of_le_of_lt (Nat.min_le_right _ _) (by decide))

/-! ### Resets (R21, R22) -/

/-- The bytes that stand when the dirty lines are discarded. -/
theorem State.discardDirty_mem (s : State) : s.discardDirty.mem = s.l2Dirty.foldl (fun m l =>
    ssetList 0 m (l.line * 128) ((List.range 128).map fun i => sget 0 l.cells (l.line * 128 + i))) s.mem :=
  (List.foldl_hom State.mem fun _ _ => rfl).symm

/-- The log has no part in what stands beneath the dirty lines. -/
theorem State.LogsTo.discardDirty_mem {s S : State} (h : s.LogsTo S) : S.discardDirty.mem = s.discardDirty.mem := by
  rw [State.discardDirty_mem, State.discardDirty_mem, h.mem, h.l2Dirty]

theorem sget_sslice {α : Type} (d : α) (m : Sparse α) {lo hi k : Nat} (h : lo ≤ k ∧ k < hi) :
    sget d (sslice m lo hi) k = sget d m k :=
  sget_filter d m (fun k => decide (lo ≤ k) && decide (k < hi)) k (by simp [h])

/-- Outside the pool the bytes at their home are those of memory. -/
theorem State.homeByte_mem (s : State) {a : Nat} (h : a < 2 ^ 40 ∨ 2 ^ 55 ≤ a) : s.homeByte a = sget 0 s.mem a :=
  if_neg (by omega)

/-- Consecutive keys written one by one, each by its place. -/
theorem sget_foldl_sset_range {α : Type} [DecidableEq α] (d : α) (base n : Nat) (f : Nat → α) (m : Sparse α) (i : Nat) :
    sget d ((List.range n).foldl (fun m j => sset d m (base + j) (f j)) m) i =
      if base ≤ i ∧ i < base + n then f (i - base) else sget d m i := by
  induction n with
  | zero => rw [if_neg (by omega)]; rfl
  | succ n ih =>
    rw [List.range_succ, List.foldl_append, List.foldl_cons, List.foldl_nil, sget_sset, ih]
    by_cases h : i = base + n
    · rw [if_pos h, if_pos (by omega), h, Nat.add_sub_cancel_left]
    · rw [if_neg h]
      exact if_congr (by omega) rfl rfl

theorem State.retries_get (s : State) (i : Nat) : sget 0 s.retries i =
    if 0x01C ≤ i ∧ i < 0x01C + 12 then sget 0 s.regs (0x01C + (i - 0x01C)) &&& 0xFFFFFFFF00000000 else 0 :=
  sget_foldl_sset_range 0 0x01C 12 (fun j => sget 0 s.regs (0x01C + j) &&& 0xFFFFFFFF00000000) [] i

/-- A link's register at its reset value, but for a RETRY field that is kept. -/
theorem fieldOf_retry (w : DWord) : fieldOf ((w &&& 0xFFFFFFFF00000000) ^^^ 0xC00) 32 32 = fieldOf (w ^^^ 0xC00) 32 32 ∧
    fieldOf ((w &&& 0xFFFFFFFF00000000) ^^^ 0xC00) 10 2 = 3 := by
  have high : BitVec.extractLsb' 32 32 (0xFFFFFFFF00000000 : DWord) = BitVec.allOnes 32 := by decide
  have low : BitVec.extractLsb' 10 2 (0xFFFFFFFF00000000 : DWord) = 0 := by decide
  unfold fieldOf
  rw [BitVec.extractLsb'_xor, BitVec.extractLsb'_xor, BitVec.extractLsb'_xor, BitVec.extractLsb'_and, BitVec.extractLsb'_and,
    high, low, BitVec.and_allOnes]
  refine ⟨rfl, ?_⟩
  rw [show BitVec.extractLsb' 10 2 w &&& 0 = 0 from BitVec.and_zero]
  decide

theorem regDefault_klstat : ∀ j < 12, regDefault (0x01C + j) = 0xC00 := by decide

/-- A warm reset keeps of the registers the RETRY fields alone (R21). -/
theorem State.warmReset_reg (s : State) :
    (∀ i, i < 0x01C ∨ 0x028 ≤ i → s.warmReset.reg i = regDefault i) ∧
    ∀ j < 12, fieldOf (s.warmReset.reg (0x01C + j)) 32 32 = fieldOf (s.reg (0x01C + j)) 32 32 ∧
      fieldOf (s.warmReset.reg (0x01C + j)) 10 2 = 3 := by
  have hl := s.relaunchLog_logsTo s.relaunchLog
  have hreg : ∀ i, s.warmReset.reg i =
    sget 0 (s.relaunchLog.foldl (fun s e => s.addLog e.2.2) s).retries i ^^^ regDefault i := fun _ => rfl
  generalize s.relaunchLog.foldl (fun s e => s.addLog e.2.2) s = L at hl hreg
  refine ⟨fun i hi => ?_, fun j hj => ?_⟩
  · rw [hreg, State.retries_get, if_neg (by omega)]
    exact BitVec.zero_xor
  · rw [hreg, State.retries_get, if_pos (by omega), Nat.add_sub_cancel_left, ← hl.reg (show 0x01C + j ≠ 0x0E9 by omega),
      State.reg, regDefault_klstat j hj]
    exact fieldOf_retry _

/-- A warm reset leaves HBM and host memory as they stand beneath the dirty lines (R21). -/
theorem State.warmReset_homeByte (s : State) {a : Nat} (h : a < 2 ^ 40 ∨ (2 ^ 55 ≤ a ∧ a < 2 ^ 56)) :
    s.warmReset.homeByte a = s.discardDirty.homeByte a := by
  rw [State.homeByte_mem _ (by omega), State.homeByte_mem _ (by omega), ← (s.relaunchLog_logsTo s.relaunchLog).discardDirty_mem]
  rfl

/-- A cold reset leaves host memory as it stands beneath the dirty lines (R21). -/
theorem State.outside_homeByte (s : State) {a : Nat} (h : 2 ^ 55 ≤ a ∧ a < 2 ^ 56) :
    s.outside.homeByte a = s.discardDirty.homeByte a := by
  rw [State.homeByte_mem _ (by omega), State.homeByte_mem _ (by omega)]
  exact sget_sslice 0 s.discardDirty.mem h

/-- What a function level reset clears of port 0, before its READY bit (R21). -/
def State.clearPort (s : State) : State :=
  { s with decoders := [], options := s.options.filter fun o => decide (o.1 ≠ 0), masks := 0, pba := 0
           config := [], response := none, spdm := {}, hostReply := none }

theorem execFunctionLevelReset_eq (s : State) :
    execFunctionLevelReset s = .next (s.clearPort.setBits 24 false (s.bufail 24)) := rfl

/-- A function level reset changes of the registers READY and INTPEND alone, and INTPEND only when port 0 was ready. -/
theorem State.clearPort_setBits_reg (s : State) :
    (s.ready 24 = false → (s.clearPort.setBits 24 false (s.bufail 24)).reg 0x0E9 = s.reg 0x0E9) ∧
    ∀ i, i ≠ 0 → i ≠ 0x0E9 → (s.clearPort.setBits 24 false (s.bufail 24)).reg i = s.reg i := by
  refine ⟨fun h => ?_, fun i h0 h9 => ?_⟩
  · have hb := s.clearPort.setBits_unchanged 24
    rw [show s.clearPort.ready 24 = false from h] at hb
    rw [show s.bufail 24 = s.clearPort.bufail 24 from rfl, hb, State.setRfield_reg_ne _ _ _ _ (by decide),
      State.setRfield_reg_ne _ _ _ _ (by decide)]
    rfl
  · by_cases h1 : i = 1
    · subst h1
      rw [(State.setBits_logsTo _ _ _ _).reg (by decide), State.setRfield_reg_same, State.setRfield_reg_ne _ _ _ _ (by decide)]
      exact setField_bitAt _ _
    · exact s.clearPort.setBits_reg 24 false _ h0 h1 h9

/-- The state of port 0 that a function level reset clears, and the teams and the memory that it leaves alone. -/
theorem State.clearPort_setBits_cleared (s : State) :
    let S := s.clearPort.setBits 24 false (s.bufail 24)
    S.decoders = [] ∧ (∀ o, o ∈ S.options ↔ o ∈ s.options ∧ o.1 ≠ 0) ∧ S.masks = 0 ∧ S.config = [] ∧
      S.response = none ∧ S.hostReply = none ∧ S.spdm = {} ∧ S.teams = s.teams ∧ S.mem = s.mem := by
  obtain ⟨_, _, _, _, _, _, _, hS, _⟩ := s.clearPort.setBits_logsTo 24 false (s.bufail 24)
  rw [hS]
  exact ⟨rfl, fun o => by simp [State.clearPort], rfl, rfl, rfl, rfl, rfl, rfl, rfl⟩

/-! ### The obligation -/

/-- Settles O51: what each event does is one of a few operations on the device, of which `setBits` carries READY and BUFAIL;
what the log leaves alone carries these through the entries and the events that they raise. -/
theorem powerAndReadinessEvents : Obligations.PowerAndReadinessEvents := by
  unfold Obligations.PowerAndReadinessEvents
  intro s
  refine ⟨rfl, execCurrentLimiterHold_gives s, ⟨_, rfl, s.setFreq_gives s.stepDown_lt⟩, ⟨_, rfl, s.setFreq_gives s.stepUp_lt⟩,
    execFunctionInitComplete_stays, fun hf hi hok => ?_, fun hf hi hok h1 h2 => ?_, fun hk hi hok => ?_, fun hl hi => ?_,
    training_stays, fun hl hr => ?_, fun h => ?_, fun hl hb => ?_, execLateTraining_stays, fun hk hr => ?_, ?_, ?_, ?_⟩
  · exact ⟨_, execFunctionInitComplete_failed hf hi hok, s.failFunction_failed hf⟩
  · exact ⟨_, execFunctionInitComplete_ready hf hi hok h1 h2, s.becomeReady_up hf⟩
  · have hf := imageFunction_lt hk
    exact ⟨fun hb => ⟨_, execFunctionInitComplete_noController hk hi hok hb, s.failFunction_failed hf⟩,
      fun hb hr hv => ⟨_, execFunctionInitComplete_refused hk hi hok hb hr hv, s.failFunction_failed hf⟩,
      fun hb hr hd v hv => ⟨_, execFunctionInitComplete_verified hk hi hok hb hr hd hv, (s.verified v).becomeReady_up hf⟩⟩
  · have hf : s.request.k < 44 := by omega
    have retrained := execLinkRetrainComplete_link hl hi
    exact ⟨⟨_, execTrainTimeout_link hl hi, s.failFunction_failed hf⟩,
      fun hok => ⟨_, by rw [exec_linkRetrainComplete, retrained, if_pos hok], s.becomeReady_up hf⟩,
      fun hok => ⟨_, by rw [exec_linkRetrainComplete, retrained, if_neg (by simp [hok])], s.failFunction_failed hf⟩⟩
  · have hs := State.dropLink_sets ⟨hl, hr⟩
    have hf : s.request.k < 44 := by omega
    exact ⟨_, rfl, hs.ready hf, hs.bufail hf, hs.sameOthers, (s.dropLink_keeps _).1, State.dropLink_width ⟨hl, hr⟩⟩
  · exact congrArg Host.Outcome.next (State.dropLink_stays h)
  · exact ⟨_, execLateTraining_failed hl hb, s.becomeReady_up (by omega)⟩
  · exact ⟨execFlitCrcFail_replays hk hr, execFlitCrcFail_drops hk hr⟩
  · exact ⟨_, rfl, fun _ => BitVec.zero_xor, rfl, rfl, rfl, rfl, rfl, rfl, rfl, rfl, rfl,
      fun a h1 h2 => s.outside_homeByte ⟨h1, h2⟩⟩
  · have hl := s.relaunchLog_logsTo s.relaunchLog
    exact ⟨_, rfl, s.warmReset_reg.1, s.warmReset_reg.2, ⟨rfl, rfl, rfl⟩, rfl, rfl, rfl, rfl, rfl, hl.time,
      congrArg (fun d : Option (Nat × Nat) => some (d.getD (0, 0))) hl.resetDiscards, rfl, rfl, rfl,
      fun a h => s.warmReset_homeByte h⟩
  · have bits := s.clearPort.setBits_sets 24 false (s.bufail 24)
    obtain ⟨pend, frame⟩ := s.clearPort_setBits_reg
    obtain ⟨hd, ho, hm, hc, hr, hh, hsp, ht, hme⟩ := s.clearPort_setBits_cleared
    exact ⟨_, execFunctionLevelReset_eq s, bits.ready (by decide), hd, ho, pend, hm, hc, hr, hh, hsp, ht, hme, frame⟩

end Sys2Proof.Machine
end

section
/-! PROOFS. Queues: slots that pass in index order, the return line, and what QPUSH.PUB and QPOP.REL do. -/

namespace Sys2Proof.Machine

/-! ### Slots in index order (R79) -/

/-- Passing published slots stops at the lowest index that is still unpublished, where the fuel counts every slot. -/
theorem advanceOut_spec (n : Nat) (x : Edge) (h : x.outSet.length ≤ n) :
    ∃ m, (advanceOut x n).pubIdx = x.pubIdx + m ∧ (advanceOut x n).fill = x.fill + m ∧ (∀ i < m, x.pubIdx + i ∈ x.outSet) ∧
      x.pubIdx + m ∉ x.outSet ∧ (advanceOut x n).free = x.free ∧ (advanceOut x n).head = x.head ∧
      (advanceOut x n).tail = x.tail := by
  induction n generalizing x with
  | zero =>
    have hnil : x.outSet = [] := List.length_eq_zero_iff.1 (Nat.le_zero.1 h)
    exact ⟨0, rfl, rfl, fun i hi => absurd hi (Nat.not_lt_zero i), by simp [hnil], rfl, rfl, rfl⟩
  | succ n ih =>
    unfold advanceOut
    split
    · next hc =>
      have hm : x.pubIdx ∈ x.outSet := by simpa using hc
      obtain ⟨m, hp, hf, hin, hout, hrest⟩ :=
        ih { x with outSet := x.outSet.erase x.pubIdx, pubIdx := x.pubIdx + 1, fill := x.fill + 1 }
          (by simpa [List.length_erase_of_mem hm] using h)
      refine ⟨m + 1, hp.trans (Nat.add_right_comm _ _ _), hf.trans (Nat.add_right_comm _ _ _), fun i hi => ?_, fun hx => hout ?_, hrest⟩
      · cases i with
        | zero => exact hm
        | succ i => simpa [Nat.add_assoc, Nat.add_comm 1 i] using List.mem_of_mem_erase (hin i (by omega))
      · have hne : x.pubIdx + 1 + m ≠ x.pubIdx := by omega
        exact (List.mem_erase_of_ne hne).2 (by simpa [Nat.add_assoc, Nat.add_comm 1 m] using hx)
    · next hc => exact ⟨0, rfl, rfl, fun i hi => absurd hi (Nat.not_lt_zero i), by simpa using hc, rfl, rfl, rfl⟩

/-- Passing released slots stops at the lowest index that is still unreleased, where the fuel counts every slot. -/
theorem advanceIn_spec (n : Nat) (x : Edge) (h : x.inSet.length ≤ n) :
    ∃ m, (advanceIn x n).relIdx = x.relIdx + m ∧ (∀ i < m, x.relIdx + i ∈ x.inSet) ∧ x.relIdx + m ∉ x.inSet ∧
      (advanceIn x n).free = (if x.source then x.free else x.free + m) ∧
      (advanceIn x n).consumed = (if x.source then x.consumed + BitVec.ofNat 64 m else x.consumed) ∧
      (advanceIn x n).fill = x.fill := by
  have stays : x.relIdx ∉ x.inSet → ∃ m, x.relIdx = x.relIdx + m ∧ (∀ i < m, x.relIdx + i ∈ x.inSet) ∧ x.relIdx + m ∉ x.inSet ∧
      x.free = (if x.source then x.free else x.free + m) ∧
      x.consumed = (if x.source then x.consumed + BitVec.ofNat 64 m else x.consumed) ∧ x.fill = x.fill := fun hc =>
    ⟨0, rfl, fun i hi => absurd hi (Nat.not_lt_zero i), hc, by simp, by simp, rfl⟩
  induction n generalizing x with
  | zero => exact stays (by simp [List.length_eq_zero_iff.1 (Nat.le_zero.1 h)])
  | succ n ih =>
    unfold advanceIn
    split
    · next hc =>
      have hm : x.relIdx ∈ x.inSet := by simpa using hc
      obtain ⟨m, hp, hin, hout, hfree, hcons, hfill⟩ :=
        ih { x with inSet := x.inSet.erase x.relIdx, relIdx := x.relIdx + 1
                    free := if x.source then x.free else x.free + 1
                    consumed := if x.source then x.consumed + 1 else x.consumed }
          (by simpa [List.length_erase_of_mem hm] using h)
          (fun hc => ⟨0, rfl, fun i hi => absurd hi (Nat.not_lt_zero i), hc, by simp, by simp, rfl⟩)
      refine ⟨m + 1, hp.trans (Nat.add_right_comm _ _ _), fun i hi => ?_, fun hx => hout ?_, hfree.trans ?_, hcons.trans ?_, hfill⟩
      · cases i with
        | zero => exact hm
        | succ i => simpa [Nat.add_assoc, Nat.add_comm 1 i] using List.mem_of_mem_erase (hin i (by omega))
      · have hne : x.relIdx + 1 + m ≠ x.relIdx := by omega
        exact (List.mem_erase_of_ne hne).2 (by simpa [Nat.add_assoc, Nat.add_comm 1 m] using hx)
      · cases x.source
        · exact Nat.add_right_comm _ _ _
        · rfl
      · cases x.source
        · rfl
        · exact (BitVec.add_assoc _ _ _).trans (congrArg (x.consumed + ·) ((BitVec.add_comm _ _).trans (BitVec.ofNat_add m 1).symm))
    · next hc => exact stays (by simpa using hc)

/-! ### The return line (R35) -/

/-- CONSUMED stays due while port 0 is down or a remote store of instances that released slots is on its way. -/
theorem State.writeReturn_due {s : State} {k e : Nat} {x : Edge} (hx : s.edge? k e = some x)
    (h : s.port0 = false ∨ ∃ r ∈ s.remotes, r.inst ∈ x.retWait) :
    s.writeReturn k e = s.setEdge k e { x with retDue := true } := by
  have hc : ¬ (s.port0 && !(s.remotes.any fun r => x.retWait.contains r.inst)) = true := by
    rcases h with h | h <;> simp_all
  unfold State.writeReturn
  simp only [hx]
  exact if_neg hc

/-- CONSUMED reaches the return line as a release of the instances that released slots. -/
theorem State.writeReturn_writes {s : State} {k e : Nat} {x : Edge} (hx : s.edge? k e = some x) (hp : s.port0 = true)
    (h : ∀ r ∈ s.remotes, r.inst ∉ x.retWait) : s.writeReturn k e =
      (((x.retWait.foldl State.performInst s).hostPut (2 ^ 55 + x.retLine.toNat)
        (bytes64 x.consumed ++ List.replicate 56 0)).setEdge k e { x with retDue := false, retWait := [] }).raise 4 := by
  have hc : (s.port0 && !(s.remotes.any fun r => x.retWait.contains r.inst)) = true := by
    simpa [hp] using h
  unfold State.writeReturn
  simp only [hx]
  exact if_pos hc

/-! ### QPUSH.PUB and QPOP.REL (R220, R221, R223) -/

/-- What a queue instruction does at its issue (R220, R223). -/
def queueBody (w : WE) (output : Bool) (f : State → Ctx → Nat → Nat → Edge → Nat → Res) (s : State) (c : Ctx) : Res :=
  let code := w.sub.toNat % 8
  let e := c.t.launch.edge code
  if decide (4 ≤ code) != output then c.edgeTrap s code 7
  else if e = 0xFFFF then c.edgeTrap s code 2
  else
    match s.edge? c.t.part e with
    | none => c.edgeTrap s code 2
    | some x =>
      if !x.streaming then c.edgeTrap s code 1
      else if x.slotcnt < (c.u w.a).toNat then c.edgeTrap s code 4
      else f s c code e x (c.u w.a).toNat

/-- What follows the count of a team's outstanding slots, of which some are accounted for already (R221, R223). -/
def slotsBody (w : WE) (s : State) (c : Ctx) (code free n : Nat) (act : Res) : Res :=
  if free < n then c.edgeTrap s code 5
  else if n = 0 then .next (c.finish s 0 w.m.words)
  else act

/-- QPUSH.PUB of n slots that the team has reserved. -/
def pubSlots (w : WE) (s : State) (c : Ctx) (code n : Nat) : Res :=
  let s1 := s.release c.t c.g
  if c.t.launch.contain then
    c.withBuffer (s1.sbEffect c.t.closeEntries fun t => { t with sb := t.sb ++ [.push code n] }) fun s2 c2 =>
      .next (c2.finish s2 0 w.m.words)
  else
    let r := s1.publishLowest c.t code n
    .next (({ c with t := r.2 } : Ctx).finish r.1 0 w.m.words)

/-- QPOP.REL of n slots that the team has taken. -/
def relSlots (w : WE) (s : State) (c : Ctx) (code n : Nat) : Res :=
  if c.t.launch.contain then
    .next (({ c with t := { c.t with relLater := smod 0 c.t.relLater code (· + n) } } : Ctx).finish s 0 w.m.words)
  else
    let r := s.releaseLowest c.t code n
    .next (({ c with t := r.2 } : Ctx).finish r.1 0 w.m.words)

theorem exec_qpushPub_eq (w : WE) : exec (.qpushPub w) = fun s =>
    uniInstr s (guardYX w.m) w.m 0 (uniLocs w.a) (queueBody w true fun s c code _ _ n =>
      slotsBody w s c code (c.t.outstanding code false - c.t.pushed code) n (pubSlots w s c code n)) (some 5) := rfl

theorem exec_qpopRel_eq (w : WE) : exec (.qpopRel w) = fun s =>
    uniInstr s (guardYX w.m) w.m 0 (uniLocs w.a) (queueBody w false fun s c code _ _ n =>
      slotsBody w s c code (c.t.outstanding code true - sget 0 c.t.relLater code) n (relSlots w s c code n)) (some 7) := rfl

/-- What `post` says of a uniform instruction is what its body does in the context of its issue. -/
theorem uniInstr_runs_ctx {gd : Guard} {m : Mods} {stall : Nat} {locs : List Loc} {f : State → Ctx → Res} {point : Option Nat}
    {post : State → Team → Group → Ctx → Res → Prop} (h : ∀ s c, s.clk = c.clk → post s c.t c.g c (f s c)) :
    UniRuns (fun s => uniInstr s gd m stall locs f point) gd m stall locs post :=
  uniInstr_runs fun s t g _ _ => h _ (uniCtx s t g gd m locs) rfl

section Body
variable {w : WE} {s : State} {c : Ctx} {n : Nat}

/-- Past the checks of its direction, its edge and its count a queue instruction acts on its edge. -/
theorem queueBody_acts {output : Bool} {x : Edge} (f : State → Ctx → Nat → Nat → Edge → Nat → Res)
    (hdir : (4 ≤ w.sub.toNat % 8) = (output = true)) (he : c.t.launch.edge (w.sub.toNat % 8) ≠ 0xFFFF)
    (hx : s.edge? c.t.part (c.t.launch.edge (w.sub.toNat % 8)) = some x) (hs : x.streaming = true)
    (hn : (c.u w.a).toNat ≤ x.slotcnt) : queueBody w output f s c =
      f s c (w.sub.toNat % 8) (c.t.launch.edge (w.sub.toNat % 8)) x (c.u w.a).toNat := by
  have hd : ¬ (decide (4 ≤ w.sub.toNat % 8) != output) = true := by simp [hdir]
  simp only [queueBody, if_neg hd, if_neg he, hx, hs, Bool.not_true, Bool.false_eq_true, if_false, if_neg (Nat.not_lt.2 hn)]

/-- A team that passes an instruction: its group's registers are as before. -/
theorem Ctx.finish_only {S : State} (h : S.clk = c.clk) (t : Team) (stall words : Nat) :
    ∃ g', c.g.Only g' c.clk stall words ∧
      Host.Outcome.next (({ c with t := t } : Ctx).finish S stall words) = (.next (S.acted c.clk t g') : Res) :=
  ⟨c.g.retire c.clk stall words, ⟨retire_passed _ _ _ _, rfl, rfl, rfl, rfl, rfl, rfl⟩,
    congrArg Host.Outcome.next (Ctx.finish_of_clk (c := { c with t := t }) h _ _)⟩

theorem Ctx.edgeTrap_traps (code reason : Nat) :
    s.traps c.t c.g (c.edgeTrap s code reason) 0x110 0 (BitVec.ofNat 64 (code + 16 * reason)) := by
  rw [Nat.mul_comm]; rfl

/-- An effect enters a store buffer that has room and does not drain (R115). -/
theorem State.sbEffect_enters {t : Team} {f : Team → Team} (hu : (f t).sbUsed ≤ 2048) (hd : t.draining = false) :
    s.sbEffect t f = .done s (f t) := if_pos (by simp [hu, hd])

@[simp] theorem State.release_clk (t : Team) (g : Group) : (s.release t g).clk = s.clk := State.performWhere_clk _ _

/-- An entry takes its own size of the store buffer (R112). -/
theorem Team.sbUsed_append (t : Team) (e : SbEntry) :
    ({ t with sb := t.sb ++ [e] } : Team).sbUsed = t.sbUsed + e.size := by
  simp only [Team.sbUsed, List.foldl_append, List.foldl_cons, List.foldl_nil]
  omega

variable {code free : Nat} {act : Res}

theorem slotsBody_more (h : free < n) :
    s.traps c.t c.g (slotsBody w s c code free n act) 0x110 0 (BitVec.ofNat 64 (code + 16 * 5)) := by
  rw [slotsBody, if_pos h]
  exact Ctx.edgeTrap_traps _ _

theorem slotsBody_none (hs : s.clk = c.clk) (h : n ≤ free) (h0 : n = 0) :
    ∃ g', slotsBody w s c code free n act = .next (s.acted c.clk c.t g') ∧ c.g.Only g' c.clk 0 w.m.words := by
  obtain ⟨g', hg, hr⟩ := Ctx.finish_only hs c.t 0 w.m.words
  rw [slotsBody, if_neg (Nat.not_lt.2 h), if_pos h0]
  exact ⟨g', hr, hg⟩

theorem slotsBody_acts (h : n ≤ free) (h0 : 0 < n) : slotsBody w s c code free n act = act := by
  rw [slotsBody, if_neg (Nat.not_lt.2 h), if_neg (Nat.ne_of_gt h0)]

theorem pubSlots_publishes (hs : s.clk = c.clk) (hc : c.t.launch.contain = false) : ∃ g', c.g.Only g' c.clk 0 w.m.words ∧
    let lowest := takeLowest code false n [] c.t.ranges (c.t.ranges.length + 1)
    pubSlots w s c code n = .next (((s.release c.t c.g).publishSlots c.t.part (c.t.launch.edge code) lowest.1).acted c.clk
      { c.t with ranges := lowest.2 } g') := by
  obtain ⟨g', hg, hr⟩ := Ctx.finish_only (c := c) (S := ((s.release c.t c.g).publishLowest c.t code n).1)
    (by simpa [State.publishLowest] using hs) ((s.release c.t c.g).publishLowest c.t code n).2 0 w.m.words
  exact ⟨g', hg, (if_neg (by simp [hc])).trans hr⟩

theorem pubSlots_buffers (hs : s.clk = c.clk) (hc : c.t.launch.contain = true) (hu : c.t.closeEntries.sbUsed < 2048)
    (hd : c.t.draining = false) : ∃ g', c.g.Only g' c.clk 0 w.m.words ∧
      pubSlots w s c code n = .next ((s.release c.t c.g).acted c.clk
        { c.t.closeEntries with sb := c.t.closeEntries.sb ++ [.push code n] } g') := by
  obtain ⟨g', hg, hr⟩ := Ctx.finish_only (c := c) (S := s.release c.t c.g) (by simpa using hs)
    { c.t.closeEntries with sb := c.t.closeEntries.sb ++ [.push code n] } 0 w.m.words
  have hb := State.sbEffect_enters (s := s.release c.t c.g) (t := c.t.closeEntries)
    (f := fun t => { t with sb := t.sb ++ [.push code n] }) (by rw [Team.sbUsed_append]; exact hu) hd
  refine ⟨g', hg, (if_pos hc).trans ?_⟩
  rw [hb]
  exact hr

theorem relSlots_releases (hs : s.clk = c.clk) (hc : c.t.launch.contain = false) : ∃ g', c.g.Only g' c.clk 0 w.m.words ∧
    let lowest := takeLowest code true n [] c.t.ranges (c.t.ranges.length + 1)
    relSlots w s c code n = .next ((s.releaseSlots c.t.part (c.t.launch.edge code) c.t.inst lowest.1).acted c.clk
      { c.t with ranges := lowest.2 } g') := by
  obtain ⟨g', hg, hr⟩ := Ctx.finish_only (c := c) (S := (s.releaseLowest c.t code n).1)
    (by simpa [State.releaseLowest] using hs) (s.releaseLowest c.t code n).2 0 w.m.words
  exact ⟨g', hg, (if_neg (by simp [hc])).trans hr⟩

theorem relSlots_defers (hs : s.clk = c.clk) (hc : c.t.launch.contain = true) : ∃ g', c.g.Only g' c.clk 0 w.m.words ∧
    relSlots w s c code n = .next (s.acted c.clk { c.t with relLater := smod 0 c.t.relLater code (· + n) } g') := by
  obtain ⟨g', hg, hr⟩ := Ctx.finish_only hs { c.t with relLater := smod 0 c.t.relLater code (· + n) } 0 w.m.words
  exact ⟨g', hg, (if_pos hc).trans hr⟩

end Body

/-- Settles O22: the two instructions by what their bodies do past the checks of the edge, the counters by the slots that
pass in index order, and the return line by its two cases. -/
theorem queuePublications : Obligations.QueuePublications := by
  unfold Obligations.QueuePublications
  refine ⟨List.forall_mem_cons.2 ⟨fun w => ?_, List.forall_mem_singleton.2 fun w => ?_⟩, fun x idxs => ⟨?_, ?_, fun s k e hx => ?_⟩⟩
  · rw [exec_qpushPub_eq]
    refine uniInstr_runs_ctx fun s c hs => ?_
    intro code n e waiting out hdir he x hx hst hn
    rw [queueBody_acts _ hdir he hx hst hn]
    refine ⟨slotsBody_more, slotsBody_none hs, fun h h0 hc => ?_, fun _ _ _ hp => absurd hp (by decide), fun h h0 hc _ hu hd => ?_⟩
    · obtain ⟨g', hg, hr⟩ := pubSlots_publishes hs hc
      exact ⟨g', hg, (slotsBody_acts h h0).trans hr⟩
    · obtain ⟨g', hg, hr⟩ := pubSlots_buffers hs hc hu hd
      exact ⟨g', hg, (slotsBody_acts h h0).trans hr⟩
  · rw [exec_qpopRel_eq]
    refine uniInstr_runs_ctx fun s c hs => ?_
    intro code n e waiting out hdir he x hx hst hn
    rw [queueBody_acts _ hdir he hx hst hn]
    refine ⟨slotsBody_more, slotsBody_none hs, fun h h0 hc => ?_, fun h h0 hc _ => ?_, fun _ _ _ hp => absurd hp (by decide)⟩
    · obtain ⟨g', hg, hr⟩ := relSlots_releases hs hc
      exact ⟨g', hg, (slotsBody_acts h h0).trans hr⟩
    · obtain ⟨g', hg, hr⟩ := relSlots_defers hs hc
      exact ⟨g', hg, (slotsBody_acts h h0).trans hr⟩
  · exact advanceOut_spec _ { x with outSet := x.outSet ++ idxs } (List.length_append).le
  · exact advanceIn_spec _ { x with inSet := x.inSet ++ idxs } (List.length_append).le
  · exact ⟨State.writeReturn_due hx, State.writeReturn_writes hx⟩

end Sys2Proof.Machine
end

section
/-! SUPPORT. What the operations on memory leave alone: everything apart from the memories, the L2s and the memory-side
cache. -/

namespace Sys2Proof.Machine

/-! ### What stands apart from the memories -/

/-- The state apart from the memories, the L2s and the memory-side cache. -/
def State.rest (s : State) : State :=
  { s with mem := [], poison := [], pool := [], poolPoison := [], poolL2 := [], l2Dirty := [], seals := [], msc := [] }

theorem State.reg_rest {s S : State} (h : S.rest = s.rest) (i : Nat) : S.reg i = s.reg i := State.reg_congr (congrArg State.regs h) i

theorem State.rest_parts {s S : State} (h : S.rest = s.rest) : S.parts = s.parts := (congrArg State.parts h :)

theorem State.rest_teams {s S : State} (h : S.rest = s.rest) : S.teams = s.teams := (congrArg State.teams h :)

theorem State.rest_insts {s S : State} (h : S.rest = s.rest) : S.insts = s.insts := (congrArg State.insts h :)

theorem State.rest_heldWrites {s S : State} (h : S.rest = s.rest) : S.heldWrites = s.heldWrites := (congrArg State.heldWrites h :)

theorem State.rest_posted {s S : State} (h : S.rest = s.rest) : S.posted = s.posted := (congrArg State.posted h :)

theorem State.rest_l1 {s S : State} (h : S.rest = s.rest) : S.l1 = s.l1 := (congrArg State.l1 h :)

theorem foldl_rest {α : Type} (f : State → α → State) (h : ∀ s a, (f s a).rest = s.rest) (l : List α) (s : State) :
    (l.foldl f s).rest = s.rest :=
  foldl_keeps (fun b => b.rest = s.rest) f (fun b a hb => (h b a).trans hb) l s rfl

@[simp] theorem State.dirtyLine_rest (s : State) (line : Nat) : (s.dirtyLine line).rest = s.rest := by
  unfold State.dirtyLine; simp only; split_ifs <;> rfl

@[simp] theorem State.writeBackLine_rest (s : State) (line : Nat) : (s.writeBackLine line).rest = s.rest := by
  unfold State.writeBackLine; split
  · rfl
  · simp only; split_ifs <;> rfl

@[simp] theorem State.mscWriteBack_rest (s : State) (l : PoolLine) (base : Nat) : (s.mscWriteBack l base).rest = s.rest := by
  unfold State.mscWriteBack; simp only; split
  · rfl
  · refine foldl_rest _ (fun s u => ?_) _ _
    rfl

@[simp] theorem State.mscFill_rest (s : State) (pa key : Nat) : (s.mscFill pa key).rest = s.rest := by
  unfold State.mscFill; simp only; split_ifs
  · rfl
  · rfl
  · split
    · exact State.mscWriteBack_rest _ _ _
    · rfl

@[simp] theorem State.cleanPoolLine_rest (s : State) (l : PoolLine) : (s.cleanPoolLine l).rest = s.rest := by
  unfold State.cleanPoolLine; simp only; split_ifs
  · rfl
  · split
    · exact State.mscFill_rest _ _ _
    · exact (State.mscWriteBack_rest _ _ _).trans (State.mscFill_rest _ _ _)

@[simp] theorem State.evictPoolLine_rest (s : State) (l : PoolLine) : (s.evictPoolLine l).rest = s.rest := by
  have h1 : (if l.dirty.isEmpty then s else s.cleanPoolLine l).rest = s.rest := by split <;> simp
  unfold State.evictPoolLine
  generalize (if l.dirty.isEmpty then s else s.cleanPoolLine l) = s1 at h1
  simp only; split_ifs
  · rfl
  · exact h1
  · exact h1

@[simp] theorem State.l2Room_rest (s : State) (line : Nat) : (s.l2Room line).rest = s.rest := by
  unfold State.l2Room
  split
  · split
    · split <;> simp
    · rfl
  · rfl

@[simp] theorem State.poolFill_rest (s : State) (pa key : Nat) : (s.poolFill pa key).rest = s.rest := by
  unfold State.poolFill; simp only; split_ifs
  · rfl
  · exact State.l2Room_rest _ _
  · exact (State.mscFill_rest _ _ _).trans (State.l2Room_rest _ _)

@[simp] theorem State.touch_rest (s : State) (pa n key : Nat) : (s.touch pa n key).rest = s.rest := by
  unfold State.touch; split
  · exact foldl_rest _ (fun _ _ => State.poolFill_rest _ _ _) _ _
  · rfl

@[simp] theorem State.setPoison_rest (s : State) (sec : Nat) (p : Bool) : (s.setPoison sec p).rest = s.rest := by
  unfold State.setPoison; split
  · exact State.poolFill_rest _ _ _
  · exact State.dirtyLine_rest _ _

theorem State.setPoisons_rest (s : State) (p : Bool) (ns : List Nat) : (ns.foldl (fun s n => s.setPoison n p) s).rest = s.rest :=
  foldl_rest _ (fun _ _ => State.setPoison_rest _ _ _) _ _

@[simp] theorem State.putByte_rest (s : State) (pa : Nat) (b : Byte) : (s.putByte pa b).rest = s.rest := by
  unfold State.putByte; split
  · rfl
  · exact State.dirtyLine_rest _ _

@[simp] theorem State.putBytes_rest (s : State) (pa : Nat) (bs : List Byte) : (s.putBytes pa bs).rest = s.rest := by
  induction bs generalizing s pa with
  | nil => rfl
  | cons b bs ih => simp [State.putBytes, ih]

@[simp] theorem State.writeHome_rest (s : State) (pa : Nat) (bs : List Byte) : (s.writeHome pa bs).rest = s.rest :=
  (State.setPoisons_rest _ false _).trans ((State.putBytes_rest _ _ _).trans (State.touch_rest _ _ _ _))

theorem State.setBytes_rest (s : State) (m : Memory) (seals : Sparse (Option (BitVec 512))) :
    State.rest { s with mem := m, seals := seals } = s.rest := rfl

@[simp] theorem State.rekeySector_rest (s : State) (key : Nat) (write : Bool) (sec : Nat) :
    (s.rekeySector key write sec).rest = s.rest := by
  unfold State.rekeySector; simp only; split
  · split <;> rfl
  · split
    · rfl
    · exact (State.setBytes_rest _ _ _).trans (State.writeBackLine_rest _ _)

@[simp] theorem State.rekey_rest (s : State) (key : Nat) (write : Bool) (pa n : Nat) : (s.rekey key write pa n).rest = s.rest := by
  unfold State.rekey; split
  · exact foldl_rest _ (fun _ _ => State.rekeySector_rest _ _ _ _) _ _
  · simp

@[simp] theorem State.performOne_rest (s : State) (p : Posted) (left : List Posted) : (s.performOne p left).rest = s.rest :=
  (State.setPoisons_rest _ true _).trans ((State.setPoisons_rest _ false _).trans
    ((State.writeHome_rest _ _ _).trans (State.rekey_rest _ _ _ _ _)))

@[simp] theorem State.performAll_rest (s : State) (ps : List Posted) : (s.performAll ps).rest = s.rest := by
  induction ps generalizing s with
  | nil => rfl
  | cons p ps ih => exact (ih _).trans (s.performOne_rest p _)

end Sys2Proof.Machine
end

section
/-! PROOFS. Events that write a state register (R413): what each register's write stores, and what the commands of a
partition start. -/

namespace Sys2Proof.Machine

/-! ### What the log, the scheduler and the engines keep of a partition -/

/-- From one state to another teams and instances at most go, and no register write that is held, no partition's control
register and no partition's context, children or collective changes. -/
structure State.Keeps (s S : State) : Prop where
  teams : ∀ t ∈ S.teams, t ∈ s.teams
  insts : ∀ i ∈ S.insts, i ∈ s.insts
  held : S.heldWrites = s.heldWrites
  ctl : ∀ j, S.reg (pidx j 0) = s.reg (pidx j 0)
  part : ∀ j, (S.part j).saved = (s.part j).saved ∧ (S.part j).children = (s.part j).children ∧
    (S.part j).coll = (s.part j).coll ∧ (S.part j).collQueue = (s.part j).collQueue

namespace State.Keeps
variable {s S T : State}

theorem refl (s : State) : s.Keeps s := ⟨fun _ h => h, fun _ h => h, rfl, fun _ => rfl, fun _ => ⟨rfl, rfl, rfl, rfl⟩⟩

theorem trans (h : s.Keeps S) (h' : S.Keeps T) : s.Keeps T where
  teams t ht := h.teams t (h'.teams t ht)
  insts i hi := h.insts i (h'.insts i hi)
  held := h'.held.trans h.held
  ctl j := (h'.ctl j).trans (h.ctl j)
  part j :=
    have ⟨a, b, c, d⟩ := h.part j
    have ⟨a', b', c', d'⟩ := h'.part j
    ⟨a'.trans a, b'.trans b, c'.trans c, d'.trans d⟩

/-- A fold of steps that each keep these keeps them. -/
theorem foldl {α : Type} {f : State → α → State} (h : ∀ (s : State) a, s.Keeps (f s a)) (l : List α) (s : State) : s.Keeps (l.foldl f s) :=
  foldl_keeps s.Keeps f (fun b a hb => hb.trans (h b a)) l s (.refl s)

theorem of_rest (h : S.rest = s.rest) : s.Keeps S where
  teams _ ht := State.rest_teams h ▸ ht
  insts _ hi := State.rest_insts h ▸ hi
  held := State.rest_heldWrites h
  ctl _ := State.reg_rest h _
  part j := by
    unfold State.part
    rw [State.rest_parts h]
    exact ⟨rfl, rfl, rfl, rfl⟩

theorem of_logsTo (h : s.LogsTo S) : s.Keeps S := by
  have hreg := fun j => h.reg (i := pidx j 0) (by unfold pidx; omega)
  obtain ⟨_, _, _, _, _, _, _, rfl, _⟩ := h
  exact ⟨fun _ h => h, fun _ h => h, rfl, hreg, fun _ => ⟨rfl, rfl, rfl, rfl⟩⟩

/-- A write of another register than a partition's control register. -/
theorem of_setReg (s : State) {i : Nat} (v : DWord) (h : ∀ j, i ≠ pidx j 0) : s.Keeps (s.setReg i v) :=
  ⟨fun _ h => h, fun _ h => h, rfl, fun j => (s.setReg_reg _ _ _).trans (if_neg (Ne.symm (h j))), fun _ => ⟨rfl, rfl, rfl, rfl⟩⟩

/-- A change of what a partition holds beside its context, its children and its collective. -/
theorem of_setPart (s : State) (k : Nat) (p : Part) (h1 : p.saved = (s.part k).saved) (h2 : p.children = (s.part k).children)
    (h3 : p.coll = (s.part k).coll) (h4 : p.collQueue = (s.part k).collQueue) : s.Keeps (s.setPart k p) where
  teams _ h := h
  insts _ h := h
  held := rfl
  ctl _ := rfl
  part j := by
    show (sget {} (sset {} s.parts k p) j).saved = _ ∧ (sget {} (sset {} s.parts k p) j).children = _ ∧
      (sget {} (sset {} s.parts k p) j).coll = _ ∧ (sget {} (sset {} s.parts k p) j).collQueue = _
    rw [sget_sset]
    split
    · next hj => subst hj; exact ⟨h1, h2, h3, h4⟩
    · exact ⟨rfl, rfl, rfl, rfl⟩

end State.Keeps

theorem State.addLog_keeps (s : State) (e : LogEntry) : s.Keeps (s.addLog e) := .of_logsTo (s.addLog_logsTo e)

theorem State.foldBufail_logsTo (s : State) (fn : Nat) : s.LogsTo (s.foldBufail fn) := ⟨_, _, _, _, _, _, _, rfl, fun _ _ => rfl⟩

theorem State.LogsTo.keys {s S : State} (h : s.LogsTo S) : S.keys = s.keys := by obtain ⟨_, _, _, _, _, _, _, rfl, _⟩ := h; rfl

theorem State.LogsTo.withKeys {s S : State} (h : s.LogsTo S) (keys : Sparse KeySlot) :
    State.LogsTo { s with keys := keys } { S with keys := keys } := by
  obtain ⟨_, _, _, _, _, _, _, rfl, hr⟩ := h
  exact ⟨_, _, _, _, _, _, _, rfl, hr⟩

/-- What an access leaves in the log: beside it only that the empty episode of its key slot has begun (R18, R58). -/
theorem State.noteAccess_logsTo (s : State) (pa key k unit : Nat) (byCore : Bool) : ∃ keys,
    (∀ i, (sget {} keys i : KeySlot).pair = (sget {} s.keys i).pair) ∧
    State.LogsTo { s with keys := keys } (s.noteAccess pa key k unit byCore) := by
  have folded := foldl_keeps s.LogsTo State.foldBufail (fun b fn hb => hb.trans (b.foldBufail_logsTo fn))
    ((s.functionsOf pa ++ if pa < 2 ^ 40 then [40] else []).filter s.bufail) s (.refl s)
  unfold State.noteAccess
  generalize List.foldl State.foldBufail s _ = S at folded ⊢
  dsimp only
  split
  · refine ⟨_, fun i => ?_, (folded.withKeys _).trans (State.addLog_logsTo _ _)⟩
    rw [sget_sset, folded.keys]
    split
    · next h => rw [h]; rfl
    · rfl
  · exact ⟨_, fun _ => rfl, folded⟩

theorem State.noteAccess_keeps (s : State) (pa key k unit : Nat) (byCore : Bool) : s.Keeps (s.noteAccess pa key k unit byCore) := by
  obtain ⟨keys, _, h⟩ := s.noteAccess_logsTo pa key k unit byCore
  exact .trans (S := { s with keys := keys }) ⟨fun _ h => h, fun _ h => h, rfl, fun _ => rfl, fun _ => ⟨rfl, rfl, rfl, rfl⟩⟩ (.of_logsTo h)

theorem State.performWhere_keeps (s : State) (f : Posted → Bool) : s.Keeps (s.performWhere f) :=
  .trans (S := { s with posted := (takePosted f s.posted.reverse [] []).2 })
    ⟨fun _ h => h, fun _ h => h, rfl, fun _ => rfl, fun _ => ⟨rfl, rfl, rfl, rfl⟩⟩ (.of_rest (State.performAll_rest _ _))

theorem State.atHome_keeps (s : State) (core : Option Nat) (pa n : Nat) : s.Keeps (s.atHome core pa n) := by
  unfold State.atHome
  split
  · exact (s.performWhere_keeps _).trans ⟨fun _ h => h, fun _ h => h, rfl, fun _ => rfl, fun _ => ⟨rfl, rfl, rfl, rfl⟩⟩
  · exact .refl s

theorem State.enginePut_keeps (s : State) (core : Option Nat) (k : Nat) (ver : Option Word) (va : DWord) (bs : List Byte) :
    s.Keeps (s.enginePut core k ver va bs).1 := by
  unfold State.enginePut
  split
  · next pa leaf lost _ =>
    have noted := s.noteAccess_keeps pa (keyOf leaf) k 0xFFFF true
    dsimp only
    split
    · exact noted
    · exact noted.trans ((State.atHome_keeps _ core pa bs.length).trans
        (.of_rest ((State.writeHome_rest _ _ _).trans (State.rekey_rest _ _ _ _ _))))
  · exact .refl s

theorem State.schedParts_keeps {s s1 : State} {sec : Bool} {core : Option Nat} {k : Nat} {ver : Option Word} {acc bs : List Byte}
    {poison poison' : Option Nat} {ps : List (Nat × Nat)} (h : s.schedParts sec core k ver acc poison ps = .ok bs poison' s1) :
    s.Keeps s1 := by
  induction ps generalizing s acc poison with
  | nil => cases h; exact .refl _
  | cons p ps ih =>
    unfold State.schedParts at h
    dsimp only at h
    split at h
    · next pa leaf lost _ =>
      exact (State.noteAccess_keeps _ pa (keyOf leaf) k 0xFFFF true).trans ((State.atHome_keeps _ core pa p.2).trans
        (State.Keeps.trans (.of_rest (State.rekey_rest _ _ _ _ _)) (ih h)))
    · cases h

theorem State.word0_keeps (s : State) (core : Option Nat) (k : Nat) (ver : Option Word) (i : Nat) : s.Keeps (s.word0 core k ver i).2 := by
  unfold State.word0
  dsimp only
  split
  · exact .refl s
  · next bs poison s1 hget =>
    have got := State.schedParts_keeps hget
    have marked := fun slots => State.Keeps.of_setPart s1 k { s1.part k with badSlots := slots } rfl rfl rfl rfl
    split_ifs
    · exact got
    · exact got.trans (.trans (marked _) (State.addLog_keeps _ _))
    · exact got.trans (.trans (marked _) (State.addLog_keeps _ _))
    · exact got

theorem State.logXlat_keeps (s : State) (k : Nat) (x : Xlat) (va : DWord) : s.Keeps (s.logXlat k x va) := by
  unfold State.logXlat
  split
  · exact s.addLog_keeps _
  · split
    · exact s.addLog_keeps _
    · exact .refl s
  · exact .refl s

theorem State.slotStep_keeps {s s' : State} {k : Nat} {d : SlotDue} (h : s.slotStep k d = some s') : s.Keeps s' := by
  have read := s.word0_keeps d.core k d.ver d.slot
  unfold State.slotStep at h
  split at h
  · cases h
  · next hx => rw [hx] at read; cases h; exact read.trans (State.logXlat_keeps _ _ _ _)
  · next hx => rw [hx] at read; cases h; exact read
  · next s1 hx =>
    rw [hx] at read
    split at h
    · cases h; exact read
    · next w' _ =>
      have wrote := s1.enginePut_keeps d.core k d.ver (s1.slotAddr k d.slot) (bytes64 w')
      split at h
      · cases h
      · next hy =>
        rw [State.setWord0] at hy
        rw [hy] at wrote
        cases h
        split
        · exact read.trans (wrote.trans (.of_logsTo (State.raise_logsTo _ _)))
        · exact read.trans wrote
      · next hy =>
        rw [State.setWord0] at hy
        rw [hy] at wrote
        cases h
        exact read.trans (wrote.trans (State.logXlat_keeps _ _ _ _))

theorem State.slotWrite_keeps (s : State) (k : Nat) (d : SlotDue) : s.Keeps (s.slotWrite k d) := by
  unfold State.slotWrite
  split
  · next h => exact State.slotStep_keeps h
  · exact .of_setPart _ _ _ rfl rfl rfl rfl

theorem State.releaseHold_keeps (s : State) (v : Word) : s.Keeps (s.releaseHold v) := by
  have entry : ∀ j, 0x038 + v.toNat % 16 ≠ pidx j 0 := fun j => by unfold pidx; omega
  have vcur : ∀ j, 0x010 ≠ pidx j 0 := fun j => by unfold pidx; omega
  unfold State.releaseHold
  dsimp only
  split_ifs
  · exact .trans (.of_setReg _ _ entry) (.of_setReg _ _ entry)
  · exact .of_setReg _ _ entry
  · exact .of_setReg _ _ vcur

theorem State.setGctl_keeps (s : State) (k : Nat) (v : DWord) : s.Keeps (s.setReg (pidx k 9) v) :=
  .of_setReg s v fun j => by unfold pidx; omega

theorem State.startBind_keeps (s : State) (k : Nat) : s.Keeps (s.startBind k) :=
  (s.setGctl_keeps k 0xC0000000).trans (.of_setPart (s.setReg (pidx k 9) 0xC0000000) k _ rfl rfl rfl rfl)

/-- Whether GCTL.BUSY of a partition is to stand (R79). -/
def State.graphBusy (s : State) (k : Nat) : Bool :=
  let g := s.reg (pidx k 9)
  let due := match (s.part k).graph with
    | some gr => gr.edges.any Edge.due
    | none => false
  (s.part k).pendingBind.isSome ||
    ((!bitAt g 31 || bitAt g 29) && ((s.insts.any fun i => decide (i.part = k) && !i.isChild) || due))

/-- A partition's state without its graph. -/
def State.dropGraph (s : State) (k : Nat) : State := s.setPart k { s.part k with graph := none, heldBind := none }

theorem State.settleBusy_eq (s : State) (k : Nat) : s.settleBusy k =
    let s1 := s.setReg (pidx k 9) (setField (s.reg (pidx k 9)) 30 1 (if s.graphBusy k then 1 else 0))
    if s.graphBusy k || bitAt (s.reg (pidx k 9)) 31 then s1
    else if (s.part k).heldBind = some true then (s1.dropGraph k).startBind k else s1.dropGraph k := rfl

theorem State.settleBusy_keeps (s : State) (k : Nat) : s.Keeps (s.settleBusy k) := by
  rw [State.settleBusy_eq]
  have set := s.setGctl_keeps k (setField (s.reg (pidx k 9)) 30 1 (if s.graphBusy k then 1 else 0))
  generalize s.setReg (pidx k 9) _ = s1 at set
  have dropped : s.Keeps (s1.dropGraph k) := set.trans (.of_setPart s1 k _ rfl rfl rfl rfl)
  dsimp only
  split
  · exact set
  · split
    · exact dropped.trans (State.startBind_keeps _ _)
    · exact dropped

/-! ### What a partition's reset discards (R21, R95) -/

theorem State.freePending_keeps (s : State) (core k : Nat) (ver : Option Word) (slots : List Nat) :
    s.Keeps (s.freePending core k ver slots) :=
  .foldl (fun _ _ => State.slotWrite_keeps _ _ _) _ _

theorem State.dropTeam_keeps (s : State) (t : Team) : s.Keeps (s.dropTeam t) :=
  ⟨fun _ h => List.mem_of_mem_filter h, fun _ h => h, rfl, fun _ => rfl, fun _ => ⟨rfl, rfl, rfl, rfl⟩⟩

theorem State.unpinTeam_keeps (s : State) (t : Team) : s.Keeps (s.unpinTeam t) :=
  ⟨fun _ h => h, fun _ h => h, rfl, fun _ => rfl, fun _ => ⟨rfl, rfl, rfl, rfl⟩⟩

theorem State.killTeam_keeps (s : State) (t : Team) : s.Keeps (s.killTeam t) :=
  (s.dropTeam_keeps t).trans ((State.unpinTeam_keeps _ t).trans (State.freePending_keeps _ _ _ _ _))

/-- A killed team's place is empty. -/
theorem State.killTeam_gone (s : State) {t u : Team} (h : u ∈ (s.killTeam t).teams) : ¬ (u.core = t.core ∧ u.slot = t.slot) := by
  have hd : u ∈ (s.dropTeam t).teams := ((State.unpinTeam_keeps _ t).trans (State.freePending_keeps _ _ _ _ _)).teams u h
  simpa [Classical.or_iff_not_imp_left] using (List.mem_filter.1 hd).2

/-- The teams of a partition are killed. -/
def State.killTeams (s : State) (k : Nat) : State :=
  (s.teams.filter fun t => decide (t.part = k)).foldl (fun s t => s.killTeam t) s

theorem State.killTeams_keeps (s : State) (k : Nat) : s.Keeps (s.killTeams k) := .foldl (fun _ _ => State.killTeam_keeps _ _) _ _

theorem killAll_gone (l : List Team) (s : State) {u : Team} (h : u ∈ (l.foldl (fun s t => s.killTeam t) s).teams) :
    ∀ t ∈ l, ¬ (u.core = t.core ∧ u.slot = t.slot) := by
  induction l generalizing s with
  | nil => exact fun _ ht => absurd ht List.not_mem_nil
  | cons t l ih =>
    have later : ∀ s : State, s.Keeps (l.foldl (fun s t => s.killTeam t) s) := .foldl (fun _ _ => State.killTeam_keeps _ _) l
    exact List.forall_mem_cons.2 ⟨s.killTeam_gone ((later _).teams u h), ih _ h⟩

theorem State.killTeams_gone (s : State) {k : Nat} {u : Team} (h : u ∈ (s.killTeams k).teams) : u.part ≠ k := fun hk =>
  killAll_gone _ s h u (List.mem_filter.2 ⟨(s.killTeams_keeps k).teams u h, decide_eq_true hk⟩) ⟨rfl, rfl⟩

/-- The teams of a partition's saved context give back what they hold. -/
def State.dropContext (s : State) (k : Nat) : State :=
  (s.part k).saved.foldl (fun s t => (s.unpinTeam t).freePending t.core k (s.version t) t.pending) s

/-- The Larder slots of the redeems of a partition that ran or were queued. -/
def State.redeemSlots (s : State) (k : Nat) : List Nat :=
  ((s.insts.filter fun i => decide (i.part = k)).filterMap (·.redeem) ++ (s.part k).children.filterMap (·.redeem)).map
    fun ws => fieldOf (ws.getD 1 0) 0 32

/-- What the instances of a partition hold is given back, and their stores are performed. -/
def State.dropInsts (s : State) (k : Nat) : State :=
  (s.insts.filter fun i => decide (i.part = k)).foldl (fun s i =>
    let s' := (s.performInst i.id).flushRelaunchLog i.id
    match i.version with
    | some v => if i.holds then s'.releaseHold v else s'
    | none => s') s

/-- The queued children of a partition give back their holds. -/
def State.dropChildren (s : State) (k : Nat) : State :=
  (s.part k).children.foldl (fun s c =>
    match c.version with
    | some v => s.releaseHold v
    | none => s) s

/-- A partition's instances, orphans and own state are gone. -/
def State.emptyPart (s : State) (k : Nat) : State :=
  let s5 := { s with insts := s.insts.filter fun i => decide (i.part ≠ k), orphans := s.orphans.filter fun t => decide (t.part ≠ k) }
  let p := s5.part k
  s5.setPart k { p with children := [], images := p.images.filter (·.reloc.isSome), faults := [], saved := [], recorded := []
                        resuming := false, room := 0, spill := 0, fqFull := false, coll := none, collIndex := 0, collQueue := [] }

theorem State.discardPart_eq (s : State) (k : Nat) : s.discardPart k =
    let s2 := (s.killTeams k).dropContext k
    ((((s2.dropInsts k).dropChildren k).emptyPart k).failRedeems k (s2.redeemSlots k)).settleBusy k := rfl

theorem State.dropContext_keeps (s : State) (k : Nat) : s.Keeps (s.dropContext k) :=
  .foldl (fun _ _ => (State.unpinTeam_keeps _ _).trans (State.freePending_keeps _ _ _ _ _)) _ _

theorem State.flushRelaunchLog_keeps (s : State) (id : Nat) : s.Keeps (s.flushRelaunchLog id) :=
  .trans (S := { s with relaunchLog := s.relaunchLog.filter fun e => decide (e.1 ≠ id) })
    ⟨fun _ h => h, fun _ h => h, rfl, fun _ => rfl, fun _ => ⟨rfl, rfl, rfl, rfl⟩⟩ (.foldl (fun _ _ => State.addLog_keeps _ _) _ _)

theorem State.dropInsts_keeps (s : State) (k : Nat) : s.Keeps (s.dropInsts k) := by
  refine .foldl (fun s i => ?_) _ _
  have ended := (State.performWhere_keeps s _).trans (State.flushRelaunchLog_keeps (s.performInst i.id) i.id)
  dsimp only
  split
  · split
    · exact ended.trans (State.releaseHold_keeps _ _)
    · exact ended
  · exact ended

theorem State.dropChildren_keeps (s : State) (k : Nat) : s.Keeps (s.dropChildren k) := by
  refine .foldl (fun s c => ?_) _ _
  split
  · exact State.releaseHold_keeps _ _
  · exact .refl s

theorem State.failRedeems_keeps (s : State) (k : Nat) (slots : List Nat) : s.Keeps (s.failRedeems k slots) :=
  .foldl (fun _ _ => State.slotWrite_keeps _ _ _) _ _

/-- A partition holds no teams, instances, context, children or collective. -/
structure State.Emptied (S : State) (k : Nat) : Prop where
  teams : ∀ t ∈ S.teams, t.part ≠ k
  insts : ∀ i ∈ S.insts, i.part ≠ k
  part : (S.part k).saved = [] ∧ (S.part k).children = [] ∧ (S.part k).coll = none ∧ (S.part k).collQueue = []

theorem State.Emptied.keeps {s S : State} {k : Nat} (h : s.Emptied k) (hk : s.Keeps S) : S.Emptied k where
  teams t ht := h.teams t (hk.teams t ht)
  insts i hi := h.insts i (hk.insts i hi)
  part := by
    obtain ⟨a, b, c, d⟩ := hk.part k
    rw [a, b, c, d]
    exact h.part

theorem State.emptyPart_emptied {s : State} {k : Nat} (h : ∀ t ∈ s.teams, t.part ≠ k) : (s.emptyPart k).Emptied k where
  teams := h
  insts i hi := by simpa using (List.mem_filter.1 hi).2
  part := by simp [State.emptyPart, State.setPart, State.part]

/-- The discard empties the partition, and leaves the held writes and the partition's control register alone. -/
theorem State.discardPart_empties (s : State) (k : Nat) : (s.discardPart k).Emptied k ∧
    (s.discardPart k).heldWrites = s.heldWrites ∧ (s.discardPart k).reg (pidx k 0) = s.reg (pidx k 0) := by
  rw [State.discardPart_eq]
  have rest := ((s.killTeams k).dropContext_keeps k).trans ((State.dropInsts_keeps _ k).trans (State.dropChildren_keeps _ k))
  have before := (s.killTeams_keeps k).trans rest
  have gone : ∀ t ∈ ((((s.killTeams k).dropContext k).dropInsts k).dropChildren k).teams, t.part ≠ k := fun t ht =>
    s.killTeams_gone (rest.teams t ht)
  have after : ∀ slots, State.Keeps (((((s.killTeams k).dropContext k).dropInsts k).dropChildren k).emptyPart k)
      (State.settleBusy (State.failRedeems (((((s.killTeams k).dropContext k).dropInsts k).dropChildren k).emptyPart k) k slots) k) :=
    fun slots => (State.failRedeems_keeps _ k slots).trans (State.settleBusy_keeps _ k)
  exact ⟨(State.emptyPart_emptied gone).keeps (after _), (after _).held.trans before.held, ((after _).ctl k).trans (before.ctl k)⟩

/-! ### A register's write as an event (R413) -/

section Event
variable {s S : State} {i : Nat} {v : DWord}

theorem regEvent_done (h : s.writeReg s.request.writer i v = .done S) : regEvent s i v = .next S := by
  rw [regEvent, State.writeAs, h]; rfl

theorem regEvent_held (h : s.writeReg s.request.writer i v = .held S) : regEvent s i v = .next S := by
  rw [regEvent, State.writeAs, h]; rfl

theorem regEvent_ignored (h : s.writeReg s.request.writer i v = .ignored S) : regEvent s i v = .next (S.addLog
    (platformEntry 0x402 (match s.request.writer with | .part j => j | _ => 0xFF) (BitVec.ofNat 64 (8 * i)) v)) := by
  rw [regEvent, State.writeAs, h]
  cases s.request.writer <;> rfl

/-- The secure world's write of a device's register, as an event. -/
theorem regEvent_secure (hw : s.request.writer = .secure) (hi : i < 0x0E8 ∨ (0x200 ≤ i ∧ i ≤ 0x3FF)) (hr : ¬ regReadOnly i = true)
    (h : s.writeSecure i v = .done S) : regEvent s i v = .next S :=
  regEvent_done (by rw [hw, s.writeReg_secure v hi hr, h])

/-- The secure world's write of a partition's register, as an event. -/
theorem regEvent_part {k j : Nat} (hw : s.request.writer = .secure) (hk : k < 16) (hj : j < 15) (h : s.writePart k j v = .done S) :
    regEvent s (pidx k j) v = .next S :=
  regEvent_done (by rw [hw, s.writeReg_pidx .secure v hk hj]; exact h)

end Event

/-! ### The device's registers -/

/-- A message leaves the registers alone. -/
theorem State.sendMessages_reg (s : State) (es : List Nat) (i : Nat) : (es.foldl State.sendMessage s).reg i = s.reg i :=
  foldl_keeps (fun b => b.reg i = s.reg i) State.sendMessage
    (fun b e hb => by unfold State.sendMessage; split <;> exact hb) es s rfl

theorem State.writeInten_reg (s : State) (v : DWord) : (s.writeInten v).reg 0x0E8 = v &&& 0xFFFF :=
  (State.sendMessages_reg _ _ _).trans ((s.setReg_reg _ _ _).trans (if_pos rfl))

/-- What sets BUSY of the memory-side cache (R27, R31). -/
def State.mscFlushes (s : State) (v : DWord) : Prop :=
  bitAt v 31 = true ∨ bitAt (s.reg 0x004) 30 = true ∨ fieldOf (s.reg 0x004) 0 6 ≠ 0

theorem State.mscFlushes_iff (s : State) (v : DWord) :
    (bitAt v 31 || bitAt (s.reg 0x004) 30 || decide (s.rfield 0x004 0 6 ≠ 0)) = true ↔ s.mscFlushes v := by
  simp only [Bool.or_eq_true, decide_eq_true_eq, or_assoc]
  rfl

theorem State.writeMsc_flushes {s : State} {v : DWord} (h : s.mscFlushes v) :
    bitAt ((s.writeMsc v).reg 0x004) 30 = true ∧ fieldOf ((s.writeMsc v).reg 0x004) 0 6 = fieldOf (s.reg 0x004) 0 6 ∧
      (s.writeMsc v).mscSize = min (fieldOf v 0 6) 48 := by
  have hw : s.writeMsc v = { s.setRfield 0x004 30 1 1 with mscSize := min (fieldOf v 0 6) 48 } :=
    if_pos ((s.mscFlushes_iff v).2 h)
  have hr : (s.writeMsc v).reg 0x004 = setField (s.reg 0x004) 30 1 1 := by
    rw [hw]; exact s.setRfield_reg_same _ _ _ _
  rw [hr, bitAt_setField _ _ _ _ _ (by decide), fieldOf_setField_disjoint _ _ (by decide) (.inl (by decide)), hw]
  exact ⟨by simp, rfl, rfl⟩

theorem State.writeMsc_resizes {s : State} {v : DWord} (h : ¬ s.mscFlushes v) :
    fieldOf ((s.writeMsc v).reg 0x004) 0 6 = min (fieldOf v 0 6) 48 := by
  have hw : s.writeMsc v = s.setRfield 0x004 0 6 (min (fieldOf v 0 6) 48) :=
    if_neg fun hb => h ((s.mscFlushes_iff v).1 hb)
  rw [hw, State.setRfield_reg_same, fieldOf_setField_same _ _ (by decide)]
  exact Nat.mod_eq_of_lt (Nat.lt_of_le_of_lt (Nat.min_le_right _ _) (by decide))

theorem State.writeSecure_ring (s : State) (v : DWord) {k : Nat} (hk : k < 16) :
    s.writeSecure (0x058 + k) v = s.writeRing (0x058 + k) v := by
  unfold State.writeSecure
  iterate 18 rw [if_neg (by omega)]
  exact if_pos (by omega)

theorem State.writeSecure_evict (s : State) {k : Nat} (hk : k < 64) :
    s.writeSecure (0x0A8 + k) 0x10 = .done (s.setRfield (0x0A8 + k) 5 1 1) := by
  unfold State.writeSecure
  iterate 20 rw [if_neg (by omega)]
  rw [if_pos (by omega)]
  exact congrArg RegOut.done (if_pos (by decide))

theorem State.writeSecure_shared (s : State) (v : DWord) {i : Nat} (h : 0x200 ≤ i ∧ i < 0x400) :
    s.writeSecure i v = s.writeShared i v := by
  unfold State.writeSecure
  iterate 21 rw [if_neg (by omega)]
  exact if_pos h

/-- With no collective in progress a shared register's write acts at once (R45, R403). -/
theorem State.writeShared_free {s : State} (h : ∀ j < 16, (s.part j).coll = none) (i : Nat) (v : DWord) :
    s.writeShared i v = .done (s.applyShared i v) := by
  have none' : ∀ p, s.inProgress p = [] := fun p =>
    List.filterMap_eq_nil_iff.2 fun j hj => by simp only [h j (List.mem_range.1 hj)]
  unfold State.writeShared
  rw [none']

theorem State.writeShared_held {s : State} (h : ∃ j < 16, ∃ c, (s.part j).coll = some c) {i : Nat} (hi : i ≠ 0x013) (v : DWord) :
    s.writeShared i v = .held { s with heldWrites := s.heldWrites ++ [{ reg := i, value := v, waits := s.inProgress false }] } := by
  obtain ⟨j, hj, c, hc⟩ := h
  have some' : (j, c.index) ∈ s.inProgress false := List.mem_filterMap.2 ⟨j, List.mem_range.2 hj, by simp [hc]⟩
  unfold State.writeShared
  rw [decide_eq_false hi]
  split
  · next hnil => rw [hnil] at some'; exact absurd some' List.not_mem_nil
  · rfl

/-- A stored field, where its greatest value keeps its bits, reads as it was written. -/
theorem bitAt_keepField (w v : DWord) (lo n j : Nat) (hj : j < 64) : bitAt (setField w lo n (Nat.min (fieldOf v lo n) (2 ^ n - 1))) j =
    if lo ≤ j ∧ j < lo + n then bitAt v j else bitAt w j := by
  have hlt : fieldOf v lo n < 2 ^ n := BitVec.isLt _
  rw [bitAt_setField _ _ _ _ _ hj, show Nat.min (fieldOf v lo n) (2 ^ n - 1) = fieldOf v lo n from Nat.min_eq_left (by omega)]
  split
  · next h => rw [fieldOf_testBit, decide_eq_true (by omega), Bool.true_and, Nat.add_sub_cancel' h.1]
  · rfl

theorem keepFields_owner (v : DWord) : keepFields v [(0, 8, 255)] = v &&& 0xFF := by
  have mask : ∀ j < 64, bitAt (0xFF : DWord) j = decide (j < 8) := by decide
  refine BitVec.eq_of_getLsbD_eq fun j hj => (bitAt_keepField 0 v 0 8 j hj).trans ?_
  rw [BitVec.getLsbD_and, show (0xFF : DWord).getLsbD j = _ from mask j hj]
  by_cases h : j < 8 <;> simp [h, bitAt]

theorem keepFields_topo (v : DWord) : keepFields v [(15, 1, 1), (8, 4, 15), (0, 8, 255)] = v &&& 0x8FFF := by
  have mask : ∀ j < 64, bitAt (0x8FFF : DWord) j = decide (j < 12 ∨ j = 15) := by decide
  have nested : keepFields v [(15, 1, 1), (8, 4, 15), (0, 8, 255)] =
      setField (setField (setField 0 15 1 (Nat.min (fieldOf v 15 1) (2 ^ 1 - 1))) 8 4 (Nat.min (fieldOf v 8 4) (2 ^ 4 - 1))) 0 8
        (Nat.min (fieldOf v 0 8) (2 ^ 8 - 1)) := rfl
  rw [nested]
  refine BitVec.eq_of_getLsbD_eq fun j hj => (bitAt_keepField _ v 0 8 j hj).trans ?_
  rw [bitAt_keepField _ v 8 4 j hj, bitAt_keepField _ v 15 1 j hj, BitVec.getLsbD_and,
    show (0x8FFF : DWord).getLsbD j = _ from mask j hj]
  by_cases h8 : j < 8
  · simp [h8, show j < 12 by omega, bitAt]
  · by_cases h12 : j < 12
    · simp [h8, h12, show 8 ≤ j by omega, bitAt]
    · by_cases h15 : j = 15
      · subst h15; simp [bitAt]
      · simp [h8, h12, h15, show ¬ (15 ≤ j ∧ j < 16) by omega, bitAt]

/-- A write of an OWNER entry stores its byte and makes OWNERHASH anew from all of them (R45). -/
theorem State.applyShared_owner (s : State) {i : Nat} (v : DWord) (hi : 0x300 ≤ i) : (s.applyShared i v).reg i = v &&& 0xFF ∧
    (s.applyShared i v).reg 0x00A =
      digest ((List.range 256).map fun h => BitVec.ofNat 8 (fieldOf ((s.applyShared i v).reg (0x300 + h)) 0 8)) := by
  have hw : s.applyShared i v = (s.setReg i (v &&& 0xFF)).hashOwners := by
    unfold State.applyShared
    rw [if_neg (by omega), if_neg (by omega), if_neg (by omega), keepFields_owner]
  have beside : ∀ j, j ≠ 0x00A → (s.applyShared i v).reg j = (s.setReg i (v &&& 0xFF)).reg j := fun j hj => by
    rw [hw]; exact (State.setReg_reg _ _ _ _).trans (if_neg hj)
  refine ⟨(beside i (by omega)).trans ((s.setReg_reg _ _ _).trans (if_pos rfl)), ?_⟩
  rw [show (fun h => BitVec.ofNat 8 (fieldOf ((s.applyShared i v).reg (0x300 + h)) 0 8)) =
    fun h => BitVec.ofNat 8 (fieldOf ((s.setReg i (v &&& 0xFF)).reg (0x300 + h)) 0 8) from
      funext fun h => by rw [beside (0x300 + h) (by omega)], hw]
  exact (State.setReg_reg _ _ _ _).trans (if_pos rfl)

theorem State.applyShared_topo (s : State) {i : Nat} (v : DWord) (hi : 0x200 ≤ i ∧ i < 0x300) :
    (s.applyShared i v).reg i = v &&& 0x8FFF := by
  have hw : s.applyShared i v = s.setReg i (v &&& 0x8FFF) := by
    unfold State.applyShared
    rw [if_neg (by omega), if_neg (by omega), if_pos (by omega), keepFields_topo]
  rw [hw]
  exact (s.setReg_reg _ _ _).trans (if_pos rfl)

theorem State.applyShared_topocnt (s : State) (v : DWord) :
    (s.applyShared 0x009 v).reg 0x009 = BitVec.ofNat 64 (min (max (fieldOf v 0 9) 1) 256) := by
  have hn : (if fieldOf v 0 9 = 0 then 1 else Nat.min (fieldOf v 0 9) 256) = min (max (fieldOf v 0 9) 1) 256 := by
    split
    · next h => rw [h]; rfl
    · next h => rw [Nat.max_eq_left (by omega)]
  rw [← hn]
  exact (s.setReg_reg _ _ _).trans (if_pos rfl)

/-- A ring that is enabled while it is off takes its size and its partition, and its engine starts afresh (R36, R354). -/
theorem State.writeRing_enables {s : State} {k : Nat} (v : DWord) (hoff : bitAt (s.reg (0x058 + k)) 5 = false) :
    ∃ S : State, s.writeRing (0x058 + k) (setField v 5 1 1) = .done S ∧ bitAt (S.reg (0x058 + k)) 5 = true ∧ S.ring k = {} ∧
      fieldOf (S.reg (0x058 + k)) 0 5 = min (max (fieldOf v 0 5) 4) 20 ∧ fieldOf (S.reg (0x058 + k)) 6 4 = fieldOf v 6 4 := by
  have h5 : fieldOf (setField v 5 1 1) 5 1 = 1 := fieldOf_setField_same _ _ (by decide)
  have b5 : bitAt (setField v 5 1 1) 5 = true := by rw [bitAt_setField _ _ _ _ _ (by decide)]; rfl
  have hn : fieldOf (setField v 5 1 1) 0 5 = fieldOf v 0 5 := fieldOf_setField_disjoint _ _ (by decide) (.inl (by decide))
  have hp : fieldOf (setField v 5 1 1) 6 4 = fieldOf v 6 4 := fieldOf_setField_disjoint _ _ (by decide) (.inr (by decide))
  have hsize : min (max (fieldOf v 0 5) 4) 20 ≤ 20 := Nat.min_le_right _ _
  have hpart : fieldOf v 6 4 < 2 ^ 4 := BitVec.isLt _
  have hw : s.writeRing (0x058 + k) (setField v 5 1 1) = .done
      { s.setReg (0x058 + k) (setField (BitVec.ofNat 64 (min (max (fieldOf v 0 5) 4) 20 + fieldOf v 6 4 * 2 ^ 6)) 5 1 1) with
        rings := sset {} s.rings k {} } := by
    unfold State.writeRing
    simp only [hoff, b5, h5, hn, hp, Nat.add_sub_cancel_left, Bool.false_and, Bool.not_false, Bool.true_and, if_true,
      Bool.false_eq_true, if_false, RegOut.judged]
    rfl
  generalize min (max (fieldOf v 0 5) 4) 20 = n at hsize hw ⊢
  generalize fieldOf v 6 4 = p at hpart hw ⊢
  have hreg := (s.setReg_reg (0x058 + k) (0x058 + k) (setField (BitVec.ofNat 64 (n + p * 2 ^ 6)) 5 1 1)).trans (if_pos rfl)
  refine ⟨_, hw, ?_, sget_sset_same ({} : Ring) s.rings k {}, ?_, ?_⟩
  · exact (congrArg (bitAt · 5) hreg).trans ((bitAt_setField _ _ _ _ _ (by decide)).trans rfl)
  · refine (congrArg (fieldOf · 0 5) hreg).trans ((fieldOf_setField_disjoint _ _ (by decide) (.inl (by decide))).trans ?_)
    rw [fieldOf_zero, BitVec.toNat_ofNat]
    omega
  · refine (congrArg (fieldOf · 6 4) hreg).trans ((fieldOf_setField_disjoint _ _ (by decide) (.inr (by decide))).trans ?_)
    rw [fieldOf, BitVec.extractLsb'_toNat, BitVec.toNat_ofNat, Nat.shiftRight_eq_div_pow]
    omega

/-! ### Graphs (R75, R76, R81) -/

theorem State.setPart_part (s : State) (k j : Nat) (p : Part) : (s.setPart k p).part j = if j = k then p else s.part j := sget_sset _ _ _ _ _

/-- A bind starts to check: BIND and BUSY stand, and the tables are taken. -/
theorem State.writeBind_binds {s : State} {k : Nat} (h31 : bitAt (s.reg (pidx k 9)) 31 = false) (h30 : bitAt (s.reg (pidx k 9)) 30 = false)
    (hf : s.bufail 41 = false) : s.writeBind k 0x80000000 = .done (s.startBind k) := by
  have hv : bitAt (0x80000000 : DWord) 31 = true := by decide
  simp only [State.writeBind, hf, hv, h31, h30, Bool.false_eq_true, if_false, if_true]

theorem State.startBind_gives (s : State) (k : Nat) : (s.startBind k).reg (pidx k 9) = 0xC0000000 ∧
    ((s.startBind k).part k).pendingBind = some (s.reg (pidx k 6), s.reg (pidx k 7), s.reg (pidx k 8)) := by
  refine ⟨(s.setReg_reg _ _ _).trans (if_pos rfl), ?_⟩
  rw [State.startBind, State.setPart_part, if_pos rfl]

/-- The state in which a graph is unbound: BIND is clear, and the graph dispatches no more. -/
def State.unbind (s : State) (k : Nat) : State :=
  (s.setReg (pidx k 9) (setField (s.reg (pidx k 9)) 31 1 0)).setPart k
    { s.part k with graph := (s.part k).graph.map fun gr => { gr with dispatching := false } }

theorem State.writeBind_unbinds {s : State} {k : Nat} (h31 : bitAt (s.reg (pidx k 9)) 31 = true) (hf : s.bufail 41 = false)
    (hp : (s.part k).pendingBind = none) : s.writeBind k 0 = .done ((s.unbind k).settleBusy k) := by
  have hv : bitAt (0 : DWord) 31 = false := by decide
  simp only [State.writeBind, State.unbind, hf, hv, h31, hp, Option.isSome_none, Bool.not_true, Bool.false_eq_true, if_false]

theorem State.unbind_gives (s : State) (k : Nat) : bitAt ((s.unbind k).reg (pidx k 9)) 31 = false ∧
    (s.unbind k).part k = { s.part k with graph := (s.part k).graph.map fun gr => { gr with dispatching := false } } := by
  refine ⟨?_, sget_sset_same _ _ _ _⟩
  rw [show (s.unbind k).reg (pidx k 9) = setField (s.reg (pidx k 9)) 31 1 0 from (s.setReg_reg _ _ _).trans (if_pos rfl),
    bitAt_setField _ _ _ _ _ (by decide)]
  rfl

/-- Settling BUSY leaves BIND of an unbound graph clear, where no bind is held behind it; the graph stays as it was or goes. -/
theorem State.settleBusy_unbound {s : State} {k : Nat} (h31 : bitAt (s.reg (pidx k 9)) 31 = false) (hh : (s.part k).heldBind = none) :
    bitAt ((s.settleBusy k).reg (pidx k 9)) 31 = false ∧
      (((s.settleBusy k).part k).graph = (s.part k).graph ∨ ((s.settleBusy k).part k).graph = none) := by
  have hreg : bitAt ((s.setReg (pidx k 9) (setField (s.reg (pidx k 9)) 30 1 (if s.graphBusy k then 1 else 0))).reg (pidx k 9)) 31 = false := by
    rw [(s.setReg_reg _ _ _).trans (if_pos rfl), bitAt_setField _ _ _ _ _ (by decide)]
    exact h31
  rw [State.settleBusy_eq]
  dsimp only
  rw [hh, if_neg (show ¬ (none = some true) by decide)]
  split
  · exact ⟨hreg, .inl rfl⟩
  · exact ⟨hreg, .inr (by rw [State.dropGraph, State.setPart_part, if_pos rfl])⟩

/-- While a write of the scheduler for an edge of an unbound graph is held, BUSY stands and the graph stays. -/
theorem State.settleBusy_due {s : State} {k : Nat} {g : Graph} (h31 : bitAt (s.reg (pidx k 9)) 31 = false)
    (hg : (s.part k).graph = some g) (hd : ∃ x ∈ g.edges, x.wbDue = true ∨ x.retDue = true) :
    bitAt ((s.settleBusy k).reg (pidx k 9)) 30 = true ∧ (s.settleBusy k).part k = s.part k := by
  obtain ⟨x, hx, hdue⟩ := hd
  have any : g.edges.any Edge.due = true := List.any_eq_true.2 ⟨x, hx, by simpa [Edge.due] using hdue⟩
  have busy : s.graphBusy k = true := by simp [State.graphBusy, h31, hg, any]
  rw [State.settleBusy_eq, busy]
  refine ⟨?_, rfl⟩
  show bitAt (State.reg (s.setReg (pidx k 9) _) (pidx k 9)) 30 = true
  rw [(s.setReg_reg _ _ _).trans (if_pos rfl), bitAt_setField _ _ _ _ _ (by decide)]
  rfl

/-! ### Commands of a partition (R89, R95, R96, R100) -/

/-- A bit of a register that is written as it stands. -/
theorem State.setRfield_bit (s : State) (i b : Nat) : ∃ regs,
    s.setRfield i b 1 (if bitAt (s.reg i) b then 1 else 0) = { s with regs := regs } ∧
    ∀ j, State.reg { s with regs := regs } j = s.reg j := by
  refine ⟨_, rfl, fun j => (s.setReg_reg i j _).trans ?_⟩
  split
  · next h => rw [h, setField_bitAt]
  · rfl

/-- A command that leaves SEC and EN as they are is started, outside OFF and RESETTING. -/
theorem State.writePctl_commands {s : State} {k : Nat} (cmd : Nat) (h0 : s.pstate k ≠ 0) (h6 : s.pstate k ≠ 6) : ∃ regs,
    (∀ i, State.reg { s with regs := regs } i = s.reg i) ∧
    s.writePctl k (setField (s.reg (pidx k 0)) 0 4 cmd) = .done ((State.command { s with regs := regs } k (cmd % 2 ^ 4)).applyHeld) := by
  have sec : bitAt (setField (s.reg (pidx k 0)) 0 4 cmd) 30 = bitAt (s.reg (pidx k 0)) 30 := bitAt_setField _ _ _ _ _ (by decide)
  have en : bitAt (setField (s.reg (pidx k 0)) 0 4 cmd) 31 = bitAt (s.reg (pidx k 0)) 31 := bitAt_setField _ _ _ _ _ (by decide)
  obtain ⟨r1, h1, same1⟩ := s.setRfield_bit (pidx k 0) 30
  obtain ⟨r2, h2, same2⟩ := State.setRfield_bit { s with regs := r1 } (pidx k 0) 31
  rw [same1] at h2
  have pstate1 : State.pstate { s with regs := r1 } k = s.pstate k := congrArg (fieldOf · 27 3) (same1 _)
  refine ⟨r2, fun i => (same2 i).trans (same1 i), ?_⟩
  have secSame : (bitAt (s.reg (pidx k 0)) 30 != s.psec k) = false := bne_self_eq_false _
  simp only [State.writePctl, sec, en, secSame, Bool.false_and, Bool.false_eq_true, if_false, h1, State.writeEn, pstate1, h0, h6, h2,
    false_and, fieldOf_setField_same _ cmd (show 0 + 4 ≤ 64 by decide), RegOut.judged, Bool.or_false]

theorem State.applyHeld_nil {s : State} (h : s.heldWrites = []) : s.applyHeld = s := by
  unfold State.applyHeld
  dsimp only
  rw [h]
  show ({ s with heldWrites := [] } : State) = s
  rw [← h]

theorem State.setPerr_reg (s : State) (k e : Nat) : fieldOf ((s.setPerr k e).reg (pidx k 0)) 24 3 = e % 2 ^ 3 ∧
    fieldOf ((s.setPerr k e).reg (pidx k 0)) 27 3 = fieldOf (s.reg (pidx k 0)) 27 3 := by
  rw [State.setPerr, State.setRfield_reg_same]
  exact ⟨fieldOf_setField_same _ _ (by decide), fieldOf_setField_disjoint _ _ (by decide) (.inr (by decide))⟩

theorem State.setPstate_reg (s : State) (k st : Nat) : fieldOf ((s.setPstate k st).reg (pidx k 0)) 27 3 = st % 2 ^ 3 ∧
    fieldOf ((s.setPstate k st).reg (pidx k 0)) 24 3 = fieldOf (s.reg (pidx k 0)) 24 3 := by
  rw [State.setPstate, State.setRfield_reg_same]
  exact ⟨fieldOf_setField_same _ _ (by decide), fieldOf_setField_disjoint _ _ (by decide) (.inl (by decide))⟩

/-- PREEMPT: a RUNNING partition stops when its context has room, and errors otherwise; in another state it errors. -/
theorem State.preempt_reg (s : State) (k : Nat) :
    (s.pstate k = 1 → s.reserved + s.contextBytes k ≤ s.contextSpace →
      (s.preempt k).pstate k = 2 ∧ fieldOf ((s.preempt k).reg (pidx k 0)) 24 3 = 0) ∧
    (s.pstate k = 1 → s.contextSpace < s.reserved + s.contextBytes k →
      (s.preempt k).pstate k = 1 ∧ fieldOf ((s.preempt k).reg (pidx k 0)) 24 3 = 1) ∧
    (s.pstate k ≠ 1 → (s.preempt k).pstate k = s.pstate k ∧ fieldOf ((s.preempt k).reg (pidx k 0)) 24 3 = 2) := by
  refine ⟨fun h1 hroom => ?_, fun h1 hfull => ?_, fun h1 => ?_⟩
  · rw [State.preempt, if_neg (not_not.2 h1), if_neg (Nat.not_lt.2 hroom)]
    exact ⟨(State.setPstate_reg _ k 2).1, (State.setPstate_reg _ k 2).2.trans (State.setPerr_reg _ k 0).1⟩
  · rw [State.preempt, if_neg (not_not.2 h1), if_pos hfull]
    exact ⟨(s.setPerr_reg k 1).2.trans h1, (s.setPerr_reg k 1).1⟩
  · rw [State.preempt, if_pos h1]
    exact ⟨(s.setPerr_reg k 2).2, (s.setPerr_reg k 2).1⟩

/-- RESUME: a SAVED partition is to be restored; in another state the command errors. -/
theorem State.resume_gives (s : State) (k : Nat) :
    (s.pstate k = 4 → ((s.resume k).part k).resuming = true ∧ fieldOf ((s.resume k).reg (pidx k 0)) 24 3 = 0) ∧
    (s.pstate k ≠ 4 → fieldOf ((s.resume k).reg (pidx k 0)) 24 3 = 2) := by
  refine ⟨fun h4 => ?_, fun h4 => ?_⟩
  · rw [State.resume, if_neg (not_not.2 h4)]
    refine ⟨?_, (State.setPerr_reg _ k 0).1⟩
    show ((s.setPart k _).part k).resuming = true
    rw [State.setPart_part, if_pos rfl]
  · rw [State.resume, if_pos h4]
    exact (s.setPerr_reg k 2).1

/-- RESET: a RUNNING or SAVED partition is emptied and is RESETTING; the writes that wait are left alone. -/
theorem State.resetPart_gives {s : State} {k : Nat} (h : s.pstate k = 1 ∨ s.pstate k = 4) :
    (s.resetPart k).pstate k = 6 ∧ (s.resetPart k).Emptied k := by
  rw [State.resetPart, if_pos h]
  obtain ⟨emptied, _, hreg⟩ := (s.setPstate k 6).discardPart_empties k
  refine ⟨(State.setPerr_reg _ k 0).2.trans ?_, emptied.teams, emptied.insts, emptied.part⟩
  rw [hreg]
  exact (s.setPstate_reg k 6).1

theorem State.command_heldWrites (s : State) (k cmd : Nat) : (s.command k cmd).heldWrites = s.heldWrites := by
  unfold State.command
  split
  · unfold State.preempt
    split_ifs <;> rfl
  · unfold State.resume
    split <;> rfl
  · unfold State.resetPart
    split
    · exact ((s.setPstate k 6).discardPart_empties k).2.1
    · rfl
  · rfl

/-- Where no write waits, the command of a write of PCTL is what the write leaves, on registers that read as before. -/
theorem State.pctl_gives {s : State} {k cmd : Nat} (hk : k < 16) (hw : s.request.writer = .secure) (hheld : s.heldWrites = [])
    (hcmd : cmd < 16) (h0 : s.pstate k ≠ 0) (h6 : s.pstate k ≠ 6) : ∃ regs, (∀ i, State.reg { s with regs := regs } i = s.reg i) ∧
    regEvent s (pidx k 0) (setField (s.reg (pidx k 0)) 0 4 cmd) = .next (State.command { s with regs := regs } k cmd) := by
  obtain ⟨regs, same, done⟩ := State.writePctl_commands cmd h0 h6
  have nil : (State.command { s with regs := regs } k cmd).heldWrites = [] := (State.command_heldWrites _ k cmd).trans hheld
  rw [Nat.mod_eq_of_lt (show cmd < 2 ^ 4 from hcmd), State.applyHeld_nil nil] at done
  exact ⟨regs, same, regEvent_part hw hk (by decide) done⟩

/-- EN starts a partition that is OFF, and SEC is taken with it. -/
theorem State.writePctl_starts {s : State} {k : Nat} {v : DWord} (hheld : s.heldWrites = []) (h0 : s.pstate k = 0)
    (hv : bitAt v 31 = true) : ∃ S, s.writePctl k (setField v 0 4 0) = .done S ∧ fieldOf (S.reg (pidx k 0)) 27 3 = 1 ∧
      bitAt (S.reg (pidx k 0)) 31 = true ∧ bitAt (S.reg (pidx k 0)) 30 = bitAt v 30 := by
  have sec : bitAt (setField v 0 4 0) 30 = bitAt v 30 := bitAt_setField _ _ _ _ _ (by decide)
  have en : bitAt (setField v 0 4 0) 31 = true := (bitAt_setField _ _ _ _ _ (by decide)).trans hv
  have off : (s.setRfield (pidx k 0) 30 1 (if bitAt v 30 = true then 1 else 0)).pstate k = 0 := by
    rw [State.pstate, State.rfield, State.setRfield_reg_same, fieldOf_setField_disjoint _ _ (by decide) (.inl (by decide))]
    exact h0
  have judged : ((bitAt v 30 != s.psec k) && decide (s.pstate k ≠ 0)) = false := by rw [decide_eq_false (not_not.2 h0), Bool.and_false]
  have cmd0 : ∀ E : State, E.command k (0 % 2 ^ 4) = E := fun _ => rfl
  have done : s.writePctl k (setField v 0 4 0) = .done
      (((s.setRfield (pidx k 0) 30 1 (if bitAt v 30 = true then 1 else 0)).setRfield (pidx k 0) 31 1 1).setPstate k 1) := by
    simp only [State.writePctl, sec, en, judged, Bool.false_eq_true, if_false, State.writeEn, off, if_true, and_self,
      fieldOf_setField_same _ 0 (show 0 + 4 ≤ 64 by decide), RegOut.judged, Bool.or_false, show ¬ (0 = 6) by decide, cmd0]
    exact congrArg RegOut.done (State.applyHeld_nil hheld)
  refine ⟨_, done, (State.setPstate_reg _ k 1).1, ?_, ?_⟩
  · rw [State.setPstate, State.setRfield_reg_same, State.setRfield_reg_same, bitAt_setField _ _ _ _ _ (by decide)]
    exact (bitAt_setField _ _ _ _ _ (by decide)).trans rfl
  · rw [State.setPstate, State.setRfield_reg_same, State.setRfield_reg_same, State.setRfield_reg_same,
      bitAt_setField _ _ _ _ _ (by decide)]
    refine (bitAt_setField _ _ _ _ _ (by decide)).trans ((bitAt_setField _ _ _ _ _ (by decide)).trans ?_)
    cases bitAt v 30 <;> rfl

/-! ### Translations and faults (R108, R164) -/

/-- What an invalidation drops of a partition's translations, by page number and page size. -/
theorem State.tlbInvalidate_gives (s : State) (k : Nat) (v : DWord) :
    bitAt ((s.tlbInvalidate k v).reg (pidx k 11)) 63 = true ∧
    (∀ e, e ∈ (s.tlbInvalidate k v).tlb ↔
      e ∈ s.tlb ∧ ¬ (e.part = k ∧ (bitAt v 62 = true ∨ e.vpn = fieldOf v 16 40 / 2 ^ (e.bits - 16)))) ∧
    (∀ e, e ∈ (s.tlbInvalidate k v).walks ↔
      e ∈ s.walks ∧ ¬ (e.part = k ∧ (bitAt v 62 = true ∨ e.vpn = fieldOf v 16 40 / 2 ^ (e.bits - 16)))) := by
  refine ⟨?_, fun e => List.mem_filter.trans (and_congr_right fun _ => ?_), fun e => List.mem_filter.trans (and_congr_right fun _ => ?_)⟩
  · rw [State.tlbInvalidate, State.setReg_reg, if_pos rfl]
    decide
  all_goals by_cases hall : bitAt v 62 = true <;> simp [hall, imp_iff_not_or]

/-- After a resolution no fault of the block is left in the partition's queue. -/
theorem State.resolveNow_faults (s : State) (k block : Nat) (abort : Bool) :
    ∀ f ∈ ((s.resolveNow k block abort).part k).faults, f.block ≠ block := by
  intro f hf
  rw [State.resolveNow, State.setPart_part, if_pos rfl] at hf
  simpa using (List.mem_filter.1 hf).2

/-! ### The obligation on register writes -/

/-- What a register write as an event leaves, by what the register's entry answers. -/
theorem regEvent_answers (s : State) (i : Nat) (v : DWord) : regEvent s i v = .next (match s.writeReg s.request.writer i v with
    | .done S => S
    | .held S => S
    | .ignored S => S.addLog (platformEntry 0x402 (match s.request.writer with | .part j => j | _ => 0xFF)
        (BitVec.ofNat 64 (8 * i)) v)) := by
  cases h : s.writeReg s.request.writer i v with
  | done S => exact regEvent_done h
  | held S => exact regEvent_held h
  | ignored S => exact regEvent_ignored h

theorem intenWrite_gives (s : State) : ∃ S, exec .intenWrite s = .next S ∧ S.reg 0x0E8 = s.request.value &&& 0xFFFF :=
  ⟨s.writeInten s.request.value, regEvent_done rfl, s.writeInten_reg _⟩

section Secure
variable {s : State} (hw : s.request.writer = .secure)
include hw

theorem mscFlush_gives : ∃ S, exec .mscFlush s = .next S ∧ bitAt (S.reg 0x004) 30 = true ∧
    S.mscSize = min (fieldOf s.request.value 0 6) 48 := by
  have flushes : s.mscFlushes (setField s.request.value 31 1 1) := .inl ((bitAt_setField _ _ _ _ _ (by decide)).trans rfl)
  obtain ⟨busy, _, size⟩ := State.writeMsc_flushes flushes
  rw [fieldOf_setField_disjoint _ _ (by decide) (.inl (by decide))] at size
  exact ⟨_, regEvent_secure hw (by decide) (by decide) rfl, busy, size⟩

theorem mscResize_gives : ∃ S, exec .mscResize s = .next S ∧
    (s.mscFlushes s.request.value → bitAt (S.reg 0x004) 30 = true ∧ fieldOf (S.reg 0x004) 0 6 = fieldOf (s.reg 0x004) 0 6) ∧
    (¬ s.mscFlushes s.request.value → fieldOf (S.reg 0x004) 0 6 = min (fieldOf s.request.value 0 6) 48) := by
  refine ⟨_, regEvent_secure hw (by decide) (by decide) rfl, fun h => ?_, State.writeMsc_resizes⟩
  obtain ⟨busy, kept, _⟩ := State.writeMsc_flushes h
  exact ⟨busy, kept⟩

theorem ringEnable_gives (hoff : bitAt (s.reg (0x058 + s.request.k % 16)) 5 = false) : ∃ S, exec .ringEnable s = .next S ∧
    bitAt (S.reg (0x058 + s.request.k % 16)) 5 = true ∧ S.ring (s.request.k % 16) = {} ∧
    fieldOf (S.reg (0x058 + s.request.k % 16)) 0 5 = min (max (fieldOf s.request.value 0 5) 4) 20 ∧
    fieldOf (S.reg (0x058 + s.request.k % 16)) 6 4 = fieldOf s.request.value 6 4 := by
  have hk : s.request.k % 16 < 16 := Nat.mod_lt _ (by decide)
  obtain ⟨S, done, enabled⟩ := State.writeRing_enables s.request.value hoff
  rw [← s.writeSecure_ring _ hk] at done
  exact ⟨S, regEvent_secure hw (by omega) (by rw [regReadOnly_iff]; omega) done, enabled⟩

/-- A shared register that no collective holds is written at once. -/
theorem shared_event (hfree : ∀ j < 16, (s.part j).coll = none) {i : Nat} (hi : i = 0x009 ∨ i = 0x013 ∨ (0x200 ≤ i ∧ i < 0x400))
    (v : DWord) : regEvent s i v = .next (s.applyShared i v) := by
  have done : s.writeSecure i v = .done (s.applyShared i v) := by
    refine Eq.trans ?_ (State.writeShared_free hfree i v)
    rcases hi with rfl | rfl | hi
    · rfl
    · rfl
    · exact s.writeSecure_shared v hi
  exact regEvent_secure hw (by omega) (by rw [regReadOnly_iff]; omega) done

theorem shared_gives (hfree : ∀ j < 16, (s.part j).coll = none) :
    exec .stepWrite s = .next (s.setReg 0x013 s.request.value) ∧
    (∃ S, exec .ownerWrite s = .next S ∧ S.reg (0x300 + s.request.e % 256) = s.request.value &&& 0xFF ∧
      S.reg 0x00A = digest ((List.range 256).map fun h => BitVec.ofNat 8 (fieldOf (S.reg (0x300 + h)) 0 8))) ∧
    (∃ S, exec .topoWrite s = .next S ∧ if s.request.ok then
        S.reg 0x009 = BitVec.ofNat 64 (min (max (fieldOf s.request.value 0 9) 1) 256)
      else S.reg (0x200 + s.request.e % 256) = s.request.value &&& 0x8FFF) := by
  refine ⟨shared_event hw hfree (.inr (.inl rfl)) _, ⟨_, shared_event hw hfree (.inr (.inr (by omega))) _,
    s.applyShared_owner _ (by omega)⟩, ?_⟩
  by_cases hok : s.request.ok = true
  · have topo : exec .topoWrite s = regEvent s 0x009 s.request.value := congrArg (regEvent s · s.request.value) (if_pos hok)
    exact ⟨_, topo.trans (shared_event hw hfree (.inl rfl) _), (if_pos hok).mpr (s.applyShared_topocnt _)⟩
  · have topo : exec .topoWrite s = regEvent s (0x200 + s.request.e % 256) s.request.value :=
      congrArg (regEvent s · s.request.value) (if_neg hok)
    exact ⟨_, topo.trans (shared_event hw hfree (.inr (.inr (by omega))) _), (if_neg hok).mpr (s.applyShared_topo _ (by omega))⟩

theorem ownerWrite_held (h : ∃ j < 16, ∃ c, (s.part j).coll = some c) : exec .ownerWrite s = .next { s with
    heldWrites := s.heldWrites ++ [{ reg := 0x300 + s.request.e % 256, value := s.request.value, waits := s.inProgress false }] } := by
  refine regEvent_held ?_
  rw [hw, s.writeReg_secure _ (by omega) (by rw [regReadOnly_iff]; omega), s.writeSecure_shared _ (by omega)]
  exact State.writeShared_held h (by omega) _

theorem keyEvict_gives : ∃ S, exec .keyEvict s = .next S ∧ bitAt (S.reg (0x0A8 + s.request.e % 64)) 5 = true := by
  refine ⟨_, regEvent_secure hw (by omega) (by rw [regReadOnly_iff]; omega) (s.writeSecure_evict (Nat.mod_lt _ (by decide))), ?_⟩
  rw [State.setRfield_reg_same, bitAt_setField _ _ _ _ _ (by decide)]
  rfl

end Secure

section Part
variable {s : State} (hw : s.request.writer = .secure)
include hw

theorem graphBind_gives (h31 : bitAt (s.reg (pidx (s.request.k % 16) 9)) 31 = false)
    (h30 : bitAt (s.reg (pidx (s.request.k % 16) 9)) 30 = false) (hf : s.bufail 41 = false) :
    ∃ S, exec .graphBind s = .next S ∧ S.reg (pidx (s.request.k % 16) 9) = 0xC0000000 ∧
      (S.part (s.request.k % 16)).pendingBind = some (s.reg (pidx (s.request.k % 16) 6), s.reg (pidx (s.request.k % 16) 7),
        s.reg (pidx (s.request.k % 16) 8)) :=
  ⟨_, regEvent_part hw (Nat.mod_lt _ (by decide)) (by decide) (State.writeBind_binds h31 h30 hf), s.startBind_gives _⟩

/-- An unbind of a graph that no bind checks: the graph dispatches no more, and BUSY is settled. -/
theorem graphUnbind_settles (h31 : bitAt (s.reg (pidx (s.request.k % 16) 9)) 31 = true) (hf : s.bufail 41 = false)
    (hp : (s.part (s.request.k % 16)).pendingBind = none) :
    exec .graphUnbind s = .next ((s.unbind (s.request.k % 16)).settleBusy (s.request.k % 16)) :=
  regEvent_part hw (Nat.mod_lt _ (by decide)) (by decide) (State.writeBind_unbinds h31 hf hp)

theorem graphUnbind_gives (h31 : bitAt (s.reg (pidx (s.request.k % 16) 9)) 31 = true) (hf : s.bufail 41 = false)
    (hp : (s.part (s.request.k % 16)).pendingBind = none) (hh : (s.part (s.request.k % 16)).heldBind = none) :
    ∃ S, exec .graphUnbind s = .next S ∧ bitAt (S.reg (pidx (s.request.k % 16) 9)) 31 = false ∧
      ∀ g, (S.part (s.request.k % 16)).graph = some g → g.dispatching = false := by
  obtain ⟨unbound, hpart⟩ := s.unbind_gives (s.request.k % 16)
  obtain ⟨clear, hgraph⟩ := State.settleBusy_unbound unbound (by rw [hpart]; exact hh)
  refine ⟨_, graphUnbind_settles hw h31 hf hp, clear, fun g hg => ?_⟩
  rcases hgraph with kept | gone
  · rw [kept, hpart] at hg
    obtain ⟨_, _, rfl⟩ := Option.map_eq_some_iff.1 hg
    rfl
  · rw [gone] at hg
    cases hg

theorem graphUnbind_due (h31 : bitAt (s.reg (pidx (s.request.k % 16) 9)) 31 = true) (hf : s.bufail 41 = false)
    (hp : (s.part (s.request.k % 16)).pendingBind = none) {g : Graph} (hg : (s.part (s.request.k % 16)).graph = some g)
    (hd : ∃ x ∈ g.edges, x.wbDue = true ∨ x.retDue = true) :
    ∃ S, exec .graphUnbind s = .next S ∧ bitAt (S.reg (pidx (s.request.k % 16) 9)) 30 = true ∧
      (S.part (s.request.k % 16)).graph = some { g with dispatching := false } := by
  obtain ⟨unbound, hpart⟩ := s.unbind_gives (s.request.k % 16)
  have hgraph : ((s.unbind (s.request.k % 16)).part (s.request.k % 16)).graph = some { g with dispatching := false } := by
    rw [hpart, hg]; rfl
  obtain ⟨busy, kept⟩ := State.settleBusy_due unbound hgraph hd
  exact ⟨_, graphUnbind_settles hw h31 hf hp, busy, by rw [kept]; exact hgraph⟩

theorem pctlEnWrite_gives (hheld : s.heldWrites = []) (h0 : s.pstate (s.request.k % 16) = 0) (hv : bitAt s.request.value 31 = true) :
    ∃ S, exec .pctlEnWrite s = .next S ∧ fieldOf (S.reg (pidx (s.request.k % 16) 0)) 27 3 = 1 ∧
      bitAt (S.reg (pidx (s.request.k % 16) 0)) 31 = true ∧
      bitAt (S.reg (pidx (s.request.k % 16) 0)) 30 = bitAt s.request.value 30 := by
  obtain ⟨S, done, started⟩ := State.writePctl_starts hheld h0 hv
  exact ⟨S, regEvent_part hw (Nat.mod_lt _ (by decide)) (by decide) done, started⟩

theorem preempt_event (hheld : s.heldWrites = []) : ∃ S, exec .preempt s = .next S ∧
    (s.pstate (s.request.k % 16) = 1 → s.reserved + s.contextBytes (s.request.k % 16) ≤ s.contextSpace →
      S.pstate (s.request.k % 16) = 2 ∧ fieldOf (S.reg (pidx (s.request.k % 16) 0)) 24 3 = 0) ∧
    (s.pstate (s.request.k % 16) = 1 → s.contextSpace < s.reserved + s.contextBytes (s.request.k % 16) →
      S.pstate (s.request.k % 16) = 1 ∧ fieldOf (S.reg (pidx (s.request.k % 16) 0)) 24 3 = 1) ∧
    (s.pstate (s.request.k % 16) ≠ 1 → s.pstate (s.request.k % 16) ≠ 0 → s.pstate (s.request.k % 16) ≠ 6 →
      S.pstate (s.request.k % 16) = s.pstate (s.request.k % 16) ∧ fieldOf (S.reg (pidx (s.request.k % 16) 0)) 24 3 = 2) := by
  have hk : s.request.k % 16 < 16 := Nat.mod_lt _ (by decide)
  by_cases hcmd : s.pstate (s.request.k % 16) ≠ 0 ∧ s.pstate (s.request.k % 16) ≠ 6
  · obtain ⟨regs, same, event⟩ := State.pctl_gives hk hw hheld (show 1 < 16 by decide) hcmd.1 hcmd.2
    have pstate : State.pstate { s with regs := regs } (s.request.k % 16) = s.pstate (s.request.k % 16) := congrArg (fieldOf · 27 3) (same _)
    have space : State.contextSpace { s with regs := regs } = s.contextSpace :=
      congrArg (fun w => shadowBytes + if bitAt w 0 then 2 ^ 26 else 0) (same 0x00E)
    obtain ⟨stops, full, errs⟩ := State.preempt_reg { s with regs := regs } (s.request.k % 16)
    rw [pstate, space] at stops full
    rw [pstate] at errs
    exact ⟨_, event, stops, full, fun h1 _ _ => errs h1⟩
  · exact ⟨_, regEvent_answers s _ _, fun h1 => absurd ⟨by omega, by omega⟩ hcmd, fun h1 => absurd ⟨by omega, by omega⟩ hcmd,
      fun _ h0 h6 => absurd ⟨h0, h6⟩ hcmd⟩

theorem resume_event (hheld : s.heldWrites = []) : ∃ S, exec .resume s = .next S ∧
    (s.pstate (s.request.k % 16) = 4 →
      (S.part (s.request.k % 16)).resuming = true ∧ fieldOf (S.reg (pidx (s.request.k % 16) 0)) 24 3 = 0) ∧
    (s.pstate (s.request.k % 16) ≠ 4 → s.pstate (s.request.k % 16) ≠ 0 → s.pstate (s.request.k % 16) ≠ 6 →
      fieldOf (S.reg (pidx (s.request.k % 16) 0)) 24 3 = 2) := by
  have hk : s.request.k % 16 < 16 := Nat.mod_lt _ (by decide)
  by_cases hcmd : s.pstate (s.request.k % 16) ≠ 0 ∧ s.pstate (s.request.k % 16) ≠ 6
  · obtain ⟨regs, same, event⟩ := State.pctl_gives hk hw hheld (show 2 < 16 by decide) hcmd.1 hcmd.2
    have pstate : State.pstate { s with regs := regs } (s.request.k % 16) = s.pstate (s.request.k % 16) := congrArg (fieldOf · 27 3) (same _)
    obtain ⟨resumes, errs⟩ := State.resume_gives { s with regs := regs } (s.request.k % 16)
    rw [pstate] at resumes errs
    exact ⟨_, event, resumes, fun h4 _ _ => errs h4⟩
  · exact ⟨_, regEvent_answers s _ _, fun h4 => absurd ⟨by omega, by omega⟩ hcmd, fun _ h0 h6 => absurd ⟨h0, h6⟩ hcmd⟩

theorem reset_event (hheld : s.heldWrites = []) : ∃ S, exec .reset s = .next S ∧
    (s.pstate (s.request.k % 16) = 1 ∨ s.pstate (s.request.k % 16) = 4 →
      S.pstate (s.request.k % 16) = 6 ∧ S.Emptied (s.request.k % 16)) := by
  have hk : s.request.k % 16 < 16 := Nat.mod_lt _ (by decide)
  by_cases h : s.pstate (s.request.k % 16) = 1 ∨ s.pstate (s.request.k % 16) = 4
  · obtain ⟨regs, same, event⟩ := State.pctl_gives hk hw hheld (show 3 < 16 by decide) (by omega) (by omega)
    have pstate : State.pstate { s with regs := regs } (s.request.k % 16) = s.pstate (s.request.k % 16) := congrArg (fieldOf · 27 3) (same _)
    rw [← pstate] at h
    exact ⟨_, event, fun _ => State.resetPart_gives h⟩
  · exact ⟨_, regEvent_answers s _ _, fun h' => absurd h' h⟩

theorem tlbInvalidate_event (hb : bitAt (s.reg (pidx (s.request.k % 16) 11)) 63 = false) :
    exec .tlbInvalidate s = .next (s.tlbInvalidate (s.request.k % 16) s.request.value) :=
  regEvent_part hw (Nat.mod_lt _ (by decide)) (by decide) (if_neg (ne_true_of_eq_false hb))

theorem tlbInvalidate_held (hb : bitAt (s.reg (pidx (s.request.k % 16) 11)) 63 = true) :
    exec .tlbInvalidate s = .next (s.setPart (s.request.k % 16)
      { s.part (s.request.k % 16) with heldTlb := (s.part (s.request.k % 16)).heldTlb ++ [s.request.value] }) := by
  refine regEvent_held ?_
  rw [hw]
  exact (s.writeReg_pidx .secure (k := s.request.k % 16) (j := 11) _ (Nat.mod_lt _ (by decide)) (by decide)).trans (if_pos hb)

theorem faultResolve_event : exec .faultResolve s = .next (s.resolveFault (s.request.k % 16) s.request.value) :=
  regEvent_part hw (Nat.mod_lt _ (by decide)) (by decide) rfl

end Part

/-- A resolution is recorded while the partition is SAVING or SAVED, and else it ends the block's waits. -/
theorem State.resolveFault_gives {s : State} {k : Nat} {v : DWord} (h : s.waitsOn k (fieldOf v 16 40) = true) :
    (s.pstate k = 3 ∨ s.pstate k = 4 → (fieldOf v 16 40, bitAt v 63) ∈ ((s.resolveFault k v).part k).recorded) ∧
    (s.pstate k ≠ 3 → s.pstate k ≠ 4 → ∀ f ∈ ((s.resolveFault k v).part k).faults, f.block ≠ fieldOf v 16 40) := by
  have waits : ¬ (!s.waitsOn k (fieldOf v 16 40)) = true := by rw [h]; decide
  refine ⟨fun hst => ?_, fun h3 h4 => ?_⟩
  · rw [State.resolveFault, if_neg waits, if_pos hst, State.setPart_part, if_pos rfl]
    exact List.mem_append_right _ (List.mem_singleton.2 rfl)
  · rw [State.resolveFault, if_neg waits, if_neg (by omega)]
    exact s.resolveNow_faults k _ _

/-- Settles O52: each event is the write of its register by the request's writer, and what the register's entry answers
gives the fields. -/
theorem registerWriteEvents : Obligations.RegisterWriteEvents := by
  intro s q k v gives st gctl
  refine ⟨?_, intenWrite_gives s, regEvent_done (s.writeReg_pending _ _), fun hw => ⟨mscFlush_gives hw, mscResize_gives hw,
    ringEnable_gives hw, shared_gives hw, ownerWrite_held hw, keyEvict_gives hw, graphBind_gives hw, graphUnbind_gives hw,
    fun h31 hf hp g hg hd => graphUnbind_due hw h31 hf hp hg hd,
    fun hheld => ⟨pctlEnWrite_gives hw hheld, preempt_event hw hheld, resume_event hw hheld, ?_⟩, ?_, tlbInvalidate_held hw, ?_, ?_⟩⟩
  · intro p hp
    refine Eq.trans ?_ (regEvent_answers s p.2.1 p.2.2)
    fin_cases hp <;> rfl
  · obtain ⟨S, event, resets⟩ := reset_event hw hheld
    refine ⟨S, event, fun h => ?_⟩
    obtain ⟨resetting, hteams, hinsts, hpart⟩ := resets h
    exact ⟨resetting, hteams, hinsts, hpart⟩
  · intro hb
    obtain ⟨busy, htlb, hwalks⟩ := s.tlbInvalidate_gives k v
    exact ⟨_, tlbInvalidate_event hw hb, busy, htlb, hwalks, rfl⟩
  · intro h
    refine (faultResolve_event hw).trans (congrArg Host.Outcome.next (if_pos ?_))
    rw [h]
    rfl
  · intro h
    obtain ⟨recorded, resolved⟩ := State.resolveFault_gives h
    exact ⟨fun hst => ⟨_, faultResolve_event hw, recorded hst⟩, fun h3 h4 => ⟨_, faultResolve_event hw, resolved h3 h4⟩⟩

end Sys2Proof.Machine
end

section
/-! SUPPORT. The bytes and the poison of HBM under the operations on memory: what only moves lines, marks poison or writes
the log leaves them alone, and what a store, a rekeying under its own key and a posted store come to. -/

namespace Sys2Proof.Machine

/-! ### What the log leaves of memory -/

/-- The place of a pool address in the memory-side cache is a matter of the registers below INTPEND. -/
theorem State.mscPlace_congr {s S : State} (h : ∀ i, i ≠ 0x0E9 → S.reg i = s.reg i) (pa : Nat) : S.mscPlace pa = s.mscPlace pa := by
  have window : ∀ port, port < 4 → S.window port = s.window port := fun port hp => by
    unfold State.window State.rfield
    rw [h (0x004 + port) (by omega)]
  have inWindow : ∀ port, port < 4 → S.inWindow port pa = s.inWindow port pa := fun port hp => by
    unfold State.inWindow
    rw [window port hp]
  have offset : S.poolOffset pa = s.poolOffset pa := by
    unfold State.poolOffset State.poolPort
    rw [inWindow 1 (by decide), inWindow 2 (by decide), inWindow 3 (by decide), window 1 (by decide), window 2 (by decide),
      window 3 (by decide)]
  unfold State.mscPlace State.rfield
  rw [offset, h 0x004 (by decide)]

namespace State.LogsTo
variable {s S : State} (h : s.LogsTo S)
include h

theorem poison : S.poison = s.poison := by obtain ⟨_, _, _, _, _, _, _, rfl, _⟩ := h; rfl

theorem seals : S.seals = s.seals := by obtain ⟨_, _, _, _, _, _, _, rfl, _⟩ := h; rfl

theorem parts : S.parts = s.parts := by obtain ⟨_, _, _, _, _, _, _, rfl, _⟩ := h; rfl

theorem l1 : S.l1 = s.l1 := by obtain ⟨_, _, _, _, _, _, _, rfl, _⟩ := h; rfl

theorem hostReply : S.hostReply = s.hostReply := by obtain ⟨_, _, _, _, _, _, _, rfl, _⟩ := h; rfl

theorem poolL2 : S.poolL2 = s.poolL2 := by obtain ⟨_, _, _, _, _, _, _, rfl, _⟩ := h; rfl

theorem msc : S.msc = s.msc := by obtain ⟨_, _, _, _, _, _, _, rfl, _⟩ := h; rfl

theorem pool : S.pool = s.pool := by obtain ⟨_, _, _, _, _, _, _, rfl, _⟩ := h; rfl

theorem homeByte (a : Nat) : S.homeByte a = s.homeByte a := by
  have line : S.mscLine a = s.mscLine a := by
    unfold State.mscLine State.rfield
    rw [State.mscPlace_congr (fun i => h.reg) a, h.reg (i := 0x004) (by decide), h.msc]
  unfold State.homeByte State.behindL2 State.poolL2Line
  rw [line, h.poolL2, h.mem, h.pool]

end State.LogsTo

/-- Bytes that read alike one by one read alike together. -/
theorem State.homeBytes_congr {s S : State} (n pa : Nat) (h : ∀ a, pa ≤ a → a < pa + n → S.homeByte a = s.homeByte a) :
    S.homeBytes pa n = s.homeBytes pa n := by
  induction n generalizing pa with
  | zero => rfl
  | succ n ih => exact congrArg₂ List.cons (h pa (Nat.le_refl _) (by omega)) (ih _ fun a ha hn => h a (by omega) (by omega))

/-! ### Lines that move leave HBM alone -/

@[simp] theorem State.mscWriteBack_mem (s : State) (l : PoolLine) (base : Nat) : (s.mscWriteBack l base).mem = s.mem := by
  unfold State.mscWriteBack
  dsimp only
  split
  · rfl
  · refine foldl_keeps (fun b => b.mem = s.mem) _ (fun b u hb => ?_) _ s rfl
    exact hb

@[simp] theorem State.mscFill_mem (s : State) (pa key : Nat) : (s.mscFill pa key).mem = s.mem := by
  unfold State.mscFill
  dsimp only
  split_ifs
  · rfl
  · rfl
  · split
    · exact State.mscWriteBack_mem _ _ _
    · rfl

@[simp] theorem State.cleanPoolLine_mem (s : State) (l : PoolLine) : (s.cleanPoolLine l).mem = s.mem := by
  unfold State.cleanPoolLine
  dsimp only
  split
  · rfl
  · split
    · exact State.mscFill_mem _ _ _
    · exact (State.mscWriteBack_mem _ _ _).trans (State.mscFill_mem _ _ _)

@[simp] theorem State.evictPoolLine_mem (s : State) (l : PoolLine) : (s.evictPoolLine l).mem = s.mem := by
  have cleaned : (if l.dirty.isEmpty then s else s.cleanPoolLine l).mem = s.mem := by split <;> simp
  unfold State.evictPoolLine
  generalize (if l.dirty.isEmpty then s else s.cleanPoolLine l) = s1 at cleaned
  dsimp only
  split_ifs
  · rfl
  · exact cleaned
  · exact cleaned

/-- The write-back of a line writes at most host memory. -/
theorem State.writeBackLine_hbm (s : State) (line : Nat) {a : Nat} (ha : a < 2 ^ 40) :
    sget 0 (s.writeBackLine line).mem a = sget 0 s.mem a := by
  unfold State.writeBackLine
  split
  · rfl
  · dsimp only
    split_ifs
    · rfl
    · rfl
    · exact sget_ssetList_out _ _ _ _ _ (.inl (by omega))
    · rfl

theorem State.l2Room_hbm (s : State) (line : Nat) {a : Nat} (ha : a < 2 ^ 40) : sget 0 (s.l2Room line).mem a = sget 0 s.mem a := by
  unfold State.l2Room
  split
  · split
    · split
      · rw [State.evictPoolLine_mem]
      · exact State.writeBackLine_hbm _ _ ha
    · rfl
  · rfl

theorem State.poolFill_hbm (s : State) (pa key : Nat) {a : Nat} (ha : a < 2 ^ 40) :
    sget 0 (s.poolFill pa key).mem a = sget 0 s.mem a := by
  unfold State.poolFill
  dsimp only
  split_ifs
  · rfl
  · exact State.l2Room_hbm _ _ ha
  · exact (congrArg (sget 0 · a) (State.mscFill_mem _ _ _)).trans (State.l2Room_hbm _ _ ha)

/-- A poison bit anywhere changes no byte of HBM. -/
theorem State.setPoison_hbm (s : State) (sec : Nat) (p : Bool) {a : Nat} (ha : a < 2 ^ 40) :
    (s.setPoison sec p).homeByte a = s.homeByte a := by
  rw [State.homeByte_mem _ (.inl ha), State.homeByte_mem _ (.inl ha)]
  unfold State.setPoison
  split
  · exact State.poolFill_hbm _ _ _ ha
  · exact congrArg (sget 0 · a) (dirtyLine_memory s _).1

/-- Steps that each leave the bytes of HBM alone leave them alone together. -/
theorem foldl_hbm {α : Type} {f : State → α → State} {a : Nat} (h : ∀ s x, (f s x).homeByte a = s.homeByte a) (l : List α) (s : State) :
    (l.foldl f s).homeByte a = s.homeByte a :=
  foldl_keeps (fun b => b.homeByte a = s.homeByte a) f (fun b x hb => (h b x).trans hb) l s rfl

/-- A range of HBM touches no pool line. -/
theorem touch_hbm (s : State) {pa n : Nat} (key : Nat) (h : pa + n ≤ 2 ^ 40) : s.touch pa n key = s :=
  if_neg (by omega)

/-! ### Poison of HBM -/

theorem State.homePoison_hbm (s : State) {sec : Nat} (h : sec < 2 ^ 35) : s.homePoison sec = sget false s.poison sec := by
  unfold State.homePoison
  rw [if_neg (by omega), if_neg (by omega)]

theorem State.dirtyLine_poison (s : State) {line : Nat} (h : line * 128 < 2 ^ 55) : (s.dirtyLine line).poison = s.poison := by
  unfold State.dirtyLine
  split
  · rfl
  · refine (apply_ite State.poison _ _ _).trans ?_
    exact ite_self _

theorem State.homePoison_setPoison (s : State) {sec n : Nat} (p : Bool) (hsec : sec < 2 ^ 35) (hn : n < 2 ^ 35) :
    (s.setPoison sec p).homePoison n = if n = sec then p else s.homePoison n := by
  rw [State.homePoison_hbm _ hn, State.homePoison_hbm _ hn]
  unfold State.setPoison
  rw [if_neg (by omega)]
  refine (sget_sset _ _ _ _ _).trans ?_
  rw [s.dirtyLine_poison (by omega)]

/-- Sectors of HBM that are poisoned one after another are all poisoned. -/
theorem State.homePoison_setPoisons (l : List Nat) (s : State) (hl : ∀ m ∈ l, m < 2 ^ 35) {n : Nat} (hn : n < 2 ^ 35) :
    (l.foldl (fun s m => s.setPoison m true) s).homePoison n = (decide (n ∈ l) || s.homePoison n) := by
  induction l generalizing s with
  | nil => simp
  | cons m l ih =>
    rw [List.foldl_cons, ih _ fun x hx => hl x (List.mem_cons_of_mem _ hx), s.homePoison_setPoison true (hl m List.mem_cons_self) hn]
    by_cases hm : n = m <;> simp [hm]

theorem mem_numsFrom {lo hi n : Nat} : n ∈ numsFrom lo hi ↔ lo ≤ n ∧ n < hi := by
  simp only [numsFrom, List.mem_map, List.mem_range]
  exact ⟨fun ⟨i, hi, h⟩ => by omega, fun h => ⟨n - lo, by omega, by omega⟩⟩

theorem State.homePoisoned_congr {s S : State} {pa n : Nat} (hp : S.poison = s.poison) (h : pa + n ≤ 2 ^ 40) :
    S.homePoisoned pa n = s.homePoisoned pa n := by
  unfold State.homePoisoned
  rw [Bool.eq_iff_iff, List.any_eq_true, List.any_eq_true]
  refine exists_congr fun sec => and_congr_right fun hsec => ?_
  unfold sectorsOf at hsec
  split at hsec
  · cases hsec
  · have low : sec < 2 ^ 35 := by have := mem_numsFrom.1 hsec; omega
    rw [State.homePoison_hbm _ low, State.homePoison_hbm _ low, hp]

/-! ### Keys -/

/-- What the key of a slot encrypted, or no key has, is only sealed by an access under that key (R56, R63). -/
theorem State.rekeySectors_keyed (s : State) (key : Nat) (write : Bool) (l : List Nat) (seals : Sparse (Option (BitVec 512)))
    (h : ∀ sec ∈ l, ∀ old, sget none seals sec = some old → old = (sget {} s.keys key).pair) :
    ∃ seals', l.foldl (fun s x => s.rekeySector key write x) { s with seals := seals } = { s with seals := seals' } := by
  induction l generalizing seals with
  | nil => exact ⟨seals, rfl⟩
  | cons sec l ih =>
    have tail : ∀ m ∈ l, ∀ old, sget none seals m = some old → old = (sget {} s.keys key).pair :=
      fun m hm => h m (List.mem_cons_of_mem _ hm)
    have sealed : ∀ m ∈ l, ∀ old, sget none (sset none seals sec (some (sget {} s.keys key).pair)) m = some old →
        old = (sget {} s.keys key).pair := fun m hm old hold => by
      rw [sget_sset] at hold
      split at hold
      · exact (Option.some.inj hold).symm
      · exact tail m hm old hold
    have step : State.rekeySector { s with seals := seals } key write sec = { s with seals := seals } ∨
        State.rekeySector { s with seals := seals } key write sec =
          { s with seals := sset none seals sec (some (sget {} s.keys key).pair) } := by
      unfold State.rekeySector
      dsimp only
      split
      · cases write
        · exact .inl rfl
        · exact .inr rfl
      · next old hold => exact .inl (if_pos (h sec List.mem_cons_self old hold))
    rw [List.foldl_cons]
    rcases step with step | step
    · rw [step]; exact ih seals tail
    · rw [step]; exact ih _ sealed

theorem State.rekey_keyed {s : State} {key pa n : Nat} (write : Bool) (hk : s.keyed key pa n) (h : pa + n ≤ 2 ^ 40) :
    ∃ seals, s.rekey key write pa n = { s with seals := seals } := by
  unfold State.rekey
  split
  · next hl => exact s.rekeySectors_keyed key write _ s.seals (hk hl.1 hl.2)
  · exact ⟨s.seals, touch_hbm s key h⟩

/-! ### Stores -/

theorem lastStore_one (pa : Nat) (bs : List Byte) (a : Nat) (b : Byte) :
    (lastStore [(pa, bs)] a).getD b = if pa ≤ a ∧ a < pa + bs.length then bs.getD (a - pa) 0 else b := by
  unfold lastStore
  rw [List.reverse_singleton]
  by_cases h : pa ≤ a ∧ a < pa + bs.length
  · have hin : a - pa < bs.length := by omega
    rw [List.find?_cons_of_pos (by simpa using h), Option.bind_some, if_pos h, List.getElem?_eq_getElem hin, List.getD_eq_getElem _ _ hin]
    rfl
  · rw [List.find?_cons_of_neg (by simpa using h), if_neg h]
    rfl

theorem State.writeHome_stores (s : State) {pa : Nat} {bs : List Byte} (h : pa + bs.length ≤ 2 ^ 40) (a : Nat) :
    (s.writeHome pa bs).homeByte a = (lastStore [(pa, bs)] a).getD (s.homeByte a) := by
  rw [homeByte_writeHome s pa bs (.inl h), lastStore_one]

/-- A posted store that is performed writes its bytes to HBM and no other. -/
theorem State.performOne_stores {s : State} {p : Posted} (left : List Posted) (hk : s.keyed p.key p.pa p.data.length)
    (h : p.pa + p.data.length ≤ 2 ^ 40) {a : Nat} (ha : a < 2 ^ 40) :
    (s.performOne p left).homeByte a = (lastStore [(p.pa, p.data)] a).getD (s.homeByte a) := by
  obtain ⟨seals, hr⟩ := State.rekey_keyed true hk h
  unfold State.performOne
  dsimp only
  rw [hr, foldl_hbm (fun s n => s.setPoison_hbm n true ha), foldl_hbm (fun s n => s.setPoison_hbm n false ha),
    State.writeHome_stores _ h]
  rfl

/-- A posted store that needs none before it is taken alone. -/
theorem takePosted_alone {p : Posted} (l rest : List Posted) (h : ∀ o ∈ l, p.needs o = false) :
    takePosted (fun _ => false) l [p] rest = ([p], l.reverse ++ rest) := by
  induction l generalizing rest with
  | nil => rfl
  | cons o l ih =>
    rw [takePosted, if_neg (by simp [h o List.mem_cons_self]), ih _ fun x hx => h x (List.mem_cons_of_mem _ hx)]
    simp

theorem State.performPosted_alone {s : State} {n : Nat} {p : Posted} (hp : s.posted[n]? = some p)
    (h : ∀ o ∈ s.posted.take n, p.needs o = false) : s.performPosted n =
      State.performOne { s with posted := s.posted.eraseIdx n } p (s.posted.eraseIdx n) := by
  have taken : takePosted (fun _ => false) (s.posted.take n).reverse [p] [] = ([p], s.posted.take n) := by
    rw [takePosted_alone _ _ fun o ho => h o (List.mem_reverse.1 ho), List.reverse_reverse, List.append_nil]
  unfold State.performPosted
  rw [hp]
  dsimp only
  rw [taken, List.eraseIdx_eq_take_drop_succ]
  rfl

end Sys2Proof.Machine
end

section
/-! PROOFS. The host's accesses to HBM, its writes of its own memory, and the ports' configuration (R23 to R34, R149). -/

namespace Sys2Proof.Machine

/-! ### Host accesses to HBM (R22, R24, R25) -/

/-- Decoder 0 maps a host access. -/
def State.mapped (s : State) (h : HostReq) : Prop :=
  let d : Decoder := sget {} s.decoders 0
  d.en = true ∧ d.base ≤ h.hpa ∧ h.hpa + h.len ≤ d.base + d.size

/-- Where decoder 0 maps a host access to. -/
def State.hostPa (s : State) (h : HostReq) : Nat :=
  let d : Decoder := sget {} s.decoders 0
  d.dpa + (h.hpa - d.base)

/-- A host access that a failed function serves: it is counted in the function's entry, and a read completes as failed. -/
def State.hostFail (s : State) (h : HostReq) (fns : List Nat) : State :=
  (fns.filter s.bufail).foldl State.foldBufail (if h.write then s else s.failRead h.len)

/-- A host access that no reset discards. -/
def State.hostServed (s : State) (h : HostReq) (pa : Nat) : State :=
  if s.bufail 24 then s.hostFail h [24]
  else if !s.ready 24 then s
  else if s.hostRefused pa h.len then s.discardHost h pa
  else if s.targetFailed pa then s.hostFail h (s.functionsOf pa)
  else if s.targetHeld pa then s
  else s.hostAccess h pa

/-- No byte at its home changes, and a host read completes as failed. -/
def HostReq.Fails (h : HostReq) (s S : State) : Prop :=
  (∀ a, S.homeByte a = s.homeByte a) ∧ (h.write = false → S.hostReply = some (List.replicate h.len 0, true))

section
variable {s : State} {h : HostReq}

theorem State.decodeHost_mapped (hm : s.mapped h) : s.decodeHost h = some (s.hostPa h) := by
  obtain ⟨hen, hlo, hhi⟩ := hm
  have found : (List.range 2).find? (fun i =>
      let d : Decoder := sget {} s.decoders i
      d.en && decide (d.base ≤ h.hpa) && decide (h.hpa + h.len ≤ d.base + d.size)) = some 0 :=
    List.find?_cons_of_pos (by simp [hen, hlo, hhi])
  unfold State.decodeHost
  rw [found]
  rfl

theorem hostMemAccess_discards (hq : s.request.host = some h) (hm : s.mapped h) {a n : Nat} (hr : s.resetDiscards = some (a, n)) :
    exec .hostMemAccess s =
      .next (if h.write then { s with resetDiscards := some (if n = 0 then s.hostPa h else a, n + 1) } else s.failRead h.len) := by
  show execHostMemAccess s = _
  simp only [execHostMemAccess, hq, s.decodeHost_mapped hm, hr]

theorem hostMemAccess_served (hq : s.request.host = some h) (hm : s.mapped h) (hr : s.resetDiscards = none) :
    exec .hostMemAccess s = .next (s.hostServed h (s.hostPa h)) := by
  show execHostMemAccess s = _
  simp only [execHostMemAccess, hq, s.decodeHost_mapped hm, hr, State.hostServed, State.hostFail]
  split_ifs <;> rfl

theorem HostReq.Fails.of_logsTo {S T : State} (hb : h.Fails s S) (hl : S.LogsTo T) : h.Fails s T :=
  ⟨fun a => (hl.homeByte a).trans (hb.1 a), fun hw => hl.hostReply.trans (hb.2 hw)⟩

/-- What a failed access of the host leaves before its log entry. -/
theorem State.failRead_fails : h.Fails s (if h.write then s else s.failRead h.len) := by
  split
  · next hw => exact ⟨fun _ => rfl, fun hn => absurd (hw.symm.trans hn) (by decide)⟩
  · exact ⟨fun _ => rfl, fun _ => rfl⟩

theorem State.hostFail_fails (fns : List Nat) : h.Fails s (s.hostFail h fns) :=
  State.failRead_fails.of_logsTo (foldl_keeps _ _ (fun b fn hb => hb.trans (b.foldBufail_logsTo fn)) _ _ (.refl _))

theorem State.discardHost_fails (pa : Nat) : h.Fails s (s.discardHost h pa) := by
  have failed : h.Fails s (if h.write then s else s.failRead h.len) := State.failRead_fails
  unfold State.discardHost
  generalize (if h.write then s else s.failRead h.len) = s1 at failed
  dsimp only
  split
  · exact failed
  · have logged := fun e => failed.of_logsTo (s1.addLog_logsTo e)
    exact ⟨(logged _).1, (logged _).2⟩

theorem State.hostRefused_iff (pa n : Nat) : s.hostRefused pa n = true ↔
    s.carve < pa + n ∨ s.regionSec pa = true ∨ s.portSec 0 ≠ s.regionSec pa := by
  simp [State.hostRefused, or_assoc]

/-- A host access that is neither failed, held nor refused reaches HBM. -/
theorem State.hostServed_reaches {pa : Nat} (hb : s.bufail 24 = false) (hr : s.ready 24 = true) (hn : ¬ s.hostRefused pa h.len = true)
    (hpa : pa < 2 ^ 40) (hf : ∀ f ∈ s.functionsOf pa, s.bufail f = false ∧ s.ready f = true) :
    s.hostServed h pa = s.hostAccess h pa := by
  have failed : s.targetFailed pa = false := List.any_eq_false.2 fun f hm => ne_true_of_eq_false (hf f hm).1
  have down : (s.functionsOf pa).any s.down = false := List.any_eq_false.2 fun f hm => by
    rw [State.down, (hf f hm).2, Bool.not_true, Bool.false_and]; decide
  have held : s.targetHeld pa = false := by
    unfold State.targetHeld
    rw [down, decide_eq_false (by omega)]
    rfl
  unfold State.hostServed
  rw [hb, hr, if_neg (by decide), if_neg (by decide), if_neg hn, failed, if_neg (by decide), held, if_neg (by decide)]

/-- A host write stores its bytes, and a poisoned one poisons every 64-byte unit that it touches (R25). -/
theorem State.hostAccess_write {pa : Nat} (hw : h.write = true) (hd : pa + h.data.length ≤ 2 ^ 40) (hlen : pa + h.len ≤ 2 ^ 40) :
    (∀ a < 2 ^ 40, (s.hostAccess h pa).homeByte a = (lastStore [(pa, h.data)] a).getD (s.homeByte a)) ∧
    (h.poison = true → ∀ n, pa / 64 * 2 ≤ n → n ≤ (pa + h.len - 1) / 64 * 2 + 1 → n < 2 ^ 35 →
      (s.hostAccess h pa).homePoison n = true) := by
  unfold State.hostAccess
  dsimp only
  rw [if_pos hw]
  have stored : ∀ a, ((State.writeHome { s with hostEpisode := sset 0 s.hostEpisode h.way 0 } pa h.data).homeByte a) =
    (lastStore [(pa, h.data)] a).getD (s.homeByte a) := fun a => State.writeHome_stores _ hd a
  generalize State.writeHome { s with hostEpisode := sset 0 s.hostEpisode h.way 0 } pa h.data = s1 at stored
  refine ⟨fun a ha => ?_, fun hp n hlo hhi hn => ?_⟩
  · split
    · rw [foldl_hbm fun s n => s.setPoison_hbm n true ha, stored]
    · exact stored a
  · have low : ∀ m ∈ unitSectors pa h.len, m < 2 ^ 35 := fun m hm => by
      have := mem_numsFrom.1 hm
      omega
    have touched : n ∈ unitSectors pa h.len := mem_numsFrom.2 ⟨hlo, by omega⟩
    rw [if_pos hp, State.homePoison_setPoisons _ _ low hn, decide_eq_true touched, Bool.true_or]

theorem State.hostAccess_read {pa : Nat} (hw : h.write = false) : s.hostAccess h pa =
    { s with hostReply := some (s.homeBytes pa h.len, (unitSectors pa h.len).any s.homePoison)
             hostEpisode := sset 0 s.hostEpisode 0 0 } := by
  have bytes : State.homeBytes { s with hostEpisode := sset 0 s.hostEpisode h.way 0 } pa h.len = s.homeBytes pa h.len :=
    State.homeBytes_congr _ _ fun _ _ _ => rfl
  have way : h.way = 0 := if_neg (ne_true_of_eq_false hw)
  unfold State.hostAccess
  dsimp only
  rw [if_neg (ne_true_of_eq_false hw), bytes, way]
  rfl

end

/-! ### The host's writes of its own memory (R25, R33, R149) -/

/-- Whether the L2s hold a dirty copy of a line. -/
def State.holdsDirty (s : State) (line : Nat) : Prop := ∃ l ∈ s.l2Dirty, l.line = line

theorem State.holdsDirty_iff (s : State) (line : Nat) : (s.l2Dirty.any fun l => decide (l.line = line)) = true ↔ s.holdsDirty line := by
  simp [State.holdsDirty]

/-- A line of host memory is written back while port 0 is not down, and no other line turns dirty by it. -/
theorem State.writeBackLine_clean (s : State) {line : Nat} (hd : s.down 24 = false) (hl : 2 ^ 55 ≤ line * 128) {x : Nat}
    (hx : (s.writeBackLine line).holdsDirty x) : s.holdsDirty x ∧ x ≠ line := by
  unfold State.writeBackLine at hx
  split at hx
  · next h =>
    refine ⟨hx, fun hxl => ?_⟩
    obtain ⟨l, hm, hline⟩ := hx
    exact List.find?_eq_none.1 h l hm (by simp [hline, hxl])
  · dsimp only at hx
    rw [if_neg (by omega), if_neg (by rw [hd]; decide)] at hx
    have kept : ∃ l ∈ s.l2Dirty.filter (fun l => decide (l.line ≠ line)), l.line = x := by
      split at hx <;> exact hx
    obtain ⟨l, hm, rfl⟩ := kept
    obtain ⟨hm, hne⟩ := List.mem_filter.1 hm
    exact ⟨⟨l, hm, rfl⟩, of_decide_eq_true hne⟩

theorem State.down_rest {s S : State} (h : S.rest = s.rest) (fn : Nat) : S.down fn = s.down fn := by
  unfold State.down State.ready State.bufail
  rw [State.reg_rest h, State.reg_rest h]

theorem State.writeBackLines_clean (l : List Nat) (s : State) (hd : s.down 24 = false) (hl : ∀ line ∈ l, 2 ^ 55 ≤ line * 128) {x : Nat}
    (hx : (l.foldl State.writeBackLine s).holdsDirty x) : s.holdsDirty x ∧ x ∉ l := by
  induction l generalizing s with
  | nil => exact ⟨hx, List.not_mem_nil⟩
  | cons line l ih =>
    obtain ⟨hx, hnot⟩ := ih (s.writeBackLine line) ((State.down_rest (s.writeBackLine_rest line) 24).trans hd)
      (fun m hm => hl m (List.mem_cons_of_mem _ hm)) hx
    obtain ⟨hx, hne⟩ := s.writeBackLine_clean hd (hl line List.mem_cons_self) hx
    exact ⟨hx, List.not_mem_cons_of_ne_of_not_mem hne hnot⟩

theorem State.hostByte_rest (s : State) (pa : Nat) (b : Byte) : (s.hostByte pa b).rest = s.rest := by
  unfold State.hostByte; split <;> rfl

/-- A byte that the host writes leaves the dirty lines where they are, and without one it reaches memory. -/
theorem State.hostByte_holdsDirty (s : State) (pa : Nat) (b : Byte) (x : Nat) : (s.hostByte pa b).holdsDirty x ↔ s.holdsDirty x := by
  unfold State.hostByte
  split
  · constructor
    · rintro ⟨l, hm, hline⟩
      obtain ⟨l', hm', rfl⟩ := List.mem_map.1 hm
      exact ⟨l', hm', by rw [← hline]; split <;> rfl⟩
    · rintro ⟨l, hm, hline⟩
      exact ⟨_, List.mem_map_of_mem hm, by rw [← hline]; split <;> rfl⟩
  · exact Iff.rfl

theorem State.hostByte_hbm (s : State) {pa : Nat} (b : Byte) (hpa : 2 ^ 55 ≤ pa) {a : Nat} (ha : a < 2 ^ 40) :
    sget 0 (s.hostByte pa b).mem a = sget 0 s.mem a := by
  unfold State.hostByte
  split
  · rfl
  · exact sget_sset_ne _ _ _ _ _ (by omega)

theorem State.hostByte_clean (s : State) {pa : Nat} (b : Byte) (h : ¬ s.holdsDirty (pa / 128)) (a : Nat) :
    sget 0 (s.hostByte pa b).mem a = if a = pa then b else sget 0 s.mem a := by
  unfold State.hostByte
  rw [if_neg fun hd => h ((s.holdsDirty_iff _).1 hd)]
  exact sget_sset _ _ _ _ _

/-- The host writes consecutive bytes of its memory. -/
def State.hostBytes (s : State) (pa : Nat) (bs : List Byte) (n : Nat) : State :=
  (List.range n).foldl (fun s i => s.hostByte (pa + i) (bs.getD i 0)) s

theorem State.hostBytes_succ (s : State) (pa : Nat) (bs : List Byte) (n : Nat) :
    s.hostBytes pa bs (n + 1) = (s.hostBytes pa bs n).hostByte (pa + n) (bs.getD n 0) := by
  unfold State.hostBytes
  rw [List.range_succ, List.foldl_append, List.foldl_cons, List.foldl_nil]

theorem State.hostBytes_rest (s : State) (pa : Nat) (bs : List Byte) (n : Nat) : (s.hostBytes pa bs n).rest = s.rest :=
  foldl_rest _ (fun _ _ => State.hostByte_rest _ _ _) _ _

theorem State.hostBytes_hbm (s : State) {pa : Nat} (bs : List Byte) (n : Nat) (hpa : 2 ^ 55 ≤ pa) {a : Nat} (ha : a < 2 ^ 40) :
    sget 0 (s.hostBytes pa bs n).mem a = sget 0 s.mem a :=
  foldl_keeps (fun b => sget 0 b.mem a = sget 0 s.mem a) _
    (fun b i hb => (b.hostByte_hbm (bs.getD i 0) (by omega) ha).trans hb) _ s rfl

theorem State.hostBytes_holdsDirty (s : State) (pa : Nat) (bs : List Byte) (n x : Nat) :
    (s.hostBytes pa bs n).holdsDirty x ↔ s.holdsDirty x := by
  induction n with
  | zero => exact Iff.rfl
  | succ n ih => rw [State.hostBytes_succ, State.hostByte_holdsDirty, ih]

theorem State.hostBytes_clean (s : State) (pa : Nat) (bs : List Byte) (n : Nat) (h : ∀ i < n, ¬ s.holdsDirty ((pa + i) / 128)) :
    ∀ i < n, sget 0 (s.hostBytes pa bs n).mem (pa + i) = bs.getD i 0 := by
  induction n with
  | zero => exact fun i hi => absurd hi (Nat.not_lt_zero i)
  | succ n ih =>
    intro i hi
    have clean : ¬ (s.hostBytes pa bs n).holdsDirty ((pa + n) / 128) := by
      rw [State.hostBytes_holdsDirty]
      exact h n (Nat.lt_succ_self n)
    rw [State.hostBytes_succ, State.hostByte_clean _ _ clean]
    split
    · next he => rw [show i = n by omega]
    · exact ih (fun j hj => h j (by omega)) i (by omega)

/-- The state in which the F9 has given up the lines that a write of the host meets. -/
def State.givenUp (s : State) (pa n : Nat) : State :=
  (numsFrom (pa / 128) ((pa + n - 1) / 128 + 1)).foldl State.writeBackLine s

theorem State.givenUp_rest (s : State) (pa n : Nat) : (s.givenUp pa n).rest = s.rest :=
  foldl_rest _ (fun _ _ => State.writeBackLine_rest _ _) _ _

/-- The sectors whose poison a write of the host sets or clears (R25). -/
def hostSectors (bad : Bool) (pa n : Nat) : List Nat := if bad then unitSectors pa n else wholeUnits pa n

theorem State.hostWrites_eq (s : State) (hpa : Nat) (bs : List Byte) (bad : Bool) : s.hostWrites hpa bs bad =
    let s2 := ((s.givenUp (2 ^ 55 + hpa) bs.length).hostBytes (2 ^ 55 + hpa) bs bs.length).snoopLines hpa bs.length
    { s2 with poison := (hostSectors bad (2 ^ 55 + hpa) bs.length).foldl (fun m n => sset false m n bad) s2.poison } := rfl

theorem State.hostWrites_hbm (s : State) (hpa : Nat) (bs : List Byte) (bad : Bool) {a : Nat} (ha : a < 2 ^ 40) :
    (s.hostWrites hpa bs bad).homeByte a = s.homeByte a := by
  rw [State.homeByte_mem _ (.inl ha), State.homeByte_mem _ (.inl ha), State.hostWrites_eq]
  exact (State.hostBytes_hbm _ bs bs.length (Nat.le_add_right _ _) ha).trans
    (foldl_keeps (fun b => sget 0 b.mem a = sget 0 s.mem a) _ (fun b _ hb => (b.writeBackLine_hbm _ ha).trans hb) _ s rfl)

/-- While port 0 is not down the host's bytes reach its memory. -/
theorem State.hostWrites_byte (s : State) (hpa : Nat) (bs : List Byte) (bad : Bool) (hd : s.down 24 = false) :
    ∀ i < bs.length, (s.hostWrites hpa bs bad).homeByte (2 ^ 55 + hpa + i) = bs.getD i 0 := by
  intro i hi
  rw [State.homeByte_mem _ (.inr (by omega)), State.hostWrites_eq]
  refine State.hostBytes_clean _ _ bs bs.length (fun j hj hheld => ?_) i hi
  obtain ⟨_, hnot⟩ := State.writeBackLines_clean _ s hd (fun line hm => by have := mem_numsFrom.1 hm; omega) hheld
  exact hnot (mem_numsFrom.2 (by omega))

theorem sget_foldl_sset (l : List Nat) (m : Sparse Bool) (v : Bool) (k : Nat) :
    sget false (l.foldl (fun m n => sset false m n v) m) k = if k ∈ l then v else sget false m k := by
  induction l generalizing m with
  | nil => simp
  | cons n l ih =>
    rw [List.foldl_cons, ih, sget_sset]
    by_cases hk : k = n <;> simp [hk]

theorem State.homePoison_host (s : State) {n : Nat} {v : Bool} (hn : 2 ^ 50 ≤ n) (h0 : sget false s.poison (n / 2 * 2) = v)
    (h1 : sget false s.poison (n / 2 * 2 + 1) = v) : s.homePoison n = v := by
  unfold State.homePoison
  rw [if_neg (by omega), h0, h1, Bool.or_self]
  split
  · rfl
  · rcases Nat.mod_two_eq_zero_or_one n with h | h
    · rw [show n = n / 2 * 2 by omega]; exact h0
    · rw [show n = n / 2 * 2 + 1 by omega]; exact h1

/-- Both sectors of every unit that a write of the host poisons, or clears, are so (R25). -/
theorem State.hostWrites_poison (s : State) (hpa : Nat) (bs : List Byte) (bad : Bool) {n : Nat} (hn : 2 ^ 50 ≤ n)
    (h0 : n / 2 * 2 ∈ hostSectors bad (2 ^ 55 + hpa) bs.length) (h1 : n / 2 * 2 + 1 ∈ hostSectors bad (2 ^ 55 + hpa) bs.length) :
    (s.hostWrites hpa bs bad).homePoison n = bad := by
  rw [State.hostWrites_eq]
  exact State.homePoison_host _ hn ((sget_foldl_sset _ _ _ _).trans (if_pos h0)) ((sget_foldl_sset _ _ _ _).trans (if_pos h1))

theorem sget_map {α β : Type} (d : α) (d' : β) (f : α → β) (hd : f d = d') (m : Sparse α) (k : Nat) :
    sget d' (m.map fun p => (p.1, f p.2)) k = f (sget d m k) := by
  induction m with
  | nil => exact hd.symm
  | cons e m ih =>
    obtain ⟨i, v⟩ := e
    simp only [List.map_cons, sget]
    split
    · rfl
    · exact ih

/-- An edge as a write of the host at some bytes of its memory leaves it (R33). -/
def Edge.snoopedBy (x : Edge) (hpa n : Nat) : Edge :=
  if x.source && overlaps x.fillLine.toNat 64 hpa n then { x with snooped := true } else x

/-- A partition's state as a write of the host at some bytes of its memory leaves it. -/
def Part.snoopedBy (p : Part) (hpa n : Nat) : Part :=
  { p with graph := p.graph.map fun g => { g with edges := g.edges.map (Edge.snoopedBy · hpa n) } }

theorem State.snoopLines_edge (s : State) (hpa n k e : Nat) :
    (s.snoopLines hpa n).edge? k e = (s.edge? k e).map (Edge.snoopedBy · hpa n) := by
  have part : (s.snoopLines hpa n).part k = (s.part k).snoopedBy hpa n :=
    sget_map ({} : Part) ({} : Part) (Part.snoopedBy · hpa n) rfl s.parts k
  unfold State.edge?
  rw [part, Part.snoopedBy]
  cases (s.part k).graph with
  | none => rfl
  | some g => exact List.getElem?_map

theorem State.edge?_rest {s S : State} (h : S.rest = s.rest) (k e : Nat) : S.edge? k e = s.edge? k e := by
  unfold State.edge? State.part
  rw [State.rest_parts h]

theorem State.hostWrites_edge (s : State) (hpa : Nat) (bs : List Byte) (bad : Bool) (k e : Nat) :
    (s.hostWrites hpa bs bad).edge? k e = (s.edge? k e).map (Edge.snoopedBy · hpa bs.length) := by
  have before : (State.hostBytes (s.givenUp (2 ^ 55 + hpa) bs.length) (2 ^ 55 + hpa) bs bs.length).edge? k e = s.edge? k e :=
    State.edge?_rest ((State.hostBytes_rest _ _ _ _).trans (State.givenUp_rest _ _ _)) k e
  rw [← before]
  exact State.snoopLines_edge _ hpa bs.length k e

theorem Edge.snoopedBy_overlaps {x : Edge} {hpa n : Nat} (hs : x.source = true) (hlo : x.fillLine.toNat < hpa + n)
    (hhi : hpa < x.fillLine.toNat + 64) : x.snoopedBy hpa n = { x with snooped := true } :=
  if_pos (by simp [hs, overlaps, hlo, hhi])

theorem State.homeBytes_eq {s : State} (bs : List Byte) (pa : Nat) (h : ∀ i < bs.length, s.homeByte (pa + i) = bs.getD i 0) :
    s.homeBytes pa bs.length = bs := by
  induction bs generalizing pa with
  | nil => rfl
  | cons b bs ih =>
    refine congrArg₂ List.cons (h 0 (Nat.succ_pos _)) (ih (pa + 1) fun i hi => ?_)
    rw [Nat.add_assoc, Nat.add_comm 1 i]
    exact h (i + 1) (Nat.succ_lt_succ hi)

/-- The host takes a line that the F9 may hold: its bytes, its poison and its snoops. -/
theorem cxlCacheSnoop_gives (s : State) : ∃ S, exec .cxlCacheSnoop s = .next S ∧ (∀ a < 2 ^ 40, S.homeByte a = s.homeByte a) ∧
    (s.down 24 = false → ∀ i < s.request.bytes.length,
      S.homeByte (2 ^ 55 + s.request.addr.toNat % 2 ^ 55 + i) = s.request.bytes.getD i 0) ∧
    (s.request.bytes ≠ [] → s.request.ok = true → ∀ n, (2 ^ 55 + s.request.addr.toNat % 2 ^ 55) / 64 ≤ n / 2 →
      n / 2 ≤ (2 ^ 55 + s.request.addr.toNat % 2 ^ 55 + s.request.bytes.length - 1) / 64 → S.homePoison n = true) ∧
    (s.request.bytes ≠ [] → s.request.ok = false → ∀ n, 2 ^ 55 + s.request.addr.toNat % 2 ^ 55 ≤ n / 2 * 64 →
      n / 2 * 64 + 64 ≤ 2 ^ 55 + s.request.addr.toNat % 2 ^ 55 + s.request.bytes.length → S.homePoison n = false) ∧
    ∀ k e x, s.edge? k e = some x → x.source = true →
      x.fillLine.toNat < s.request.addr.toNat % 2 ^ 55 + s.request.bytes.length →
      s.request.addr.toNat % 2 ^ 55 < x.fillLine.toNat + 64 → s.request.bytes ≠ [] → S.edge? k e = some { x with snooped := true } := by
  by_cases hbs : s.request.bytes = []
  · refine ⟨s, congrArg Host.Outcome.next (if_pos (by rw [hbs]; rfl)), fun _ _ => rfl, fun _ i hi => ?_, fun h => absurd hbs h,
      fun h => absurd hbs h, fun _ _ _ _ _ _ _ h => absurd hbs h⟩
    rw [hbs] at hi
    exact absurd hi (Nat.not_lt_zero i)
  · have writes : exec .cxlCacheSnoop s =
        .next (s.hostWrites (s.request.addr.toNat % 2 ^ 55) s.request.bytes s.request.ok) := by
      rw [← fieldOf_zero]
      exact congrArg Host.Outcome.next (if_neg (by simpa using hbs))
    have hlt : s.request.addr.toNat % 2 ^ 55 < 2 ^ 55 := Nat.mod_lt _ (by decide)
    generalize s.request.addr.toNat % 2 ^ 55 = hpa at writes hlt
    generalize s.request.bytes = bs at writes hbs
    have hlen : 0 < bs.length := List.length_pos_of_ne_nil hbs
    refine ⟨_, writes, fun a ha => s.hostWrites_hbm _ _ _ ha, fun hd => s.hostWrites_byte hpa bs _ hd, fun _ hok n hlo hhi => ?_,
      fun _ hok n hlo hhi => ?_, fun k e x hx hs hlo hhi _ => ?_⟩
    · rw [hok]
      refine s.hostWrites_poison hpa bs true (by omega) ?_ ?_
      all_goals exact mem_numsFrom.2 (by omega)
    · rw [hok]
      refine s.hostWrites_poison hpa bs false (by omega) ?_ ?_
      all_goals exact mem_numsFrom.2 (by omega)
    · rw [s.hostWrites_edge, hx]
      exact congrArg some (Edge.snoopedBy_overlaps hs hlo hhi)

/-! ### The configuration of the ports (R23, R24, R26) -/

section Config
variable {s : State}

theorem configDecoder_gives {i base size dpa : Nat} {en : Bool} (hq : s.request.config = some (.decoder i base size dpa en)) (hi : i < 2) :
    ∃ S, exec .configurationSpaceWrite s = .next S ∧
      sget {} S.decoders i = { base := base, size := size, dpa := dpa, en := en } ∧ S.mem = s.mem := by
  have writes : exec .configurationSpaceWrite s =
      .next { s with decoders := sset {} s.decoders i { base := base, size := size, dpa := dpa, en := en } } := by
    show execConfigurationSpaceWrite s = _
    simp only [execConfigurationSpaceWrite, hq, if_pos hi]
  exact ⟨_, writes, sget_sset_same _ _ _ _, rfl⟩

theorem configOption_gives {port i : Nat} {en : Bool} (hq : s.request.config = some (.option port i en)) :
    ∃ S, exec .configurationSpaceWrite s = .next S ∧ ((port, i) ∈ S.options ↔ en = true ∧ i ∈ portOptions port) ∧
      ∀ j, j ≠ (port, i) → (j ∈ S.options ↔ j ∈ s.options) := by
  have writes : exec .configurationSpaceWrite s = .next { s with
      options := if en && (portOptions port).contains i then s.options.filter (fun j => decide (j ≠ (port, i))) ++ [(port, i)]
        else s.options.filter fun j => decide (j ≠ (port, i)) } := by
    show execConfigurationSpaceWrite s = _
    simp only [execConfigurationSpaceWrite, hq]
  refine ⟨_, writes, ?_, fun j hj => ?_⟩
  · by_cases h : en = true ∧ i ∈ portOptions port <;> simp [h]
  · dsimp only
    split <;> simp [hj]

theorem vectorBit (v u : Nat) (hv : v < 16) : (BitVec.ofNat 16 (2 ^ v)).getLsbD u = decide (u = v) := by
  rw [BitVec.getLsbD_ofNat, Nat.testBit_two_pow]
  by_cases h : u = v
  · simp [h, hv]
  · simp [h, Ne.symm h]

theorem vectorBit_clear (w : BitVec 16) {v : Nat} (hv : v < 16) : w &&& BitVec.ofNat 16 (2 ^ v) = 0 ↔ w.getLsbD v = false := by
  constructor
  · intro h
    have bit : (w &&& BitVec.ofNat 16 (2 ^ v)).getLsbD v = (0 : BitVec 16).getLsbD v := congrArg (·.getLsbD v) h
    rw [BitVec.getLsbD_and, vectorBit v v hv] at bit
    simpa using bit
  · intro h
    refine BitVec.eq_of_getLsbD_eq fun u _ => ?_
    rw [BitVec.getLsbD_and, vectorBit v u hv]
    by_cases hu : u = v
    · rw [hu, h]; simp
    · simp [hu]

theorem configMask_gives {v : Nat} {m : Bool} (hq : s.request.config = some (.vectorMask v m)) (hv : v < 16) :
    ∃ S, exec .configurationSpaceWrite s = .next S ∧ S.masks.getLsbD v = m ∧
      (∀ u, u ≠ v → S.masks.getLsbD u = s.masks.getLsbD u) ∧
      (m = false → S.pba.getLsbD v = false ∧ S.messages = if s.pba.getLsbD v then s.messages ++ [v] else s.messages) := by
  cases m with
  | true =>
    have writes : exec .configurationSpaceWrite s = .next { s with masks := s.masks ||| BitVec.ofNat 16 (2 ^ v) } := by
      show execConfigurationSpaceWrite s = _
      simp only [execConfigurationSpaceWrite, hq, if_true]
    refine ⟨_, writes, ?_, fun u hu => ?_, fun h => absurd h (by decide)⟩
    · rw [BitVec.getLsbD_or, vectorBit v v hv]; simp
    · rw [BitVec.getLsbD_or, vectorBit v u hv]; simp [hu]
  | false =>
    have writes : exec .configurationSpaceWrite s = .next
        { s with masks := s.masks &&& ~~~BitVec.ofNat 16 (2 ^ v), pba := s.pba &&& ~~~BitVec.ofNat 16 (2 ^ v)
                 messages := if s.pba.getLsbD v then s.messages ++ [v] else s.messages } := by
      show execConfigurationSpaceWrite s = _
      simp only [execConfigurationSpaceWrite, hq, Bool.false_eq_true, if_false, vectorBit_clear s.pba hv]
      cases s.pba.getLsbD v <;> rfl
    refine ⟨_, writes, ?_, fun u hu => ?_, fun _ => ⟨?_, rfl⟩⟩
    · rw [BitVec.getLsbD_and, BitVec.getLsbD_not, vectorBit v v hv]; simp
    · rw [BitVec.getLsbD_and, BitVec.getLsbD_not, vectorBit v u hv]
      by_cases h16 : u < 16
      · simp [hu, h16]
      · simp [BitVec.getLsbD_of_ge s.masks u (by omega)]
    · rw [BitVec.getLsbD_and, BitVec.getLsbD_not, vectorBit v v hv]; simp

theorem configOther_gives {off : Nat} {v : Word} (hq : s.request.config = some (.other off v)) :
    ∃ S, exec .configurationSpaceWrite s = .next S ∧ sget 0 S.config off = v := by
  have writes : exec .configurationSpaceWrite s = .next { s with config := sset 0 s.config off v } := by
    show execConfigurationSpaceWrite s = _
    simp only [execConfigurationSpaceWrite, hq]
  exact ⟨_, writes, sget_sset_same _ _ _ _⟩

end Config

/-! ### The memory-side cache (R27 to R31) -/

theorem mscFlushComplete_gives {s : State} (hb : bitAt (s.reg 0x004) 30 = true) (hc : s.canFlush = true) :
    ∃ S, exec .mscFlushComplete s = .next S ∧ S.poolL2 = [] ∧ S.msc = [] ∧ bitAt (S.reg 0x004) 30 = false ∧
      fieldOf (S.reg 0x004) 0 6 = s.mscSize % 64 := by
  refine ⟨_, congrArg Host.Outcome.next (if_pos (by rw [hb, hc]; rfl)), rfl, rfl, ?_, ?_⟩
  · rw [State.setRfield_reg_same, bitAt_setField _ _ _ _ _ (by decide)]
    rfl
  · rw [State.setRfield_reg_same, fieldOf_setField_disjoint _ _ (by decide) (.inl (by decide)), State.setRfield_reg_same,
      fieldOf_setField_same _ _ (by decide)]
    rfl

theorem mscFlushComplete_waits {s : State} (h : ¬ (bitAt (s.reg 0x004) 30 = true ∧ s.canFlush = true)) :
    exec .mscFlushComplete s = .next s :=
  congrArg Host.Outcome.next (if_neg (by simpa using h))

/-- A miss brings the line into the memory-side cache (R29). -/
theorem State.mscFill_line {s : State} {pa : Nat} (key : Nat) (hb : s.mscBlocked pa = false) (hp : (s.mscPlace pa).2 ≤ 0x3FFE)
    (hsize : s.rfield 0x004 0 6 ≠ 0) : ((s.mscFill pa key).mscLine pa).isSome = true := by
  have fits : ¬ (0x3FFE < (s.mscPlace pa).2 ∨ s.rfield 0x004 0 6 = 0) := by omega
  have free : ¬ (0x3FFE < (s.mscPlace pa).2 ∨ s.rfield 0x004 0 6 = 0 ∨ s.mscBlocked pa = true) := by
    rw [hb]; simp; omega
  have rest := s.mscFill_rest pa key
  have place : (s.mscFill pa key).mscPlace pa = s.mscPlace pa := State.mscPlace_congr (fun i _ => State.reg_rest rest i) pa
  have size : (s.mscFill pa key).rfield 0x004 0 6 = s.rfield 0x004 0 6 := congrArg (fieldOf · 0 6) (State.reg_rest rest _)
  by_cases hl : (s.mscLine pa).isSome = true
  · have same : s.mscFill pa key = s := by
      unfold State.mscFill
      dsimp only
      rw [if_neg free, if_pos hl]
    rw [same]
    exact hl
  · have line : ∃ l ∈ (s.mscFill pa key).msc, l.line = (s.mscPlace pa).1 ∧ l.tag = (s.mscPlace pa).2 := by
      unfold State.mscFill
      dsimp only
      rw [if_neg free, if_neg hl]
      exact ⟨_, List.mem_append_right _ (List.mem_singleton.2 rfl), rfl, rfl⟩
    obtain ⟨l, hm, hline, htag⟩ := line
    unfold State.mscLine
    dsimp only
    rw [place, size, if_neg fits, List.find?_isSome]
    exact ⟨l, hm, by simp [hline, htag]⟩

theorem mscMissFill_gives {s : State} (hport : (s.poolPort (fieldOf s.request.addr 0 56)).isSome = true)
    (hheld : s.targetHeld (fieldOf s.request.addr 0 56) = false) (hfailed : s.targetFailed (fieldOf s.request.addr 0 56) = false)
    (hb : s.mscBlocked (fieldOf s.request.addr 0 56) = false) (hp : (s.mscPlace (fieldOf s.request.addr 0 56)).2 ≤ 0x3FFE)
    (hsize : fieldOf (s.reg 0x004) 0 6 ≠ 0) :
    ∃ S, exec .mscMissFill s = .next S ∧ (S.mscLine (fieldOf s.request.addr 0 56)).isSome = true :=
  ⟨_, congrArg Host.Outcome.next (if_pos (by rw [hport, hheld, hfailed]; rfl)), State.mscFill_line 0 hb hp hsize⟩

/-! ### Fill lines (R33, R34) -/

section FillLine
variable {s : State} {k e : Nat} {x : Edge}

theorem fillLineSnoop_gives (hx : s.edge? (s.request.k % 16) s.request.e = some x) (hs : x.source = true) :
    ∃ S, exec .fillLineSnoop s = .next S ∧ S.edge? (s.request.k % 16) s.request.e = some { x with snooped := true } ∧
      (s.down 24 = false → S.homeBytes (2 ^ 55 + x.fillLine.toNat) 8 = leBytes 8 s.request.value.toNat) := by
  have writes : exec .fillLineSnoop s = .next (s.hostWrites x.fillLine.toNat (bytes64 s.request.value) s.request.ok) := by
    have hx' : s.edge? s.request.part s.request.e = some x := hx
    show execFillLineSnoop s = _
    simp only [execFillLineSnoop, hx', if_pos hs]
  have len : (bytes64 s.request.value).length = 8 := rfl
  refine ⟨_, writes, ?_, fun hd => ?_⟩
  · rw [s.hostWrites_edge, hx]
    exact congrArg some (Edge.snoopedBy_overlaps hs (by omega) (by omega))
  · exact State.homeBytes_eq (bytes64 s.request.value) _ (s.hostWrites_byte _ _ _ hd)

theorem State.setEdge_edge (hx : s.edge? k e = some x) (y : Edge) : (s.setEdge k e y).edge? k e = some y := by
  unfold State.edge? at hx ⊢
  rw [State.setEdge, State.setPart_part, if_pos rfl]
  cases hg : (s.part k).graph with
  | none => rw [hg] at hx; cases hx
  | some g =>
    rw [hg] at hx
    obtain ⟨hlt, _⟩ := List.getElem?_eq_some_iff.1 hx
    exact List.getElem?_set_self hlt

theorem State.edge?_parts {s S : State} (h : S.parts = s.parts) (k e : Nat) : S.edge? k e = s.edge? k e := by
  unfold State.edge? State.part
  rw [h]

/-- A write of the scheduler by its own walk leaves the partitions and the L1s alone. -/
theorem State.schedPut_parts (s : State) (k : Nat) (ver : Option Word) (va : DWord) (bs : List Byte) :
    (s.schedPut k ver va bs).1.parts = s.parts ∧ (s.schedPut k ver va bs).1.l1 = s.l1 := by
  unfold State.schedPut State.enginePut
  split
  · next pa leaf lost _ =>
    obtain ⟨keys, _, noted⟩ := s.noteAccess_logsTo pa (keyOf leaf) k 0xFFFF true
    dsimp only
    split
    · exact ⟨noted.parts, noted.l1⟩
    · have stored : (((s.noteKeyEmpty pa leaf k 0xFFFF).rekey (keyOf leaf) true pa bs.length).writeHome pa bs).rest =
          (s.noteKeyEmpty pa leaf k 0xFFFF).rest := (State.writeHome_rest _ _ _).trans (State.rekey_rest _ _ _ _ _)
      exact ⟨(State.rest_parts stored).trans noted.parts, (State.rest_l1 stored).trans noted.l1⟩
  · exact ⟨rfl, rfl⟩

/-- A write-back of an edge's counters changes of the edge at most what it says of the write-back. -/
theorem State.writeBack_edge (hx : s.edge? k e = some x) : (s.writeBack k e).l1 = s.l1 ∧
    ∃ failed due, (s.writeBack k e).edge? k e = some { x with wbFailed := failed, wbDue := due } := by
  unfold State.writeBack
  rw [hx]
  dsimp only
  obtain ⟨parts, l1⟩ := s.schedPut_parts k none (x.desc + 0x10) x.counters
  split
  · exact ⟨l1, _, _, State.setEdge_edge ((State.edge?_parts parts k e).trans hx) _⟩
  · exact ⟨rfl, _, _, State.setEdge_edge hx { x with wbDue := true }⟩
  · split
    · exact ⟨rfl, _, _, State.setEdge_edge hx { x with wbDue := false }⟩
    · have logged := State.addLog_logsTo (s.setEdge k e { x with wbFailed := true, wbDue := false })
      exact ⟨(logged _).l1, _, _, (State.edge?_parts (logged _).parts k e).trans (State.setEdge_edge hx _)⟩

theorem Edge.refill_fields (x : Edge) (p : DWord) : (x.refill p).produced = p ∧ (x.refill p).snooped = false ∧
    (x.refill p).head = x.head ∧
    (x.refill p).fill = (if x.slotcnt < (p - x.consumed).toNat then 0 else (p - x.consumed).toNat - (x.head - x.consumed).toNat) ∧
    (x.refill p).beyond = decide (x.slotcnt < (p - x.consumed).toNat) := by
  unfold Edge.refill
  dsimp only
  split
  · next h => exact ⟨rfl, rfl, rfl, rfl, (decide_eq_true h).symm⟩
  · next h => exact ⟨rfl, rfl, rfl, rfl, (decide_eq_false h).symm⟩

/-- The state in which an edge has been read again, before its counters are written back. -/
def State.reread (s : State) (k e : Nat) (x : Edge) (p : DWord) : State :=
  let s1 := { s.setEdge k e (x.refill p) with l1 := s.l1.filter fun l => decide (l.part ≠ k) }
  if (x.refill p).beyond && !x.beyond then s1.addLog (platformEntry 0x0401 k x.fillLine (x.refill p).produced) else s1

theorem State.reread_gives (hx : s.edge? k e = some x) (p : DWord) : (s.reread k e x p).edge? k e = some (x.refill p) ∧
    (s.reread k e x p).l1 = s.l1.filter fun l => decide (l.part ≠ k) := by
  have set : State.edge? { s.setEdge k e (x.refill p) with l1 := s.l1.filter fun l => decide (l.part ≠ k) } k e = some (x.refill p) :=
    State.setEdge_edge hx (x.refill p)
  unfold State.reread
  dsimp only
  split
  · have logged := State.addLog_logsTo { s.setEdge k e (x.refill p) with l1 := s.l1.filter fun l => decide (l.part ≠ k) }
    exact ⟨(State.edge?_parts (logged _).parts k e).trans set, (logged _).l1⟩
  · exact ⟨set, rfl⟩

theorem fillLineReread_waits (hx : s.edge? (s.request.k % 16) s.request.e = some x)
    (hp : s.homePoisoned (2 ^ 55 + x.fillLine.toNat) 8 = true) : exec .fillLineReread s = .next s := by
  have hx' : s.edge? s.request.part s.request.e = some x := hx
  show execFillLineReread s = _
  simp only [execFillLineReread, hx', hp, Bool.or_true, if_true]

theorem fillLineReread_gives (hx : s.edge? (s.request.k % 16) s.request.e = some x) (hs : x.source = true) (hsn : x.snooped = true)
    (h24 : s.ready 24 = true) (h41 : s.ready 41 = true) (hp : s.homePoisoned (2 ^ 55 + x.fillLine.toNat) 8 = false) :
    let produced : DWord := BitVec.ofNat 64 (leWord (s.homeBytes (2 ^ 55 + x.fillLine.toNat) 8))
    let fill := (produced - x.consumed).toNat
    let granted := (x.head - x.consumed).toNat
    ∃ S, exec .fillLineReread s = .next S ∧ ∃ y, S.edge? (s.request.k % 16) s.request.e = some y ∧ y.produced = produced ∧
      y.snooped = false ∧ y.head = x.head ∧ y.fill = (if x.slotcnt < fill then 0 else fill - granted) ∧
      y.beyond = decide (x.slotcnt < fill) ∧ ∀ l ∈ S.l1, l.part ≠ s.request.k % 16 := by
  intro produced
  have writes : exec .fillLineReread s =
      .next ((s.reread (s.request.k % 16) s.request.e x produced).writeBack (s.request.k % 16) s.request.e) := by
    have hx' : s.edge? s.request.part s.request.e = some x := hx
    show execFillLineReread s = _
    simp only [execFillLineReread, hx', hs, hsn, h24, h41, hp, Bool.and_self, Bool.not_true, Bool.or_self, Bool.false_eq_true, if_false]
    rfl
  clear_value produced
  intro fill granted
  obtain ⟨edge, l1⟩ := State.reread_gives hx produced
  obtain ⟨kept, _, _, back⟩ := State.writeBack_edge edge
  obtain ⟨h1, h2, h3, h4, h5⟩ := x.refill_fields produced
  refine ⟨_, writes, _, back, h1, h2, h3, h4, h5, fun l hl => ?_⟩
  rw [kept, l1] at hl
  exact of_decide_eq_true (List.mem_filter.1 hl).2

end FillLine

/-! ### Packets of the Korben links (R40 to R49) -/

section Packet
variable {s : State} {p : Packet}

theorem korbenPacket_discarded (hq : s.request.packet = some p) (hf : p.formed = false) : exec .korbenPacketReceive s = .next s := by
  show execKorbenPacketReceive s = _
  simp only [execKorbenPacketReceive, hq, hf, Bool.not_false, Bool.or_true, if_true]

theorem korbenPacket_received (hq : s.request.packet = some p) (hl : p.link < 12) (hr : s.ready (28 + p.link) = true)
    (hf : p.formed = true) : exec .korbenPacketReceive s =
      .next (if p.dest = fieldOf (s.reg 0x008) 0 8 then s.applyPacket p else s.relayPacket p) := by
  have taken : (decide (12 ≤ p.link) || !s.ready (28 + p.link) || !p.formed) = false := by
    rw [decide_eq_false (by omega), hr, hf]
    rfl
  show execKorbenPacketReceive s = _
  simp only [execKorbenPacketReceive, hq, taken, Bool.false_eq_true, if_false]
  rfl

theorem State.hop_lt {d l : Nat} (h : s.hop d = some l) : l < 12 := by
  unfold State.hop at h
  exact of_decide_eq_true (Option.filter_eq_some_iff.1 h).2

theorem State.relayPacket_unnamed (h : s.hop p.dest = none) : s.relayPacket p = { s with relays := s.relays ++ [(12, p)] } := by
  simp only [State.relayPacket, h, Option.getD_none, decide_true, Nat.le_refl, Bool.true_or, if_true]

/-- A packet for another device goes on over the link that TOPO names, by that link's state (R44, R46). -/
theorem State.relayPacket_named {l : Nat} (h : s.hop p.dest = some l) :
    (s.ready (28 + l) = true → s.bufail (28 + l) = false → s.relayPacket p = s) ∧
    (s.ready (28 + l) = false → s.bufail (28 + l) = false → s.relayPacket p = { s with relays := s.relays ++ [(l, p)] }) ∧
    (s.bufail (28 + l) = true → s.relayPacket p = s.foldBufail (28 + l)) := by
  have real : decide (12 ≤ l) = false := decide_eq_false (Nat.not_le.2 (s.hop_lt h))
  refine ⟨fun hr hb => ?_, fun hr hb => ?_, fun hb => ?_⟩
  · simp [State.relayPacket, h, real, State.down, hr, hb]
  · simp [State.relayPacket, h, real, State.down, hr, hb]
  · simp [State.relayPacket, h, real, State.down, hb]

/-- The enabled bytes of a packet are written to HBM, and no other. -/
theorem State.putEnabled_homeByte (bs : List (Option Byte)) (s : State) (pa : Nat) (h : pa + bs.length ≤ 2 ^ 40) (a : Nat) :
    (s.putEnabled pa bs).homeByte a =
      if pa ≤ a ∧ a < pa + bs.length then (bs.getD (a - pa) none).getD (s.homeByte a) else s.homeByte a := by
  induction bs generalizing s pa with
  | nil => exact (if_neg (by simp only [List.length_nil]; omega)).symm
  | cons b bs ih =>
    rw [List.length_cons] at h ⊢
    have first : (State.putEnabled s pa (b :: bs)).homeByte a = if pa + 1 ≤ a ∧ a < pa + 1 + bs.length then
        (bs.getD (a - (pa + 1)) none).getD (if a = pa then b.getD (s.homeByte a) else s.homeByte a)
        else if a = pa then b.getD (s.homeByte a) else s.homeByte a := by
      cases b with
      | none =>
        rw [State.putEnabled, ih s (pa + 1) (by omega), Option.getD_none, ite_self]
      | some b =>
        rw [State.putEnabled, ih _ (pa + 1) (by omega), homeByte_putByte _ _ _ (by omega), Option.getD_some]
    rw [first]
    by_cases ha : a = pa
    · rw [if_neg (by omega), if_pos ha, if_pos (by omega), ha, Nat.sub_self]
      rfl
    · rw [if_neg ha]
      by_cases hin : pa + 1 ≤ a ∧ a < pa + 1 + bs.length
      · rw [if_pos hin, if_pos (by omega), show a - pa = a - (pa + 1) + 1 by omega, List.getD_cons_succ]
      · rw [if_neg hin, if_neg (by omega)]

theorem State.landPacket_homeByte (s : State) {pa : Nat} (h : pa + p.data.length ≤ 2 ^ 40) {a : Nat} (ha : a < 2 ^ 40) :
    (s.landPacket pa p).homeByte a =
      if pa ≤ a ∧ a < pa + p.data.length then (p.data.getD (a - pa) none).getD (s.homeByte a) else s.homeByte a := by
  rw [← State.putEnabled_homeByte p.data s pa h a]
  unfold State.landPacket
  dsimp only
  rw [touch_hbm s 0 h]
  refine foldl_hbm (fun s i => ?_) _ _
  split
  · exact s.setPoison_hbm _ _ ha
  · split
    · exact s.setPoison_hbm _ _ ha
    · rfl

/-- An access that is noted leaves bytes, poison and seals alone, and a range under its key. -/
theorem State.noteAccess_hbm (s : State) (pa key k unit : Nat) (byCore : Bool) :
    (∀ a, (s.noteAccess pa key k unit byCore).homeByte a = s.homeByte a) ∧ (s.noteAccess pa key k unit byCore).poison = s.poison ∧
    ∀ key' pa' n, key' < 64 → s.keyed key' pa' n → (s.noteAccess pa key k unit byCore).keyed key' pa' n := by
  obtain ⟨keys, pair, noted⟩ := s.noteAccess_logsTo pa key k unit byCore
  refine ⟨noted.homeByte, noted.poison, fun key' pa' n hkey hk hpa hl sec hsec old hold => ?_⟩
  have loaded : s.keyLoaded key' = true := (congrArg (bitAt · 7) (noted.reg (i := 0x0A8 + key') (by omega))).symm.trans hl
  rw [noted.seals] at hold
  rw [noted.keys]
  exact (hk hpa loaded sec hsec old hold).trans (pair key').symm

theorem keyOf_lt (leaf : DWord) : keyOf leaf < 64 := BitVec.isLt _

theorem State.applyPacket_store {pa : Nat} {leaf : DWord}
    (hx : s.xlateWalk (s.linkSec p.link) p.part none (BitVec.ofNat 64 p.addr) .write false = .ok pa leaf false)
    (hd : pa + p.data.length ≤ 2 ^ 40) (hk : s.keyed (keyOf leaf) pa p.data.length) (hred : p.red = none) {a : Nat} (ha : a < 2 ^ 40) :
    (s.applyPacket p).homeByte a =
      if pa ≤ a ∧ a < pa + p.data.length then (p.data.getD (a - pa) none).getD (s.homeByte a) else s.homeByte a := by
  obtain ⟨bytes, _, keyed⟩ := s.noteAccess_hbm pa (keyOf leaf) p.part p.link false
  obtain ⟨seals, rekeyed⟩ := State.rekey_keyed true (keyed _ pa p.data.length (keyOf_lt leaf) hk) hd
  have applied : s.applyPacket p =
      ((s.noteAccess pa (keyOf leaf) p.part p.link false).rekey (keyOf leaf) true pa p.data.length).landPacket pa p := by
    simp only [State.applyPacket, hx, hred, Bool.false_eq_true, if_false]
    rfl
  rw [applied, rekeyed, State.landPacket_homeByte _ hd ha]
  have same : State.homeByte { s.noteAccess pa (keyOf leaf) p.part p.link false with seals := seals } a = s.homeByte a := bytes a
  rw [same]

theorem leBytes_length (n v : Nat) : (leBytes n v).length = n := by
  induction n generalizing v with
  | zero => rfl
  | succ n ih => exact congrArg (· + 1) (ih _)

/-- A RED at an address without poison writes what its operation gives of the value there. -/
theorem State.applyRed_stores {part pa op : Nat} {wide ftz : Bool} {v addr : DWord} {core : Nat} (h : pa + aopSize wide ≤ 2 ^ 40)
    (hp : s.homePoisoned pa (aopSize wide) = false) (a : Nat) :
    (s.applyRed part pa op wide ftz v addr core).homeByte a = (lastStore [(pa, leBytes (aopSize wide)
      (aopResult ftz op wide (BitVec.ofNat 64 (leWord (s.homeBytes pa (aopSize wide)))) v).toNat)] a).getD (s.homeByte a) := by
  unfold State.applyRed
  dsimp only
  rw [touch_hbm s 0 h, if_neg (ne_true_of_eq_false hp), State.writeHome_stores _ (by rw [leBytes_length]; exact h)]

theorem State.applyPacket_red {pa op : Nat} {wide ftz : Bool} {leaf : DWord}
    (hx : s.xlateWalk (s.linkSec p.link) p.part none (BitVec.ofNat 64 p.addr) .write false = .ok pa leaf false)
    (hd : pa + aopSize wide ≤ 2 ^ 40) (hk : s.keyed (keyOf leaf) pa (aopSize wide)) (hred : p.red = some (op, wide, ftz))
    (hp : s.homePoisoned pa (aopSize wide) = false) (a : Nat) :
    (s.applyPacket p).homeByte a = (lastStore [(pa, leBytes (aopSize wide)
      (aopResult ftz op wide (BitVec.ofNat 64 (leWord (s.homeBytes pa (aopSize wide))))
        (BitVec.ofNat 64 (leWord (p.data.map (·.getD 0))))).toNat)] a).getD (s.homeByte a) := by
  obtain ⟨bytes, poison, keyed⟩ := s.noteAccess_hbm pa (keyOf leaf) p.part p.link false
  obtain ⟨seals, rekeyed⟩ := State.rekey_keyed true (keyed _ pa (aopSize wide) (keyOf_lt leaf) hk) hd
  have applied : s.applyPacket p = ((s.noteAccess pa (keyOf leaf) p.part p.link false).rekey (keyOf leaf) true pa (aopSize wide)).applyRed
      p.part pa op wide ftz (BitVec.ofNat 64 (leWord (p.data.map (·.getD 0)))) (BitVec.ofNat 64 p.addr) 0 := by
    simp only [State.applyPacket, hx, hred, Bool.false_eq_true, if_false]
    rfl
  rw [applied, rekeyed]
  have same : ∀ b, State.homeByte { s.noteAccess pa (keyOf leaf) p.part p.link false with seals := seals } b = s.homeByte b := bytes
  have clean : State.homePoisoned { s.noteAccess pa (keyOf leaf) p.part p.link false with seals := seals } pa (aopSize wide) = false :=
    (State.homePoisoned_congr poison hd).trans hp
  generalize ({ s.noteAccess pa (keyOf leaf) p.part p.link false with seals := seals } : State) = S at same clean
  rw [State.applyRed_stores hd clean, same, State.homeBytes_congr (s := s) _ _ fun b _ _ => same b]

end Packet

/-! ### Accesses that are performed (R49, R169, R170, R184) -/

section Performed
variable {s : State} {p : Posted} {n : Nat}

theorem performPosted_gives (hp : s.posted[n]? = some p) (hn : ∀ o ∈ s.posted.take n, p.needs o = false)
    (hd : p.pa + p.data.length ≤ 2 ^ 40) (hk : s.keyed p.key p.pa p.data.length) :
    (s.performPosted n).posted = s.posted.eraseIdx n ∧
    ∀ a < 2 ^ 40, (s.performPosted n).homeByte a = (lastStore [(p.pa, p.data)] a).getD (s.homeByte a) := by
  rw [State.performPosted_alone hp hn]
  refine ⟨State.rest_posted (State.performOne_rest _ p _), fun a ha => ?_⟩
  exact State.performOne_stores (s := { s with posted := s.posted.eraseIdx n }) _ hk hd ha

/-- The same of a store between others. -/
theorem performPosted_at {earlier : List Posted} (later : List Posted) (hn : ∀ o ∈ earlier, p.needs o = false)
    (hd : p.pa + p.data.length ≤ 2 ^ 40) (hk : s.keyed p.key p.pa p.data.length) {a : Nat} (ha : a < 2 ^ 40) :
    (State.performPosted { s with posted := earlier ++ p :: later } earlier.length).homeByte a =
      (lastStore [(p.pa, p.data)] a).getD (s.homeByte a) := by
  have place : (earlier ++ p :: later)[earlier.length]? = some p := by
    rw [List.getElem?_append_right (Nat.le_refl _), Nat.sub_self]
    rfl
  have before : ∀ o ∈ (earlier ++ p :: later).take earlier.length, p.needs o = false := by
    rw [List.take_left]
    exact hn
  exact (performPosted_gives (s := { s with posted := earlier ++ p :: later }) place before hd hk).2 a ha

/-- A store that overlaps none of another's bytes, and is no release, does not need it. -/
theorem Posted.needs_within {p o : Posted} {i : Nat} {bs : List Byte} (hr : p.rel = false) (hi : i + bs.length ≤ p.data.length)
    (h : p.needs o = false) : Posted.needs { p with pa := p.pa + i, data := bs } o = false := by
  unfold Posted.needs at h ⊢
  dsimp only
  rw [hr, Bool.false_and, Bool.or_false] at h ⊢
  rw [Bool.and_eq_false_iff] at h ⊢
  refine h.imp id fun h => ?_
  unfold overlaps at h ⊢
  rw [Bool.and_eq_false_iff, decide_eq_false_iff_not, decide_eq_false_iff_not] at h ⊢
  omega

theorem State.keyed_within {key pa i m n : Nat} (hk : s.keyed key pa n) (hm : i + m ≤ n) : s.keyed key (pa + i) m := by
  intro hpa hl sec hsec
  refine hk (by omega) hl sec ?_
  unfold sectorsOf at hsec ⊢
  split at hsec
  · cases hsec
  · rw [if_neg (by omega)]
    exact mem_numsFrom.2 (by have := mem_numsFrom.1 hsec; omega)

/-- One byte of a landing, alone. -/
def Posted.byteAt (p : Posted) (i : Nat) : Posted := { p with pa := p.pa + i, data := [p.data.getD i 0] }

/-- The bytes of a landing before one of its bytes. -/
def Posted.before (p : Posted) (i : Nat) : List Posted := if i = 0 then [] else [{ p with data := p.data.take i }]

theorem Posted.split_eq (hl : p.landing = true) {i : Nat} (hi : i < p.data.length) :
    ∃ after, p.split i = p.before i ++ p.byteAt i :: after := by
  have one : (p.data.drop i).take 1 = [p.data.getD i 0] := by
    rw [List.drop_eq_getElem_cons hi, List.getD_eq_getElem _ _ hi]
    rfl
  have kept : ¬ (!p.landing || decide (p.data.length ≤ i)) = true := by
    rw [hl, decide_eq_false (by omega)]
    decide
  unfold Posted.split
  rw [if_neg kept, one, List.filter_cons, Posted.before]
  by_cases h0 : i = 0
  · subst h0
    exact ⟨_, rfl⟩
  · have some' : (p.data.take i).isEmpty = false := by
      rw [List.isEmpty_eq_false_iff, Ne, List.take_eq_nil_iff]
      rintro (h | h)
      · exact h0 h
      · rw [h] at hi; exact absurd hi (Nat.not_lt_zero i)
    rw [if_neg h0, some']
    exact ⟨_, rfl⟩

/-- A byte of a landing does not need the bytes before it. -/
theorem Posted.byteAt_needs_before (hr : p.rel = false) (i : Nat) : ∀ o ∈ p.before i, (p.byteAt i).needs o = false := by
  intro o ho
  unfold Posted.before at ho
  split at ho
  · cases ho
  · rw [List.mem_singleton.1 ho]
    have apart : overlaps (p.pa + i) 1 p.pa (p.data.take i).length = false := by
      unfold overlaps
      rw [Bool.and_eq_false_iff, decide_eq_false_iff_not]
      have := List.length_take_le i p.data
      omega
    unfold Posted.needs Posted.byteAt
    dsimp only [List.length_cons, List.length_nil, Nat.zero_add]
    rw [apart, hr, Bool.and_false, Bool.false_and, Bool.or_false]

theorem performByte_gives {i : Nat} (hp : s.posted[n]? = some p) (hl : p.landing = true) (hr : p.rel = false)
    (hi : i < p.data.length) (hn : ∀ o ∈ s.posted.take n, p.needs o = false) (hd : p.pa + p.data.length ≤ 2 ^ 40)
    (hk : s.keyed p.key p.pa p.data.length) {a : Nat} (ha : a < 2 ^ 40) :
    (s.performByte n i).homeByte a = (lastStore [(p.pa + i, [p.data.getD i 0])] a).getD (s.homeByte a) := by
  obtain ⟨after, hsplit⟩ := Posted.split_eq hl hi
  have len : (s.posted.take n ++ p.before i).length = n + if i = 0 then 0 else 1 := by
    have hlt : n < s.posted.length := (List.getElem?_eq_some_iff.1 hp).1
    rw [List.length_append, List.length_take, Nat.min_eq_left (Nat.le_of_lt hlt), Posted.before]
    split <;> rfl
  have posted : s.posted.take n ++ p.split i ++ s.posted.drop (n + 1) =
      (s.posted.take n ++ p.before i) ++ p.byteAt i :: (after ++ s.posted.drop (n + 1)) := by
    rw [hsplit]; simp
  have performed : s.performByte n i = State.performPosted
      { s with posted := (s.posted.take n ++ p.before i) ++ p.byteAt i :: (after ++ s.posted.drop (n + 1)) }
      (s.posted.take n ++ p.before i).length := by
    simp only [State.performByte, hp, hl, decide_eq_true hi, Bool.and_self, if_true, posted, len]
  have free : ∀ o ∈ s.posted.take n ++ p.before i, (p.byteAt i).needs o = false := fun o ho =>
    (List.mem_append.1 ho).elim (fun h => Posted.needs_within hr hi (hn o h)) (Posted.byteAt_needs_before hr i o)
  rw [performed]
  generalize s.posted.take n ++ p.before i = earlier at free
  exact performPosted_at _ free (show p.pa + i + 1 ≤ 2 ^ 40 by omega) (State.keyed_within (m := 1) hk hi) ha

theorem Remote.before_iff (a b : Remote) : a.before b = true ↔ a.owner = b.owner ∧ a.inst = b.inst ∧ a.team = b.team ∧
    (a.fid = b.fid ∨ a.fid = 2 ^ 32 - 1 ∨ b.fid = 2 ^ 32 - 1) := by
  simp [Remote.before, and_assoc, or_assoc]

/-- A remote store waits behind one of its fibre to the same owner, and for its link (R44, R49). -/
theorem performRemote_waits {r : Remote} (hr : s.remotes[n]? = some r)
    (h : (∃ o ∈ s.remotes.take n, o.before r = true) ∨ s.ready (28 + r.link) = false ∨ 12 ≤ r.link) : s.performRemote n = s := by
  have blocked : ¬ (decide (r.link < 12) && s.ready (28 + r.link) && !(s.remotes.take n).any fun a => a.before r) = true := by
    rcases h with ⟨o, ho, hb⟩ | hd | hl
    · rw [List.any_eq_true.2 ⟨o, ho, hb⟩, Bool.not_true, Bool.and_false]
      decide
    · rw [hd, Bool.and_false, Bool.false_and]
      decide
    · rw [decide_eq_false (by omega), Bool.false_and, Bool.false_and]
      decide
  simp only [State.performRemote, hr]
  exact if_neg blocked

theorem performRemote_goes {r : Remote} (hr : s.remotes[n]? = some r) (h : ∀ o ∈ s.remotes.take n, ¬ o.before r = true)
    (hl : r.link < 12) (hd : s.ready (28 + r.link) = true) : s.performRemote n = { s with remotes := s.remotes.eraseIdx n } := by
  have first : ((s.remotes.take n).any fun a => a.before r) = false := List.any_eq_false.2 h
  simp only [State.performRemote, hr]
  exact if_pos (by rw [decide_eq_true hl, hd, first]; rfl)

end Performed

/-! ### Soft errors (R109, R119, R121) -/

section SoftError
variable {s : State}

theorem softError_memory {pa : Nat} {dirty correctable : Bool} (hq : s.request.site = some (.memory pa dirty correctable)) :
    exec .softError s = .next (s.memoryError pa dirty correctable) := by
  show execSoftError s = _
  simp only [execSoftError, hq]

/-- An error in a dirty word of HBM poisons its sector. -/
theorem State.memoryError_poisons {pa : Nat} (hpa : pa < 2 ^ 40) :
    (s.memoryError pa true false).homePoison (pa / 32) = true ∧ (s.memoryError pa true false).mem = s.mem := by
  have poisoned : s.memoryError pa true false =
      State.addLog { s with poison := sset false s.poison (pa / 32) true } (memoryErrorEntry pa) := by
    unfold State.memoryError
    rw [if_neg (by decide), if_pos rfl, if_neg (by omega)]
  have logged := State.addLog_logsTo { s with poison := sset false s.poison (pa / 32) true } (memoryErrorEntry pa)
  rw [poisoned]
  refine ⟨?_, logged.mem⟩
  rw [State.homePoison_hbm _ (by omega), logged.poison]
  exact sget_sset_same false s.poison (pa / 32) true

theorem State.dropClean_mem (pa : Nat) : (s.dropClean pa).mem = s.mem := by
  unfold State.dropClean
  split
  · rfl
  · split <;> rfl

theorem mem_filter_clean {α : Type} {l : List α} {x : α} {p q : α → Bool} :
    x ∈ l.filter (fun x => !(p x && q x)) ↔ x ∈ l ∧ ¬ (p x = true ∧ q x = true) := by
  rw [List.mem_filter, Bool.not_eq_true', Bool.and_eq_false_iff, not_and_or, Bool.not_eq_true, Bool.not_eq_true]

/-- A clean copy of the line in the L2 goes; the memory-side cache is left alone. -/
theorem State.dropClean_l2 {pa : Nat} (h : (s.poolL2Line pa).isSome = true) : (s.dropClean pa).msc = s.msc ∧
    ∀ l, l ∈ (s.dropClean pa).poolL2 ↔ l ∈ s.poolL2 ∧ ¬ (l.line = pa / 128 ∧ l.dirty = []) := by
  unfold State.dropClean
  rw [if_pos h]
  refine ⟨rfl, fun l => mem_filter_clean.trans ?_⟩
  rw [decide_eq_true_iff, List.isEmpty_iff]

/-- Else a clean copy of the line in the memory-side cache goes. -/
theorem State.dropClean_msc {pa : Nat} (h : s.poolL2Line pa = none) {m : PoolLine} (hm : s.mscLine pa = some m) :
    (s.dropClean pa).poolL2 = s.poolL2 ∧ ∀ l, l ∈ (s.dropClean pa).msc ↔ l ∈ s.msc ∧ ¬ (l.line = m.line ∧ l.dirty = []) := by
  unfold State.dropClean
  rw [if_neg (by rw [h]; decide), hm]
  refine ⟨rfl, fun l => mem_filter_clean.trans ?_⟩
  rw [decide_eq_true_iff, List.isEmpty_iff]

theorem softError_clean {pa : Nat} (hq : s.request.site = some (.memory pa false false)) :
    ∃ S, exec .softError s = .next S ∧ S.mem = s.mem ∧
      ((s.poolL2Line pa).isSome = true → S.msc = s.msc ∧ ∀ l, l ∈ S.poolL2 ↔ l ∈ s.poolL2 ∧ ¬ (l.line = pa / 128 ∧ l.dirty = [])) ∧
      (s.poolL2Line pa = none → ∀ m, s.mscLine pa = some m →
        S.poolL2 = s.poolL2 ∧ ∀ l, l ∈ S.msc ↔ l ∈ s.msc ∧ ¬ (l.line = m.line ∧ l.dirty = [])) := by
  have logged := (s.dropClean pa).addLog_logsTo (memoryErrorEntry pa)
  refine ⟨_, softError_memory hq, logged.mem.trans (State.dropClean_mem pa), fun h => ?_, fun h m hm => ?_⟩
  · obtain ⟨msc, l2⟩ := State.dropClean_l2 h
    exact ⟨logged.msc.trans msc, fun l => (iff_of_eq (congrArg (l ∈ ·) logged.poolL2)).trans (l2 l)⟩
  · obtain ⟨l2, msc⟩ := State.dropClean_msc h hm
    exact ⟨logged.poolL2.trans l2, fun l => (iff_of_eq (congrArg (l ∈ ·) logged.msc)).trans (msc l)⟩

/-- A team that is found at its place, changed and put back is found there again. -/
theorem State.putTeam_found {core slot : Nat} {t t' : Team} (ht : s.team? core slot = some t) (hc : t'.core = t.core)
    (hs : t'.slot = t.slot) : (s.putTeam t').team? core slot = some t' := by
  obtain ⟨_, rfl, rfl⟩ := team?_place ht
  rw [← hc, ← hs] at ht ⊢
  exact team?_putTeam ht

/-- An error that no check sees changes the word itself (R109). -/
theorem softError_register {core slot wid reg : Nat} {flip : Word} {t : Team}
    (hq : s.request.site = some (.register core slot wid reg flip false)) (ht : s.team? core slot = some t) :
    ∃ S, exec .softError s = .next S ∧ ∃ t', S.team? core slot = some t' ∧ t' = { t with win := t'.win } ∧
      ∀ i, sget 0 t'.win i = if i = wid * 64 + reg then sget 0 t.win i ^^^ flip else sget 0 t.win i := by
  have writes : exec .softError s =
      .next (s.putTeam { t with win := smod 0 t.win (wid * 64 + reg) (· ^^^ flip) }) := by
    show execSoftError s = _
    simp only [execSoftError, hq, ht, Bool.false_eq_true, if_false]
  refine ⟨_, writes, _, State.putTeam_found ht rfl rfl, rfl, fun i => (sget_sset _ _ _ _ _).trans ?_⟩
  split
  · next h => rw [h]
  · rfl

/-- An error in a team's storage waits for the word's next read (R121). -/
theorem softError_scratch {core slot off : Nat} {t : Team} (hq : s.request.site = some (.scratch core slot off false))
    (ht : s.team? core slot = some t) : ∃ S, exec .softError s = .next S ∧
      S.team? core slot = some { t with errors := t.errors ++ [.scratch core slot off false] } := by
  have writes : exec .softError s = .next (s.putTeam { t with errors := t.errors ++ [.scratch core slot off false] }) := by
    show execSoftError s = _
    simp only [execSoftError, hq, State.teamError, ht, Bool.false_eq_true, if_false]
  exact ⟨_, writes, State.putTeam_found ht rfl rfl⟩

end SoftError

/-! ### The obligation on events of the memories and the links -/

/-- What the host's accesses come to, where decoder 0 maps them. -/
theorem hostMemAccess_gives {s : State} {h : HostReq} (hq : s.request.host = some h) :
    let pa := s.hostPa h
    let refused := s.carve < pa + h.len ∨ s.regionSec pa = true ∨ s.portSec 0 ≠ s.regionSec pa
    (∀ a n, s.resetDiscards = some (a, n) → s.mapped h → if h.write then
        exec .hostMemAccess s = .next { s with resetDiscards := some (if n = 0 then pa else a, n + 1) }
      else ∃ S, exec .hostMemAccess s = .next S ∧ S.hostReply = some (List.replicate h.len 0, true)) ∧
    (s.resetDiscards = none → s.mapped h → s.bufail 24 = true → ∃ S, exec .hostMemAccess s = .next S ∧ h.Fails s S) ∧
    (s.resetDiscards = none → s.mapped h → s.bufail 24 = false → s.ready 24 = true →
      (refused → ∃ S, exec .hostMemAccess s = .next S ∧ h.Fails s S) ∧
      (¬ refused → pa < 2 ^ 40 → (∀ f ∈ s.functionsOf pa, s.bufail f = false ∧ s.ready f = true) →
        (h.write = true → pa + h.data.length ≤ 2 ^ 40 → ∃ S, exec .hostMemAccess s = .next S ∧
          (∀ a < 2 ^ 40, S.homeByte a = (lastStore [(pa, h.data)] a).getD (s.homeByte a)) ∧
          (h.poison = true → ∀ n, pa / 64 * 2 ≤ n → n ≤ (pa + h.len - 1) / 64 * 2 + 1 → n < 2 ^ 35 → S.homePoison n = true)) ∧
        (h.write = false → ∃ p, exec .hostMemAccess s =
            .next { s with hostReply := some (s.homeBytes pa h.len, p), hostEpisode := sset 0 s.hostEpisode 0 0 } ∧
          (p = true ↔ ∃ n, pa / 64 * 2 ≤ n ∧ n < (pa + h.len - 1) / 64 * 2 + 2 ∧ s.homePoison n = true)))) := by
  intro pa refused
  refine ⟨fun a n hr hm => ?_, fun hr hm hb => ?_, fun hr hm hb hrdy => ⟨fun href => ?_, fun href hpa hf => ?_⟩⟩
  · have discards := hostMemAccess_discards hq hm hr
    split
    · next hw => exact discards.trans (congrArg Host.Outcome.next (if_pos hw))
    · next hw => exact ⟨_, discards.trans (congrArg Host.Outcome.next (if_neg hw)), rfl⟩
  · have served : s.hostServed h pa = s.hostFail h [24] := if_pos hb
    exact ⟨_, (hostMemAccess_served hq hm hr).trans (congrArg Host.Outcome.next served), State.hostFail_fails _⟩
  · have served : s.hostServed h pa = s.discardHost h pa := by
      unfold State.hostServed
      rw [hb, hrdy, if_neg (by decide), if_neg (by decide), if_pos ((State.hostRefused_iff pa h.len).2 href)]
    exact ⟨_, (hostMemAccess_served hq hm hr).trans (congrArg Host.Outcome.next served), State.discardHost_fails pa⟩
  · have allowed : ¬ s.hostRefused pa h.len = true := fun hn => href ((State.hostRefused_iff pa h.len).1 hn)
    have reaches := (hostMemAccess_served hq hm hr).trans
      (congrArg Host.Outcome.next (State.hostServed_reaches hb hrdy allowed hpa hf))
    refine ⟨fun hw hd => ?_, fun hw => ?_⟩
    · have inside : pa + h.len ≤ s.carve := Nat.not_lt.1 fun hc => href (.inl hc)
      have below : s.carve ≤ 2 ^ 40 := Nat.sub_le _ _
      exact ⟨_, reaches, State.hostAccess_write hw hd (inside.trans below)⟩
    · refine ⟨_, reaches.trans (congrArg Host.Outcome.next (State.hostAccess_read hw)), ?_⟩
      rw [List.any_eq_true]
      refine exists_congr fun n => ?_
      rw [unitSectors, mem_numsFrom, and_assoc]

section Packet
variable {s : State} {p : Packet} (hq : s.request.packet = some p) (hl : p.link < 12) (hr : s.ready (28 + p.link) = true)
  (hf : p.formed = true)
include hq hl hr hf

/-- A packet for another device goes on (R44, R46). -/
theorem korbenPacket_relayed (hd : p.dest ≠ fieldOf (s.reg 0x008) 0 8) :
    (s.hop p.dest = none → exec .korbenPacketReceive s = .next { s with relays := s.relays ++ [(12, p)] }) ∧
    ∀ l, s.hop p.dest = some l → l < 12 ∧
      (s.ready (28 + l) = true → s.bufail (28 + l) = false → exec .korbenPacketReceive s = .next s) ∧
      (s.ready (28 + l) = false → s.bufail (28 + l) = false → exec .korbenPacketReceive s = .next { s with relays := s.relays ++ [(l, p)] }) ∧
      (s.bufail (28 + l) = true → exec .korbenPacketReceive s = .next (s.foldBufail (28 + l))) := by
  have relayed : exec .korbenPacketReceive s = .next (s.relayPacket p) :=
    (korbenPacket_received hq hl hr hf).trans (congrArg Host.Outcome.next (if_neg hd))
  refine ⟨fun hh => relayed.trans (congrArg Host.Outcome.next (State.relayPacket_unnamed hh)), fun l hh => ?_⟩
  obtain ⟨up, down, failed⟩ := State.relayPacket_named hh
  exact ⟨s.hop_lt hh, fun hr hb => relayed.trans (congrArg Host.Outcome.next (up hr hb)),
    fun hr hb => relayed.trans (congrArg Host.Outcome.next (down hr hb)),
    fun hb => relayed.trans (congrArg Host.Outcome.next (failed hb))⟩

theorem korbenPacket_applied (hd : p.dest = fieldOf (s.reg 0x008) 0 8) : exec .korbenPacketReceive s = .next (s.applyPacket p) :=
  (korbenPacket_received hq hl hr hf).trans (congrArg Host.Outcome.next (if_pos hd))

/-- A RED for this device writes what its operation gives (R48, R120). -/
theorem korbenPacket_red (hd : p.dest = fieldOf (s.reg 0x008) 0 8) {pa op : Nat} {wide ftz : Bool} {leaf : DWord}
    (hx : s.xlateWalk (s.linkSec p.link) p.part none (BitVec.ofNat 64 p.addr) .write false = .ok pa leaf false)
    (hlen : pa + p.data.length ≤ 2 ^ 40) (hk : s.keyed (keyOf leaf) pa p.data.length) (hred : p.red = some (op, wide, ftz)) :
    let n := if wide then 8 else 4
    p.data.length = n → s.homePoisoned pa n = false → ∃ S, exec .korbenPacketReceive s = .next S ∧
      ∀ a < 2 ^ 40, S.homeByte a = (lastStore [(pa, leBytes n (aopResult ftz op wide (BitVec.ofNat 64 (leWord (s.homeBytes pa n)))
        (BitVec.ofNat 64 (leWord (p.data.map (·.getD 0))))).toNat)] a).getD (s.homeByte a) := by
  intro n hn hclean
  rw [show p.data.length = aopSize wide from hn] at hlen hk
  exact ⟨_, korbenPacket_applied hq hl hr hf hd, fun a _ => State.applyPacket_red hx hlen hk hred hclean a⟩

end Packet

section Access
variable {s : State}

theorem accessPerformed_store (he : s.request.e = 0) : exec .accessPerformed s = .next (s.performPosted s.request.num) :=
  congrArg Host.Outcome.next (if_pos he)

theorem accessPerformed_remote (he : s.request.e = 1) : exec .accessPerformed s = .next (s.performRemote s.request.num) :=
  congrArg Host.Outcome.next ((if_neg (by omega)).trans (if_pos he))

theorem accessPerformed_byte (he0 : s.request.e ≠ 0) (he1 : s.request.e ≠ 1) :
    exec .accessPerformed s = .next (s.performByte s.request.num s.request.k) :=
  congrArg Host.Outcome.next ((if_neg he0).trans (if_neg he1))

/-- A remote store is performed once its link is ready and none of its fibre to that owner stands before it (R49). -/
theorem accessPerformed_remotes (he : s.request.e = 1) {r : Remote} (hr : s.remotes[s.request.num]? = some r) :
    ((∃ o ∈ s.remotes.take s.request.num, o.owner = r.owner ∧ o.inst = r.inst ∧ o.team = r.team ∧
        (o.fid = r.fid ∨ o.fid = 2 ^ 32 - 1 ∨ r.fid = 2 ^ 32 - 1)) ∨
      s.ready (28 + r.link) = false ∨ 12 ≤ r.link → exec .accessPerformed s = .next s) ∧
    ((∀ o ∈ s.remotes.take s.request.num, ¬ (o.owner = r.owner ∧ o.inst = r.inst ∧ o.team = r.team ∧
        (o.fid = r.fid ∨ o.fid = 2 ^ 32 - 1 ∨ r.fid = 2 ^ 32 - 1))) → r.link < 12 → s.ready (28 + r.link) = true →
      exec .accessPerformed s = .next { s with remotes := s.remotes.eraseIdx s.request.num }) := by
  have performed := accessPerformed_remote he
  constructor
  · intro h
    refine performed.trans (congrArg Host.Outcome.next (performRemote_waits hr (h.imp ?_ id)))
    exact fun ⟨o, ho, hb⟩ => ⟨o, ho, (o.before_iff r).2 hb⟩
  · intro h hlink hrdy
    refine performed.trans (congrArg Host.Outcome.next (performRemote_goes hr ?_ hlink hrdy))
    exact fun o ho hb => h o ho ((o.before_iff r).1 hb)

end Access

/-- Settles O53: each event's state, and what it leaves of bytes, poison, edges and registers. -/
theorem memoryAndLinkEvents : Obligations.MemoryAndLinkEvents := by
  intro s q k gives stores
  refine ⟨fun h hq => hostMemAccess_gives hq, cxlCacheSnoop_gives s, fun i base size dpa en hq hi => configDecoder_gives hq hi,
    fun port i en hq => configOption_gives hq, fun v m hq hv => configMask_gives hq hv, fun off v hq => configOther_gives hq,
    fun h1 h3 => congrArg Host.Outcome.next (if_pos ⟨h1, h3⟩), mscFlushComplete_gives, mscFlushComplete_waits, mscMissFill_gives,
    fun x hx hs => ⟨fillLineSnoop_gives hx hs, fillLineReread_waits hx, fillLineReread_gives hx hs⟩,
    fun h5 hp => congrArg Host.Outcome.next (if_pos (by rw [h5, hp]; rfl)), fun p hq hf => korbenPacket_discarded hq hf,
    ?packets, ?store, fun he r hr => accessPerformed_remotes he hr, ?byte, fun pa dirty hq => softError_memory hq,
    fun pa hq hpa => ⟨_, softError_memory hq, State.memoryError_poisons hpa⟩, fun pa hq => softError_clean hq,
    fun core slot wid reg flip t hq ht => softError_register hq ht, fun core slot off t hq ht => softError_scratch hq ht⟩
  case packets =>
    intro p hq hl hr hf
    refine ⟨korbenPacket_relayed hq hl hr hf, fun hd pa leaf hx hlen hk => ⟨fun hred => ?_, fun op wide ftz hred => ?_⟩⟩
    · exact ⟨_, korbenPacket_applied hq hl hr hf hd, fun a ha => State.applyPacket_store hx hlen hk hred ha⟩
    · exact korbenPacket_red hq hl hr hf hd hx hlen hk hred
  case store =>
    intro he p hp hn hlen hk
    exact ⟨_, accessPerformed_store he, performPosted_gives hp hn hlen hk⟩
  case byte =>
    intro he0 he1 p hp hl hr hi hn hlen hk
    exact ⟨_, accessPerformed_byte he0 he1, fun a ha => performByte_gives hp hl hr hi hn hlen hk ha⟩

end Sys2Proof.Machine
end

section
/-! SUPPORT. Bytes of HBM that several stores leave, sectors that are rekeyed one after another, and what translations and
posted stores of other cores leave alone. -/

namespace Sys2Proof.Machine

/-! ### Bytes written one after another -/

/-- The byte that single bytes written in order leave at an address. -/
def lastByte (cells : List (Nat × Byte)) (a : Nat) (b : Byte) : Byte := cells.foldl (fun b c => if c.1 = a then c.2 else b) b

@[simp] theorem lastByte_nil (a : Nat) (b : Byte) : lastByte [] a b = b := rfl

@[simp] theorem lastByte_cons (c : Nat × Byte) (cells : List (Nat × Byte)) (a : Nat) (b : Byte) :
    lastByte (c :: cells) a b = lastByte cells a (if c.1 = a then c.2 else b) := rfl

theorem lastByte_absent {cells : List (Nat × Byte)} {a : Nat} (h : ∀ c ∈ cells, c.1 ≠ a) (b : Byte) : lastByte cells a b = b := by
  induction cells with
  | nil => rfl
  | cons c cells ih =>
    rw [lastByte_cons, if_neg (h c List.mem_cons_self)]
    exact ih fun x hx => h x (List.mem_cons_of_mem _ hx)

/-- What a run of consecutive bytes leaves at an address. -/
def runByte (a : Nat) (b : Byte) (r : Nat × List Byte) : Byte :=
  if r.1 ≤ a ∧ a < r.1 + r.2.length then r.2.getD (a - r.1) 0 else b

theorem runByte_one (x a : Nat) (v b : Byte) : runByte a b (x, [v]) = if x = a then v else b := by
  unfold runByte
  by_cases h : x = a
  · subst h; simp
  · rw [if_neg (by simp only [List.length_singleton]; omega), if_neg h]

/-- A run that begins one byte earlier leaves what that byte and then the run leave. -/
theorem runByte_cons (x a : Nat) (v b : Byte) (bs : List Byte) :
    runByte a b (x, v :: bs) = runByte a (if x = a then v else b) (x + 1, bs) := by
  unfold runByte
  simp only [List.length_cons]
  by_cases h : x = a
  · subst h
    rw [if_pos (by omega), if_neg (by omega), if_pos rfl, Nat.sub_self]; rfl
  · rw [if_neg h]
    by_cases hin : x + 1 ≤ a ∧ a < x + 1 + bs.length
    · rw [if_pos (by omega), if_pos hin, show a - x = a - (x + 1) + 1 by omega, List.getD_cons_succ]
    · rw [if_neg (by omega), if_neg hin]

/-- The runs of some bytes leave what the bytes leave one by one. -/
theorem foldl_runsOf (cells : List (Nat × Byte)) (a : Nat) (b : Byte) :
    (runsOf cells).foldl (runByte a) b = lastByte cells a b := by
  induction cells generalizing b with
  | nil => rfl
  | cons c cells ih =>
    obtain ⟨x, v⟩ := c
    rw [lastByte_cons, ← ih, runsOf]
    cases hr : runsOf cells with
    | nil => exact runByte_one x a v b
    | cons r more =>
      obtain ⟨y, bs⟩ := r
      dsimp only
      split
      · next hy => subst hy; rw [List.foldl_cons, List.foldl_cons, runByte_cons]
      · rw [List.foldl_cons, List.foldl_cons, List.foldl_cons, runByte_one]

/-- The runs of some bytes lie where the bytes lie. -/
theorem runsOf_within {N : Nat} {cells : List (Nat × Byte)} (h : ∀ c ∈ cells, c.1 < N) : ∀ r ∈ runsOf cells, r.1 + r.2.length ≤ N := by
  induction cells with
  | nil => intro r hr; cases hr
  | cons c cells ih =>
    obtain ⟨x, v⟩ := c
    have hx : x < N := h (x, v) List.mem_cons_self
    have tail := ih fun d hd => h d (List.mem_cons_of_mem _ hd)
    rw [runsOf]
    cases hr : runsOf cells with
    | nil => simpa using hx
    | cons r more =>
      obtain ⟨y, bs⟩ := r
      rw [hr, List.forall_mem_cons] at tail
      obtain ⟨first, others⟩ := tail
      dsimp only at first ⊢
      split
      · next hy =>
        refine List.forall_mem_cons.2 ⟨?_, others⟩
        simp only [List.length_cons]
        omega
      · exact List.forall_mem_cons.2 ⟨by simpa using hx, List.forall_mem_cons.2 ⟨first, others⟩⟩

/-- Writes of the runs of some bytes of HBM write those bytes and no other. -/
theorem foldl_runsOf_homeByte {f : State → Nat × List Byte → State} {a : Nat}
    (hf : ∀ (s : State) r, r.1 + r.2.length ≤ 2 ^ 40 → (f s r).homeByte a = runByte a (s.homeByte a) r)
    {cells : List (Nat × Byte)} (hc : ∀ c ∈ cells, c.1 < 2 ^ 40) (s : State) :
    ((runsOf cells).foldl f s).homeByte a = lastByte cells a (s.homeByte a) := by
  rw [← foldl_runsOf]
  have within := runsOf_within hc
  generalize runsOf cells = rs at within
  induction rs generalizing s with
  | nil => rfl
  | cons r rs ih =>
    obtain ⟨first, others⟩ := List.forall_mem_cons.1 within
    rw [List.foldl_cons, List.foldl_cons, ih (f s r) others, hf s r first]

/-! ### Stores of one instruction (R267) -/

/-- A byte that enters a list of bytes in order of their addresses is the one written at its address. -/
theorem lastByte_sinsert {m : Sparse Byte} (hm : m.Pairwise fun x y => x.1 < y.1) (k : Nat) (v : Byte) (a : Nat) (b : Byte) :
    lastByte (sinsert k v m) a b = if k = a then v else lastByte m a b := by
  induction m generalizing b with
  | nil => rfl
  | cons c m ih =>
    obtain ⟨i, w⟩ := c
    obtain ⟨above, sorted⟩ := List.pairwise_cons.1 hm
    have later : ∀ x, k ≤ i → k = a → lastByte m a x = x := fun x hk ha =>
      lastByte_absent (fun d hd => by have : i < d.1 := above d hd; omega) x
    simp only [sinsert]
    split
    · next hk =>
      simp only [lastByte_cons]
      by_cases ha : k = a
      · rw [if_pos ha, if_neg (show ¬ i = a by omega), if_pos ha, later _ (Nat.le_of_lt hk) ha]
      · rw [if_neg ha, if_neg ha]
    · split
      · next hk =>
        subst hk
        simp only [lastByte_cons]
        by_cases ha : k = a
        · rw [if_pos ha, if_pos ha, later _ (Nat.le_refl _) ha]
        · rw [if_neg ha, if_neg ha, if_neg ha]
      · next hk =>
        rw [lastByte_cons, ih sorted, lastByte_cons]

/-- One store among the bytes of several. -/
def storeBytes (m : Sparse Byte) (p : Nat × List Byte) : Sparse Byte :=
  (List.range p.2.length).foldl (fun m i => sinsert (p.1 + i) (p.2.getD i 0) m) m

theorem byteWrites_append_one (l : List (Nat × List Byte)) (p : Nat × List Byte) :
    byteWrites (l ++ [p]) = storeBytes (byteWrites l) p := List.foldl_append

theorem storeBytes_spec {m : Sparse Byte} (hm : m.Pairwise fun x y => x.1 < y.1) (p : Nat × List Byte) :
    ((storeBytes m p).Pairwise fun x y => x.1 < y.1) ∧ (∀ a b, lastByte (storeBytes m p) a b = runByte a (lastByte m a b) p) ∧
    ∀ c ∈ storeBytes m p, c ∈ m ∨ c.1 < p.1 + p.2.length := by
  obtain ⟨pa, bs⟩ := p
  have upTo : ∀ n ≤ bs.length,
      let M := (List.range n).foldl (fun m i => sinsert (pa + i) (bs.getD i 0) m) m
      (M.Pairwise fun x y => x.1 < y.1) ∧ (∀ a b, lastByte M a b = if pa ≤ a ∧ a < pa + n then bs.getD (a - pa) 0 else lastByte m a b) ∧
      ∀ c ∈ M, c ∈ m ∨ c.1 < pa + n := by
    intro n
    induction n with
    | zero => exact fun _ => ⟨hm, fun a b => by rw [if_neg (by omega)]; rfl, fun c hc => .inl hc⟩
    | succ n ih =>
      intro hn
      obtain ⟨sorted, bytes, within⟩ := ih (by omega)
      rw [List.range_succ, List.foldl_append]
      refine ⟨sinsert_sorted _ _ _ sorted, fun a b => ?_, fun c hc => ?_⟩
      · rw [List.foldl_cons, List.foldl_nil, lastByte_sinsert sorted, bytes]
        by_cases ha : pa + n = a
        · rw [if_pos ha, if_pos (by omega), show a - pa = n by omega]
        · rw [if_neg ha]
          by_cases hin : pa ≤ a ∧ a < pa + n
          · rw [if_pos hin, if_pos (by omega)]
          · rw [if_neg hin, if_neg (by omega)]
      · rcases mem_sinsert _ _ _ _ hc with rfl | hc
        · exact .inr (Nat.lt_succ_self _)
        · exact (within c hc).imp id fun h => by omega
  exact upTo bs.length (Nat.le_refl _)

theorem lastStore_append_one (l : List (Nat × List Byte)) (p : Nat × List Byte) (a : Nat) (b : Byte) :
    (lastStore (l ++ [p]) a).getD b = runByte a ((lastStore l a).getD b) p := by
  unfold lastStore runByte
  rw [List.reverse_append, List.reverse_singleton, List.singleton_append]
  by_cases h : p.1 ≤ a ∧ a < p.1 + p.2.length
  · have hin : a - p.1 < p.2.length := by omega
    rw [List.find?_cons_of_pos (by simpa using h), if_pos h, List.getD_eq_getElem _ _ hin, Option.bind_some,
      List.getElem?_eq_getElem hin]
    rfl
  · rw [List.find?_cons_of_neg (by simpa using h), if_neg h]

/-- The bytes of several stores, each once: at each address the byte that the last store leaves there (R267). -/
theorem byteWrites_spec (l : List (Nat × List Byte)) : ((byteWrites l).Pairwise fun x y => x.1 < y.1) ∧
    (∀ a b, lastByte (byteWrites l) a b = (lastStore l a).getD b) ∧
    ∀ c ∈ byteWrites l, ∃ p ∈ l, c.1 < p.1 + p.2.length := by
  induction l using List.reverseRecOn with
  | nil => exact ⟨List.Pairwise.nil, fun _ _ => rfl, fun c hc => by cases hc⟩
  | append_singleton l p ih =>
    obtain ⟨sorted, bytes, within⟩ := ih
    obtain ⟨sorted', bytes', within'⟩ := storeBytes_spec sorted p
    rw [byteWrites_append_one]
    refine ⟨sorted', fun a b => ?_, fun c hc => ?_⟩
    · rw [bytes', bytes, lastStore_append_one]
    · rcases within' c hc with hc | hc
      · obtain ⟨q, hq, h⟩ := within c hc
        exact ⟨q, List.mem_append_left _ hq, h⟩
      · exact ⟨p, by simp, hc⟩

/-! ### Sectors under one key (R56) -/

theorem State.keyLoaded_rest {s S : State} (h : S.rest = s.rest) (key : Nat) : S.keyLoaded key = s.keyLoaded key := by
  unfold State.keyLoaded; rw [State.reg_rest h]

/-- Writes under one key to ranges of HBM that it has encrypted, or no key has, only seal them (R56, R63). -/
theorem State.rekeys_keyed {s : State} {key : Nat} {ws : List (Nat × Nat)} (hk : ∀ w ∈ ws, s.keyed key w.1 w.2)
    (hpa : ∀ w ∈ ws, w.1 < 2 ^ 40) :
    ∃ seals, ws.foldl (fun s w => s.rekey key true w.1 w.2) s = { s with seals := seals } := by
  by_cases loaded : s.keyLoaded key = true
  · have flat : ∀ (ws : List (Nat × Nat)) (S : State), (∀ w ∈ ws, w.1 < 2 ^ 40) → S.keyLoaded key = true →
        ws.foldl (fun s w => s.rekey key true w.1 w.2) S =
          (ws.flatMap fun w => sectorsOf w.1 w.2).foldl (fun s x => s.rekeySector key true x) S := by
      intro ws
      induction ws with
      | nil => exact fun _ _ _ => rfl
      | cons w ws ih =>
        intro S hpa hS
        obtain ⟨first, others⟩ := List.forall_mem_cons.1 hpa
        rw [List.foldl_cons, ih _ others ((State.keyLoaded_rest (State.rekey_rest _ _ _ _ _) key).trans hS), List.flatMap_cons,
          List.foldl_append, State.rekey, if_pos ⟨first, hS⟩]
    rw [flat ws s hpa loaded]
    refine s.rekeySectors_keyed key true _ s.seals fun sec hsec => ?_
    obtain ⟨w, hw, hsec⟩ := List.mem_flatMap.1 hsec
    exact hk w hw (hpa w hw) loaded sec hsec
  · refine ⟨s.seals, ?_⟩
    clear hk
    induction ws with
    | nil => rfl
    | cons w ws ih =>
      obtain ⟨first, others⟩ := List.forall_mem_cons.1 hpa
      have stays : s.rekey key true w.1 w.2 = s := by
        rw [State.rekey, if_neg fun h => loaded h.2, touch_low _ _ _ _ (.inl first)]
      rw [List.foldl_cons, stays]
      exact ih others

/-! ### What the translation of an access leaves alone (R58, R162) -/

/-- From one state to another at most the translation caches, the log and the empty episodes of the key slots change. -/
structure State.Noted (s S : State) : Prop where
  clk : S.clk = s.clk
  posted : S.posted = s.posted
  seals : S.seals = s.seals
  homeByte : ∀ a, S.homeByte a = s.homeByte a
  pair : ∀ i, (sget {} S.keys i : KeySlot).pair = (sget {} s.keys i).pair
  reg : ∀ i, i ≠ 0x0E9 → S.reg i = s.reg i

namespace State.Noted
variable {s S T : State}

theorem refl (s : State) : s.Noted s := ⟨rfl, rfl, rfl, fun _ => rfl, fun _ => rfl, fun _ _ => rfl⟩

theorem trans (h : s.Noted S) (h' : S.Noted T) : s.Noted T :=
  ⟨h'.clk.trans h.clk, h'.posted.trans h.posted, h'.seals.trans h.seals, fun a => (h'.homeByte a).trans (h.homeByte a),
    fun i => (h'.pair i).trans (h.pair i), fun i hi => (h'.reg i hi).trans (h.reg i hi)⟩

theorem of_logsTo (h : s.LogsTo S) : s.Noted S := by
  have bytes := h.homeByte
  obtain ⟨_, _, _, _, _, _, _, rfl, hreg⟩ := h
  exact ⟨rfl, rfl, rfl, bytes, fun _ => rfl, hreg⟩

theorem keyed (h : s.Noted S) {key : Nat} (hkey : key < 64) {pa n : Nat} (hk : s.keyed key pa n) : S.keyed key pa n := by
  intro hpa loaded sec hsec old hold
  rw [State.keyLoaded, h.reg _ (by omega)] at loaded
  rw [h.seals] at hold
  rw [h.pair]
  exact hk hpa loaded sec hsec old hold

end State.Noted

theorem State.noteAccess_noted (s : State) (pa key k unit : Nat) (byCore : Bool) : s.Noted (s.noteAccess pa key k unit byCore) := by
  obtain ⟨keys, pairs, h⟩ := s.noteAccess_logsTo pa key k unit byCore
  exact .trans (S := { s with keys := keys }) ⟨rfl, rfl, rfl, fun _ => rfl, pairs, fun _ _ => rfl⟩ (.of_logsTo h)

theorem State.walkFill_noted (s : State) (e : WalkEntry) : s.Noted (s.walkFill e) := by
  unfold State.walkFill
  split
  · exact .refl s
  · exact ⟨rfl, rfl, rfl, fun _ => rfl, fun _ => rfl, fun _ _ => rfl⟩

theorem State.walkFills_noted (s : State) (es : List WalkEntry) : s.Noted (es.foldl State.walkFill s) :=
  foldl_keeps s.Noted State.walkFill (fun b e hb => hb.trans (b.walkFill_noted e)) es s (.refl s)

theorem State.tlbPush_noted (s : State) (e : TlbEntry) : s.Noted (s.tlbPush e) :=
  ⟨rfl, rfl, rfl, fun _ => rfl, fun _ => rfl, fun _ _ => rfl⟩

theorem State.tlbFill_noted (s : State) (core k : Nat) (ver : Option Word) (va : DWord) : s.Noted (s.tlbFill core k ver va) := by
  unfold State.tlbFill
  split
  · exact .refl s
  · split
    · dsimp only
      refine iteInduction (fun _ => .refl s) fun _ => ?_
      exact .trans (s.walkFills_noted _) (State.tlbPush_noted _ _)
    · exact .refl s

/-! ### Posted stores of other cores (R171) -/

theorem takePosted_none {f : Posted → Bool} {l : List Posted} (h : ∀ p ∈ l, f p = false) (rest : List Posted) :
    takePosted f l [] rest = ([], l.reverse ++ rest) := by
  induction l generalizing rest with
  | nil => rfl
  | cons p l ih =>
    obtain ⟨first, others⟩ := List.forall_mem_cons.1 h
    rw [takePosted, if_neg (by simp [first]), ih others, List.reverse_cons, List.append_assoc, List.singleton_append]

/-- Where no posted store is named, none is performed. -/
theorem State.performWhere_none {s : State} {f : Posted → Bool} (h : ∀ p ∈ s.posted, f p = false) : s.performWhere f = s := by
  unfold State.performWhere
  rw [takePosted_none fun p hp => h p (List.mem_reverse.1 hp), List.reverse_reverse, List.append_nil]
  rfl

end Sys2Proof.Machine
end

section
/-! PROOFS. WPST (R393 to R395): the elements of a tile and of its transpose, the checks that it passes, and the bytes that it
leaves. -/

namespace Sys2Proof.Machine

theorem sgetList_eq_map {α : Type} (d : α) (m : Sparse α) (k n : Nat) : sgetList d m k n = (List.range n).map fun i => sget d m (k + i) := by
  induction n generalizing k with
  | zero => rfl
  | succ n ih =>
    rw [sgetList, ih, List.range_succ_eq_map, List.map_cons, List.map_map, Nat.add_zero]
    exact congrArg _ (List.map_congr_left fun i _ => by rw [Function.comp_apply, Nat.add_assoc, Nat.add_comm 1 i])

theorem filterMap_range {α : Type} {n : Nat} {f : Nat → Option α} {g : Nat → α} (h : ∀ i < n, f i = some (g i)) :
    (List.range n).filterMap f = (List.range n).map g := by
  rw [← List.filterMap_eq_map]
  exact List.filterMap_congr fun i hi => h i (List.mem_range.1 hi)

/-! ### The writes of a WPST (R393 to R395) -/

/-- An element of a tile in the scratchpad. -/
theorem tileElem_scratch (m : Sparse Byte) (off esz : Nat) {x y : Nat} (hx : x < 16) (hy : y < 16) :
    tileElem (sgetList 0 m off (256 * esz)) esz x y = (List.range esz).map fun i => sget 0 m (off + (16 * x + y) * esz + i) := by
  have hin : (16 * x + y) * esz + esz ≤ 256 * esz := by
    rw [← Nat.succ_mul]
    exact Nat.mul_le_mul_right _ (by omega)
  rw [tileElem, sgetList_eq_map]
  refine List.ext_getElem ?_ fun i h1 h2 => ?_
  · simp; omega
  · simp [Nat.add_assoc]

/-- Row r of a copy takes in column y the element of row r, or where the rows stand at one address of a free row. -/
def tileIndex (pitch fresh r y : Nat) : Nat := if pitch = 0 then (Config.lastRow fresh y).toNat else r

theorem tileIndex_lt (pitch fresh : Nat) {r : Nat} (y : Nat) (h : r < 16) : tileIndex pitch fresh r y < 16 := by
  unfold tileIndex
  split
  · exact (Config.lastRow fresh y).isLt
  · exact h

/-- The element in column y of row r of a copy (R393). -/
def tileCell (bs : List Byte) (esz pitch : Nat) (trans : Bool) (fresh r y : Nat) : List Byte :=
  if trans then tileElem bs esz y (tileIndex pitch fresh r y) else tileElem bs esz (tileIndex pitch fresh r y) y

/-- An element of a tile that stands in the scratchpad. -/
theorem tileCell_scratch (m : Sparse Byte) (src esz pitch : Nat) (trans : Bool) (fresh : Nat) {r y : Nat} (hr : r < 16) (hy : y < 16) :
    tileCell (sgetList 0 m src (256 * esz)) esz pitch trans fresh r y = (List.range esz).map fun i => sget 0 m
      (src + (if trans then 16 * y + tileIndex pitch fresh r y else 16 * tileIndex pitch fresh r y + y) * esz + i) := by
  have hi := tileIndex_lt pitch fresh y hr
  unfold tileCell
  cases trans
  · exact tileElem_scratch m src esz hi hy
  · exact tileElem_scratch m src esz hy hi

/-- The bytes of row r of a copy of a tile that stands in the scratchpad (R393). -/
theorem tileCells_scratch (m : Sparse Byte) (src esz pitch : Nat) (trans : Bool) (fresh : Nat) {r : Nat} (hr : r < 16) :
    (List.range 16).flatMap (tileCell (sgetList 0 m src (256 * esz)) esz pitch trans fresh r) =
      (List.range 16).flatMap fun y => (List.range esz).map fun i => sget 0 m
        (src + (if trans then 16 * y + tileIndex pitch fresh r y else 16 * tileIndex pitch fresh r y + y) * esz + i) :=
  List.flatMap_congr fun _ hy => tileCell_scratch m src esz pitch trans fresh hr (List.mem_range.1 hy)

theorem tileCells_length (m : Sparse Byte) (src esz pitch : Nat) (trans : Bool) (fresh : Nat) {r : Nat} (hr : r < 16) :
    ((List.range 16).flatMap (tileCell (sgetList 0 m src (256 * esz)) esz pitch trans fresh r)).length = 16 * esz := by
  rw [tileCells_scratch _ _ _ _ _ _ hr, List.length_flatMap]
  simp
  omega

/-- The writes of one copy of a tile, row by row (R393). -/
def tileCopy (pa : Nat → Nat) (leaf : Nat → DWord) (bs : List Byte) (esz pitch : Nat) (trans : Bool) (fresh : Nat) : List TileWrite :=
  (List.range 16).map fun r => { key := keyOf (leaf r), pa := pa r, data := (List.range 16).flatMap (tileCell bs esz pitch trans fresh r) }

theorem copyWrites_rows (pa : Nat → Nat) (leaf : Nat → DWord) (bs : List Byte) (esz pitch : Nat) (trans : Bool) (fresh : Nat) :
    copyWrites ((List.range 16).map fun r => { row := r, pa := pa r, leaf := leaf r, lost := false }) bs esz pitch trans fresh =
      tileCopy pa leaf bs esz pitch trans fresh := by
  rw [copyWrites, List.filter_eq_self.2 fun r hr => by obtain ⟨x, -, rfl⟩ := List.mem_map.1 hr; rfl, List.map_map]
  refine List.map_congr_left fun r _ => ?_
  unfold tileCell tileIndex
  by_cases hp : pitch = 0
  · simp [hp, lastRowBytes]
  · simp [hp, tileRow]

/-- The stores of a copy of a tile that stands in the scratchpad. -/
theorem tileCopy_stores (pa : Nat → Nat) (leaf : Nat → DWord) (m : Sparse Byte) (src esz pitch : Nat) (trans : Bool) (fresh : Nat) :
    (tileCopy pa leaf (sgetList 0 m src (256 * esz)) esz pitch trans fresh).map (fun w => (w.pa, w.data)) =
      (List.range 16).map fun r => (pa r, (List.range 16).flatMap fun y => (List.range esz).map fun i => sget 0 m
        (src + (if trans then 16 * y + tileIndex pitch fresh r y else 16 * tileIndex pitch fresh r y + y) * esz + i)) := by
  rw [tileCopy, List.map_map]
  exact List.map_congr_left fun r hr => congrArg (Prod.mk _) (tileCells_scratch _ _ _ _ _ _ (List.mem_range.1 hr))

theorem mem_tileCopy {pa : Nat → Nat} {leaf : Nat → DWord} {m : Sparse Byte} {src esz pitch : Nat} {trans : Bool} {fresh : Nat} {w : TileWrite}
    (h : w ∈ tileCopy pa leaf (sgetList 0 m src (256 * esz)) esz pitch trans fresh) :
    ∃ r < 16, w.pa = pa r ∧ w.key = keyOf (leaf r) ∧ w.data.length = 16 * esz := by
  obtain ⟨r, hr, rfl⟩ := List.mem_map.1 h
  have hr := List.mem_range.1 hr
  exact ⟨r, hr, rfl, rfl, tileCells_length _ _ _ _ _ _ hr⟩

/-- The writes of a WPST, whose bytes are of one key, are its stores (R395). -/
theorem State.performTile_stores {s : State} {core : Nat} {pair : Bool} {writes : List TileWrite} {key : Nat}
    (hp : ∀ p ∈ s.posted, p.on core = false) (hk : ∀ w ∈ writes, w.key = key ∧ s.keyed key w.pa w.data.length)
    (hpa : ∀ w ∈ writes, w.pa < 2 ^ 40 ∧ w.pa + w.data.length ≤ 2 ^ 40) (a : Nat) :
    (s.performTile core pair writes).homeByte a = (lastStore (writes.map fun w => (w.pa, w.data)) a).getD (s.homeByte a) := by
  obtain ⟨-, bytes, within⟩ := byteWrites_spec (writes.map fun w => (w.pa, w.data))
  have below : ∀ c ∈ tileBytes writes, c.1 < 2 ^ 40 := fun c hc => by
    obtain ⟨p, hp, hlt⟩ := within c hc
    obtain ⟨w, hw, rfl⟩ := List.mem_map.1 hp
    exact Nat.lt_of_lt_of_le hlt (hpa w hw).2
  have none_meets : ∀ p ∈ s.posted, (writes.any fun w => p.meets core w.pa w.data.length) = false := fun p hpp => by
    simp [Posted.meets, hp p hpp]
  have rekeyed : writes.foldl (fun s w => s.rekey w.key true w.pa w.data.length) s =
      (writes.map fun w => (w.pa, w.data.length)).foldl (fun s w => s.rekey key true w.1 w.2) s := by
    rw [List.foldl_map]
    exact List.foldl_ext _ _ _ fun b w hw => by rw [(hk w hw).1]
  obtain ⟨seals, hseals⟩ := State.rekeys_keyed (s := s) (key := key) (ws := writes.map fun w => (w.pa, w.data.length))
    (fun p hp => by obtain ⟨w, hw, rfl⟩ := List.mem_map.1 hp; exact (hk w hw).2)
    (fun p hp => by obtain ⟨w, hw, rfl⟩ := List.mem_map.1 hp; exact (hpa w hw).1)
  unfold State.performTile
  dsimp only
  rw [State.performWhere_none none_meets, rekeyed, hseals, foldl_runsOf_homeByte
    (f := fun s r => (s.writeHome r.1 r.2).l1DropRange core pair r.1 r.2.length) (fun s r hr => homeByte_writeHome s r.1 r.2 (.inl hr) a) below]
  exact bytes a _

@[simp] theorem State.performTile_clk (s : State) (core : Nat) (pair : Bool) (writes : List TileWrite) :
    (s.performTile core pair writes).clk = s.clk := by
  unfold State.performTile
  rw [foldl_clk _ fun s r => by simp, foldl_clk _ fun s w => by simp, State.performWhere_clk]

/-! ### WPST passes its checks (R394) -/

theorem rowStop_ok (a : DWord) (pa : Nat) (leaf : DWord) (lost : Bool) (xs : List (DWord × Xlat)) :
    rowStop ((a, .ok pa leaf lost) :: xs) = rowStop xs := rfl

theorem rowStop_none {xs : List (DWord × Xlat)} (h : ∀ p ∈ xs, ∃ pa leaf lost, p.2 = .ok pa leaf lost) : rowStop xs = none := by
  induction xs with
  | nil => rfl
  | cons p xs ih =>
    obtain ⟨⟨pa, leaf, lost, first⟩, others⟩ := List.forall_mem_cons.1 h
    obtain ⟨a, x⟩ := p
    subst first
    exact (rowStop_ok a pa leaf lost xs).trans (ih others)

theorem Ctx.reach_local {c : Ctx} {s : State} {acc : Access} {remoteOk : Bool} {a : DWord} {pa : Nat} {leaf : DWord} {lost : Bool}
    (h : c.reach s acc remoteOk a = some (.local pa leaf lost)) :
    s.xlate (s.coreSec c.g.core) c.g.core c.t.part (s.version c.t) a acc remoteOk = .ok pa leaf lost := by
  unfold Ctx.reach at h
  split at h
  · simp_all
  · cases h
  · cases h

theorem Team.Quiet.loadMeets {t : Team} (h : t.Quiet) (sp : Space) (m a n : Nat) : t.loadMeets sp m a n = .pass := by
  unfold Team.loadMeets; rw [h.1]; rfl

theorem Team.Quiet.storeMeets {t : Team} (h : t.Quiet) (sp : Space) (m a n : Nat) : t.storeMeets sp m a n = .pass := by
  unfold Team.storeMeets; rw [h.1]; rfl

/-- A quiet team's scratchpad reads as it stands. -/
theorem Ctx.withScratch_quiet {c : Ctx} (h : c.t.Quiet) (s : State) (off n : Nat) (f : Ctx → List Byte → Res) :
    c.withScratch s off n f = f c (c.t.scratchBytes off n) := by
  have read : c.scratchRead off n = (.ok c.t, c.t.scratchBytes off n) := by
    have clean : (sectorsOf off n).find? (sget false ([] : Sparse Bool)) = none := List.find?_eq_none.2 fun _ _ h => by cases h
    obtain ⟨-, errors, poison, -⟩ := id h
    unfold Ctx.scratchRead
    simp only [h.loadMeets, poison, clean, errors, List.any_nil, Bool.false_eq_true, if_false]
  unfold Ctx.withScratch
  rw [read]

/-- What `post` says of a uniform instruction is what holds of the outcome of its body. -/
theorem uniInstr_runs_eq {gd : Guard} {m : Mods} {stall : Nat} {locs : List Loc} {f : State → Ctx → Res} {point : Option Nat}
    {post : State → Team → Group → Ctx → Res → Prop}
    (h : ∀ s c r, s.clk = c.clk → c.uniDiffers = false → f s c = r → post s c.t c.g c r) :
    UniRuns (fun s => uniInstr s gd m stall locs f point) gd m stall locs post :=
  uniInstr_runs fun s t g _ hd => h _ (uniCtx s t g gd m locs) _ rfl hd rfl

/-- Rows at a pitch from an aligned base are aligned. -/
theorem row_aligned {base pitch n : Nat} (x : Nat) (hb : base % n = 0) (hp : pitch % n = 0) : (base + x * pitch) % n = 0 :=
  Nat.mod_eq_zero_of_dvd (Nat.dvd_add (Nat.dvd_of_mod_eq_zero hb) ((Nat.dvd_of_mod_eq_zero hp).mul_left x))

/-- WPST refuses copies that meet, and otherwise writes the tile and its transpose at once (R393 to R395). -/
theorem wpst_runs (w : WE) : UniRuns (exec (.wpst w)) (guardYX w.m) w.m 0 ((List.range 4).map fun i => .s (w.a.toNat + i)) fun s t g c r =>
    let d : Nat → DWord := fun i => c.s (w.a.toNat + i)
    let esz := [2, 1, 4, 4].getD (w.sub.toNat % 4) 4
    let row := 16 * esz
    let plain := (d 0).toNat
    let trans := (d 1).toNat
    let pp := fieldOf (d 2) 0 32
    let tp := fieldOf (d 2) 32 32
    let src := fieldOf (d 3) 0 32
    let meet := plain < trans + 15 * tp + row ∧ trans < plain + 15 * pp + row
    (fieldOf (d 3) 32 32 ≠ 0 ∨ meet → s.traps t g r 0x100 0 2) ∧
    (fieldOf (d 3) 32 32 = 0 → ¬ meet → plain % row = 0 → trans % row = 0 → pp % row = 0 → tp % row = 0 → src % 32 = 0 →
      plain + 15 * pp + row ≤ 2 ^ 56 → trans + 15 * tp + row ≤ 2 ^ 56 → src + 256 * esz ≤ 1024 * t.launch.scratch → t.Quiet →
      t.launch.contain = false → ∀ (pa pt : Nat → Nat) (lp lt : Nat → DWord),
      (∀ x < 16, c.reach s .write false (BitVec.ofNat 64 (plain + x * pp)) = some (.local (pa x) (lp x) false) ∧
        c.reach s .write false (BitVec.ofNat 64 (trans + x * tp)) = some (.local (pt x) (lt x) false)) →
      let el : Nat → Nat → List Byte := fun x y => (List.range esz).map fun i => sget 0 t.scratch (src + (16 * x + y) * esz + i)
      let last : Nat → Nat := fun y => (Config.lastRow s.free y).toNat
      let writes := (List.range 16).map (fun x => (pa x, (List.range 16).flatMap fun y => el (if pp = 0 then last y else x) y)) ++
        (List.range 16).map fun y => (pt y, (List.range 16).flatMap fun x => el x (if tp = 0 then last x else y))
      ∃ (S : State) (g' : Group), r = .next (S.acted c.clk t g') ∧ g.Only g' c.clk 0 w.m.words ∧
        ((∀ p ∈ s.posted, p.on g.core = false) → (∀ x < 16, pa x + row ≤ 2 ^ 40 ∧ pt x + row ≤ 2 ^ 40) →
          (∀ key, (∀ x < 16, keyOf (lp x) = key ∧ keyOf (lt x) = key ∧ s.keyed key (pa x) row ∧ s.keyed key (pt x) row) →
          ∀ a, S.homeByte a = (lastStore writes a).getD (s.homeByte a)))) := by
  show UniRuns (fun s => execWpst w s) _ _ _ _ _
  unfold execWpst
  refine uniInstr_runs_eq fun s c r hclk hd hr => ?_
  extract_lets d esz am row plain trans pp tp src plainEnd transEnd rows cols offending high xl xs at_ free at hr
  have hesz : esz = [2, 1, 4, 4].getD (w.sub.toNat % 4) 4 := by
    have : w.sub.toNat % 4 < 4 := Nat.mod_lt _ (by decide)
    dsimp only [esz]
    interval_cases w.sub.toNat % 4 <;> rfl
  have hpos : 0 < esz := by
    have : w.sub.toNat % 4 < 4 := Nat.mod_lt _ (by decide)
    rw [hesz]
    interval_cases w.sub.toNat % 4 <;> decide
  rw [← hesz]
  clear_value esz
  have hrow : row = 16 * esz := rfl
  have hplainEnd : plainEnd = plain + 15 * pp + row - 1 := rfl
  have htransEnd : transEnd = trans + 15 * tp + row - 1 := rfl
  have meets : spansMeet plain plainEnd trans transEnd = true ↔ plain < trans + 15 * tp + row ∧ trans < plain + 15 * pp + row := by
    simp only [spansMeet, Bool.and_eq_true, decide_eq_true_eq]
    omega
  refine ⟨fun (h : fieldOf (d 3) 32 32 ≠ 0 ∨ (plain < trans + 15 * tp + row ∧ trans < plain + 15 * pp + row)) => ?_, ?_⟩
  · rw [if_pos (by simpa [meets] using h)] at hr
    exact hr.symm
  intro (hres : fieldOf (d 3) 32 32 = 0) (hmeet : ¬ (plain < trans + 15 * tp + row ∧ trans < plain + 15 * pp + row))
    (hplain : plain % row = 0) (htrans : trans % row = 0) (hpp : pp % row = 0) (htp : tp % row = 0) (hsrc : src % 32 = 0)
    (hplain56 : plain + 15 * pp + row ≤ 2 ^ 56) (htrans56 : trans + 15 * tp + row ≤ 2 ^ 56)
    (hfit : src + 256 * esz ≤ 1024 * c.t.launch.scratch) hquiet hcontain pa pt lp lt hreach
  have translated : ∀ p ∈ xs, ∃ pa leaf lost, p.2 = .ok pa leaf lost := fun p hp => by
    obtain ⟨q, hq, rfl⟩ := List.mem_map.1 hp
    rcases List.mem_append.1 hq with hq | hq <;> obtain ⟨x, hx, rfl⟩ := List.mem_map.1 hq
    · exact ⟨_, _, _, Ctx.reach_local (hreach x (List.mem_range.1 hx)).1⟩
    · exact ⟨_, _, _, Ctx.reach_local (hreach x (List.mem_range.1 hx)).2⟩
  have hoffending : offending = none := by
    have none_bad : ((rows ++ cols).map (·.1)).filter (fun x => decide (x % row ≠ 0)) = [] := by
      simp only [List.filter_eq_nil_iff, List.mem_map, List.mem_append, rows, cols]
      rintro _ ⟨_, ⟨x, -, rfl⟩ | ⟨x, -, rfl⟩, rfl⟩
      · simp [row_aligned x hplain hpp]
      · simp [row_aligned x htrans htp]
    simp only [offending, none_bad, hsrc, ne_eq, not_true_eq_false, if_false, List.append_nil]
  have hhigh : high = none := (if_neg (by omega)).trans (if_neg (by omega))
  have hrows : at_ rows = (List.range 16).map fun x => { row := x, pa := pa x, leaf := lp x, lost := false } := by
    refine (List.filterMap_map ..).trans (filterMap_range fun x hx => ?_)
    rw [Function.comp_apply, Ctx.reach_local (hreach x hx).1]
  have hcols : at_ cols = (List.range 16).map fun x => { row := x, pa := pt x, leaf := lt x, lost := false } := by
    refine (List.filterMap_map ..).trans (filterMap_range fun x hx => ?_)
    rw [Function.comp_apply, Ctx.reach_local (hreach x hx).2]
  rw [if_neg (by simp [meets, hres, hmeet]), if_neg (by simp [hd])] at hr
  have unmet : ∀ l : List (Nat × Nat), l.findSome? (fun _ => (none : Option (Nat × Nat × Nat))) = none := fun l =>
    List.findSome?_eq_none_iff.2 fun _ _ => rfl
  simp -zeta only [hoffending, hhigh, if_neg (show ¬ 1024 * c.t.launch.scratch < src + 256 * esz by omega), rowStop_none translated,
    Ctx.withScratch_quiet hquiet, hquiet.storeMeets, unmet, hcontain, hrows, hcols, copyWrites_rows, Bool.false_eq_true, if_false] at hr
  extract_lets s1 writes s2 at hr
  have noted : s.Noted s1 := foldl_keeps s.Noted _ (fun b x hb => by
    split
    · exact hb.trans ((b.tlbFill_noted _ _ _ _).trans (State.noteAccess_noted _ _ _ _ _ _))
    · exact hb) xs s (.refl s)
  refine ⟨_, _, hr.symm.trans (congrArg Host.Outcome.next (Ctx.finish_of_clk ?_ _ _)),
    ⟨retire_passed _ _ _ _, rfl, rfl, rfl, rfl, rfl, rfl⟩, fun hposted hwithin key hkey a => ?_⟩
  · exact (State.performTile_clk _ _ _ _).trans (noted.clk.trans hclk)
  have hkey64 : key < 64 := (hkey 0 (by decide)).1 ▸ keyOf_lt _
  have rows_keyed : ∀ w ∈ writes, w.key = key ∧ s2.keyed key w.pa w.data.length := fun w hw => by
    rcases List.mem_append.1 hw with hw | hw <;> obtain ⟨x, hx, at_pa, at_key, size⟩ := mem_tileCopy hw <;>
      obtain ⟨kp, kt, sp, st⟩ := hkey x hx <;> rw [at_pa, at_key, size]
    · exact ⟨kp, noted.keyed hkey64 sp⟩
    · exact ⟨kt, noted.keyed hkey64 st⟩
  have rows_within : ∀ w ∈ writes, w.pa < 2 ^ 40 ∧ w.pa + w.data.length ≤ 2 ^ 40 := fun w hw => by
    rcases List.mem_append.1 hw with hw | hw <;> obtain ⟨x, hx, at_pa, -, size⟩ := mem_tileCopy hw <;>
      obtain ⟨hp, ht⟩ := hwithin x hx <;> rw [at_pa, size]
    · exact ⟨by omega, hp⟩
    · exact ⟨by omega, ht⟩
  have stores : writes.map (fun w => (w.pa, w.data)) = _ :=
    List.map_append.trans (congrArg₂ (· ++ ·) (tileCopy_stores ..) (tileCopy_stores ..))
  rw [State.performTile_stores (s := s2) (noted.posted ▸ hposted) rows_keyed rows_within, stores,
    show s2.homeByte a = s.homeByte a from noted.homeByte a]
  rfl

end Sys2Proof.Machine
end

section
/-! PROOFS. OPTAW, SHARD and STEPRD (R47, R396 to R398, R407), and the obligation on the optimizer's instructions. -/

namespace Sys2Proof.Machine

/-! ### OPTAW (R396, R397) -/

theorem optaw_writes (w : W3) : LaneWrites (exec (.optaw w)) (guard3 w) w.m w.s.toNat 0 w.d 4
    (fun ln => laneLocs ln w.a 4 ++ (List.range 4).map fun i => .s (w.b.toNat + i)) fun c ln =>
      adamw c.t.launch.ftz (hyper ((List.range 4).map fun i => c.s (w.b.toNat + i))) (c.laneWord ln w.a 0).toNat
        (c.laneWord ln w.a 1).toNat (c.laneWord ln w.a 2).toNat (c.laneWord ln w.a 3).toNat := by
  have lanes := laneInstr_writes (guard3 w) w.m w.s.toNat 0 w.d 4
    (fun ln => laneLocs ln w.a 4 ++ (List.range 4).map fun i => .s (w.b.toNat + i)) (fun c ln =>
      adamw c.t.launch.ftz (hyper ((List.range 4).map fun i => c.s (w.b.toNat + i))) (c.laneWord ln w.a 0).toNat
        (c.laneWord ln w.a 1).toNat (c.laneWord ln w.a 2).toNat (c.laneWord ln w.a 3).toNat) fun _ _ => List.length_map _
  exact lanes.of_run fun _ => rfl

/-! ### SHARD (R47, R398) -/

theorem State.inTopo_iff (s : State) (dev : Nat) : s.inTopo dev = true ↔
    ∃ j < 256, bitAt (s.reg (0x200 + j)) 15 = true ∧ fieldOf (s.reg (0x200 + j)) 0 8 = dev := by
  simp only [State.inTopo, List.any_eq_true, List.mem_range, Bool.and_eq_true, decide_eq_true_eq]
  rfl

theorem shard_writes (w : W3) {s : State} {t : Team} {g : Group} (hi : s.issuing t g)
    (h : (laneCtx s t g (guard3 w) w.m fun ln => laneLocs ln w.a 2).operandTrap (guard3 w) (fun ln => laneLocs ln w.a 2) = none) :
    let c := laneCtx s t g (guard3 w) w.m fun ln => laneLocs ln w.a 2
    ∃ t' g', exec (.shard w) s = .next (s.acted c.clk t' g') ∧
      c.Written 0 w.d 1 (c.exec (guard3 w)) (fun ln => ([s.shardWord (c.l64 ln w.a)], 0)) t' g' ∧
      g.Passed g' c.clk w.s.toNat w.m.words ∧ ∀ a, (s.acted c.clk t' g').homeByte a = s.homeByte a := by
  have lanes := laneInstr_writes (guard3 w) w.m w.s.toNat 0 w.d 1 (fun ln => laneLocs ln w.a 2)
    (fun c ln => ([s.shardWord (c.l64 ln w.a)], 0)) fun _ _ => rfl
  exact lanes s t g hi h trivial

/-! ### STEPRD (R407) -/

theorem steprd_runs (w : W3) : UniRuns (exec (.steprd w)) (guardY w) w.m w.s.toNat (uniLocs w.a) fun s t g c r =>
    (3 ≤ (c.u w.a).toNat → s.traps t g r 0x100 0 2) ∧
    ((c.u w.a).toNat < 3 → ∃ g', r = .next (s.acted c.clk t g') ∧ g.WroteS g' t c.clk w.s.toNat w.m.words 0 w.d.toNat
      ([s.reg 0x013, s.reg 0x010, BitVec.ofNat 64 (s.part t.part).collIndex].getD (c.u w.a).toNat 0)) := by
  show UniRuns (fun s => execSteprd w s) _ _ _ _ _
  unfold execSteprd
  refine uniInstr_runs_ctx fun s c hclk => ?_
  have answers : ∀ v : DWord, ∃ g', (Host.Outcome.next ((c.setS 0 w.d.toNat v).finish s w.s.toNat w.m.words) : Res) =
      .next (s.acted c.clk c.t g') ∧ c.g.WroteS g' c.t c.clk w.s.toNat w.m.words 0 w.d.toNat v := fun v =>
    ⟨_, congrArg Host.Outcome.next (Ctx.finish_of_clk (c := c.setS 0 w.d.toNat v) hclk _ _), c.setS_wroteS _ _ _ _ _⟩
  dsimp only
  generalize (c.u w.a).toNat = n
  match n with
  | 0 => exact ⟨fun h => absurd h (by decide), fun _ => answers _⟩
  | 1 => exact ⟨fun h => absurd h (by decide), fun _ => answers _⟩
  | 2 => exact ⟨fun h => absurd h (by decide), fun _ => answers _⟩
  | n + 3 => exact ⟨fun _ => rfl, fun h => absurd h (by omega)⟩

/-- Settles O45: OPTAW and SHARD write one quad and one word per lane, WPST and STEPRD run as their own theorems say; what is
left is to read the rule's AdamW step and owner hash off the model's. -/
theorem optimizerSteps : Obligations.OptimizerSteps := by
  refine ⟨fun w => ?optaw, fun w s t g hi => ?shard, wpst_runs, steprd_runs⟩
  case optaw =>
    convert optaw_writes w using 3 with c ln
    unfold adamw
    extract_lets
    simp only [List.foldl_cons, List.foldl_nil, BitVec.ofNat_eq_ofNat, BitVec.zero_or]
    rfl
  case shard =>
    intro c h
    obtain ⟨t', g', hrun, hwritten, hpassed, hmem⟩ := shard_writes w hi h
    refine ⟨t', g', hrun, hpassed, hmem, ?_⟩
    convert hwritten using 3 with ln
    unfold State.shardWord ownerHash
    simp only [State.inTopo_iff, Nat.mul_comm (2 ^ 16)]
    rfl
end Sys2Proof.Machine
end

section
/-! SUPPORT. The completion of a collective: the words of agreement (R404), what has arrived at each position, and the state in
which a collective ends (R399, R402). -/

namespace Sys2Proof.Machine

/-! ### The words of agreement (R404) -/

/-- A fold that stays 0 only where every step leaves 0 as it stands. -/
theorem foldl_eq_zero_iff {α : Type} {f : Nat → α → Nat} {P : α → Prop} (h : ∀ m x, f m x = 0 ↔ m = 0 ∧ P x) (l : List α) (m : Nat) :
    l.foldl f m = 0 ↔ m = 0 ∧ ∀ x ∈ l, P x := by
  induction l generalizing m with
  | nil => simp
  | cons x l ih => rw [List.foldl_cons, ih, h, List.forall_mem_cons, and_assoc]

/-- The bits of all differences are 0 only where no two contributions differ. -/
theorem differences_eq_zero_iff (xs : List Contribution) :
    xs.foldl (fun m z => xs.foldl (fun m y => m ||| z.differs y) m) 0 = 0 ↔ ∀ z ∈ xs, ∀ y ∈ xs, z.differs y = 0 := by
  rw [foldl_eq_zero_iff (P := fun z => ∀ y ∈ xs, z.differs y = 0) fun m z =>
    foldl_eq_zero_iff (P := fun y => z.differs y = 0) (fun m y => Nat.or_eq_zero_iff) xs m]
  simp

theorem mismatch_cons_eq_zero_iff (z : Contribution) (rest : List Contribution) :
    mismatch (z :: rest) = 0 ↔ ∀ y ∈ rest, z.differs y = 0 := by
  unfold mismatch
  dsimp only
  split
  · next y hy =>
    have hd : z.differs y ≠ 0 := by simpa using List.find?_some hy
    have hmem := List.mem_of_find?_eq_some hy
    exact ⟨fun h0 => absurd ((differences_eq_zero_iff _).1 (Nat.add_eq_zero_iff.1 h0).1 z List.mem_cons_self y
      (List.mem_cons_of_mem z hmem)) hd, fun h => absurd (h y hmem) hd⟩
  · next hn => simpa using List.find?_eq_none.1 hn

theorem Contribution.differs_of_index {a b : Contribution} (h : a.index ≠ b.index) : a.differs b ≠ 0 := by
  have set : decide (a.index ≠ b.index) = true := decide_eq_true h
  unfold Contribution.differs
  simp only [set, if_true]
  split_ifs <;> simp

/-- A contribution to this device's collective agrees with it (R404). -/
def Contribution.Agrees (x : Contribution) (s : State) (c : Collective) : Prop :=
  x.kind = c.kind ∧ x.form = c.form ∧ x.shape = c.shape ∧ x.index = c.index ∧
    (c.kind = 1 → x.step = s.reg 0x013 ∧ x.ver.toNat = fieldOf (s.reg 0x010) 0 32 ∧ x.hash = s.reg 0x00A)

theorem fieldOf_lt {n : Nat} (w : BitVec n) (lo len : Nat) : fieldOf w lo len < 2 ^ len := BitVec.isLt _

theorem State.agreement_agrees (s : State) (c : Collective) (pos : Nat) : (s.agreement c pos).Agrees s c :=
  ⟨rfl, rfl, rfl, rfl, fun _ => ⟨rfl, Nat.mod_eq_of_lt (fieldOf_lt _ _ _), rfl⟩⟩

theorem Contribution.Agrees.differs {x y : Contribution} {s : State} {c : Collective} (hx : x.Agrees s c) (hy : y.Agrees s c)
    (hc : c.kind ≤ 1) : x.differs y = 0 := by
  obtain ⟨xk, xf, xs, xi, xw⟩ := hx
  obtain ⟨yk, yf, ys, yi, yw⟩ := hy
  unfold Contribution.differs
  rcases Nat.le_one_iff_eq_zero_or_eq_one.1 hc with hc | hc
  · simp [xk, yk, xf, yf, xs, ys, xi, yi, hc]
  · obtain ⟨xst, xv, xh⟩ := xw hc
    obtain ⟨yst, yv, yh⟩ := yw hc
    have hv : x.ver = y.ver := BitVec.eq_of_toNat_eq (xv.trans yv.symm)
    simp [xk, yk, xf, yf, xs, ys, xi, yi, xst, yst, hv, xh, yh, hc]

theorem mismatch_of_agrees {xs : List Contribution} {s : State} {c : Collective} (h : ∀ x ∈ xs, x.Agrees s c) (hc : c.kind ≤ 1) :
    mismatch xs = 0 := by
  cases xs with
  | nil => rfl
  | cons z rest =>
    exact (mismatch_cons_eq_zero_iff z rest).2 fun y hy => (h z List.mem_cons_self).differs (h y (List.mem_cons_of_mem _ hy)) hc

/-- Contributions of two indices do not agree (R399). -/
theorem mismatch_of_index {xs : List Contribution} {x y : Contribution} (hx : x ∈ xs) (hy : y ∈ xs) (h : x.index ≠ y.index) :
    mismatch xs ≠ 0 := by
  cases xs with
  | nil => cases hx
  | cons z rest =>
    intro h0
    have same : ∀ u ∈ z :: rest, u.index = z.index := fun u hu => by
      rcases List.mem_cons.1 hu with rfl | hu
      · rfl
      · by_contra hne
        exact Contribution.differs_of_index (Ne.symm hne) ((mismatch_cons_eq_zero_iff z rest).1 h0 u hu)
    exact h ((same x hx).trans (same y hy).symm)

/-! ### The contributions of a collective (R399, R402, R404) -/

/-- The contributions of the other positions that have arrived (R44). -/
def State.collPeers (s : State) (pos : Nat) : List Contribution := s.request.contribs.filter fun x => decide (x.pos ≠ pos) && !x.waits s

/-- The state in which this device reads its source: its bytes come under the keys of its pages (R56). -/
def State.sourced (s : State) (c : Collective) : State := c.src.foldl (fun s p => s.rekey p.key false p.pa p.n) s

/-- What stands at a position, where it has arrived. -/
def State.collPart (s : State) (c : Collective) (pos j : Nat) : Option (Contribution × Marked) :=
  if j = pos then some (s.agreement c pos, (s.sourced c).collSource c.core c.src)
  else ((s.collPeers pos).find? fun x => decide (x.pos = j)).map fun x => (x, x.received s s.request.k)

/-- What has arrived, in the order of the positions. -/
def State.collParts (s : State) (c : Collective) (pos : Nat) : List (Contribution × Marked) :=
  (List.range (s.rfield 0x009 0 9)).filterMap (s.collPart c pos)

/-- Whether an access that the collective makes here is held (R18). -/
def State.collHeld (s : State) (c : Collective) : Bool :=
  (c.src ++ s.collPieces s.request.k c ++ (if c.kind = 1 ∧ c.form ≠ 1 then s.retirePieces s.request.k else [])).any s.pieceHeld

/-- The state in which a collective whose peers agree waits (R406). -/
def State.collAgreed (s : State) (c : Collective) : State :=
  s.setPart s.request.k { s.part s.request.k with coll := some { c with agreed := true } }

/-- The state after a collective has done its work here: its links' entries, its answer and its end. -/
def State.collFinished (s S : State) (c : Collective) (pos : Nat) (v : DWord) : State :=
  (((S.logLinks s.request.k c.index (s.collPeers pos)).answerColl s.request.k c v).endColl s.request.k)

/-- The value of the only member that has one. -/
theorem findSome?_one {α β : Type} {l : List α} {f : α → Option β} {a : α} {b : β} (ha : a ∈ l) (hb : f a = some b)
    (h : ∀ x ∈ l, x ≠ a → f x = none) : l.findSome? f = some b := by
  induction l with
  | nil => cases ha
  | cons x l ih =>
    rw [List.findSome?_cons]
    by_cases hx : x = a
    · rw [hx, hb]
    · rw [h x List.mem_cons_self hx]
      exact ih ((List.mem_cons.1 ha).resolve_left (Ne.symm hx)) fun y hy => h y (List.mem_cons_of_mem _ hy)

/-! ### The end of a collective (R45, R399, R403) -/

theorem State.applyShared_regs (s : State) (i : Nat) (v : DWord) : ∃ regs, s.applyShared i v = { s with regs := regs } := by
  unfold State.applyShared
  dsimp only
  split_ifs <;> exact ⟨_, rfl⟩

/-- The held writes that apply write registers. -/
theorem State.applyHeld_regs (s : State) : ∃ regs held, s.applyHeld = { s with regs := regs, heldWrites := held } := by
  unfold State.applyHeld
  refine foldl_keeps (fun S => ∃ regs held, S = { s with regs := regs, heldWrites := held }) _ (fun S w hS => ?_) _ _ ?_
  · obtain ⟨regs, held, rfl⟩ := hS
    obtain ⟨regs', h⟩ := State.applyShared_regs { s with regs := regs, heldWrites := held } w.reg w.value
    exact ⟨regs', held, h⟩
  · exact ⟨s.regs, _, rfl⟩

theorem State.endColl_eq (s : State) (k : Nat) : ∃ regs held, s.endColl k =
    { s.setPart k { s.part k with coll := none, collIndex := (s.part k).collIndex + 1 } with regs := regs, heldWrites := held } :=
  State.applyHeld_regs _

@[simp] theorem State.endColl_teams (s : State) (k : Nat) : (s.endColl k).teams = s.teams := by
  obtain ⟨regs, held, h⟩ := s.endColl_eq k
  rw [h]; rfl

theorem State.endColl_part (s : State) (k : Nat) : (s.endColl k).part k = { s.part k with coll := none, collIndex := (s.part k).collIndex + 1 } := by
  obtain ⟨regs, held, h⟩ := s.endColl_eq k
  rw [h]
  exact sget_sset_same _ _ _ _

theorem State.endColl_hbm (s : State) (k : Nat) {a : Nat} (ha : a < 2 ^ 40) : (s.endColl k).homeByte a = s.homeByte a := by
  obtain ⟨regs, held, h⟩ := s.endColl_eq k
  rw [State.homeByte_mem _ (.inl ha), State.homeByte_mem _ (.inl ha), h]
  rfl

theorem State.endColl_reg {s : State} (h : s.heldWrites = []) (k i : Nat) : (s.endColl k).reg i = s.reg i := by
  show (State.applyHeld _).reg i = _
  rw [State.applyHeld_nil (by exact h)]
  rfl

section
variable {s : State} {c : Collective} {pos : Nat} (hc : (s.part s.request.k).coll = some c) (hp : s.self? = some pos)
include hc hp

theorem collectiveComplete_waits (hn : (s.collParts c pos).length ≠ s.rfield 0x009 0 9) (hi : ∀ x ∈ s.collParts c pos, x.1.index = c.index) :
    exec .collectiveComplete s = .next s := by
  have stays : ((s.collParts c pos).length ≠ s.rfield 0x009 0 9 && !(s.collParts c pos).any fun x => decide (x.1.index ≠ c.index)) = true := by
    simpa [hn] using fun a b h => hi (a, b) h
  rw [exec_collectiveComplete, execCollectiveComplete]
  simp only [hc, hp]
  exact if_pos stays

/-- Past the wait for its peers a collective does what their agreement decides. -/
theorem collectiveComplete_goes (h : (s.collParts c pos).length = s.rfield 0x009 0 9 ∨ ∃ x ∈ s.collParts c pos, x.1.index ≠ c.index) :
    exec .collectiveComplete s =
      if mismatch ((s.collParts c pos).map (·.1)) ≠ 0 then
        if (s.part s.request.k).saved.any fun t => (t.collGroup c).isSome then .next s
        else
          match (s.endColl s.request.k).teams.findSome? fun t => (t.collGroup c).map fun g => (t, g) with
          | some (t, g) => .next ((s.endColl s.request.k).takeTrap t g
              { cause := 0x0112, mask := g.activeMask, detail := BitVec.ofNat 64 (mismatch ((s.collParts c pos).map (·.1))) })
          | none => .next (s.endColl s.request.k)
      else if s.collHeld c then .next (s.collAgreed c)
      else
        match ((s.sourced c).collRelease s.request.k c).performColl s.request.k c pos ((s.collParts c pos).map (·.2)) with
        | none => .next (s.collAgreed c)
        | some (S, v) => .next (if c.kind = 1 then (s.collFinished S c pos v).raise 8 else s.collFinished S c pos v) := by
  have goes : ¬ ((s.collParts c pos).length ≠ s.rfield 0x009 0 9 && !(s.collParts c pos).any fun x => decide (x.1.index ≠ c.index)) = true := by
    rcases h with h | ⟨x, hx, h⟩
    · simp [h]
    · simpa using fun _ => ⟨x.1, ⟨x.2, hx⟩, h⟩
  rw [exec_collectiveComplete, execCollectiveComplete]
  simp only [hc, hp]
  refine (if_neg goes).trans ?_
  rfl

/-- A peer's agreement that does not match ends the collective with a trap of its group (R404). -/
theorem collectiveComplete_traps (h : (s.collParts c pos).length = s.rfield 0x009 0 9 ∨ ∃ x ∈ s.collParts c pos, x.1.index ≠ c.index)
    (hm : mismatch ((s.collParts c pos).map (·.1)) ≠ 0) (hsaved : ∀ t ∈ (s.part s.request.k).saved, t.collGroup c = none)
    {t : Team} {g : Group} (ht : t ∈ s.teams) (hg : t.collGroup c = some g) (hone : ∀ t' ∈ s.teams, t' ≠ t → t'.collGroup c = none) :
    exec .collectiveComplete s = .next ((s.endColl s.request.k).takeTrap t g
      { cause := 0x112, mask := g.activeMask, detail := BitVec.ofNat 64 (mismatch ((s.collParts c pos).map (·.1))) }) := by
  have unsaved : ¬ ((s.part s.request.k).saved.any fun t => (t.collGroup c).isSome) = true := by
    simpa using hsaved
  have waiter : (s.endColl s.request.k).teams.findSome? (fun t => (t.collGroup c).map fun g => (t, g)) = some (t, g) := by
    rw [State.endColl_teams]
    exact findSome?_one ht (by rw [hg]; rfl) fun t' ht' hne => by rw [hone t' ht' hne]; rfl
  rw [collectiveComplete_goes hc hp h, if_pos hm, if_neg unsaved, waiter]

/-- A collective whose peers agree, none of whose accesses is held, does its work, or waits for a retire (R401, R405, R406). -/
theorem collectiveComplete_agrees (hn : (s.collParts c pos).length = s.rfield 0x009 0 9) (hm : mismatch ((s.collParts c pos).map (·.1)) = 0)
    (hh : ∀ p ∈ c.src ++ s.collPieces s.request.k c ++ (if c.kind = 1 ∧ c.form ≠ 1 then s.retirePieces s.request.k else []), s.pieceHeld p = false) :
    exec .collectiveComplete s =
      match ((s.sourced c).collRelease s.request.k c).performColl s.request.k c pos ((s.collParts c pos).map (·.2)) with
      | none => .next (s.collAgreed c)
      | some (S, v) => .next (if c.kind = 1 then (s.collFinished S c pos v).raise 8 else s.collFinished S c pos v) := by
  have free : ¬ s.collHeld c = true := by
    unfold State.collHeld
    rw [Bool.not_eq_true, List.any_eq_false]
    exact fun p hp => by simp [hh p hp]
  rw [collectiveComplete_goes hc hp (.inl hn), if_neg (by simp [hm]), if_neg free]

end

/-! ### Where every position's contribution has arrived -/

theorem State.self?_lt {s : State} {pos : Nat} (h : s.self? = some pos) : pos < s.rfield 0x009 0 9 := by
  unfold State.self? at h
  dsimp only at h
  split at h
  · have lt := (List.findIdx?_eq_some_iff_getElem.1 h).1
    simpa [State.topo] using lt
  · cases h

/-- The first contribution of a position among the peers, where no link of one is down. -/
theorem State.collPeers_find {s : State} {pos j : Nat} (hw : ∀ x ∈ s.request.contribs, x.pos ≠ pos → x.waits s = false) (hj : j ≠ pos) :
    ((s.collPeers pos).find? fun x => decide (x.pos = j)) = s.request.contribs.find? fun x => decide (x.pos = j) := by
  rw [State.collPeers, List.find?_filter]
  refine List.find?_congr fun x hx => ?_
  by_cases h : x.pos = j
  · have hne : x.pos ≠ pos := h ▸ hj
    simp [hw x hx hne, hne]
  · simp [h]

/-- The agreement words that have arrived. -/
theorem State.collParts_fst (s : State) (c : Collective) (pos : Nat) : (s.collParts c pos).map (·.1) =
    (List.range (s.rfield 0x009 0 9)).filterMap fun j => if j = pos then some (s.agreement c pos)
      else s.request.contribs.find? fun x => x.pos ≠ pos ∧ x.waits s = false ∧ x.pos = j := by
  rw [State.collParts, List.map_filterMap]
  refine List.filterMap_congr fun j _ => ?_
  unfold State.collPart
  split
  · rfl
  · rw [Option.map_map, State.collPeers, List.find?_filter]
    refine (congrFun Option.map_id _).trans (List.find?_congr fun x _ => ?_)
    cases x.waits s <;> simp

/-- What stands at a position where everything has arrived. -/
def State.collAt (s : State) (c : Collective) (pos j : Nat) : Contribution × Marked := (s.collPart c pos j).getD (s.agreement c pos, [])

section
variable {s : State} {pos : Nat} (hw : ∀ x ∈ s.request.contribs, x.pos ≠ pos → x.waits s = false)
  (ha : ∀ j < s.rfield 0x009 0 9, j ≠ pos → (s.request.contribs.find? fun x => decide (x.pos = j)) ≠ none)
include hw ha

theorem State.collParts_all (c : Collective) : s.collParts c pos = (List.range (s.rfield 0x009 0 9)).map (s.collAt c pos) := by
  refine filterMap_range fun j hj => ?_
  unfold State.collAt State.collPart
  split
  · rfl
  · next hne =>
    obtain ⟨x, hx⟩ := Option.ne_none_iff_exists'.1 (ha j hj hne)
    rw [State.collPeers_find hw hne, hx]
    rfl

theorem State.collParts_agree {c : Collective} (h : ∀ j < s.rfield 0x009 0 9, j ≠ pos → ∀ x,
    (s.request.contribs.find? fun x => decide (x.pos = j)) = some x → x.Agrees s c) : ∀ x ∈ (s.collParts c pos).map (·.1), x.Agrees s c := by
  rw [State.collParts_all hw ha, List.map_map]
  intro x hx
  obtain ⟨j, hj, rfl⟩ := List.mem_map.1 hx
  have hj := List.mem_range.1 hj
  unfold State.collAt State.collPart
  rw [Function.comp_apply]
  split
  · exact s.agreement_agrees c pos
  · next hne =>
    obtain ⟨x, hx⟩ := Option.ne_none_iff_exists'.1 (ha j hj hne)
    rw [State.collPeers_find hw hne, hx]
    exact h j hj hne x hx

omit ha in
theorem State.collParts_words (c : Collective) : (s.collParts c pos).map (·.1) = (List.range (s.rfield 0x009 0 9)).filterMap fun j =>
    if j = pos then some (s.agreement c pos) else s.request.contribs.find? fun x => decide (x.pos = j) := by
  rw [State.collParts, List.map_filterMap]
  refine List.filterMap_congr fun j _ => ?_
  unfold State.collPart
  split
  · rfl
  · next hne => rw [Option.map_map, State.collPeers_find hw hne]; exact congrFun Option.map_id _

end

theorem Contribution.received_bytes (x : Contribution) (s : State) (k : Nat) : (x.received s k).map (·.1) = x.data := by
  have marked : x.marked.map (·.1) = x.data := by
    unfold Contribution.marked
    refine List.ext_getElem (by simp) fun i h1 h2 => ?_
    simp [List.getElem?_eq_getElem h2]
  have poisoned : (x.marked.map fun b => (b.1, true)).map (·.1) = x.data := by rw [List.map_map]; exact marked
  unfold Contribution.received
  exact iteInduction (motive := fun m : Marked => m.map (·.1) = x.data) (fun _ => poisoned) fun _ => marked

/-- The bytes of a position: its source or what its contribution carries. -/
theorem State.collAt_bytes {s : State} {pos : Nat} (hw : ∀ x ∈ s.request.contribs, x.pos ≠ pos → x.waits s = false) (c : Collective) (j : Nat) :
    (s.collAt c pos j).2.map (·.1) = if j = pos then ((s.sourced c).collSource c.core c.src).map (·.1)
      else ((s.request.contribs.find? fun x => decide (x.pos = j)).map (·.data)).getD [] := by
  unfold State.collAt State.collPart
  split
  · rfl
  · next hne =>
    rw [State.collPeers_find hw hne]
    cases s.request.contribs.find? fun x => decide (x.pos = j) with
    | none => rfl
    | some x => exact x.received_bytes s s.request.k

end Sys2Proof.Machine
end

section
/-! SUPPORT. What a collective's work leaves alone, the retire of a version (R377), and the answer to the group (R402). -/

namespace Sys2Proof.Machine

/-! ### What a collective's work leaves alone -/

theorem State.part_congr {s S : State} (h : S.parts = s.parts) (k : Nat) : S.part k = s.part k := congrArg (fun m => sget ({} : Part) m k) h

/-- From one state to another no team, no partition and no held write changes, and of the registers at most INTPEND and the
Cellar's entries. -/
structure State.Beside (s S : State) : Prop where
  teams : S.teams = s.teams
  parts : S.parts = s.parts
  held : S.heldWrites = s.heldWrites
  reg : ∀ i, i ≠ 0x0E9 → ¬ (0x038 ≤ i ∧ i < 0x048) → S.reg i = s.reg i

namespace State.Beside
variable {s S T : State}

theorem refl (s : State) : s.Beside s := ⟨rfl, rfl, rfl, fun _ _ _ => rfl⟩

theorem trans (h : s.Beside S) (h' : S.Beside T) : s.Beside T :=
  ⟨h'.teams.trans h.teams, h'.parts.trans h.parts, h'.held.trans h.held, fun i h1 h2 => (h'.reg i h1 h2).trans (h.reg i h1 h2)⟩

theorem foldl {α : Type} {f : State → α → State} (l : List α) (h : ∀ (s : State), ∀ a ∈ l, s.Beside (f s a)) (s : State) :
    s.Beside (l.foldl f s) := by
  induction l generalizing s with
  | nil => exact .refl s
  | cons a l ih =>
    obtain ⟨first, others⟩ := forall_and.1 fun s => List.forall_mem_cons.1 (h s)
    exact (first s).trans (ih others (f s a))

theorem of_rest (h : S.rest = s.rest) : s.Beside S :=
  ⟨State.rest_teams h, State.rest_parts h, State.rest_heldWrites h, fun i _ _ => State.reg_rest h i⟩

theorem of_logsTo (h : s.LogsTo S) : s.Beside S := by
  obtain ⟨_, _, _, _, _, _, _, rfl, hreg⟩ := h
  exact ⟨rfl, rfl, rfl, fun i hi _ => hreg i hi⟩

end State.Beside

theorem State.performWhere_beside (s : State) (f : Posted → Bool) : s.Beside (s.performWhere f) :=
  .trans (S := { s with posted := (takePosted f s.posted.reverse [] []).2 }) ⟨rfl, rfl, rfl, fun _ _ _ => rfl⟩
    (.of_rest (State.performAll_rest _ _))

theorem State.performWhere_reg (s : State) (f : Posted → Bool) (i : Nat) : (s.performWhere f).reg i = s.reg i :=
  State.reg_rest (s := { s with posted := (takePosted f s.posted.reverse [] []).2 }) (State.performAll_rest _ _) i

theorem State.noteAccess_beside (s : State) (pa key k unit : Nat) (byCore : Bool) : s.Beside (s.noteAccess pa key k unit byCore) := by
  obtain ⟨keys, -, h⟩ := s.noteAccess_logsTo pa key k unit byCore
  exact .trans (S := { s with keys := keys }) ⟨rfl, rfl, rfl, fun _ _ _ => rfl⟩ (.of_logsTo h)

theorem State.sourced_rest (s : State) (c : Collective) : (s.sourced c).rest = s.rest := foldl_rest _ (fun _ _ => State.rekey_rest _ _ _ _ _) _ _

theorem State.collRelease_beside (s : State) (k : Nat) (c : Collective) : s.Beside (s.collRelease k c) := by
  refine .trans ?_ (State.performWhere_beside _ _)
  refine iteInduction (motive := s.Beside) (fun _ => .refl s) fun _ => ?_
  split
  · exact State.performWhere_beside _ _
  · exact .refl s

theorem State.landMarked_rest (s : State) (key pa : Nat) (bs : Marked) : (s.landMarked key pa bs).rest = s.rest := by
  refine (foldl_rest _ (fun s p => ?_) _ _).trans (State.rekey_rest _ _ _ _ _)
  have put : ((runsOf p.2.1).foldl (fun s r => s.putBytes r.1 r.2) s).rest = s.rest := foldl_rest _ (fun _ _ => State.putBytes_rest _ _ _) _ _
  dsimp only
  split_ifs
  · exact (State.setPoison_rest _ _ _).trans put
  · exact (State.setPoison_rest _ _ _).trans put
  · exact put

theorem State.landColl_rest (s : State) (bs : Marked) (ps : List Piece) : (s.landColl bs ps).rest = s.rest := by
  induction ps generalizing s bs with
  | nil => rfl
  | cons p ps ih =>
    refine (ih _ _).trans ?_
    split
    · rfl
    · exact s.landMarked_rest _ _ _

theorem State.notePieces_beside (s : State) (k : Nat) (ps : List Piece) : s.Beside (s.notePieces k ps) := by
  unfold State.notePieces
  refine .trans ?_ (.foldl _ (fun _ _ _ => State.noteAccess_beside _ _ _ _ _ _) _)
  split
  · exact .of_logsTo (s.addLog_logsTo _)
  · exact .refl s

theorem State.gather_rest (s : State) (k : Nat) (xs : List Marked) (stage : DWord) (n : Nat) : (s.gather k xs stage n).rest = s.rest := by
  refine foldl_rest _ (fun s i => ?_) _ _
  split
  · rfl
  · exact s.landColl_rest _ _

/-- The links' entries of a collective go to the log alone (R43, R55). -/
theorem State.logLinks_logsTo (s : State) (k index : Nat) (xs : List Contribution) : s.LogsTo (s.logLinks k index xs) := by
  have logs : ∀ (f : Nat → LogEntry) (l : List Nat) (S : State), S.LogsTo (l.foldl (fun s x => s.addLog (f x)) S) := fun f l S =>
    foldl_keeps S.LogsTo _ (fun b x hb => hb.trans (b.addLog_logsTo (f x))) l S (.refl S)
  exact (logs _ _ _).trans (logs _ _ _)

/-! ### The retire of a version (R377, R405) -/

theorem State.setCellar_beside (s : State) {i : Nat} (lo n v : Nat) (h : 0x038 ≤ i ∧ i < 0x048) : s.Beside (s.setRfield i lo n v) :=
  ⟨rfl, rfl, rfl, fun j _ hj => State.setRfield_reg_ne _ _ _ _ (by rintro rfl; exact hj h)⟩

/-- A retire keeps VCUR.VER and leaves VCUR.HOLD 0. -/
theorem State.retireVersion_gives {s S : State} {k : Nat} (h : s.retireVersion k = some S) :
    (S = s ∧ s.rfield 0x010 32 7 = 0) ∨ ∃ T, s.Beside T ∧ (T.setRfield 0x010 32 7 0).Beside S := by
  unfold State.retireVersion at h
  dsimp only at h
  split at h
  · split at h
    · next h0 => exact .inl ⟨(Option.some.inj h).symm, h0⟩
    · cases h
  · split at h
    · cases h
    · have entry : ∀ v, 0x038 ≤ 0x038 + v % 16 ∧ 0x038 + v % 16 < 0x048 := fun v => by omega
      obtain rfl := Option.some.inj h
      refine .inr ⟨_, ?_, State.Beside.foldl _ (fun s j hj => ?_) _⟩
      · refine .trans ?_ (State.setCellar_beside _ _ _ _ (entry _))
        refine .trans ?_ (State.setCellar_beside _ _ _ _ (entry _))
        refine .trans ?_ (State.setCellar_beside _ _ _ _ (entry _))
        refine .trans ?_ (State.Beside.foldl _ (fun s n _ => .of_rest ((State.landColl_rest _ _ _).trans (State.rekey_rest _ _ _ _ _))) _)
        exact .trans (s.setCellar_beside _ _ _ (entry _)) (State.notePieces_beside _ _ _)
      · exact iteInduction (fun _ => s.setCellar_beside _ _ _ (by have := List.mem_range.1 hj; omega)) fun _ => .refl s

theorem State.retireVersion_spec {s S : State} {k : Nat} (h : s.retireVersion k = some S) :
    S.teams = s.teams ∧ S.parts = s.parts ∧ S.heldWrites = s.heldWrites ∧ S.reg 0x013 = s.reg 0x013 ∧
      fieldOf (S.reg 0x010) 0 32 = fieldOf (s.reg 0x010) 0 32 ∧ fieldOf (S.reg 0x010) 32 7 = 0 := by
  rcases State.retireVersion_gives h with ⟨rfl, h0⟩ | ⟨T, hT, hS⟩
  · exact ⟨rfl, rfl, rfl, rfl, rfl, h0⟩
  · have vcur : S.reg 0x010 = setField (s.reg 0x010) 32 7 0 := by
      rw [hS.reg _ (by decide) (by decide), State.setRfield_reg_same, hT.reg _ (by decide) (by decide)]
    refine ⟨hS.teams.trans hT.teams, hS.parts.trans hT.parts, hS.held.trans hT.held, ?_, ?_, ?_⟩
    · rw [hS.reg _ (by decide) (by decide), State.setRfield_reg_ne _ _ _ _ (by decide), hT.reg _ (by decide) (by decide)]
    · rw [vcur, fieldOf_setField_disjoint _ _ (by decide) (.inl (by decide))]
    · rw [vcur, fieldOf_setField_same _ _ (by decide), Nat.zero_mod]

/-! ### The answer to the group (R402) -/

/-- The group of a completed collective in its team goes on. -/
def Group.passColl (g : Group) (c : Collective) (v : DWord) (clk : Nat) : Group := (g.answered c v).retire clk 0 c.words

/-- A collective of a partition has ended with a value: the partition counts it, and each resident group that waited on it
goes on with the value in its register. -/
structure State.Answers (s S : State) (k : Nat) (c : Collective) (v : DWord) : Prop where
  coll : (S.part k).coll = none
  index : (S.part k).collIndex = (s.part k).collIndex + 1
  groups : ∀ t g, t ∈ s.teams ∧ t.collGroup c = some g → ∃ g', t.putGroup g' ∈ S.teams ∧ g'.num = g.num ∧
    g'.pc = g.pc + BitVec.ofNat 64 (4 * c.words) ∧ g'.wait = .none ∧ ∀ i, sget 0 g'.sregs i = if i = c.dest then v else sget 0 g.sregs i

theorem State.Answers.logsTo {s S T : State} {k : Nat} {c : Collective} {v : DWord} (h : s.Answers S k c v) (hl : S.LogsTo T) :
    s.Answers T k c v := by
  have hp : T.part k = S.part k := State.part_congr hl.parts k
  exact ⟨hp ▸ h.coll, hp ▸ h.index, hl.teams ▸ h.groups⟩

/-- What an answer changes beside the teams and the partition: lines and what is observed of posted stores. -/
theorem State.answerColl_eq (s : State) (k : Nat) (c : Collective) (v : DWord) : ∃ posted l1, s.answerColl k c v =
    State.setPart { s with posted := posted, l1 := l1, teams := s.teams.map fun t => match t.collGroup c with
      | some g => t.putGroup (g.passColl c v s.clk)
      | none => t } k { s.part k with saved := (s.part k).saved.map fun t => match t.collGroup c with
      | some g => t.putGroup (g.passColl c v s.clk)
      | none => t } := by
  unfold State.answerColl
  cases s.collWaiter k c with
  | none => exact ⟨s.posted, s.l1, rfl⟩
  | some w => exact ⟨_, _, rfl⟩

theorem State.collFinished_answers {s S : State} {c : Collective} (pos : Nat) (v : DWord) (ht : S.teams = s.teams) (hp : S.parts = s.parts) :
    s.Answers (s.collFinished S c pos v) s.request.k c v := by
  have logged := S.logLinks_logsTo s.request.k c.index (s.collPeers pos)
  unfold State.collFinished
  generalize S.logLinks s.request.k c.index (s.collPeers pos) = T at logged
  obtain ⟨posted, l1, ha⟩ := T.answerColl_eq s.request.k c v
  have part : T.part s.request.k = s.part s.request.k := State.part_congr (logged.parts.trans hp) _
  have answered : (T.answerColl s.request.k c v).part s.request.k = { s.part s.request.k with saved := ((T.answerColl s.request.k c v).part s.request.k).saved } := by
    rw [ha, State.setPart_part, if_pos rfl, part]
  refine ⟨?_, ?_, fun t g ⟨hmem, hg⟩ => ⟨g.passColl c v T.clk, ?_, rfl, rfl, rfl, fun i => sget_sset _ _ _ _ _⟩⟩
  · rw [State.endColl_part]
  · rw [State.endColl_part, answered]
  · rw [State.endColl_teams, ha]
    refine List.mem_map.2 ⟨t, (logged.teams.trans ht) ▸ hmem, ?_⟩
    rw [hg]

theorem State.collFinished_hbm (s S : State) (c : Collective) (pos : Nat) (v : DWord) {a : Nat} (ha : a < 2 ^ 40) :
    (s.collFinished S c pos v).homeByte a = S.homeByte a := by
  unfold State.collFinished
  rw [State.endColl_hbm _ _ ha, ← (S.logLinks_logsTo s.request.k c.index (s.collPeers pos)).homeByte]
  obtain ⟨posted, l1, h⟩ := (S.logLinks s.request.k c.index (s.collPeers pos)).answerColl_eq s.request.k c v
  rw [h]
  rfl

theorem State.collFinished_reg {s S : State} (hheld : S.heldWrites = []) (c : Collective) (pos : Nat) (v : DWord) {i : Nat} (hi : i ≠ 0x0E9) :
    (s.collFinished S c pos v).reg i = S.reg i := by
  have logged := S.logLinks_logsTo s.request.k c.index (s.collPeers pos)
  obtain ⟨posted, l1, h⟩ := (S.logLinks s.request.k c.index (s.collPeers pos)).answerColl_eq s.request.k c v
  unfold State.collFinished
  rw [State.endColl_reg, h]
  · exact logged.reg hi
  · rw [h]
    exact (State.Beside.of_logsTo logged).held.trans hheld

end Sys2Proof.Machine
end

section
/-! SUPPORT. Marked bytes that land in HBM, and the bytes that a COLL leaves at its destination (R50, R401). -/

namespace Sys2Proof.Machine

/-! ### Marked bytes that land in HBM (R119, R401) -/

theorem lastByte_shifted (pa : Nat) (v : Nat → Byte) (l : List Nat) (i : Nat) (b : Byte) :
    lastByte (l.map fun j => (pa + j, v j)) (pa + i) b = if i ∈ l then v i else b := by
  induction l generalizing b with
  | nil => rfl
  | cons j l ih =>
    rw [List.map_cons, lastByte_cons, ih]
    by_cases hj : j = i
    · subst hj; simp
    · simp [hj, Ne.symm hj]

/-- One destination sector of a landing: its number, its bytes, and whether one is marked. -/
def State.landSector (s : State) (p : Nat × List (Nat × Byte) × Bool) : State :=
  let s1 := (runsOf p.2.1).foldl (fun s r => s.putBytes r.1 r.2) s
  if p.2.2 then s1.setPoison p.1 true
  else if p.2.1.length = 32 then s1.setPoison p.1 false
  else s1

theorem State.landSector_homeByte {s : State} {p : Nat × List (Nat × Byte) × Bool} (hc : ∀ c ∈ p.2.1, c.1 < 2 ^ 40) {a : Nat} (ha : a < 2 ^ 40) :
    (s.landSector p).homeByte a = lastByte p.2.1 a (s.homeByte a) := by
  have bytes := foldl_runsOf_homeByte (f := fun s r => s.putBytes r.1 r.2) (a := a)
    (fun s r hr => homeByte_putBytes r.2 s r.1 (.inl hr) a) hc s
  unfold State.landSector
  dsimp only
  split_ifs
  · exact (State.setPoison_hbm _ _ _ ha).trans bytes
  · exact (State.setPoison_hbm _ _ _ ha).trans bytes
  · exact bytes

/-- The bytes that land in HBM stand there (R401). -/
theorem State.landMarked_homeByte (s : State) (key : Nat) {pa : Nat} {bs : Marked} (h : pa + bs.length ≤ 2 ^ 40) {i : Nat} (hi : i < bs.length) :
    (s.landMarked key pa bs).homeByte (pa + i) = (bs.getD i (0, false)).1 := by
  have some_sectors : ∀ (ns : List Nat) (S : State), ((ns.map fun n =>
      let here := ((List.range bs.length).filter fun i => decide ((pa + i) / 32 = n)).map fun i => (pa + i, bs.getD i (0, false))
      (n, here.map fun x => (x.1, x.2.1), here.any fun x => x.2.2)).foldl State.landSector S).homeByte (pa + i) =
        if (pa + i) / 32 ∈ ns then (bs.getD i (0, false)).1 else S.homeByte (pa + i) := by
    intro ns
    induction ns with
    | nil => exact fun _ => rfl
    | cons n ns ih =>
      intro S
      rw [List.map_cons, List.foldl_cons, ih, State.landSector_homeByte ?_ (by omega)]
      · dsimp only
        rw [List.map_map]
        refine (congrArg (fun x => if (pa + i) / 32 ∈ ns then (bs.getD i (0, false)).1 else x)
          (lastByte_shifted pa (fun j => (bs.getD j (0, false)).1) _ i _)).trans ?_
        by_cases hn : (pa + i) / 32 = n <;> by_cases hns : (pa + i) / 32 ∈ ns <;> simp [hn, hns, hi]
      · intro c hc
        simp only [List.map_map, List.mem_map, List.mem_filter, List.mem_range, Function.comp_apply] at hc
        obtain ⟨j, ⟨hj, -⟩, rfl⟩ := hc
        show pa + j < 2 ^ 40
        omega
  refine (some_sectors (sectorsOf pa bs.length) _).trans (if_pos ?_)
  rw [sectorsOf, if_neg (by omega), mem_numsFrom]
  omega

/-! ### The bytes of a COLL (R401) -/

section
variable {α : Type} {n m : Nat} {f : Nat → List α}

theorem length_flatMap_range (h : ∀ j < n, (f j).length = m) : ((List.range n).flatMap f).length = n * m := by
  rw [List.length_flatMap, List.map_congr_left (g := fun _ => m) fun j hj => h j (List.mem_range.1 hj)]
  simp

/-- An element of several lists of one length. -/
theorem getD_flatMap_range (h : ∀ j < n, (f j).length = m) {i : Nat} (hi : i < n * m) (d : α) :
    ((List.range n).flatMap f).getD i d = (f (i / m)).getD (i % m) d := by
  induction n with
  | zero => omega
  | succ n ih =>
    have pos : 0 < m := Nat.pos_of_ne_zero fun h0 => by simp [h0] at hi
    have front := length_flatMap_range fun j hj => h j (Nat.lt_succ_of_lt hj)
    rw [List.range_succ, List.flatMap_append, List.flatMap_singleton]
    by_cases hlt : i < n * m
    · rw [List.getD_append _ _ _ _ (front ▸ hlt), ih (fun j hj => h j (Nat.lt_succ_of_lt hj)) hlt]
    · rw [Nat.succ_mul] at hi
      have block : i / m = n := Nat.div_eq_of_lt_le (by omega) (by rw [Nat.succ_mul]; omega)
      have rest : i % m = i - n * m := by rw [Nat.mod_eq_sub_div_mul, block]
      rw [List.getD_append_right _ _ _ _ (by omega), front, block, rest]

end

theorem leBytes_getD (n v : Nat) {k : Nat} (hk : k < n) : (leBytes n v).getD k 0 = BitVec.ofNat 8 (v / 256 ^ k) := by
  induction n generalizing v k with
  | zero => omega
  | succ n ih =>
    cases k with
    | zero => simp [leBytes]
    | succ k => rw [leBytes, List.getD_cons_succ, ih _ (by omega), Nat.div_div_eq_div_mul, Nat.pow_succ, Nat.mul_comm]

theorem map_blockAt (bs : Marked) (blk j : Nat) : (blockAt bs blk j).map (·.1) = ((bs.map (·.1)).drop (j * blk)).take blk := by
  rw [blockAt, List.map_take, List.map_drop]

theorem map_spreadPoison (bs : Marked) : (spreadPoison bs).map (·.1) = bs.map (·.1) := by
  unfold spreadPoison
  refine List.ext_getElem (by simp) fun i h1 h2 => ?_
  simp [List.getElem?_eq_getElem (show i < bs.length by simpa using h2)]

/-- The word of an element of a block (R50). -/
theorem take_drop_block {bs : List Byte} {blk p e : Nat} (h : 4 * e + 4 ≤ blk) :
    (((bs.drop (p * blk)).take blk).drop (4 * e)).take 4 = (bs.drop (p * blk + e * 4)).take 4 := by
  rw [List.drop_take, List.take_take, List.drop_drop, min_eq_left (by omega), Nat.mul_comm e]

/-- The sum of an element over contributions of which there is one at least (R50). -/
theorem map_sumElement (X : Nat → Marked) (n e : Nat) (hn : 0 < n) : (sumElement ((List.range n).map X) e).map (·.1) =
    leBytes 4 ((List.range (n - 1)).foldl (fun a j => addF32 a (leWord ((((X (j + 1)).map (·.1)).drop (4 * e)).take 4)))
      (leWord ((((X 0).map (·.1)).drop (4 * e)).take 4))) := by
  obtain ⟨m, rfl⟩ : ∃ m, n = m + 1 := ⟨n - 1, by omega⟩
  rw [List.range_succ_eq_map, List.map_cons, List.map_map]
  unfold sumElement
  dsimp only
  rw [List.map_map, List.foldl_map]
  simp only [List.map_take, List.map_drop]
  exact List.map_id _

/-- The bytes without their marks. -/
def unmarked (bs : Marked) : List Byte := bs.map (·.1)

@[simp] theorem length_unmarked (bs : Marked) : (unmarked bs).length = bs.length := List.length_map _

theorem unmarked_getD (bs : Marked) (i : Nat) : (unmarked bs).getD i 0 = (bs.getD i (0, false)).1 := List.getD_map (l := bs) (d := (0, false)) Prod.fst

/-- The length of a COLL's source on position j (R400). -/
def collSourceLength (form blk root n j : Nat) : Nat := if form = 0 then blk else if form = 3 then (if j = root then blk else 0) else n * blk

/-- The length of a COLL's destination (R400). -/
def collResultLength (form blk n : Nat) : Nat := if form = 0 ∨ form = 2 then n * blk else blk

/-- Byte i of what a COLL leaves on position p of n: the blocks in order, the sums, the blocks of p, or the root's block. -/
def collByte (form blk root n p : Nat) (data : Nat → List Byte) (i : Nat) : Byte :=
  if form = 0 then (data (i / blk)).getD (i % blk) 0
  else if form = 2 then (data (i / blk)).getD (p * blk + i % blk) 0
  else if form = 3 then (data root).getD i 0
  else
    let word : Nat → Nat := fun j => leWord (((data j).drop (p * blk + i / 4 * 4)).take 4)
    BitVec.ofNat 8 (((List.range (n - 1)).foldl (fun a j => addF32 a (word (j + 1))) (word 0)) / 256 ^ (i % 4))

section
variable {X : Nat → Marked} {n blk p : Nat} (root : Nat)

/-- COLL.AG: the blocks of all positions in order. -/
theorem unmarked_collResult_allGather (h : ∀ j < n, (X j).length = blk) :
    unmarked (collResult 0 blk root p ((List.range n).map X)) = (List.range n).flatMap fun j => unmarked (X j) := by
  rw [collResult, unmarked, List.flatMap_map, List.map_flatMap]
  refine List.flatMap_congr fun j hj => ?_
  rw [List.take_of_length_le (h j (List.mem_range.1 hj)).le, unmarked]

/-- COLL.A2A: block p of all positions in order. -/
theorem unmarked_collResult_allToAll : unmarked (collResult 2 blk root p ((List.range n).map X)) =
    (List.range n).flatMap fun j => ((unmarked (X j)).drop (p * blk)).take blk := by
  rw [collResult, unmarked, List.flatMap_map, List.map_flatMap]
  exact List.flatMap_congr fun j _ => map_blockAt _ _ _

/-- COLL.RS: the sum of block p of all positions, element by element. -/
theorem unmarked_collResult_reduceScatter (hn : 0 < n) : unmarked (collResult 1 blk root p ((List.range n).map X)) =
    (List.range (blk / 4)).flatMap fun e => leBytes 4 ((List.range (n - 1)).foldl
      (fun a j => addF32 a (leWord (((unmarked (X (j + 1))).drop (p * blk + e * 4)).take 4)))
      (leWord (((unmarked (X 0)).drop (p * blk + e * 4)).take 4))) := by
  rw [collResult, unmarked, map_spreadPoison, List.map_flatMap]
  refine List.flatMap_congr fun e he => ?_
  have inside : 4 * e + 4 ≤ blk := by have := List.mem_range.1 he; omega
  rw [List.map_map, map_sumElement _ _ _ hn]
  simp only [Function.comp_apply, map_blockAt, take_drop_block inside, unmarked]

/-- COLL.BC: the root's block. -/
theorem unmarked_collResult_broadcast {root : Nat} (hroot : root < n) (h : (X root).length = blk) :
    unmarked (collResult 3 blk root p ((List.range n).map X)) = unmarked (X root) := by
  have at_root : ((List.range n).map X).getD root [] = X root := by simp [List.getD, hroot]
  show unmarked ((((List.range n).map X).getD root []).take blk) = _
  rw [at_root, List.take_of_length_le h.le]

end

/-- What a COLL leaves at its destination (R50, R401). -/
theorem collResult_bytes {form blk root n p : Nat} {X : Nat → Marked} (hform : form ≤ 3) (hblk : blk % 32 = 0) (hroot : root < n) (hp : p < n)
    (h : ∀ j < n, (X j).length = collSourceLength form blk root n j) :
    (collResult form blk root p ((List.range n).map X)).length = collResultLength form blk n ∧
    ∀ i < collResultLength form blk n, ((collResult form blk root p ((List.range n).map X)).getD i (0, false)).1 =
      collByte form blk root n p (fun j => unmarked (X j)) i := by
  have hn : 0 < n := by omega
  simp only [← unmarked_getD]
  rw [← length_unmarked]
  obtain rfl | rfl | rfl | rfl : form = 0 ∨ form = 1 ∨ form = 2 ∨ form = 3 := by omega
  · have len : ∀ j < n, (unmarked (X j)).length = blk := fun j hj => by rw [length_unmarked]; exact h j hj
    rw [unmarked_collResult_allGather root h]
    exact ⟨length_flatMap_range len, fun i hi => getD_flatMap_range len hi 0⟩
  · rw [unmarked_collResult_reduceScatter root hn]
    have len := fun (e : Nat) (_ : e < blk / 4) => leBytes_length 4 ((List.range (n - 1)).foldl
      (fun a j => addF32 a (leWord (((unmarked (X (j + 1))).drop (p * blk + e * 4)).take 4)))
      (leWord (((unmarked (X 0)).drop (p * blk + e * 4)).take 4)))
    have whole : blk / 4 * 4 = collResultLength 1 blk n := by show blk / 4 * 4 = blk; omega
    refine ⟨(length_flatMap_range len).trans whole, fun i hi => ?_⟩
    rw [getD_flatMap_range len (whole ▸ hi) 0, leBytes_getD _ _ (Nat.mod_lt _ (by decide))]
    rfl
  · have len : ∀ j < n, (((unmarked (X j)).drop (p * blk)).take blk).length = blk := fun j hj => by
      have size : (X j).length = n * blk := h j hj
      have room : (p + 1) * blk ≤ n * blk := Nat.mul_le_mul_right _ hp
      rw [Nat.succ_mul] at room
      simp only [List.length_take, List.length_drop, length_unmarked]
      omega
    rw [unmarked_collResult_allToAll root]
    refine ⟨length_flatMap_range len, fun i hi => (getD_flatMap_range len hi 0).trans ?_⟩
    have hin : i % blk < blk := Nat.mod_lt _ (Nat.pos_of_ne_zero fun h0 => by simp [h0, collResultLength] at hi)
    simp [collByte, List.getD, hin]
  · have size : (X root).length = blk := by simpa [collSourceLength] using h root hroot
    rw [unmarked_collResult_broadcast hroot size]
    exact ⟨(length_unmarked _).trans size, fun i _ => rfl⟩

/-! ### COLL completes (R401) -/

/-- A piece of HBM whose accesses are not lost is not lost in a state of the same registers. -/
theorem State.pieceLost_hbm {s S : State} (hr : ∀ i, S.reg i = s.reg i) {p : Piece} (hpa : p.pa < 2 ^ 40) : S.pieceLost p = s.pieceLost p := by
  have failed : S.targetFailed p.pa = s.targetFailed p.pa := by
    unfold State.targetFailed State.functionsOf State.bufail
    rw [if_pos hpa, if_pos hpa]
    simp only [hr]
  unfold State.pieceLost State.keyLoaded
  rw [failed]
  simp only [hr]

/-- A COLL's result lands at its destination in HBM (R401). -/
theorem State.landColl_homeByte {s : State} {bs : Marked} {p : Piece} (hlen : bs.length = p.n) (h : p.pa + p.n ≤ 2 ^ 40)
    (hl : s.pieceLost p = false) {i : Nat} (hi : i < p.n) : (s.landColl bs [p]).homeByte (p.pa + i) = (bs.getD i (0, false)).1 := by
  rw [State.landColl, if_neg (ne_true_of_eq_false hl), List.take_of_length_le hlen.le]
  exact State.landMarked_homeByte s p.key (by omega) (by omega)

end Sys2Proof.Machine
end

section
/-! PROOFS. COLL and PUBLISH complete (R401, R405), and the obligation on collectives. -/

namespace Sys2Proof.Machine

/-! ### COLL completes (R401) -/

/-- The state in which a collective performs: its source has been read and its release made (R402). -/
def State.released (s : State) (c : Collective) : State := (s.sourced c).collRelease s.request.k c

theorem State.released_beside (s : State) (c : Collective) : s.Beside (s.released c) :=
  (State.Beside.of_rest (s.sourced_rest c)).trans (State.collRelease_beside _ _ _)

theorem State.released_rfield (s : State) (c : Collective) {i lo n : Nat} (h : i ≠ 0x0E9) (h' : ¬ (0x038 ≤ i ∧ i < 0x048)) :
    (s.released c).rfield i lo n = s.rfield i lo n := congrArg (fieldOf · lo n) ((s.released_beside c).reg i h h')

theorem State.released_reg (s : State) {c : Collective} (hk : c.kind = 0) (i : Nat) : (s.released c).reg i = s.reg i := by
  unfold State.released State.collRelease
  rw [if_pos hk, State.performWhere_reg]
  exact State.reg_rest (s.sourced_rest c) i

theorem State.performColl_coll (s : State) (k : Nat) {c : Collective} (hk : c.kind = 0) {blk root tag : Nat} (hshape : c.shape = [blk, root, tag])
    {p : Piece} (hdst : c.dst = [p]) (pos : Nat) (xs : List Marked) :
    ∃ st ≤ 1, s.performColl k c pos xs = some (s.landColl (collResult c.form blk root pos xs) [p], statusWord st (c.index % 2 ^ 56)) := by
  unfold State.performColl
  rw [if_pos hk, hshape, hdst]
  refine ⟨_, ?_, rfl⟩
  split <;> decide

/-- From one state to another no team, no partition and no held write changes. -/
def State.SameTeams (s S : State) : Prop := S.teams = s.teams ∧ S.parts = s.parts ∧ S.heldWrites = s.heldWrites

theorem State.Beside.sameTeams {s S : State} (h : s.Beside S) : s.SameTeams S := ⟨h.teams, h.parts, h.held⟩

theorem State.SameTeams.trans {s S T : State} : s.SameTeams S → S.SameTeams T → s.SameTeams T
  | ⟨ht, hp, hh⟩, ⟨ht', hp', hh'⟩ => ⟨ht'.trans ht, hp'.trans hp, hh'.trans hh⟩

theorem State.setRfield_sameTeams (s : State) (i lo n v : Nat) : s.SameTeams (s.setRfield i lo n v) := ⟨rfl, rfl, rfl⟩

theorem State.performColl_skip (s : State) (k : Nat) {c : Collective} (hk : c.kind = 1) (hf : c.form = 1) (pos : Nat) (xs : List Marked) :
    ∃ S, s.performColl k c pos xs = some (S, statusWord 0 (s.rfield 0x013 0 32)) ∧ s.SameTeams S ∧
      S.reg 0x013 = setField (s.reg 0x013) 32 32 (s.rfield 0x013 32 32 + 1) ∧ S.reg 0x010 = s.reg 0x010 := by
  refine ⟨s.setRfield 0x013 32 32 (s.rfield 0x013 32 32 + 1), ?_, s.setRfield_sameTeams _ _ _ _, State.setRfield_reg_same _ _ _ _ _,
    State.setRfield_reg_ne _ _ _ _ (by decide)⟩
  have count : (s.setRfield 0x013 32 32 (s.rfield 0x013 32 32 + 1)).rfield 0x013 0 32 = s.rfield 0x013 0 32 := by
    rw [State.rfield, State.setRfield_reg_same, fieldOf_setField_disjoint _ _ (by decide) (.inl (by decide))]
    rfl
  unfold State.performColl
  rw [if_neg (by omega), if_pos hf]
  dsimp only
  rw [count]

theorem State.performColl_publish {s R : State} {k : Nat} {c : Collective} (hk : c.kind = 1) (hf : c.form = 0) (h : s.retireVersion k = some R)
    (pos : Nat) (xs : List Marked) : ∃ S, ∃ st ≤ 1, s.performColl k c pos xs = some (S, statusWord st ((s.rfield 0x013 0 32 + 1) % 2 ^ 32)) ∧
      s.SameTeams S ∧ fieldOf (S.reg 0x013) 0 32 = (s.rfield 0x013 0 32 + 1) % 2 ^ 32 ∧
      fieldOf (S.reg 0x010) 0 32 = (s.rfield 0x010 0 32 + 1) % 2 ^ 32 ∧ fieldOf (S.reg 0x010) 32 7 = 0 := by
  obtain ⟨teams, parts, held, step, version, hold⟩ := State.retireVersion_spec h
  have performs : ∃ T, R.Beside T ∧ ∃ st ≤ 1, s.performColl k c pos xs = (let A := T.setRfield 0x013 0 32 (T.rfield 0x013 0 32 + 1)
      let S := A.setRfield 0x010 0 32 (A.rfield 0x010 0 32 + 1)
      some (S, statusWord st (S.rfield 0x013 0 32))) := by
    unfold State.performColl
    rw [if_neg (by omega), if_neg (by omega), h]
    refine ⟨(R.notePieces k (s.collPieces k c)).gather k xs c.stage (c.shape.getD 0 0),
      (R.notePieces_beside _ _).trans (.of_rest (State.gather_rest _ _ _ _ _)), _, ?_, rfl⟩
    split <;> decide
  obtain ⟨T, gathered, st, hst, done⟩ := performs
  have vcur : T.reg 0x010 = R.reg 0x010 := gathered.reg _ (by decide) (by decide)
  have count : T.rfield 0x013 0 32 = s.rfield 0x013 0 32 := congrArg (fieldOf · 0 32) ((gathered.reg 0x013 (by decide) (by decide)).trans step)
  have current : T.rfield 0x010 0 32 = s.rfield 0x010 0 32 := (congrArg (fieldOf · 0 32) vcur).trans version
  have stepped : (T.setRfield 0x013 0 32 (T.rfield 0x013 0 32 + 1)).rfield 0x010 0 32 = s.rfield 0x010 0 32 := by
    rw [State.rfield, State.setRfield_reg_ne _ _ _ _ (by decide)]
    exact current
  dsimp only at done
  rw [stepped, count] at done
  generalize hS : (T.setRfield 0x013 0 32 (s.rfield 0x013 0 32 + 1)).setRfield 0x010 0 32 (s.rfield 0x010 0 32 + 1) = S at done
  have counted : fieldOf (S.reg 0x013) 0 32 = (s.rfield 0x013 0 32 + 1) % 2 ^ 32 := by
    rw [← hS, State.setRfield_reg_ne _ _ _ _ (by decide), State.setRfield_reg_same, fieldOf_setField_same _ _ (by decide)]
  have next : S.reg 0x010 = setField (R.reg 0x010) 0 32 (s.rfield 0x010 0 32 + 1) := by
    rw [← hS, State.setRfield_reg_same, State.setRfield_reg_ne _ _ _ _ (by decide), vcur]
  have same : T.SameTeams S := hS ▸ (T.setRfield_sameTeams _ _ _ _).trans (State.setRfield_sameTeams _ _ _ _ _)
  refine ⟨S, st, hst, ?_, State.SameTeams.trans ⟨teams, parts, held⟩ (gathered.sameTeams.trans same), counted, ?_, ?_⟩
  · rw [done, State.rfield, counted]
  · rw [next, fieldOf_setField_same _ _ (by decide)]
  · rw [next, fieldOf_setField_disjoint _ _ (by decide) (.inr (by decide)), hold]

theorem State.performColl_waits {s : State} {k : Nat} {c : Collective} (hk : c.kind = 1) (hf : c.form = 0) (h : s.retireVersion k = none)
    (pos : Nat) (xs : List Marked) : s.performColl k c pos xs = none := by
  unfold State.performColl
  rw [if_neg (by omega), if_neg (by omega), h]

section
variable {s : State} {c : Collective} {pos : Nat} (hc : (s.part s.request.k).coll = some c) (hp : s.self? = some pos)
  (hw : ∀ x ∈ s.request.contribs, x.pos ≠ pos → x.waits s = false)
  (ha : ∀ j < s.rfield 0x009 0 9, j ≠ pos → (s.request.contribs.find? fun x => decide (x.pos = j)) ≠ none)
  (hh : ∀ p ∈ c.src ++ s.collPieces s.request.k c ++ (if c.kind = 1 ∧ c.form ≠ 1 then s.retirePieces s.request.k else []), s.pieceHeld p = false)
  (agree : ∀ j < s.rfield 0x009 0 9, j ≠ pos → ∀ x, (s.request.contribs.find? fun x => decide (x.pos = j)) = some x → x.Agrees s c)
include hc hp hw ha hh agree

/-- A collective whose contributions have all arrived and agree does its work, or waits for a retire (R401, R405). -/
theorem collectiveComplete_performs (hk : c.kind ≤ 1) : exec .collectiveComplete s =
    match (s.released c).performColl s.request.k c pos ((List.range (s.rfield 0x009 0 9)).map fun j => (s.collAt c pos j).2) with
    | none => .next (s.collAgreed c)
    | some (S, v) => .next (if c.kind = 1 then (s.collFinished S c pos v).raise 8 else s.collFinished S c pos v) := by
  have parts := State.collParts_all hw ha c
  have data : (s.collParts c pos).map (·.2) = (List.range (s.rfield 0x009 0 9)).map fun j => (s.collAt c pos j).2 := by
    rw [parts, List.map_map]; rfl
  rw [collectiveComplete_agrees hc hp (by rw [parts]; simp) (mismatch_of_agrees (State.collParts_agree hw ha agree) hk) hh, data]
  rfl

/-- A COLL completes with its status and its index, and its result stands at its destination (R401). -/
theorem coll_completes (hk : c.kind = 0) (hform : c.form ≤ 3) {blk root tag : Nat} (hshape : c.shape = [blk, root, tag]) (hblk : blk % 32 = 0)
    (hroot : root < s.rfield 0x009 0 9) {p : Piece} (hdst : c.dst = [p]) (hin : p.pa + p.n ≤ 2 ^ 40) (hlost : p.lost = false)
    (hkey : s.keyLoaded p.key = true) (hfn : s.targetFailed p.pa = false) (hn : p.n = collResultLength c.form blk (s.rfield 0x009 0 9))
    (hdata : ∀ j < s.rfield 0x009 0 9, (s.collAt c pos j).2.length = collSourceLength c.form blk root (s.rfield 0x009 0 9) j) :
    ∃ S, exec .collectiveComplete s = .next S ∧
      (∃ st ≤ 1, s.Answers S s.request.k c (statusWord st (c.index % 2 ^ 56))) ∧
      ∀ i < p.n, S.homeByte (p.pa + i) = collByte c.form blk root (s.rfield 0x009 0 9) pos (fun j => unmarked (s.collAt c pos j).2) i := by
  have performs := collectiveComplete_performs hc hp hw ha hh agree (by omega)
  obtain ⟨size, bytes⟩ := collResult_bytes hform hblk hroot (State.self?_lt hp) hdata
  obtain ⟨st, hst, done⟩ := (s.released c).performColl_coll s.request.k hk hshape hdst pos
    ((List.range (s.rfield 0x009 0 9)).map fun j => (s.collAt c pos j).2)
  generalize collResult c.form blk root pos ((List.range (s.rfield 0x009 0 9)).map fun j => (s.collAt c pos j).2) = result at done size bytes
  rw [done] at performs
  dsimp only at performs
  rw [if_neg (by omega)] at performs
  have beside := (s.released_beside c).trans (.of_rest ((s.released c).landColl_rest result [p]))
  refine ⟨_, performs, ⟨st, hst, State.collFinished_answers pos _ beside.teams beside.parts⟩, fun i hi => ?_⟩
  have reachable : (s.released c).pieceLost p = false := by
    rw [State.pieceLost_hbm (s.released_reg hk) (by omega)]
    simp [State.pieceLost, hlost, hkey, hfn]
  rw [State.collFinished_hbm _ _ _ _ _ (by omega), State.landColl_homeByte (size.trans hn.symm) hin reachable hi]
  exact bytes i (hn ▸ hi)

/-! ### PUBLISH completes (R405) -/

/-- A PUBLISH that does its work answers its group, and its registers stand. -/
theorem publish_answers (hk : c.kind = 1) (held : s.heldWrites = []) {S : State} {v : DWord} (same : s.SameTeams S)
    (done : (s.released c).performColl s.request.k c pos ((List.range (s.rfield 0x009 0 9)).map fun j => (s.collAt c pos j).2) = some (S, v)) :
    ∃ T, exec .collectiveComplete s = .next T ∧ s.Answers T s.request.k c v ∧ ∀ i, i ≠ 0x0E9 → T.reg i = S.reg i := by
  obtain ⟨teams, parts, still⟩ := same
  have performs := collectiveComplete_performs hc hp hw ha hh agree (by omega)
  rw [done] at performs
  dsimp only at performs
  rw [if_pos hk] at performs
  have raised := State.raise_logsTo (s.collFinished S c pos v) 8
  exact ⟨_, performs, (State.collFinished_answers pos _ teams parts).logsTo raised,
    fun i hi => (raised.reg hi).trans (State.collFinished_reg (still.trans held) _ _ _ hi)⟩

/-- PUBLISH.SKIP counts in STEP.SKIPS and answers with STEP.COUNT. -/
theorem publishSkip_completes (hk : c.kind = 1) (hf : c.form = 1) (held : s.heldWrites = []) : ∃ S, exec .collectiveComplete s = .next S ∧
    s.Answers S s.request.k c (statusWord 0 (s.rfield 0x013 0 32)) ∧
    fieldOf (S.reg 0x013) 32 32 = (s.rfield 0x013 32 32 + 1) % 2 ^ 32 ∧ fieldOf (S.reg 0x013) 0 32 = s.rfield 0x013 0 32 ∧ S.reg 0x010 = s.reg 0x010 := by
  have beside := s.released_beside c
  obtain ⟨S, done, same, skips, vcur⟩ := (s.released c).performColl_skip s.request.k hk hf pos
    ((List.range (s.rfield 0x009 0 9)).map fun j => (s.collAt c pos j).2)
  obtain ⟨T, hT, answers, regs⟩ := publish_answers hc hp hw ha hh agree hk held (beside.sameTeams.trans same) done
  rw [s.released_rfield c (by decide) (by decide)] at answers skips
  rw [beside.reg _ (by decide) (by decide)] at skips vcur
  refine ⟨T, hT, answers, ?_⟩
  rw [regs _ (by decide), regs _ (by decide), skips, vcur]
  exact ⟨fieldOf_setField_same _ _ (by decide), fieldOf_setField_disjoint _ _ (by decide) (.inl (by decide)), rfl⟩

/-- PUBLISH counts in STEP.COUNT, makes the next version the current one without holds, and answers with the count. -/
theorem publish_completes (hk : c.kind = 1) (hf : c.form = 0) (held : s.heldWrites = []) {R : State}
    (hr : (s.released c).retireVersion s.request.k = some R) : ∃ S, exec .collectiveComplete s = .next S ∧
    (∃ st ≤ 1, s.Answers S s.request.k c (statusWord st ((s.rfield 0x013 0 32 + 1) % 2 ^ 32))) ∧
    fieldOf (S.reg 0x013) 0 32 = (s.rfield 0x013 0 32 + 1) % 2 ^ 32 ∧ fieldOf (S.reg 0x010) 0 32 = (s.rfield 0x010 0 32 + 1) % 2 ^ 32 ∧
    fieldOf (S.reg 0x010) 32 7 = 0 := by
  have beside := s.released_beside c
  obtain ⟨S, st, hst, done, same, fields⟩ := State.performColl_publish hk hf hr pos
    ((List.range (s.rfield 0x009 0 9)).map fun j => (s.collAt c pos j).2)
  obtain ⟨T, hT, answers, regs⟩ := publish_answers hc hp hw ha hh agree hk held (beside.sameTeams.trans same) done
  rw [← regs _ (by decide), ← regs _ (by decide), s.released_rfield c (by decide) (by decide), s.released_rfield c (by decide) (by decide)] at fields
  rw [s.released_rfield c (by decide) (by decide)] at answers
  exact ⟨T, hT, ⟨st, hst, answers⟩, fields⟩

/-- A PUBLISH whose retire waits is in flight (R377, R406). -/
theorem publish_waits (hk : c.kind = 1) (hf : c.form = 0) (hr : (s.released c).retireVersion s.request.k = none) :
    exec .collectiveComplete s = .next (s.collAgreed c) := by
  rw [collectiveComplete_performs hc hp hw ha hh agree (by omega), State.performColl_waits hk hf hr]

end

/-! ### The obligation -/

/-- A word of another index among those that have arrived does not agree with this device's own (R399). -/
theorem mismatch_collParts {s : State} {c : Collective} {pos : Nat} (hp : s.self? = some pos)
    (h : ∃ x ∈ (s.collParts c pos).map (·.1), x.index ≠ c.index) : mismatch ((s.collParts c pos).map (·.1)) ≠ 0 := by
  obtain ⟨x, hx, hne⟩ := h
  have own : s.agreement c pos ∈ (s.collParts c pos).map (·.1) := by
    rw [State.collParts_fst]
    exact List.mem_filterMap.2 ⟨pos, List.mem_range.2 (State.self?_lt hp), if_pos rfl⟩
  exact mismatch_of_index hx own hne

/-- Settles O47: the words of agreement decide between the trap, the wait and the work; the work of each kind is taken from
its own theorem. -/
theorem collectivesComplete : Obligations.CollectivesComplete := by
  unfold Obligations.CollectivesComplete
  refine ⟨fun s c pos => ?_, fun s c pos => ?_, by decide⟩
  · intro k n from_ sk data r waits answers hc hp ha hw hh agrees
    have answered : ∀ {S v}, r = .next S → s.Answers S k c v → answers v := fun hr h => ⟨_, hr, h.coll, h.index, fun t g => h.groups t g⟩
    have bytes : ∀ j, unmarked (s.collAt c pos j).2 = data j := State.collAt_bytes hw c
    refine ⟨fun agree hk hform blk root tag hshape hblk hroot pa len key hdst hin hkey hfn hlen hdata => ?_,
      fun agree hk hf held => ?_, fun agree hk hf held hr => ?_, fun agree hk hf hr => ?_, fun hbits hsaved t g hg hone => ?_⟩
    · obtain ⟨S, hS, ⟨st, hst, h⟩, mem⟩ := coll_completes hc hp hw ha hh agree hk hform hshape hblk hroot hdst hin rfl hkey hfn hlen
        fun j hj => by rw [← length_unmarked, bytes]; exact hdata j hj
      refine ⟨S, hS, ⟨st, hst, answered hS h⟩, fun i hi => (mem i hi).trans ?_⟩
      rw [funext bytes]
      rfl
    · obtain ⟨S, hS, h, skips, count, vcur⟩ := publishSkip_completes hc hp hw ha hh agree hk hf held
      refine ⟨?_, S, hS, skips, count, vcur⟩
      have := answered hS h
      rwa [statusWord, Nat.mul_zero, Nat.zero_add] at this
    · obtain ⟨R, hR⟩ := Option.ne_none_iff_exists'.1 hr
      obtain ⟨S, hS, ⟨st, hst, h⟩, regs⟩ := publish_completes hc hp hw ha hh agree hk hf held hR
      exact ⟨⟨st, hst, answered hS h⟩, S, hS, regs⟩
    · exact publish_waits hc hp hw ha hh agree hk hf hr
    · have words := State.collParts_words hw c
      have arrived : (s.collParts c pos).length = n := by rw [State.collParts_all hw ha]; simp; rfl
      have traps := collectiveComplete_traps hc hp (.inl arrived) (by rw [words]; exact hbits) hsaved hg.1 hg.2 hone
      rw [words] at traps
      exact traps
  · intro k n here hc hp
    have words : (s.collParts c pos).map (·.1) = here := s.collParts_fst c pos
    refine ⟨fun hlen hi => collectiveComplete_waits hc hp (fun h => hlen ?_) fun x hx => hi _ (words ▸ List.mem_map_of_mem hx),
      fun hi => ⟨words ▸ mismatch_collParts hp (words ▸ hi), fun hsaved t g ht hg hone => ?_⟩⟩
    · rw [← words, List.length_map]; exact h
    · obtain ⟨x, hx, hne⟩ := hi
      rw [← words] at hx ⊢
      obtain ⟨y, hy, rfl⟩ := List.mem_map.1 hx
      exact collectiveComplete_traps hc hp (.inr ⟨y, hy, hne⟩) (mismatch_collParts hp ⟨_, hx, hne⟩) hsaved ht hg hone

end Sys2Proof.Machine
end

section
/-! PROOFS. The release law of O28 fails: a posted store whose sectors to clear lie apart from its own bytes. -/

namespace Sys2Proof.Machine

/-! ### A release that displaces a line of the pool (R25, R29, R119) -/

/-- A posted store of one byte of HBM that on its performance clears the poison of the pool's first sector. -/
def strayStore : Posted := { core := 0, team := 0, fid := 0, pa := 0, data := [7], clears := [2 ^ 35] }

/-- A dirty line of the memory-side cache, of the window behind port 2. -/
def strandedLine : PoolLine := { line := 0, tag := 1, cells := [(2 ^ 40 + 2 ^ 34, 5)], dirty := [2 ^ 35 + 2 ^ 29] }

/-- Port 1 is ready and port 2 has failed, each with a window of 16 GiB, which is the size of the memory-side cache: the
first lines of the two windows share an index there (R27, R28). -/
def strandedState : State :=
  { State.reset with
    regs := [(0x000, 2 ^ 25), (0x001, 2 ^ 26), (0x004, 1), (0x005, 2 ^ 40 + 16), (0x006, 2 ^ 40 + 2 ^ 34 + 16)]
    msc := [strandedLine], posted := [strayStore] }

/-- The group of the store's fibre, and its team. -/
def strayGroup : Group := { num := 0, core := 0, pc := 0, lanes := [some 0] }
def strayTeam : Team := { core := 0, slot := 0, part := 0, inst := 0, index := 0, launch := {}, groups := [strayGroup], live := [0] }

theorem strandedState_homeByte : strandedState.homeByte (2 ^ 40 + 2 ^ 34) = 5 := by decide

/-- To clear the sector the L2 fills its line through the memory-side cache, where the dirty line makes room, and its failed
port discards it (R18, R29). -/
theorem strandedState_release_homeByte : (strandedState.release strayTeam strayGroup).homeByte (2 ^ 40 + 2 ^ 34) = 0 := by decide

/-- The store of O28's release law stands as the law asks: in HBM, under a key slot that is not loaded. -/
theorem strandedState_posted : ∀ p ∈ strandedState.posted,
    p.pa + p.data.length ≤ 2 ^ 40 ∧ strandedState.sealed p.key p.pa p.data.length := by
  intro p hp
  obtain rfl : p = strayStore := List.mem_singleton.1 hp
  exact ⟨by decide, fun _ loaded => absurd loaded (by decide)⟩

/-- No part of the posted stores writes the byte of the pool. -/
theorem lastStore_stray {out : List Posted} (h : out.Sublist strandedState.posted) :
    lastStore (out.map fun p => (p.pa, p.data)) (2 ^ 40 + 2 ^ 34) = none := by
  obtain rfl | rfl := List.sublist_singleton.1 h
  · rfl
  · decide

/-- Refutes O28 in its law of releases, which says that a release of posted stores to HBM leaves every other byte as it was,
the pool's among them, and asks nothing of the sectors that a store clears: one that clears a sector of the pool brings that
line in, and a dirty line that makes room for it is lost at a failed port. A run posts only stores that clear sectors of their
own bytes (`State.postStore`, `State.landPiece`), a hypothesis the law does not state. -/
theorem not_readsReturnStores : ¬ Obligations.ReadsReturnStores := by
  unfold Obligations.ReadsReturnStores
  rintro ⟨-, -, -, release, -⟩
  obtain ⟨out, _, -, hout, -, -, -, -, bytes⟩ := release strandedState strayTeam strayGroup strandedState_posted
  have kept := bytes (2 ^ 40 + 2 ^ 34)
  rw [lastStore_stray hout, strandedState_homeByte, strandedState_release_homeByte] at kept
  exact absurd kept (by decide)

end Sys2Proof.Machine
end

section
/-! SUPPORT. Vendor commands (R61, R62): what a command comes to before its effect, and what its response says. -/

namespace Sys2Proof.Machine

/-! ### The request of a vendor command (R62) -/

/-- A request that came over MCTP has a header that is the opcode alone, its last byte zero. -/
def State.Calls (s : State) (op : Nat) : Prop := ∀ h, s.request.header = some h → h.toNat = op

/-- The management core and port 0 serve commands (R18, R61). -/
def State.CommandsUp (s : State) : Prop := s.ready 42 = true ∧ s.ready 24 = true ∧ ¬ (s.bufail 42 = true ∨ s.bufail 24 = true)

/-- The parts of a payload: its first two doublewords, the count behind the first of them, and its first two bytes. -/
abbrev Request.word0 (q : Request) : DWord := dwordAt q.bytes 0
abbrev Request.word1 (q : Request) : DWord := dwordAt q.bytes 8
abbrev Request.count (q : Request) : Nat := (wordAt q.bytes 8).toNat
abbrev Request.byte0 (q : Request) : Nat := (q.bytes.getD 0 0).toNat
abbrev Request.byte1 (q : Request) : Byte := q.bytes.getD 1 0

theorem Request.carries_iff (q : Request) {op : Nat} (hop : op < 2 ^ 16) :
    q.carries op = true ↔ ∀ h, q.header = some h → h.toNat % 2 ^ 16 = op := by
  unfold Request.carries
  cases q.header with
  | none => simp
  | some h =>
    have low : h.extractLsb' 0 16 = BitVec.ofNat 16 op ↔ h.toNat % 2 ^ 16 = op := by
      rw [← BitVec.toNat_inj, BitVec.extractLsb'_toNat, Nat.shiftRight_zero, BitVec.toNat_ofNat, Nat.mod_eq_of_lt hop]
    simp only [decide_eq_true_eq, low, Option.some.injEq]
    exact ⟨fun h1 _ h2 => h2 ▸ h1, fun h1 => h1 h rfl⟩

theorem State.Calls.carries {s : State} {op : Nat} (h : s.Calls op) (hop : op < 2 ^ 16) : s.request.carries op = true :=
  (Request.carries_iff _ hop).2 fun w hw => by rw [h w hw, Nat.mod_eq_of_lt hop]

/-! ### A command before its effect (R18, R62) -/

section Command
variable {s : State} {op len : Nat} {f : List Byte → State} {bad : State} {held : List Byte → Bool}

theorem command_other (hop : op < 2 ^ 16) {h : Word} (hh : s.request.header = some h) (hne : h.toNat % 2 ^ 16 ≠ op) :
    command s op len f bad held = .next s := by
  have other : s.request.carries op = false :=
    Bool.eq_false_iff.2 fun hc => hne ((Request.carries_iff _ hop).1 hc h hh)
  unfold command
  dsimp only
  rw [if_pos (by rw [other]; rfl)]

theorem command_down (up : ¬ s.CommandsUp) (ok : ¬ (s.bufail 42 = true ∨ s.bufail 24 = true)) :
    command s op len f bad held = .next s := by
  have down : (!s.ready 42 || !s.ready 24) = true := by
    rw [Bool.or_eq_true, Bool.not_eq_true', Bool.not_eq_true', ← Bool.not_eq_true, ← Bool.not_eq_true, ← not_and_or]
    exact fun h => up ⟨h.1, h.2, ok⟩
  unfold command
  dsimp only
  rw [if_neg (show ¬ (s.bufail 42 || s.bufail 24) = true by rwa [Bool.or_eq_true]), if_pos down, ite_self]

theorem command_failed (hc : s.request.carries op = true) (failed : s.bufail 42 = true ∨ s.bufail 24 = true) :
    command s op len f bad held = .next (s.failCommand.answers op s.request.header) := by
  unfold command
  dsimp only
  rw [if_neg (by simp [hc]), if_pos (by rwa [Bool.or_eq_true])]

/-- A command that the management core and port 0 serve. -/
theorem command_up (hc : s.request.carries op = true) (up : s.CommandsUp) : command s op len f bad held =
    .next (if s.request.header.any fun h => decide (2 ^ 24 ≤ h.toNat) || decide (s.request.bytes.length ≠ len) then
        bad.answers op s.request.header
      else if s.request.bytes.length ≠ len then { s with response := some { invalid := true } }.answers op s.request.header
      else if held s.request.bytes then s
      else (f s.request.bytes).answers op s.request.header) := by
  obtain ⟨core, port, ok⟩ := up
  unfold command
  dsimp only
  rw [if_neg (by simp [hc]), if_neg (by rwa [Bool.or_eq_true]), if_neg (by simp [core, port])]

theorem command_malformed (hc : s.request.carries op = true) (up : s.CommandsUp) {h : Word} (hh : s.request.header = some h)
    (hm : 2 ^ 24 ≤ h.toNat ∨ s.request.bytes.length ≠ len) :
    command s op len f bad held = .next (bad.answers op s.request.header) := by
  rw [command_up hc up, if_pos]
  rw [hh, Option.any_some, Bool.or_eq_true, decide_eq_true_eq, decide_eq_true_eq]
  exact hm

theorem command_invalid (up : s.CommandsUp) (hh : s.request.header = none) (hlen : s.request.bytes.length ≠ len) :
    command s op len f bad held = .next { s with response := some { opcode := op, invalid := true } } := by
  rw [command_up (by rw [Request.carries, hh]) up, hh, if_neg (by simp), if_pos hlen]
  rfl

/-- A command that its header and its length fit. -/
theorem command_fits (hop : op < 2 ^ 16) (up : s.CommandsUp) (hlen : s.request.bytes.length = len) (calls : s.Calls op) :
    command s op len f bad held =
      .next (if held s.request.bytes then s else (f s.request.bytes).answers op s.request.header) := by
  have fits : (s.request.header.any fun h => decide (2 ^ 24 ≤ h.toNat) || decide (s.request.bytes.length ≠ len)) = false := by
    cases hh : s.request.header with
    | none => rfl
    | some h => simp [calls h hh, hlen]; omega
  rw [command_up (calls.carries hop) up, fits, if_neg Bool.false_ne_true, if_neg (not_not.2 hlen)]

end Command

/-- A failed command is counted in the log, and its response says so (R18). -/
theorem State.failCommand_eq (s : State) : ∃ log, s.failCommand = { s with response := some { failed := true }, log := log } := by
  unfold State.failCommand
  refine foldl_keeps (fun S : State => ∃ log, S = { s with response := some { failed := true }, log := log }) _ (fun b _ hb => ?_)
    _ _ ⟨s.log, rfl⟩
  obtain ⟨_, rfl⟩ := hb
  exact ⟨_, rfl⟩

/-! ### Responses (R62) -/

/-- An instruction whose request calls an opcode answers it with a status and data, in a state that is otherwise as given. -/
def State.Replies (s : State) (e : Instr) (op : Nat) (S : State) (st : Nat) (d : List DWord) : Prop :=
  s.Calls op → exec e s = .next { S with response := some { opcode := op, header := s.request.header, status := st, data := d } }

/-- An instruction whose request calls an opcode leaves a state in which something holds. -/
def State.Leaves (s : State) (e : Instr) (op : Nat) (p : State → Prop) : Prop :=
  s.Calls op → ∃ S : State, exec e s = .next S ∧ p S

section Served
variable {s : State} {e : Instr} {op len : Nat} {f : List Byte → State} {bad : State} {held : List Byte → Bool}
  (he : exec e s = command s op len f bad held) (hop : op < 2 ^ 16) (up : s.CommandsUp) (hlen : s.request.bytes.length = len)
include he hop up hlen

theorem served_waits (hh : held s.request.bytes = true) (calls : s.Calls op) : exec e s = .next s := by
  rw [he, command_fits hop up hlen calls, if_pos hh]

theorem served_leaves (hh : held s.request.bytes = false) {p : State → Prop}
    (hp : p ((f s.request.bytes).answers op s.request.header)) : s.Leaves e op p :=
  fun calls => ⟨_, by rw [he, command_fits hop up hlen calls, if_neg (by simp [hh])], hp⟩

theorem served_replies (hh : held s.request.bytes = false) {S : State} {st : Nat} {d : List DWord}
    (hf : f s.request.bytes = S.respond st d) : s.Replies e op S st d :=
  fun calls => by rw [he, command_fits hop up hlen calls, if_neg (by simp [hh]), hf]; rfl

end Served

/-! ### The seven commands (R62) -/

/-- The opcode of a vendor command. -/
def vendorOp (e : Instr) : Nat :=
  if e = .stateRead then 0xC900 else if e = .stateWrite then 0xC901 else if e = .logRead then 0xC902
  else if e = .logAck then 0xC903 else if e = .keyLoad then 0xC904 else if e = .warmReset then 0xC905 else 0xC906

theorem vendorOp_lt (e : Instr) : vendorOp e < 2 ^ 16 := by unfold vendorOp; split_ifs <;> decide

/-! ### What each command does (R61 to R64) -/

/-- The effect of STATE_READ by its payload. -/
def stateReadBody (s : State) (bs : List Byte) : State :=
  if badRead bs then s.respond 3
  else
    let r := s.readWords s.commander.issuer (dwordAt bs 0) (wordAt bs 8).toNat
    r.2.respond 0 r.1

/-- The effect of STATE_WRITE by its payload. -/
def stateWriteBody (s : State) (bs : List Byte) : State :=
  let a := dwordAt bs 0
  let v := dwordAt bs 8
  if fieldOf a 0 3 ≠ 0 then s.respond 3
  else
    let r := (s.writeAddr s.commander a v).settle s.commander.issuer a v
    r.1.respond (if r.2 then 5 else 0)

/-- The effect of LOG_READ by its payload. -/
def logReadBody (s : State) (bs : List Byte) : State :=
  let first := (dwordAt bs 0).toNat
  let n := (wordAt bs 8).toNat
  if !s.ready 43 then s.respond 4
  else if n = 0 ∨ 32 < n ∨ s.logHead < first ∨ first + 65535 < s.logHead then s.respond 3
  else
    let es := (List.range (Nat.min n (s.logHead - first))).filterMap fun j => s.log[first + j]?
    s.respond 0 (s.logHeader ++ es.flatMap fun e => (List.range 8).map fun j => dwordAt (s.entryFor s.inSession e) (8 * j))

/-- The effect of LOG_ACK by its payload. -/
def logAckBody (s : State) (bs : List Byte) : State :=
  let t := (dwordAt bs 0).toNat
  if !s.ready 43 then s.respond 4
  else if t < s.logTail ∨ s.logHead < t then s.respond 3
  else { s with logTail := t }.respond 0 [BitVec.ofNat 64 t]

/-- The effect of KEY_LOAD by its payload. -/
def keyLoadBody (s : State) (bs : List Byte) : State :=
  let slot := (bs.getD 0 0).toNat
  let w := s.reg (0x0A8 + slot)
  if !s.inSession then s.refuseKey 1 0xFF
  else if !s.ready 40 then s.refuseKey 4 slot
  else if 63 < slot ∨ 1 < (bs.getD 1 0).toNat ∨ ((bs.drop 2).take 6).any (fun b => decide (b ≠ 0)) = true
      ∨ keyAt bs 8 = keyAt bs 0x28 then s.refuseKey 3 slot
  else if bitAt w 7 || bitAt w 5 then s.refuseKey 2 slot
  else (s.loadKey slot (bitAt ((bs.getD 1 0).setWidth 64) 0) (keyAt bs 8) (keyAt bs 0x28)).respond 0

/-- The effect of WARM_RESET by its payload. -/
def warmResetBody (s : State) (_ : List Byte) : State := if s.inSession then (s.respond 0).warmReset else s.respond 1

/-- The effect of FLOOR_RAISE by its payload. -/
def floorRaiseBody (s : State) (bs : List Byte) : State :=
  let t := (bs.getD 0 0).toNat
  let floor := sget 0 s.otpFloor t
  let svn := sget 0 s.svn t
  if !s.inSession then s.respond 1
  else if !s.ready 40 then s.respond 4
  else if t ≠ 1 ∧ t ≠ 2 then s.respond 3
  else if svn ≤ floor then s.respond 0 [BitVec.ofNat 64 floor]
  else if 64 ≤ sget 0 s.otpRaises t then s.respond 3
  else
    { s with otpFloor := sset 0 s.otpFloor t svn, otpRaises := sset 0 s.otpRaises t (sget 0 s.otpRaises t + 1) }.respond
      0 [BitVec.ofNat 64 svn]

theorem exec_stateRead_command (s : State) :
    exec .stateRead s = command s 0xC900 12 (stateReadBody s) (held := s.readWaits) := rfl

theorem exec_stateWrite_command (s : State) : exec .stateWrite s = command s 0xC901 16 (stateWriteBody s) := rfl

theorem exec_logRead_command (s : State) : exec .logRead s = command s 0xC902 12 (logReadBody s) := rfl

theorem exec_logAck_command (s : State) : exec .logAck s = command s 0xC903 8 (logAckBody s) := rfl

theorem exec_keyLoad_command (s : State) :
    exec .keyLoad s = command s 0xC904 72 (keyLoadBody s) (bad := s.badKeyLoad) := rfl

theorem exec_warmReset_command (s : State) :
    exec .warmReset s = command s 0xC905 0 (warmResetBody s) (bad := s.badSecure) := rfl

theorem exec_floorRaise_command (s : State) :
    exec .floorRaise s = command s 0xC906 1 (floorRaiseBody s) (bad := s.badSecure) := rfl

/-! ### A refused KEY_LOAD (R63, R68) -/

/-- A refused KEY_LOAD makes an entry of the security controller, on IO die 1, where the log takes one (R6, R63, R68). -/
def State.LogsRefusal (s S : State) : Prop := s.bufail 43 = false → s.logHead - s.logTail < 65535 → s.logLost = false →
  S.logHead = s.logHead + 1 ∧ ∃ e, S.log = s.log ++ [e] ∧ e.cause = 0x402 ∧ e.die = 0x21

theorem State.sendMessage_log (s : State) (e : Nat) : (s.sendMessage e).log = s.log ∧ (s.sendMessage e).logHead = s.logHead := by
  unfold State.sendMessage; split <;> exact ⟨rfl, rfl⟩

theorem State.raise_log (s : State) (e : Nat) : (s.raise e).log = s.log ∧ (s.raise e).logHead = s.logHead := by
  unfold State.raise
  split
  · exact ⟨rfl, rfl⟩
  · dsimp only
    split
    · exact State.sendMessage_log _ e
    · exact ⟨rfl, rfl⟩

/-- An entry that the log takes stands behind those before it (R68). -/
theorem State.addLog_appends (s : State) (e : LogEntry) (hf : s.bufail 43 = false) (hroom : s.logHead - s.logTail < 65535)
    (hl : s.logLost = false) :
    (s.addLog e).log = s.log ++ [{ e with time := s.time, seq := s.logHead }] ∧ (s.addLog e).logHead = s.logHead + 1 := by
  unfold State.addLog
  rw [if_neg (by simp [hf]), if_neg (by omega), if_neg (by simp [hl])]
  exact State.raise_log _ 0

/-- What a refused KEY_LOAD leaves, with its response (R63). -/
theorem State.refuseKey_spec (s : State) (st slot : Nat) :
    (s.refuseKey st slot).response = some { status := st } ∧ (s.refuseKey st slot).keys = s.keys ∧
    (s.refuseKey st slot).teams = s.teams ∧ (∀ i, 0x0A8 ≤ i → i < 0x0E8 → (s.refuseKey st slot).reg i = s.reg i) ∧
    s.LogsRefusal (s.refuseKey st slot) := by
  have logged := s.addLog_logsTo ({ platformEntry 0x0402 0xFF (BitVec.ofNat 64 slot) (BitVec.ofNat 64 (slot * 256 + st)) with
    die := functionDie 40 })
  refine ⟨rfl, logged.keys, logged.teams, fun i _ hi => logged.reg (by omega), fun hf hroom hl => ?_⟩
  obtain ⟨entries, head⟩ := s.addLog_appends _ hf hroom hl
  exact ⟨head, _, entries, rfl, rfl⟩

/-- A refused KEY_LOAD with its response named. -/
def State.KeyRefused (s : State) (st : Nat) (S : State) : Prop :=
  S.response = some { opcode := 0xC904, header := s.request.header, status := st, data := [] } ∧ S.keys = s.keys ∧
    (∀ i, 0x0A8 ≤ i → i < 0x0E8 → S.reg i = s.reg i) ∧ s.LogsRefusal S

theorem State.refuseKey_refused (s : State) (st slot : Nat) :
    s.KeyRefused st ((s.refuseKey st slot).answers 0xC904 s.request.header) := by
  obtain ⟨resp, keys, -, regs, logs⟩ := s.refuseKey_spec st slot
  refine ⟨?_, keys, regs, logs⟩
  rw [State.answers, resp]
  rfl

end Sys2Proof.Machine
end

section
/-! PROOFS. The checks that every vendor command makes (R18, R61, R62). -/

namespace Sys2Proof.Machine

/-- The status that answers a header or a length that does not fit: the session is missing, the security controller is not
ready, or the range is wrong. -/
def State.malformedStatus (s : State) (e : Instr) : Nat :=
  if e ∈ [Instr.keyLoad, .warmReset, .floorRaise] ∧ (s.request.ok && s.spdm.session) = false then 1
  else if e = .keyLoad ∧ s.ready 40 = false then 4 else 3

/-- What the answer to a message over MCTP of such a header or length leaves (R62, R63). -/
def State.MalformedAnswer (s : State) (e : Instr) (S : State) : Prop :=
  let reply : Response := { opcode := vendorOp e, header := s.request.header, status := s.malformedStatus e, data := [] }
  S.response = some reply ∧ S.keys = s.keys ∧ S.teams = s.teams ∧ (∀ i, 0x0A8 ≤ i → i < 0x0E8 → S.reg i = s.reg i) ∧
    if e = .keyLoad then s.LogsRefusal S else S = { s with response := some reply }

theorem State.malformedAnswer_plain {s : State} {e : Instr} {st : Nat} (he : e ≠ .keyLoad) (hst : s.malformedStatus e = st) :
    s.MalformedAnswer e ((s.respond st).answers (vendorOp e) s.request.header) := by
  subst hst
  exact ⟨rfl, rfl, rfl, fun _ _ _ => rfl, (if_neg he).symm ▸ rfl⟩

theorem State.malformedStatus_unguarded (s : State) {e : Instr} (h : e ∉ [Instr.keyLoad, .warmReset, .floorRaise]) :
    s.malformedStatus e = 3 := by
  unfold State.malformedStatus
  rw [if_neg fun hs => h hs.1, if_neg fun hk => h (by rw [hk.1]; exact List.mem_cons_self)]

theorem State.malformedStatus_secure (s : State) {e : Instr} (h : e ∈ [Instr.warmReset, .floorRaise]) :
    s.malformedStatus e = if s.inSession then 3 else 1 := by
  have notKey : e ≠ .keyLoad := by rintro rfl; simp at h
  unfold State.malformedStatus State.inSession
  rw [if_neg fun hk : e = .keyLoad ∧ _ => notKey hk.1]
  cases (s.request.ok && s.spdm.session)
  · exact if_pos ⟨List.mem_cons_of_mem _ h, rfl⟩
  · exact if_neg fun hs => Bool.noConfusion hs.2

/-- A KEY_LOAD whose payload is not read is refused with the status of what is missing (R63). -/
theorem State.badKeyLoad_eq (s : State) : s.badKeyLoad = s.refuseKey (s.malformedStatus .keyLoad) 0xFF := by
  unfold State.badKeyLoad State.malformedStatus State.inSession
  cases (s.request.ok && s.spdm.session) <;> cases s.ready 40 <;> simp

theorem State.malformedAnswer_keyLoad (s : State) : s.MalformedAnswer .keyLoad (s.badKeyLoad.answers 0xC904 s.request.header) := by
  rw [s.badKeyLoad_eq]
  obtain ⟨resp, keys, teams, regs, logs⟩ := s.refuseKey_spec (s.malformedStatus .keyLoad) 0xFF
  refine ⟨?_, keys, teams, regs, (if_pos rfl).symm ▸ logs⟩
  rw [State.answers, resp]
  rfl

/-- The vendor commands with the lengths of their payloads (R62). -/
def vendorCommands : List (Instr × Nat) :=
  [(.stateRead, 12), (.stateWrite, 16), (.logRead, 12), (.logAck, 8), (.keyLoad, 72), (.warmReset, 0), (.floorRaise, 1)]

/-- Each is a command of its opcode and its length, and answers what does not fit as its kind does. -/
theorem vendorCommands_served (s : State) : ∀ p ∈ vendorCommands, ∃ f bad held,
    exec p.1 s = command s (vendorOp p.1) p.2 f bad held ∧ s.MalformedAnswer p.1 (bad.answers (vendorOp p.1) s.request.header) := by
  have unguarded : ∀ e : Instr, e ∉ [Instr.keyLoad, .warmReset, .floorRaise] →
      s.MalformedAnswer e ((s.respond 3).answers (vendorOp e) s.request.header) := fun e he =>
    State.malformedAnswer_plain (fun hk => he (by rw [hk]; exact List.mem_cons_self)) (s.malformedStatus_unguarded he)
  have secure : ∀ e ∈ [Instr.warmReset, .floorRaise],
      s.MalformedAnswer e (s.badSecure.answers (vendorOp e) s.request.header) := fun e he =>
    State.malformedAnswer_plain (by rintro rfl; simp at he) (s.malformedStatus_secure he)
  unfold vendorCommands
  simp only [List.forall_mem_cons, List.not_mem_nil, false_imp_iff, implies_true, and_true]
  exact ⟨⟨_, _, _, exec_stateRead_command s, unguarded .stateRead (by simp)⟩,
    ⟨_, _, _, exec_stateWrite_command s, unguarded .stateWrite (by simp)⟩,
    ⟨_, _, _, exec_logRead_command s, unguarded .logRead (by simp)⟩, ⟨_, _, _, exec_logAck_command s, unguarded .logAck (by simp)⟩, ⟨_, _, _, exec_keyLoad_command s, s.malformedAnswer_keyLoad⟩,
    ⟨_, _, _, exec_warmReset_command s, secure .warmReset (by simp)⟩,
    ⟨_, _, _, exec_floorRaise_command s, secure .floorRaise (by simp)⟩⟩

/-- What a vendor command does whose message names another opcode, which finds its functions down or failed, or which does not
fit (R18, R62). -/
theorem vendorCommands_checked (s : State) : ∀ p ∈ vendorCommands,
    (∀ h, s.request.header = some h → h.toNat % 2 ^ 16 ≠ vendorOp p.1 → exec p.1 s = .next s) ∧
    (s.Calls (vendorOp p.1) →
      (¬ s.CommandsUp → ¬ (s.bufail 42 = true ∨ s.bufail 24 = true) → exec p.1 s = .next s) ∧
      (s.bufail 42 = true ∨ s.bufail 24 = true → ∃ S : State, exec p.1 s = .next S ∧
        S.response = some { opcode := vendorOp p.1, header := s.request.header, failed := true } ∧
        S.regs = s.regs ∧ S.keys = s.keys ∧ S.logTail = s.logTail ∧ S.otpFloor = s.otpFloor ∧ S.teams = s.teams) ∧
      (s.CommandsUp → s.request.bytes.length ≠ p.2 → s.request.header = none →
        exec p.1 s = .next { s with response := some { opcode := vendorOp p.1, invalid := true } })) ∧
    (s.CommandsUp → ∀ h, s.request.header = some h → h.toNat % 2 ^ 16 = vendorOp p.1 →
      2 ^ 24 ≤ h.toNat ∨ s.request.bytes.length ≠ p.2 → ∃ S : State, exec p.1 s = .next S ∧ s.MalformedAnswer p.1 S) := by
  intro p hp
  obtain ⟨f, bad, held, served, malformed⟩ := vendorCommands_served s p hp
  have small := vendorOp_lt p.1
  rw [served]
  refine ⟨fun h hh hne => command_other small hh hne,
    fun calls => ⟨fun up ok => command_down up ok, fun failed => ?_, fun up hlen hh => command_invalid up hh hlen⟩,
    fun up h hh hop hm => ?_⟩
  · obtain ⟨log, hlog⟩ := s.failCommand_eq
    refine ⟨_, command_failed (calls.carries small) failed, ?_⟩
    rw [hlog]
    exact ⟨rfl, rfl, rfl, rfl, rfl, rfl⟩
  · have hc : s.request.carries (vendorOp p.1) = true :=
      (Request.carries_iff _ small).2 fun w hw => Option.some.inj (hh.symm.trans hw) ▸ hop
    exact ⟨_, command_malformed hc up hh hm, malformed⟩

end Sys2Proof.Machine
end

section
/-! PROOFS. STATE_READ, STATE_WRITE, LOG_READ and LOG_ACK (R61, R62, R65 to R68). -/

namespace Sys2Proof.Machine

/-! ### Reading words of state (R65, R66) -/

/-- A read of a readback address makes at most a log entry. -/
theorem State.readback_logsTo (s : State) (who : Issuer) (a : DWord) : s.LogsTo (s.readback who a).2 := by
  unfold State.readback
  split
  · exact s.addLog_logsTo _
  · split
    · exact s.addLog_logsTo _
    · exact .refl s

theorem State.readWords_logsTo (who : Issuer) (n : Nat) (s : State) (a : DWord) : s.LogsTo (s.readWords who a n).2 := by
  induction n generalizing s a with
  | zero => exact .refl s
  | succ n ih => exact (s.readback_logsTo who a).trans (ih _ _)

theorem State.readWords_length (who : Issuer) (n : Nat) (s : State) (a : DWord) : (s.readWords who a n).1.length = n := by
  induction n generalizing s a with
  | zero => rfl
  | succ n ih => exact congrArg Nat.succ (ih _ _)

theorem fieldOf_high_of_lt {a : DWord} (h : a.toNat < 2 ^ 56) : fieldOf a 56 8 = 0 := by
  rw [fieldOf, BitVec.extractLsb'_toNat, Nat.shiftRight_eq_div_pow, Nat.div_eq_of_lt h]

theorem fieldOf_low_of_lt {a : DWord} (h : a.toNat < 2 ^ 56) : fieldOf a 0 56 = a.toNat := by
  rw [fieldOf_zero, Nat.mod_eq_of_lt h]

/-- A register that belongs to no partition is shown to every reader. -/
theorem State.readback_shown (s : State) (who : Issuer) {a : DWord} (h : a.toNat / 8 < 0x0E8) :
    s.readback who a = (s.regRead (a.toNat / 8), s) := by
  have low : a.toNat < 2 ^ 56 := by omega
  rw [s.readback_register who (fieldOf_high_of_lt low) (by rw [fieldOf_low_of_lt low]; exact .inl (by omega)), fieldOf_low_of_lt low,
    regPart_eq_none (.inl (by omega))]
  rfl

/-- Registers below INTEN and INTPEND are read one after another, and no log entry is made. -/
theorem State.readWords_registers (who : Issuer) (s : State) (n : Nat) (a : DWord) (h : a.toNat / 8 + n ≤ 0x0E8) :
    s.readWords who a n = ((List.range n).map fun j => s.regRead (a.toNat / 8 + j), s) := by
  induction n generalizing a with
  | zero => rfl
  | succ n ih =>
    have next : (a + 8).toNat / 8 = a.toNat / 8 + 1 := by
      rw [BitVec.toNat_add, show BitVec.toNat (8 : DWord) = 8 from rfl]
      omega
    unfold State.readWords
    dsimp only
    rw [s.readback_shown who (by omega), ih _ (by rw [next]; omega), List.range_succ_eq_map, List.map_cons, List.map_map, next]
    refine congrArg (fun l => (l, s)) (congrArg _ (List.map_congr_left fun j _ => ?_))
    rw [Function.comp_apply, Nat.add_assoc, Nat.add_comm 1]

/-! ### STATE_READ (R62) -/

theorem badRead_iff (bs : List Byte) : badRead bs = true ↔
    (dwordAt bs 0).toNat % 8 ≠ 0 ∨ (wordAt bs 8).toNat = 0 ∨ 256 < (wordAt bs 8).toNat := by
  simp only [badRead, fieldOf_zero_three, ← BitVec.toNat_inj, Bool.or_eq_true, decide_eq_true_eq, or_assoc]
  rfl

theorem badRead_false {bs : List Byte} (ha : (dwordAt bs 0).toNat % 8 = 0) (h1 : 1 ≤ (wordAt bs 8).toNat)
    (h2 : (wordAt bs 8).toNat ≤ 256) : badRead bs = false := by
  rw [← Bool.not_eq_true, badRead_iff]
  omega

/-- Some word of a STATE_READ lies in the error log, and the log is neither ready nor failed (R18). -/
def State.ReadHeld (s : State) (bs : List Byte) : Prop :=
  s.ready 43 = false ∧ s.bufail 43 = false ∧
    ∃ j < (wordAt bs 8).toNat, fieldOf (dwordAt bs 0 + BitVec.ofNat 64 (8 * j)) 56 8 = 6

theorem State.readWaits_iff (s : State) {bs : List Byte} (h : badRead bs = false) : s.readWaits bs = true ↔ s.ReadHeld bs := by
  unfold State.readWaits State.logHeld State.down State.ReadHeld
  rw [h, Bool.not_false, Bool.true_and, List.any_eq_true]
  simp only [List.mem_range, Bool.and_eq_true, Bool.not_eq_true', decide_eq_true_eq]
  exact ⟨fun ⟨j, hj, ha, hr, hf⟩ => ⟨hr, hf, j, hj, ha⟩, fun ⟨hr, hf, j, hj, ha⟩ => ⟨j, hj, ha, hr, hf⟩⟩

section StateRead
variable {s : State} (up : s.CommandsUp) (hlen : s.request.bytes.length = 12)
include up hlen

theorem stateRead_refused (h : s.request.word0.toNat % 8 ≠ 0 ∨ s.request.count = 0 ∨ 256 < s.request.count) :
    s.Replies .stateRead 0xC900 s 3 [] := by
  have bad := (badRead_iff _).2 h
  refine served_replies (exec_stateRead_command s) (by decide) up hlen ?_ ?_
  · rw [State.readWaits, bad]; rfl
  · rw [stateReadBody, if_pos bad]

variable (ha : s.request.word0.toNat % 8 = 0) (h1 : 1 ≤ s.request.count) (h2 : s.request.count ≤ 256)
include ha h1 h2

theorem stateRead_waits (held : s.ReadHeld s.request.bytes) (calls : s.Calls 0xC900) : exec .stateRead s = .next s :=
  served_waits (exec_stateRead_command s) (by decide) up hlen ((s.readWaits_iff (badRead_false ha h1 h2)).2 held) calls

theorem stateRead_gives (free : ¬ s.ReadHeld s.request.bytes) : s.Leaves .stateRead 0xC900 fun S =>
    ∃ d, S.response = some { opcode := 0xC900, header := s.request.header, status := 0, data := d } ∧
      d.length = s.request.count ∧ (∀ x, x ≠ 0x0E9 → S.reg x = s.reg x) ∧ S.mem = s.mem ∧ S.teams = s.teams := by
  have good := badRead_false ha h1 h2
  have logged := State.readWords_logsTo s.commander.issuer s.request.count s s.request.word0
  have count := State.readWords_length s.commander.issuer s.request.count s s.request.word0
  refine served_leaves (exec_stateRead_command s) (by decide) up hlen
    (Bool.eq_false_iff.2 (mt (s.readWaits_iff good).1 free)) ?_
  rw [stateReadBody, if_neg (by simp [good])]
  generalize s.readWords _ _ _ = r at logged count ⊢
  exact ⟨r.1, rfl, count, fun x hx => logged.reg hx, logged.mem, logged.teams⟩

theorem stateRead_registers (h : s.request.word0.toNat / 8 + s.request.count ≤ 0x0E8) :
    s.Replies .stateRead 0xC900 s 0
      ((List.range s.request.count).map fun j => s.regRead (s.request.word0.toNat / 8 + j)) := by
  have good := badRead_false ha h1 h2
  have inside : ∀ j < s.request.count, fieldOf (s.request.word0 + BitVec.ofNat 64 (8 * j)) 56 8 ≠ 6 :=
    fun j hj => by
      rw [fieldOf_high_of_lt]
      · decide
      · rw [BitVec.toNat_add, BitVec.toNat_ofNat]
        omega
  refine served_replies (exec_stateRead_command s) (by decide) up hlen
    (Bool.eq_false_iff.2 (mt (s.readWaits_iff good).1 fun ⟨_, _, j, hj, h6⟩ => inside j hj h6)) ?_
  rw [stateReadBody, if_neg (by simp [good]), State.readWords_registers _ _ _ _ h]

end StateRead

/-! ### STATE_WRITE (R62, R413) -/

section StateWrite
variable {s : State} (up : s.CommandsUp) (hlen : s.request.bytes.length = 16)
include up hlen

theorem stateWrite_misaligned (h : s.request.word0.toNat % 8 ≠ 0) : s.Replies .stateWrite 0xC901 s 3 [] :=
  served_replies (exec_stateWrite_command s) (by decide) up hlen rfl (by
    rw [stateWriteBody, fieldOf_zero_three]
    exact if_pos h)

variable (low : s.request.word0.toNat < 2 ^ 56) (ha : s.request.word0.toNat % 8 = 0)
include low ha

omit up hlen in
/-- An aligned write of space 0 comes to what the register's write comes to. -/
theorem stateWriteBody_aligned {r : RegOut}
    (h : s.writeReg s.commander (s.request.word0.toNat / 8) s.request.word1 = r) :
    stateWriteBody s s.request.bytes =
      let r := r.settle s.commander.issuer s.request.word0 s.request.word1
      r.1.respond (if r.2 then 5 else 0) := by
  unfold stateWriteBody State.writeAddr
  dsimp only
  rw [fieldOf_zero_three, fieldOf_high_of_lt low, fieldOf_low_of_lt low, h]
  exact if_neg (not_not.2 ha)

theorem stateWrite_applies {S : State}
    (h : s.writeReg s.commander (s.request.word0.toNat / 8) s.request.word1 = .done S ∨
      s.writeReg s.commander (s.request.word0.toNat / 8) s.request.word1 = .held S) :
    s.Replies .stateWrite 0xC901 S 0 [] := by
  refine served_replies (exec_stateWrite_command s) (by decide) up hlen rfl ?_
  rcases h with h | h <;> rw [stateWriteBody_aligned low ha h] <;> rfl

theorem stateWrite_ignored {S : State}
    (h : s.writeReg s.commander (s.request.word0.toNat / 8) s.request.word1 = .ignored S) :
    s.Leaves .stateWrite 0xC901 fun T =>
      T.response = some { opcode := 0xC901, header := s.request.header, status := 5, data := [] } ∧
      T.regs = (S.addLog (platformEntry 0x402 0xFF s.request.word0 s.request.word1)).regs := by
  have unnamed : ∀ a v, s.commander.issuer.entry 0x402 a v = platformEntry 0x402 0xFF a v := fun a v => by
    unfold State.commander
    split <;> rfl
  refine served_leaves (exec_stateWrite_command s) (by decide) up hlen rfl ?_
  rw [stateWriteBody_aligned low ha h, RegOut.settle, unnamed]
  exact ⟨rfl, rfl⟩

end StateWrite

/-! ### LOG_READ and LOG_ACK (R62, R66, R68) -/

/-- Entries that all stand there are read as they would be one by one. -/
theorem flatMap_filterMap_of_isSome {α β γ : Type} {l : List α} {g : α → Option β} (f : β → List γ) (f' : Option β → List γ)
    (hf : ∀ x, f' (some x) = f x) (h : ∀ a ∈ l, (g a).isSome = true) : (l.filterMap g).flatMap f = l.flatMap fun a => f' (g a) := by
  induction l with
  | nil => rfl
  | cons a l ih =>
    obtain ⟨x, hx⟩ := Option.isSome_iff_exists.1 (h a List.mem_cons_self)
    rw [List.filterMap_cons_some hx, List.flatMap_cons, List.flatMap_cons, hx, hf, ih fun b hb => h b (List.mem_cons_of_mem _ hb)]

/-- The places of the entries that a LOG_READ takes. -/
abbrev State.logPlaces (s : State) : List Nat :=
  (List.range (min s.request.count (s.logHead - s.request.word0.toNat))).map fun j => s.request.word0.toNat + j

section LogRead
variable {s : State} (up : s.CommandsUp) (hlen : s.request.bytes.length = 12)
include up hlen

theorem logRead_unready (h : s.ready 43 = false) : s.Replies .logRead 0xC902 s 4 [] :=
  served_replies (exec_logRead_command s) (by decide) up hlen rfl (by
    rw [logReadBody]
    exact if_pos (by rw [h]; rfl))

variable (ready : s.ready 43 = true)
include ready

theorem logRead_refused (h : s.request.count = 0 ∨ 32 < s.request.count ∨ s.logHead < s.request.word0.toNat ∨
    s.request.word0.toNat < s.logHead - 65535) :
    s.Replies .logRead 0xC902 s 3 [] :=
  served_replies (exec_logRead_command s) (by decide) up hlen rfl (by
    rw [logReadBody, ready, Bool.not_true, if_neg Bool.false_ne_true]
    exact if_pos (h.imp id (Or.imp id (Or.imp id Nat.add_lt_of_lt_sub))))

theorem logRead_gives (h1 : 1 ≤ s.request.count) (h2 : s.request.count ≤ 32)
    (h3 : s.request.word0.toNat ≤ s.logHead) (h4 : s.logHead - 65535 ≤ s.request.word0.toNat)
    (there : ∀ j ∈ s.logPlaces, s.log[j]?.isSome = true) :
    s.Replies .logRead 0xC902 s 0 ([BitVec.ofNat 64 s.logHead, BitVec.ofNat 64 s.logTail, BitVec.ofNat 64 s.logDropped] ++
      s.logPlaces.flatMap fun j => (List.range 8).map fun w =>
        dwordAt (((s.log[j]?).map (s.entryFor (s.request.ok && s.spdm.session))).getD []) (8 * w)) := by
  refine served_replies (exec_logRead_command s) (by decide) up hlen rfl ?_
  rw [logReadBody, ready, Bool.not_true, if_neg Bool.false_ne_true]
  have fits : ¬ (s.request.count = 0 ∨ 32 < s.request.count ∨ s.logHead < s.request.word0.toNat ∨
      s.request.word0.toNat + 65535 < s.logHead) := by omega
  refine (if_neg fits).trans (congrArg (fun d => s.respond 0 (s.logHeader ++ d)) ?_)
  rw [List.flatMap_map]
  exact flatMap_filterMap_of_isSome (g := fun j => s.log[s.request.word0.toNat + j]?) _
    (fun x => (List.range 8).map fun w => dwordAt ((x.map (s.entryFor (s.request.ok && s.spdm.session))).getD []) (8 * w))
    (fun _ => rfl) fun j hj => there _ (List.mem_map_of_mem hj)

end LogRead

section LogAck
variable {s : State} (up : s.CommandsUp) (hlen : s.request.bytes.length = 8)
include up hlen

theorem logAck_unready (h : s.ready 43 = false) : s.Replies .logAck 0xC903 s 4 [] :=
  served_replies (exec_logAck_command s) (by decide) up hlen rfl (by
    rw [logAckBody]
    exact if_pos (by rw [h]; rfl))

variable (ready : s.ready 43 = true)
include ready

theorem logAck_refused (h : s.request.word0.toNat < s.logTail ∨ s.logHead < s.request.word0.toNat) :
    s.Replies .logAck 0xC903 s 3 [] :=
  served_replies (exec_logAck_command s) (by decide) up hlen rfl (by
    rw [logAckBody, ready, Bool.not_true, if_neg Bool.false_ne_true]
    exact if_pos h)

theorem logAck_frees (h1 : s.logTail ≤ s.request.word0.toNat) (h2 : s.request.word0.toNat ≤ s.logHead) :
    s.Replies .logAck 0xC903 { s with logTail := s.request.word0.toNat } 0 [BitVec.ofNat 64 s.request.word0.toNat] :=
  served_replies (exec_logAck_command s) (by decide) up hlen rfl (by
    rw [logAckBody, ready, Bool.not_true, if_neg Bool.false_ne_true]
    exact if_neg (not_or.2 ⟨Nat.not_lt.2 h1, Nat.not_lt.2 h2⟩))

end LogAck

end Sys2Proof.Machine
end

section
/-! PROOFS. Key slots (R57, R58, R63): the loading and the eviction of a key. -/

namespace Sys2Proof.Machine

/-! ### KEY_LOAD (R63) -/

theorem reserved_iff (bs : List Byte) : ((bs.drop 2).take 6).any (fun b => decide (b ≠ 0)) = true ↔
    ∃ i, 2 ≤ i ∧ i < 8 ∧ bs.getD i 0 ≠ 0 := by
  have nonzero : ∀ i, bs.getD i 0 ≠ 0 ↔ ∃ b, bs[i]? = some b ∧ b ≠ 0 := fun i => by
    rw [List.getD_eq_getElem?_getD]
    cases bs[i]? <;> simp
  simp only [List.any_eq_true, decide_eq_true_eq, List.mem_iff_getElem?, nonzero]
  constructor
  · rintro ⟨b, ⟨i, hi⟩, hb⟩
    rw [List.getElem?_take, List.getElem?_drop] at hi
    split at hi
    · exact ⟨2 + i, by omega, by omega, b, hi, hb⟩
    · cases hi
  · rintro ⟨i, h2, h8, b, hi, hb⟩
    refine ⟨b, ⟨i - 2, ?_⟩, hb⟩
    rw [List.getElem?_take, List.getElem?_drop, if_pos (by omega), Nat.add_sub_cancel' h2, hi]

/-- Whether the payload of a KEY_LOAD names no slot or no world, sets a reserved byte or gives one key twice (R63). -/
def BadKey (bs : List Byte) : Prop :=
  63 < (bs.getD 0 0).toNat ∨ 1 < (bs.getD 1 0).toNat ∨ (∃ i, 2 ≤ i ∧ i < 8 ∧ bs.getD i 0 ≠ 0) ∨ keyAt bs 8 = keyAt bs 0x28

theorem badKey_iff (bs : List Byte) : (63 < (bs.getD 0 0).toNat ∨ 1 < (bs.getD 1 0).toNat ∨
    ((bs.drop 2).take 6).any (fun b => decide (b ≠ 0)) = true ∨ keyAt bs 8 = keyAt bs 0x28) ↔ BadKey bs := by
  rw [reserved_iff]; rfl

/-- The word of a loaded slot names the key's world (R57). -/
theorem loadedWord_eq (w : Byte) (h : w.toNat ≤ 1) :
    (if bitAt (w.setWidth 64 : DWord) 0 then (0xC0 : DWord) else 0x80) = if w = 1 then 0xC0 else 0x80 := by
  obtain rfl | rfl : w = 0 ∨ w = 1 := by
    rcases Nat.le_one_iff_eq_zero_or_eq_one.1 h with h | h
    · exact .inl (BitVec.eq_of_toNat_eq h)
    · exact .inr (BitVec.eq_of_toNat_eq h)
  · rfl
  · rfl

section KeyLoad
variable {s : State} (up : s.CommandsUp) (hlen : s.request.bytes.length = 72)
include up hlen

theorem keyLoad_refused {st slot : Nat} (h : keyLoadBody s s.request.bytes = s.refuseKey st slot) :
    s.Leaves .keyLoad 0xC904 (s.KeyRefused st) :=
  served_leaves (exec_keyLoad_command s) (by decide) up hlen rfl (by rw [h]; exact s.refuseKey_refused st slot)

theorem keyLoad_outside (h : ¬ s.inSession = true) : s.Leaves .keyLoad 0xC904 (s.KeyRefused 1) := by
  refine keyLoad_refused up hlen (slot := 0xFF) ?_
  rw [keyLoadBody]
  exact if_pos (by simp [h])

variable (inside : s.inSession = true)
include inside

theorem keyLoad_unready (h : s.ready 40 = false) : s.Leaves .keyLoad 0xC904 (s.KeyRefused 4) := by
  refine keyLoad_refused up hlen (slot := s.request.byte0) ?_
  rw [keyLoadBody, inside, h]
  rfl

variable (ready : s.ready 40 = true)
include ready

theorem keyLoad_bad (bad : BadKey s.request.bytes) : s.Leaves .keyLoad 0xC904 (s.KeyRefused 3) := by
  refine keyLoad_refused up hlen (slot := s.request.byte0) ?_
  simp only [keyLoadBody, inside, ready, Bool.not_true, Bool.false_eq_true, if_false]
  rw [if_pos ((badKey_iff _).2 bad)]

variable (good : ¬ BadKey s.request.bytes)
include good

theorem keyLoad_taken (h : bitAt (s.reg (0x0A8 + s.request.byte0)) 7 = true ∨ bitAt (s.reg (0x0A8 + s.request.byte0)) 5 = true) :
    s.Leaves .keyLoad 0xC904 (s.KeyRefused 2) := by
  refine keyLoad_refused up hlen (slot := s.request.byte0) ?_
  simp only [keyLoadBody, inside, ready, Bool.not_true, Bool.false_eq_true, if_false]
  rw [if_neg (mt (badKey_iff _).1 good), if_pos (Bool.or_eq_true_iff.2 h)]

theorem keyLoad_loads (h7 : bitAt (s.reg (0x0A8 + s.request.byte0)) 7 = false)
    (h5 : bitAt (s.reg (0x0A8 + s.request.byte0)) 5 = false) : s.Leaves .keyLoad 0xC904 fun S =>
    S.response = some { opcode := 0xC904, header := s.request.header, status := 0, data := [] } ∧
      S.reg (0x0A8 + s.request.byte0) = (if s.request.byte1 = 1 then 0xC0 else 0x80) ∧
      (∀ i, i ≠ 0x0A8 + s.request.byte0 → S.reg i = s.reg i) ∧ S.log = s.log ∧
      ∀ i, (sget {} S.keys i : KeySlot) = if i = s.request.byte0
        then { dataKey := keyAt s.request.bytes 8, tweakKey := keyAt s.request.bytes 0x28 } else sget {} s.keys i := by
  have world : s.request.byte1.toNat ≤ 1 := Nat.not_lt.1 fun h => good (.inr (.inl h))
  refine served_leaves (exec_keyLoad_command s) (by decide) up hlen rfl ?_
  simp only [keyLoadBody, inside, ready, Bool.not_true, Bool.false_eq_true, if_false]
  rw [if_neg (mt (badKey_iff _).1 good), if_neg (by rw [Bool.or_eq_true, h7, h5]; decide)]
  refine ⟨rfl, ?_, fun i hi => ?_, rfl, fun i => sget_sset _ _ _ _ _⟩
  · exact (State.setReg_reg _ _ _ _).trans ((if_pos rfl).trans (loadedWord_eq _ world))
  · exact (State.setReg_reg _ _ _ _).trans (if_neg hi)

end KeyLoad

/-! ### The end of an eviction (R58) -/

theorem State.rest_code {s S : State} (h : S.rest = s.rest) : S.code = s.code := (congrArg State.code h :)

theorem State.rest_keys {s S : State} (h : S.rest = s.rest) : S.keys = s.keys := (congrArg State.keys h :)

theorem State.cleanKey_rest (s : State) (pair : BitVec 512) : (s.cleanKey pair).rest = s.rest :=
  foldl_rest (fun s (l : PoolLine) => s.writeBackLine l.line) (fun s l => s.writeBackLine_rest l.line) _ _

theorem State.evictPoolKey_rest (s : State) (i : Nat) : (s.evictPoolKey i).rest = s.rest := by
  have cleaned := foldl_rest State.cleanPoolLine State.cleanPoolLine_rest
    (s.poolL2.filter fun l => decide (l.key = i) && !l.dirty.isEmpty) s
  exact .trans (foldl_rest (fun s l => s.mscWriteBack l (s.mscBase l)) (fun s l => s.mscWriteBack_rest l _) _ _) cleaned

/-- Of the lines under a key none stays in the memory-side cache, and in the L2s only those on which posted stores stand. -/
theorem State.evictPoolKey_lines (s : State) (i : Nat) : (∀ l ∈ (s.evictPoolKey i).msc, l.key ≠ i) ∧
    ∀ l ∈ (s.evictPoolKey i).poolL2, l.key = i → (s.evictPoolKey i).postedOn l.line = true := by
  unfold State.evictPoolKey
  refine ⟨fun l hl => of_decide_eq_true (List.mem_filter.1 hl).2, fun l hl hk => ?_⟩
  have kept := (List.mem_filter.1 hl).2
  rw [Bool.or_eq_true, decide_eq_true_eq] at kept
  exact kept.resolve_left fun h => h hk

/-- No posted store that is to be performed is left. -/
theorem takePosted_left {f : Posted → Bool} (l : List Posted) {acc rest : List Posted} (h : ∀ p ∈ rest, f p = false) :
    ∀ p ∈ (takePosted f l acc rest).2, f p = false := by
  induction l generalizing acc rest with
  | nil => exact h
  | cons q l ih =>
    rw [takePosted]
    split
    · exact ih h
    · next hq =>
      rw [Bool.or_eq_true, not_or, Bool.not_eq_true] at hq
      exact ih (List.forall_mem_cons.2 ⟨hq.1, h⟩)

/-- Performing posted stores leaves the rest of the state but their list, and none that is to be performed in it. -/
theorem State.performWhere_rest (s : State) (f : Posted → Bool) :
    ∃ left : List Posted, (s.performWhere f).rest = State.rest { s with posted := left } ∧ ∀ p ∈ left, f p = false :=
  ⟨_, State.performAll_rest _ _, takePosted_left _ fun _ hp => absurd hp List.not_mem_nil⟩

/-- What the eviction of a slot's key waits for: a port that would take a dirty line of the key is down (R18, R29, R58). -/
theorem State.evictHeld_iff (s : State) (i : Nat) : s.evictHeld i = true ↔
    (∃ l ∈ s.poolL2, l.key = i ∧ l.dirty ≠ [] ∧ s.poolHeld (l.line * 128) = true) ∨
      ∃ l ∈ s.msc, l.key = i ∧ l.dirty ≠ [] ∧ s.down (s.portOf (s.mscBase l)) = true := by
  simp [State.evictHeld, and_assoc]

section Evict
variable {s : State}

theorem execKeyEvictComplete_idle (h : bitAt (s.reg (0x0A8 + s.request.e % 64)) 5 = false) : execKeyEvictComplete s = .next s := by
  unfold execKeyEvictComplete
  dsimp only
  rw [h, Bool.false_and, if_neg Bool.false_ne_true]

theorem execKeyEvictComplete_held (h : (s.performWhere fun p => decide (p.key = s.request.e % 64)).evictHeld (s.request.e % 64) = true) :
    execKeyEvictComplete s = .next s := by
  unfold execKeyEvictComplete
  dsimp only
  rw [h, Bool.not_true, Bool.and_false, if_neg Bool.false_ne_true]

/-- A slot whose key has been evicted: nothing of the device stands under it, and its empty episode begins (R58). -/
structure State.Evicted (s : State) (slot : Nat) (S : State) : Prop where
  msc : ∀ l ∈ S.msc, l.key ≠ slot
  poolL2 : ∀ l ∈ S.poolL2, l.key = slot → S.postedOn l.line = true
  word : S.reg (0x0A8 + slot) = s.reg (0x0A8 + slot) &&& 0x40
  key : (sget {} S.keys slot : KeySlot) = { logged := (sget {} s.keys slot).logged && !bitAt (s.reg (0x0A8 + slot)) 7 }
  posted : ∀ p ∈ S.posted, p.key ≠ slot
  l1 : ∀ l, l ∈ S.l1 ↔ l ∈ s.l1 ∧ l.key ≠ slot
  code : ∀ l, l ∈ S.code ↔ l ∈ s.code ∧ l.key ≠ slot
  keys : ∀ i, i ≠ slot → (sget {} S.keys i : KeySlot) = sget {} s.keys i
  regs : ∀ i, i ≠ 0x0A8 + slot → S.reg i = s.reg i

theorem execKeyEvictComplete_evicts (h : bitAt (s.reg (0x0A8 + s.request.e % 64)) 5 = true)
    (free : ¬ (s.performWhere fun p => decide (p.key = s.request.e % 64)).evictHeld (s.request.e % 64) = true) :
    ∃ S, execKeyEvictComplete s = .next S ∧ s.Evicted (s.request.e % 64) S := by
  unfold execKeyEvictComplete
  dsimp only
  rw [h, Bool.eq_false_iff.2 free, Bool.not_false, Bool.and_self, if_pos rfl]
  generalize s.request.e % 64 = slot at h free ⊢
  obtain ⟨left, performed, none_left⟩ := s.performWhere_rest fun p => decide (p.key = slot)
  generalize (s.performWhere fun p => decide (p.key = slot)) = s0 at performed free ⊢
  generalize (sget {} s.keys slot : KeySlot).pair = pair
  obtain ⟨msc, poolL2⟩ := (s0.cleanKey pair).evictPoolKey_lines slot
  have same := ((State.evictPoolKey_rest (s0.cleanKey pair) slot).trans (s0.cleanKey_rest pair)).trans performed
  generalize (s0.cleanKey pair).evictPoolKey slot = s1 at msc poolL2 same ⊢
  have l1 : s1.l1 = s.l1 := (State.rest_l1 same :)
  have code : s1.code = s.code := (State.rest_code same :)
  have keys : s1.keys = s.keys := (State.rest_keys same :)
  have posted : s1.posted = left := (State.rest_posted same :)
  refine ⟨_, rfl, msc, poolL2, ?_, sget_sset_same _ _ _ _, fun p hp => ?_, fun l => ?_, fun l => ?_, fun i hi => ?_, fun i hi => ?_⟩
  · exact (State.setReg_reg _ _ _ _).trans (if_pos rfl)
  · exact of_decide_eq_false (none_left p (posted ▸ hp))
  · rw [← l1]; exact List.mem_filter.trans (and_congr_right fun _ => decide_eq_true_iff)
  · rw [← code]; exact List.mem_filter.trans (and_congr_right fun _ => decide_eq_true_iff)
  · exact (sget_sset_ne _ _ _ _ _ hi).trans (by rw [keys])
  · exact (State.setReg_reg _ _ _ _).trans ((if_neg hi).trans (State.reg_rest same i))

end Evict

end Sys2Proof.Machine
end

section
/-! PROOFS. WARM_RESET and FLOOR_RAISE (R21, R64). -/

namespace Sys2Proof.Machine

/-! ### The log has no part in the response (R62, R68) -/

/-- A state with another response. -/
def State.withResponse (s : State) (r : Option Response) : State := { s with response := r }

theorem State.withResponse_ite {c : Prop} [Decidable c] (a b : State) (r : Option Response) :
    (if c then a else b).withResponse r = if c then a.withResponse r else b.withResponse r :=
  apply_ite (State.withResponse · r) c a b

theorem State.raise_withResponse (s : State) (r : Option Response) (e : Nat) :
    (s.withResponse r).raise e = (s.raise e).withResponse r := by
  unfold State.raise State.sendMessage State.setReg State.reg State.withResponse
  dsimp only
  split_ifs <;> rfl

theorem State.appendLog_withResponse (s : State) (r : Option Response) (e : LogEntry) :
    (s.withResponse r).appendLog e = (s.appendLog e).withResponse r :=
  State.raise_withResponse { s with log := s.log ++ [{ e with time := s.time, seq := s.logHead }], logHead := s.logHead + 1 } r 0

theorem State.addLog_withResponse (s : State) (r : Option Response) (e : LogEntry) :
    (s.withResponse r).addLog e = (s.addLog e).withResponse r := by
  have lost : ∀ e, State.appendLog { s.withResponse r with logLost := false } e =
      (State.appendLog { s with logLost := false } e).withResponse r := State.appendLog_withResponse { s with logLost := false } r
  unfold State.addLog
  rw [State.withResponse_ite]
  refine if_congr Iff.rfl rfl ?_
  rw [State.withResponse_ite]
  refine if_congr Iff.rfl rfl ?_
  rw [State.withResponse_ite]
  refine if_congr Iff.rfl ?_ (s.appendLog_withResponse r e)
  dsimp only
  rw [lost, State.withResponse_ite]
  exact if_congr Iff.rfl rfl (State.appendLog_withResponse _ r e)

/-- The traps of teams that waited to be placed again are logged alike whatever the last response is (R116, R122). -/
theorem State.relaunchLog_withResponse (s : State) (r : Option Response) (es : List (Nat × Nat × LogEntry)) :
    es.foldl (fun x e => x.addLog e.2.2) (s.withResponse r) = (es.foldl (fun x e => x.addLog e.2.2) s).withResponse r :=
  List.foldl_hom (State.withResponse · r) fun x e => x.addLog_withResponse r e.2.2

/-! ### WARM_RESET (R64) -/

section WarmReset
variable {s : State} (up : s.CommandsUp) (hlen : s.request.bytes = [])
include up hlen

theorem warmReset_outside (h : ¬ s.inSession = true) : s.Replies .warmReset 0xC905 s 1 [] :=
  served_replies (exec_warmReset_command s) (by decide) up (congrArg List.length hlen) rfl (if_neg h)

theorem warmReset_resets (h : s.inSession = true) : s.Leaves .warmReset 0xC905 fun S =>
    S.response = some { opcode := 0xC905, header := s.request.header, status := 0, data := [] } ∧
      S.teams = [] ∧ S.insts = [] ∧ S.parts = [] ∧ S.keys = [] ∧ S.l1 = [] ∧ S.l2Dirty = [] ∧ S.poolL2 = [] ∧
      S.mem = s.discardDirty.mem ∧ S.log = (s.relaunchLog.foldl (fun x e => x.addLog e.2.2) s).log ∧ S.time = s.time ∧
      ∀ i, i < 0x01C ∨ 0x028 ≤ i → S.reg i = regDefault i := by
  have logged : s.relaunchLog.foldl (fun x e => x.addLog e.2.2) (s.respond 0) = _ := s.relaunchLog_withResponse _ s.relaunchLog
  have logs := s.relaunchLog_logsTo s.relaunchLog
  have beneath : (s.respond 0).warmReset.mem = s.discardDirty.mem := by
    show State.mem (State.discardDirty (s.relaunchLog.foldl _ (s.respond 0))) = _
    rw [((s.respond 0).relaunchLog_logsTo s.relaunchLog).discardDirty_mem, State.discardDirty_mem, State.discardDirty_mem]
    rfl
  refine served_leaves (exec_warmReset_command s) (by decide) up (congrArg List.length hlen) rfl ?_
  rw [warmResetBody, if_pos h]
  refine ⟨?_, rfl, rfl, rfl, rfl, rfl, rfl, rfl, beneath, (congrArg State.log logged :),
    ((congrArg State.time logged).trans logs.time :), (s.respond 0).warmReset_reg.1⟩
  exact congrArg (Option.map _) (congrArg State.response logged)

end WarmReset

/-! ### FLOOR_RAISE (R64) -/

section FloorRaise
variable {s : State} (up : s.CommandsUp) (hlen : s.request.bytes.length = 1)
include up hlen

theorem floorRaise_outside (h : ¬ s.inSession = true) : s.Replies .floorRaise 0xC906 s 1 [] :=
  served_replies (exec_floorRaise_command s) (by decide) up hlen rfl (by
    rw [floorRaiseBody]
    exact if_pos (by simp [h]))

variable (inside : s.inSession = true)
include inside

theorem floorRaise_unready (h : s.ready 40 = false) : s.Replies .floorRaise 0xC906 s 4 [] :=
  served_replies (exec_floorRaise_command s) (by decide) up hlen rfl (by
    rw [floorRaiseBody, inside, h]
    rfl)

variable (ready : s.ready 40 = true)
include ready

theorem floorRaise_noImage (h : s.request.byte0 = 0 ∨ 2 < s.request.byte0) : s.Replies .floorRaise 0xC906 s 3 [] :=
  served_replies (exec_floorRaise_command s) (by decide) up hlen rfl (by
    simp only [floorRaiseBody, inside, ready, Bool.not_true, Bool.false_eq_true, if_false]
    exact if_pos (show s.request.byte0 ≠ 1 ∧ s.request.byte0 ≠ 2 by omega))

variable (image : s.request.byte0 = 1 ∨ s.request.byte0 = 2)
include image

omit up hlen inside ready in
/-- The payload names one of the two images that have a floor. -/
theorem floorRaise_named : ¬ (s.request.byte0 ≠ 1 ∧ s.request.byte0 ≠ 2) := fun h => image.elim h.1 h.2

theorem floorRaise_stands (h : sget 0 s.svn s.request.byte0 ≤ sget 0 s.otpFloor s.request.byte0) :
    s.Replies .floorRaise 0xC906 s 0 [BitVec.ofNat 64 (sget 0 s.otpFloor s.request.byte0)] :=
  served_replies (exec_floorRaise_command s) (by decide) up hlen rfl (by
    simp only [floorRaiseBody, inside, ready, Bool.not_true, Bool.false_eq_true, if_false]
    rw [if_neg (floorRaise_named image), if_pos h])

variable (above : sget 0 s.otpFloor s.request.byte0 < sget 0 s.svn s.request.byte0)
include above

theorem floorRaise_spent (h : 64 ≤ sget 0 s.otpRaises s.request.byte0) : s.Replies .floorRaise 0xC906 s 3 [] :=
  served_replies (exec_floorRaise_command s) (by decide) up hlen rfl (by
    simp only [floorRaiseBody, inside, ready, Bool.not_true, Bool.false_eq_true, if_false]
    rw [if_neg (floorRaise_named image), if_neg (Nat.not_le.2 above), if_pos h])

theorem floorRaise_raises (h : sget 0 s.otpRaises s.request.byte0 < 64) :
    s.Leaves .floorRaise 0xC906 fun S =>
      S.response = some { opcode := 0xC906, header := s.request.header, status := 0
                          data := [BitVec.ofNat 64 (sget 0 s.svn s.request.byte0)] } ∧
      sget 0 S.otpFloor s.request.byte0 = sget 0 s.svn s.request.byte0 ∧
      sget 0 S.otpRaises s.request.byte0 = sget 0 s.otpRaises s.request.byte0 + 1 ∧
      S.regs = s.regs ∧ ∀ i, i ≠ s.request.byte0 → sget 0 S.otpFloor i = sget 0 s.otpFloor i := by
  refine served_leaves (exec_floorRaise_command s) (by decide) up hlen rfl ?_
  simp only [floorRaiseBody, inside, ready, Bool.not_true, Bool.false_eq_true, if_false]
  rw [if_neg (floorRaise_named image), if_neg (Nat.not_le.2 above), if_neg (Nat.not_le.2 h)]
  exact ⟨rfl, sget_sset_same 0 s.otpFloor _ _, sget_sset_same 0 s.otpRaises _ (sget 0 s.otpRaises _ + 1), rfl,
    fun i hi => sget_sset_ne 0 s.otpFloor _ _ _ hi⟩

end FloorRaise

end Sys2Proof.Machine
end

section
/-! PROOFS. SPDM requests (R60). -/

namespace Sys2Proof.Machine

/-- The SPDM requests that port 0 answers. -/
def spdmRequests : List Instr :=
  [.getVersion, .getCapabilities, .negotiateAlgorithms, .getDigests, .getCertificate, .challenge, .getMeasurements, .keyExchange, .finish]

theorem spdmRequests_served (s : State) : ∀ e ∈ spdmRequests, ∃ due f, exec e s = spdmRequest s due f := by
  unfold spdmRequests
  simp only [List.forall_mem_cons, List.not_mem_nil, false_imp_iff, implies_true, and_true]
  exact ⟨⟨_, _, exec_getVersion s⟩, ⟨_, _, exec_getCapabilities s⟩, ⟨_, _, exec_negotiateAlgorithms s⟩, ⟨_, _, exec_getDigests s⟩,
    ⟨_, _, exec_getCertificate s⟩, ⟨_, _, exec_challenge s⟩, ⟨_, _, exec_getMeasurements s⟩, ⟨_, _, exec_keyExchange s⟩,
    ⟨_, _, exec_finish s⟩⟩

/-- A failed port gives no response and counts the request (R18). -/
theorem spdm_failed {s : State} (h : s.bufail 24 = true) {e : Instr} (he : e ∈ spdmRequests) :
    exec e s = .next (({ s with spdm := { s.spdm with answer := none } } : State).foldBufail 24) := by
  obtain ⟨due, f, served⟩ := spdmRequests_served s e he
  rw [served, spdmRequest, if_pos h]

theorem spdm_down {s : State} (ok : s.bufail 24 = false) (h : s.ready 24 = false) {e : Instr} (he : e ∈ spdmRequests) :
    exec e s = .next s := by
  obtain ⟨due, f, served⟩ := spdmRequests_served s e he
  rw [served, spdmRequest, if_neg (by simp [ok]), if_pos (by simp [h])]

/-- Port 0 answers an SPDM request with a code and the words of its payload. -/
def State.SpdmAnswers (s : State) (e : Instr) (p : Spdm) (code : Nat) (ws : List DWord) : Prop :=
  exec e s = .next { s with spdm := { p with answer := some (code, ws) } }

section Spdm
variable {s : State} (ok : s.bufail 24 = false) (ready : s.ready 24 = true)
include ok ready

/-- A ready port serves a request that is due. -/
theorem spdmRequest_due {due : Spdm → Bool} (f : Spdm → State) (hd : due s.spdm = true) :
    spdmRequest s due f = .next (f s.spdm) := by
  rw [spdmRequest, if_neg (by simp [ok]), if_neg (by simp [ready]), if_pos hd]

/-- It answers another as unexpected. -/
theorem spdmRequest_early {due : Spdm → Bool} (f : Spdm → State) (hd : due s.spdm = false) :
    spdmRequest s due f = .next (s.spdmAnswer s.spdm 0x7F [4]) := by
  rw [spdmRequest, if_neg (by simp [ok]), if_neg (by simp [ready]), if_neg (by simp [hd])]

theorem getVersion_answers :
    s.SpdmAnswers .getVersion { s.spdm with version := true, caps := false, algs := false, exchanged := false } 0x04 [0x1300] := by
  rw [State.SpdmAnswers, exec_getVersion, execGetVersion, spdmRequest_due ok ready _ rfl]
  rfl

theorem getCapabilities_answers : if s.spdm.version && !s.spdm.algs then
    s.SpdmAnswers .getCapabilities { s.spdm with caps := true } 0x61 [] else s.SpdmAnswers .getCapabilities s.spdm 0x7F [4] := by
  unfold State.SpdmAnswers
  rw [exec_getCapabilities, execGetCapabilities]
  split
  · next h => exact spdmRequest_due ok ready _ h
  · next h => exact spdmRequest_early ok ready _ (Bool.eq_false_iff.2 h)

theorem negotiateAlgorithms_answers :
    (s.spdm.caps = false → s.SpdmAnswers .negotiateAlgorithms s.spdm 0x7F [4]) ∧
    (s.spdm.caps = true → s.request.ok = true → s.SpdmAnswers .negotiateAlgorithms { s.spdm with algs := true } 0x63 []) ∧
    (s.spdm.caps = true → s.request.ok = false → s.SpdmAnswers .negotiateAlgorithms s.spdm 0x7F [1]) := by
  unfold State.SpdmAnswers
  rw [exec_negotiateAlgorithms, execNegotiateAlgorithms]
  refine ⟨fun h => spdmRequest_early ok ready _ h, fun h hq => ?_, fun h hq => ?_⟩
  · rw [spdmRequest_due ok ready (due := fun p => p.caps) _ h, if_pos hq]
    rfl
  · rw [spdmRequest_due ok ready (due := fun p => p.caps) _ h, if_neg (by simp [hq])]
    rfl

/-- What is asked before the algorithms have been negotiated is unexpected. -/
theorem spdm_beforeAlgorithms (h : s.spdm.algs = false) :
    ∀ e ∈ [Instr.getDigests, .getCertificate, .challenge, .getMeasurements, .keyExchange], s.SpdmAnswers e s.spdm 0x7F [4] := by
  have early := fun f => spdmRequest_early ok ready (due := fun p => p.algs) f h
  unfold State.SpdmAnswers
  simp only [List.forall_mem_cons, List.not_mem_nil, false_imp_iff, implies_true, and_true, exec_getDigests, exec_getCertificate,
    exec_challenge, exec_getMeasurements, exec_keyExchange]
  exact ⟨early _, early _, early _, early _, early _⟩

section Negotiated
variable (algs : s.spdm.algs = true)
include algs

theorem spdmRequest_negotiated (f : Spdm → State) : spdmRequest s (fun p => p.algs) f = .next (f s.spdm) :=
  spdmRequest_due ok ready f algs

theorem getDigests_answers : s.SpdmAnswers .getDigests s.spdm 0x01 (digestWords (sha384 Config.certChain)) := by
  rw [State.SpdmAnswers, exec_getDigests, execGetDigests, spdmRequest_negotiated ok ready algs]
  rfl

/-- A portion of the chain, with its length and that of what remains. -/
theorem getCertificate_answers :
    (Config.certChain.drop s.request.num = [] → s.SpdmAnswers .getCertificate s.spdm 0x7F [1]) ∧
    (Config.certChain.drop s.request.num ≠ [] → s.SpdmAnswers .getCertificate s.spdm 0x02
      (BitVec.ofNat 64 (min s.request.e (Config.certChain.drop s.request.num).length) ::
        BitVec.ofNat 64 ((Config.certChain.drop s.request.num).length - min s.request.e (Config.certChain.drop s.request.num).length) ::
        ((Config.certChain.drop s.request.num).take s.request.e).map (·.setWidth 64))) := by
  unfold State.SpdmAnswers
  rw [exec_getCertificate, execGetCertificate, spdmRequest_negotiated ok ready algs, Ne, List.drop_eq_nil_iff]
  dsimp only
  rw [List.length_take]
  exact ⟨fun h => congrArg Host.Outcome.next (if_pos h), fun h => congrArg Host.Outcome.next (if_neg h)⟩

theorem challenge_answers : ∃ w, w.length = 12 ∧ exec .challenge s = .next
    { s with free := s.free + 1, spdm := { s.spdm with answer := some (0x03, digestWords (sha384 Config.certChain) ++ w) } } := by
  refine ⟨(List.range 12).map fun i => ((Config.proof s.free) >>> (64 * i)).setWidth 64, by simp, ?_⟩
  rw [exec_challenge, execChallenge, spdmRequest_negotiated ok ready algs]
  rfl

theorem keyExchange_answers : s.SpdmAnswers .keyExchange { s.spdm with exchanged := true } 0x64 [] := by
  rw [State.SpdmAnswers, exec_keyExchange, execKeyExchange, spdmRequest_negotiated ok ready algs]
  rfl

/-! ### Measurements -/

omit ok ready algs in
theorem measure_rom : s.measure 1 = digestWords Config.romMeasurement := rfl

omit ok ready algs in
theorem measure_image {i : Nat} (h : i = 2 ∨ i = 3) : s.measure i = digestWords ((sget none s.images (i - 1)).getD 0) := by
  unfold State.measure
  rw [if_neg (by omega), if_neg (by omega)]

omit ok ready algs in
theorem measure_world : s.measure 4 = digestWords (sha384 s.worldBytes) := rfl

/-- The answer to GET_MEASUREMENTS by its index. -/
theorem exec_getMeasurements_negotiated : exec .getMeasurements s = .next (
    if s.request.e = 0 then s.spdmAnswer s.spdm 0x60 [4]
    else if s.request.e = 255 then s.spdmAnswer s.spdm 0x60 ([1, 2, 3, 4].flatMap s.measure)
    else if s.request.e ≤ 4 then s.spdmAnswer s.spdm 0x60 (s.measure s.request.e)
    else s.spdmAnswer s.spdm 0x7F [1]) := by
  rw [exec_getMeasurements, execGetMeasurements, spdmRequest_negotiated ok ready algs]

theorem getMeasurements_count (h : s.request.e = 0) : s.SpdmAnswers .getMeasurements s.spdm 0x60 [4] := by
  unfold State.SpdmAnswers
  rw [exec_getMeasurements_negotiated ok ready algs, if_pos h]
  rfl

theorem getMeasurements_one {ws : List DWord} (h1 : 1 ≤ s.request.e) (h4 : s.request.e ≤ 4) (hw : s.measure s.request.e = ws) :
    s.SpdmAnswers .getMeasurements s.spdm 0x60 ws := by
  unfold State.SpdmAnswers
  rw [exec_getMeasurements_negotiated ok ready algs, if_neg (by omega), if_neg (by omega), if_pos h4, hw]
  rfl

theorem getMeasurements_none (h4 : 4 < s.request.e) (h : s.request.e ≠ 255) : s.SpdmAnswers .getMeasurements s.spdm 0x7F [1] := by
  unfold State.SpdmAnswers
  rw [exec_getMeasurements_negotiated ok ready algs, if_neg (by omega), if_neg h, if_neg (by omega)]
  rfl

theorem getMeasurements_all (h : s.request.e = 255) : s.SpdmAnswers .getMeasurements s.spdm 0x60
    (digestWords Config.romMeasurement ++ digestWords ((sget none s.images 1).getD 0) ++
      digestWords ((sget none s.images 2).getD 0) ++ digestWords (sha384 s.worldBytes)) := by
  have all : [1, 2, 3, 4].flatMap s.measure = digestWords Config.romMeasurement ++ digestWords ((sget none s.images 1).getD 0) ++
      digestWords ((sget none s.images 2).getD 0) ++ digestWords (sha384 s.worldBytes) := by
    simp only [List.flatMap_cons, List.flatMap_nil, List.append_nil, List.append_assoc]
    rw [measure_rom, measure_image (.inl rfl), measure_image (.inr rfl), measure_world]
  unfold State.SpdmAnswers
  rw [exec_getMeasurements_negotiated ok ready algs, if_neg (by omega), if_pos h, all]
  rfl

end Negotiated

/-- FINISH opens the session when the requester's proof holds. -/
theorem finish_answers :
    (s.spdm.exchanged = false → s.SpdmAnswers .finish s.spdm 0x7F [4]) ∧
    (s.spdm.exchanged = true → s.request.ok = true → s.SpdmAnswers .finish { s.spdm with exchanged := false, session := true } 0x65 []) ∧
    (s.spdm.exchanged = true → s.request.ok = false → s.SpdmAnswers .finish { s.spdm with exchanged := false } 0x7F [6]) := by
  unfold State.SpdmAnswers
  rw [exec_finish, execFinish]
  refine ⟨fun h => spdmRequest_early ok ready _ h, fun h hq => ?_, fun h hq => ?_⟩
  · rw [spdmRequest_due ok ready (due := fun p => p.exchanged) _ h]
    exact congrArg Host.Outcome.next (if_pos hq)
  · rw [spdmRequest_due ok ready (due := fun p => p.exchanged) _ h]
    exact congrArg Host.Outcome.next (if_neg (by simp [hq]))

end Spdm

end Sys2Proof.Machine
end

section
/-! PROOFS. The obligation on management commands, key slots and SPDM requests. -/

namespace Sys2Proof.Machine

theorem State.inSession_iff (s : State) : s.inSession = true ↔ s.request.ok = true ∧ s.spdm.session = true := Bool.and_eq_true_iff

/-- Settles O54: a vendor command passes the checks that all of them share, and then does what its own theorems say; so for the
end of an eviction and for each SPDM request. -/
theorem managementEvents : Obligations.ManagementEvents := by
  unfold Obligations.ManagementEvents
  intro s
  refine ⟨vendorCommands_checked s, fun up hlen => ?_, fun up hlen => ?_, fun up hlen => ?_, fun up hlen => ?_, ?_, fun up hlen => ?_,
    fun up hlen => ?_, ?_⟩
  · exact ⟨stateRead_refused up hlen, stateRead_waits up hlen, stateRead_gives up hlen, stateRead_registers up hlen,
      logRead_unready up hlen, logRead_refused up hlen, logRead_gives up hlen⟩
  · exact ⟨stateWrite_misaligned up hlen, fun low ha =>
      ⟨fun S h => stateWrite_applies up hlen low ha h, fun S h => stateWrite_ignored up hlen low ha h⟩⟩
  · exact ⟨logAck_unready up hlen, logAck_refused up hlen, logAck_frees up hlen⟩
  · have session := s.inSession_iff
    exact ⟨fun h => keyLoad_outside up hlen (mt session.1 h), fun h => keyLoad_unready up hlen (session.2 h),
      fun h => keyLoad_bad up hlen (session.2 h), fun h => keyLoad_taken up hlen (session.2 h),
      fun h => keyLoad_loads up hlen (session.2 h)⟩
  · have blocks := State.evictHeld_iff (s.performWhere fun p => decide (p.key = s.request.e % 64)) (s.request.e % 64)
    refine ⟨execKeyEvictComplete_idle, fun _ held => execKeyEvictComplete_held (blocks.2 held), fun h free => ?_⟩
    obtain ⟨S, hS, gone⟩ := execKeyEvictComplete_evicts h (mt blocks.1 free)
    exact ⟨S, hS, gone.msc, gone.poolL2, gone.word, congrArg KeySlot.dataKey gone.key, congrArg KeySlot.tweakKey gone.key,
      congrArg KeySlot.logged gone.key, gone.posted, gone.l1, gone.code, gone.keys, gone.regs⟩
  · have session := s.inSession_iff
    exact ⟨fun h => warmReset_outside up hlen (mt session.1 h), fun h => warmReset_resets up hlen (session.2 h)⟩
  · have session := s.inSession_iff
    exact ⟨fun h => floorRaise_outside up hlen (mt session.1 h), fun h => floorRaise_unready up hlen (session.2 h),
      fun h => floorRaise_noImage up hlen (session.2 h), fun h ready image =>
      ⟨floorRaise_stands up hlen (session.2 h) ready image, floorRaise_spent up hlen (session.2 h) ready image,
        floorRaise_raises up hlen (session.2 h) ready image⟩⟩
  · refine ⟨fun h e he => spdm_failed h he, fun ok h e he => spdm_down ok h he, fun ok ready => ?_⟩
    obtain ⟨capsEarly, algsOffered, algsRefused⟩ := negotiateAlgorithms_answers ok ready
    obtain ⟨finishEarly, finishProved, finishRefused⟩ := finish_answers ok ready
    refine ⟨getVersion_answers ok ready, getCapabilities_answers ok ready, capsEarly, algsOffered, algsRefused,
      spdm_beforeAlgorithms ok ready, fun algs => ?_, finishEarly, finishProved, finishRefused⟩
    exact ⟨getDigests_answers ok ready algs, getCertificate_answers ok ready algs, challenge_answers ok ready algs,
      keyExchange_answers ok ready algs, fun h => getMeasurements_count ok ready algs h,
      fun h => getMeasurements_one ok ready algs (by omega) (by omega) (by rw [h, measure_rom]),
      fun h => getMeasurements_one ok ready algs (by omega) (by omega) (measure_image h),
      fun h => getMeasurements_one ok ready algs (by omega) (by omega) (by rw [h, measure_world]),
      fun h4 h => getMeasurements_none ok ready algs h4 h, fun h => getMeasurements_all ok ready algs h⟩

end Sys2Proof.Machine
end

section
/-! PROOFS. Queues: what QPUSH.RES and QPOP.TAKE do with the slots of an edge. -/

namespace Sys2Proof.Machine

/-- The index at which an edge's slots are handed out next (R220). -/
def Edge.nextIndex (x : Edge) (output : Bool) : Nat := if output then x.tail.toNat else x.head.toNat

/-- The slots that can be drawn from an edge: none while its last change is not written back (R79). -/
def Edge.available (x : Edge) (output : Bool) : Nat := if x.wbDue then 0 else if output then x.free else x.fill

/-- The edge after n of its slots have been drawn (R220). -/
def Edge.drawn (x : Edge) (output : Bool) (n : Nat) : Edge :=
  if output then { x with tail := x.tail + BitVec.ofNat 64 n, free := x.free - n }
  else { x with head := x.head + BitVec.ofNat 64 n, fill := x.fill - n }

/-- QPUSH.RES and QPOP.TAKE past the checks of their edge (R220, R221). -/
def drawSlots (w : WE) (output : Bool) (s : State) (c : Ctx) (code e : Nat) (x : Edge) (n : Nat) : Res :=
  c.takeSlots s w.d code n (x.available output) (x.nextIndex output) (!output) w.m
    (fun s => (s.setEdge c.t.part e (x.drawn output n)).writeBack c.t.part e)
    (if output then c.wait s .queue else c.waitOrPark s .pop)

theorem exec_qpushRes_eq (w : WE) : exec (.qpushRes w) = fun s =>
    uniInstr s (guardYX w.m) w.m 0 (uniLocs w.a) (queueBody w true (drawSlots w true)) (some 5) := rfl

theorem exec_qpopTake_eq (w : WE) : exec (.qpopTake w) = fun s =>
    uniInstr s (guardYX w.m) w.m 0 (uniLocs w.a) (queueBody w false (drawSlots w false)) (some 7) := rfl

section Body
variable {w : WE} {s : State} {c : Ctx}

/-! ### The checks that all queue instructions share (R223) -/

theorem queueBody_direction {output : Bool} (f : State → Ctx → Nat → Nat → Edge → Nat → Res)
    (h : (4 ≤ w.sub.toNat % 8) ≠ (output = true)) :
    s.traps c.t c.g (queueBody w output f s c) 0x110 0 (BitVec.ofNat 64 (w.sub.toNat % 8 + 16 * 7)) := by
  have hd : (decide (4 ≤ w.sub.toNat % 8) != output) = true := by
    rw [bne_iff_ne]
    rintro rfl
    exact h (propext decide_eq_true_iff.symm)
  rw [queueBody, if_pos hd]
  exact Ctx.edgeTrap_traps _ _

variable {output : Bool} (hdir : (4 ≤ w.sub.toNat % 8) = (output = true))
include hdir

theorem direction_agrees : ¬ (decide (4 ≤ w.sub.toNat % 8) != output) = true := by simp [hdir]

theorem queueBody_absent (f : State → Ctx → Nat → Nat → Edge → Nat → Res)
    (he : c.t.launch.edge (w.sub.toNat % 8) = 0xFFFF) :
    s.traps c.t c.g (queueBody w output f s c) 0x110 0 (BitVec.ofNat 64 (w.sub.toNat % 8 + 16 * 2)) := by
  simp only [queueBody, if_neg (direction_agrees hdir), if_pos he]
  exact Ctx.edgeTrap_traps _ _

variable {x : Edge} (he : c.t.launch.edge (w.sub.toNat % 8) ≠ 0xFFFF)
  (hx : s.edge? c.t.part (c.t.launch.edge (w.sub.toNat % 8)) = some x)
include he hx

theorem queueBody_firing (f : State → Ctx → Nat → Nat → Edge → Nat → Res) (hst : x.streaming = false) :
    s.traps c.t c.g (queueBody w output f s c) 0x110 0 (BitVec.ofNat 64 (w.sub.toNat % 8 + 16 * 1)) := by
  simp only [queueBody, if_neg (direction_agrees hdir), if_neg he, hx, hst, Bool.not_false, if_true]
  exact Ctx.edgeTrap_traps _ _

theorem queueBody_tooMany (f : State → Ctx → Nat → Nat → Edge → Nat → Res) (hst : x.streaming = true)
    (hn : x.slotcnt < (c.u w.a).toNat) :
    s.traps c.t c.g (queueBody w output f s c) 0x110 0 (BitVec.ofNat 64 (w.sub.toNat % 8 + 16 * 4)) := by
  simp only [queueBody, if_neg (direction_agrees hdir), if_neg he, hx, hst, Bool.not_true, Bool.false_eq_true, if_false,
    if_pos hn]
  exact Ctx.edgeTrap_traps _ _

end Body

/-! ### Slots that are drawn (R220, R221) -/

@[simp] theorem State.acquire_clk (s : State) (t : Team) (g : Group) : (s.acquire t g).clk = s.clk := rfl

/-- A team that passes an instruction which wrote an s-register. -/
theorem Ctx.finish_wroteS {c : Ctx} {S : State} (h : S.clk = c.clk) (t : Team) (stall words lat d : Nat) (v : DWord) :
    ∃ g', Host.Outcome.next ((({ c with t := t } : Ctx).setS lat d v).finish S stall words) = (.next (S.acted c.clk t g') : Res) ∧
      c.g.WroteS g' c.t c.clk stall words lat d v :=
  ⟨_, congrArg Host.Outcome.next (Ctx.finish_of_clk (c := ({ c with t := t } : Ctx).setS lat d v) h _ _), c.setS_wroteS _ _ _ _ _⟩

/-- A team none of whose ranges a relaunch has kept is handed out none of them again. -/
theorem Team.replayRange_none {t : Team} (h : ∀ q ∈ t.ranges, q.replay = false) (code : Nat) (taken : Bool) (n : Nat) :
    t.replayRange code taken n = none := by
  have hnone : t.ranges.find? (fun r => decide (r.edge = code) && (r.taken == taken) && r.replay) = none :=
    List.find?_eq_none.2 fun q hq => by simp [h q hq]
  rw [Team.replayRange, hnone]

section Draw
variable {s : State} {c : Ctx} {d : BitVec 6} {code n avail idx : Nat} {taken : Bool} {m : Mods} {draw : State → State} {wait : Res}

/-- The acquire of QPOP.TAKE (R220). -/
def State.acquireIf (s : State) (taken : Bool) (t : Team) (g : Group) : State := if taken then s.acquire t g else s

@[simp] theorem State.acquireIf_clk (t : Team) (g : Group) : (s.acquireIf taken t g).clk = s.clk := by
  cases taken <;> rfl

theorem Ctx.takeSlots_zero (hs : s.clk = c.clk) (h0 : n = 0) :
    ∃ g', c.takeSlots s d code n avail idx taken m draw wait = .next ((s.acquireIf taken c.t c.g).acted c.clk c.t g') ∧
      c.g.WroteS g' c.t c.clk 0 m.words 0 d.toNat (BitVec.ofNat 64 idx) := by
  obtain ⟨g', hr, hg⟩ := Ctx.finish_wroteS (S := s.acquireIf taken c.t c.g) (by simpa using hs) c.t 0 m.words 0 d.toNat
    (BitVec.ofNat 64 idx)
  exact ⟨g', (if_pos h0).trans hr, hg⟩

variable (h0 : 0 < n) (hr : ∀ q ∈ c.t.ranges, q.replay = false)
include h0 hr

/-- Where no range is handed out again the list of ranges and the slots decide. -/
theorem Ctx.takeSlots_fresh : c.takeSlots s d code n avail idx taken m draw wait =
    if 32 ≤ c.t.ranges.length then c.edgeTrap s code 6
    else if avail < n then wait
    else .next ((({ c with t := { c.t with ranges := c.t.ranges ++ [{ edge := code, first := idx, count := n, taken := taken }] } } : Ctx).setS
      0 d.toNat (BitVec.ofNat 64 idx)).finish ((draw s).acquireIf taken
        { c.t with ranges := c.t.ranges ++ [{ edge := code, first := idx, count := n, taken := taken }] } c.g) 0 m.words) := by
  unfold Ctx.takeSlots
  simp only [if_neg (Nat.ne_of_gt h0), Team.replayRange_none hr]
  rfl

theorem Ctx.takeSlots_full (hl : 32 ≤ c.t.ranges.length) :
    s.traps c.t c.g (c.takeSlots s d code n avail idx taken m draw wait) 0x110 0 (BitVec.ofNat 64 (code + 16 * 6)) := by
  rw [Ctx.takeSlots_fresh h0 hr, if_pos hl]
  exact Ctx.edgeTrap_traps _ _

theorem Ctx.takeSlots_waits (hl : c.t.ranges.length < 32) (ha : avail < n) :
    c.takeSlots s d code n avail idx taken m draw wait = wait := by
  rw [Ctx.takeSlots_fresh h0 hr, if_neg (Nat.not_le.2 hl), if_pos ha]

theorem Ctx.takeSlots_draws (hs : (draw s).clk = c.clk) (hl : c.t.ranges.length < 32) (ha : n ≤ avail) :
    ∃ g', c.takeSlots s d code n avail idx taken m draw wait = .next (((draw s).acquireIf taken c.t c.g).acted c.clk
        { c.t with ranges := c.t.ranges ++ [{ edge := code, first := idx, count := n, taken := taken, replay := false }] } g') ∧
      c.g.WroteS g' c.t c.clk 0 m.words 0 d.toNat (BitVec.ofNat 64 idx) := by
  rw [Ctx.takeSlots_fresh h0 hr, if_neg (Nat.not_le.2 hl), if_neg (Nat.not_lt.2 ha)]
  exact Ctx.finish_wroteS (S := (draw s).acquireIf taken c.t c.g) (by simpa using hs) _ 0 m.words 0 d.toNat (BitVec.ofNat 64 idx)

end Draw

/-- A group that lacks slots stands at its instruction, where R138 does not have it park (R220). -/
theorem Ctx.lacksSlots_waits {s : State} {c : Ctx} (hs : s.clk = c.clk) (output : Bool) (hp : s.mustPark c.t c.g = false) :
    ∃ w', (if output then c.wait s .queue else c.waitOrPark s .pop) =
      .next (s.acted c.clk c.t { c.g with nextIssue := c.clk + 1, wait := w' }) := by
  have stands : ∀ w', c.wait s w' = .next (s.acted c.clk c.t { c.g with nextIssue := c.clk + 1, wait := w' }) := fun w' =>
    congrArg Host.Outcome.next (State.acted_of_clk hs _ _).symm
  cases output
  · have unparked : c.waitOrPark s .pop = c.wait s .pop := if_neg (by simp [hp])
    exact ⟨.pop, unparked.trans (stands _)⟩
  · exact ⟨.queue, stands _⟩

/-- Settles O21: both instructions draw slots in the same way, past the checks that all queue instructions share. -/
theorem queueReservations : Obligations.QueueReservations := by
  unfold Obligations.QueueReservations
  intro p hp w
  obtain ⟨point, hrun⟩ : ∃ point, exec (p.1 w) = fun s =>
      uniInstr s (guardYX w.m) w.m 0 (uniLocs w.a) (queueBody w p.2 (drawSlots w p.2)) point := by
    rcases List.mem_cons.1 hp with rfl | hp
    · exact ⟨_, exec_qpushRes_eq w⟩
    · obtain rfl := List.mem_singleton.1 hp
      exact ⟨_, exec_qpopTake_eq w⟩
  rw [hrun]
  refine uniInstr_runs_ctx fun s c hs => ?_
  intro code n trap e
  refine ⟨queueBody_direction _, fun hdir he => queueBody_absent hdir _ he, fun hdir he x hx => ?_⟩
  intro idx avail x' acq
  have acquires : ∀ S : State, S.acquireIf (!p.2) c.t c.g = acq S := fun S => by cases h : p.2 <;> simp [acq, h, State.acquireIf]
  refine ⟨queueBody_firing hdir he hx _, queueBody_tooMany hdir he hx _, fun hst hn h0 => ?_, fun hst hn h0 hr => ?_⟩
  · rw [queueBody_acts _ hdir he hx hst hn, ← acquires]
    exact Ctx.takeSlots_zero hs h0
  · have acts := queueBody_acts (output := p.2) (drawSlots w p.2) hdir he hx hst hn
    refine ⟨fun hl => ?_, fun hl ha => ?_, fun hl ha hp => ?_⟩
    · show s.traps c.t c.g (queueBody w p.2 (drawSlots w p.2) s c) _ _ _
      rw [acts]
      exact Ctx.takeSlots_full h0 hr hl
    · rw [acts, ← acquires]
      exact Ctx.takeSlots_draws h0 hr ((State.writeBack_clk _ _ _).trans hs) hl ha
    · obtain ⟨w', hw⟩ := Ctx.lacksSlots_waits hs p.2 hp
      exact ⟨w', acts.trans ((Ctx.takeSlots_waits h0 hr hl ha).trans hw)⟩

end Sys2Proof.Machine
end

section
/-! PROOFS. QPEEK, LAUNCH, and the obligation on them. -/

namespace Sys2Proof.Machine

/-! ### A read made once for the group keeps the clock -/

@[simp] theorem State.l1Fill_clk (s : State) (core part key pa : Nat) : (s.l1Fill core part key pa).clk = s.clk := by
  unfold State.l1Fill; split_ifs <;> rfl

@[simp] theorem State.readPrep_clk (s : State) (t : Team) (core : Nat) (fids : List Nat) (key pa n : Nat) (via : LoadVia) :
    (s.readPrep t core fids key pa n via).clk = s.clk := by
  cases via
  · exact (State.l1Fill_clk _ _ _ _ _).trans (State.rekey_clk _ _ _ _ _)
  · exact State.rekey_clk _ _ _ _ _
  · exact (State.performWhere_clk _ _).trans (State.rekey_clk _ _ _ _ _)

@[simp] theorem Ctx.afterXlat_clk (c : Ctx) (s : State) (l : List (Acc × Dest)) : (c.afterXlat s l).clk = s.clk := by
  refine foldl_clk _ (fun s p => ?_) _ _
  cases p.2
  · exact (State.noteKeyEmpty_clk _ _ _ _ _ _).trans (State.tlbFill_noted _ _ _ _ _).clk
  · exact (State.tlbFill_noted _ _ _ _ _).clk

theorem Ctx.groupParts_clk {c : Ctx} {s S : State} {kind : Nat} {via : LoadVia} {acc bytes : List Byte} {bad : Option DWord}
    {ps : List (Nat × Nat)} (h : c.groupParts s kind via acc bad ps = .ok bytes S) : S.clk = s.clk := by
  induction ps generalizing s acc bad with
  | nil =>
    cases bad <;> cases h
    rfl
  | cons p ps ih =>
    have prepared := fun pa leaf => foldl_clk _ (fun s l => State.readPrep_clk s c.t c.g.core c.g.fids (keyOf leaf) (l * 128) 128 via)
      (numsFrom (pa / 128) ((pa + p.2 - 1) / 128 + 1))
    unfold Ctx.groupParts at h
    dsimp only at h
    split at h
    · split at h
      · cases h
      · cases h
      · exact (ih h).trans ((prepared _ _ _).trans (Ctx.afterXlat_clk _ _ _))
    · cases h
    · cases h
    · split at h <;> cases h

theorem Ctx.groupRead_clk {c : Ctx} {s S : State} {kind n : Nat} {via : LoadVia} {va : DWord} {bytes : List Byte}
    (h : c.groupRead s kind via va n = .ok bytes S) : S.clk = s.clk := by
  unfold Ctx.groupRead at h
  split at h
  · cases h
  · exact Ctx.groupParts_clk h

/-! ### QPEEK (R222, R223) -/

/-- What QPEEK does at its issue. -/
def peekBody (w : WE) (s : State) (c : Ctx) : Res :=
  let code := w.sub.toNat % 8
  let sel := w.sub.toNat / 8
  let e := c.t.launch.edge code
  match (if e = 0xFFFF then none else s.edge? c.t.part e) with
  | none => c.edgeTrap s code 2
  | some x =>
    if sel = 0 ∧ x.streaming = true then c.edgeTrap s code 3
    else .next ((c.setS 1 w.d.toNat (peekValue s c code e sel x (c.u w.b))).finish s 0 w.m.words)

theorem exec_qpeek_eq (w : WE) : exec (.qpeek w) = fun s =>
    uniInstr s (guardYX w.m) w.m 0 (if w.sub.toNat / 8 = 1 then uniLocs w.b else []) (peekBody w) (some 7) := rfl

section Peek
variable {w : WE} {s : State} {c : Ctx}

theorem peekBody_absent (he : c.t.launch.edge (w.sub.toNat % 8) = 0xFFFF) :
    s.traps c.t c.g (peekBody w s c) 0x110 0 (BitVec.ofNat 64 (w.sub.toNat % 8 + 16 * 2)) := by
  simp only [peekBody, if_pos he]
  exact Ctx.edgeTrap_traps _ _

variable {x : Edge} (he : c.t.launch.edge (w.sub.toNat % 8) ≠ 0xFFFF)
  (hx : s.edge? c.t.part (c.t.launch.edge (w.sub.toNat % 8)) = some x)
include he hx

theorem peekBody_streamingGrant (h : w.sub.toNat / 8 = 0 ∧ x.streaming = true) :
    s.traps c.t c.g (peekBody w s c) 0x110 0 (BitVec.ofNat 64 (w.sub.toNat % 8 + 16 * 3)) := by
  simp only [peekBody, if_neg he, hx, if_pos h]
  exact Ctx.edgeTrap_traps _ _

theorem peekBody_gives (hs : s.clk = c.clk) (h : ¬ (w.sub.toNat / 8 = 0 ∧ x.streaming = true)) :
    ∃ g', peekBody w s c = .next (s.acted c.clk c.t g') ∧ c.g.WroteS g' c.t c.clk 0 w.m.words 1 w.d.toNat
      (peekValue s c (w.sub.toNat % 8) (c.t.launch.edge (w.sub.toNat % 8)) (w.sub.toNat / 8) x (c.u w.b)) := by
  simp only [peekBody, if_neg he, hx, if_neg h]
  exact Ctx.finish_wroteS hs c.t 0 w.m.words 1 w.d.toNat _

end Peek

/-- The seven selectors of QPEEK (R222). -/
theorem peekValue_eq (s : State) (c : Ctx) (code e sel : Nat) (x : Edge) (b : DWord) : peekValue s c code e sel x b =
    [BitVec.ofNat 64 (s.grantOf c.t e (decide (4 ≤ code))), x.base + BitVec.ofNat 64 (x.slotsz * (b.toNat % x.slotcnt)),
      BitVec.ofNat 64 x.fill, BitVec.ofNat 64 x.free, BitVec.ofNat 64 x.slotcnt, BitVec.ofNat 64 x.slotsz].getD sel
      (if code < 4 then x.head else x.tail) := by
  match sel with
  | 0 | 1 | 2 | 3 | 4 | 5 => rfl
  | _ + 6 => rfl

/-! ### LAUNCH (R84, R221, R224) -/

/-- What LAUNCH does with the 64 bytes of its record. -/
def launchBody (w : WE) (c : Ctx) (s : State) (bs : List Byte) : Res :=
  let s2 := s.release c.t c.g
  if c.t.launch.contain then
    c.withBuffer (s2.sbEffect c.t.closeEntries fun t => { t with sb := t.sb ++ [.launch bs] }) fun s3 c3 =>
      .next ((c3.setS 0 w.d.toNat 0xFFFFFFFF00000000).finish s3 0 w.m.words)
  else if s2.childFull c.t.part then
    .next ((c.setS 0 w.d.toNat 0x0A).finish (s2.addLog { platformEntry 0x0A c.t.part 0 0 with launch := 0xFFFFFFFF }) 0 w.m.words)
  else
    .next ((c.setS 0 w.d.toNat (BitVec.ofNat 64 (2 ^ 32 * s2.childIndex c.t.part))).finish
      (s2.queueChild c.t.part bs none none none) 0 w.m.words)

/-- What LAUNCH does at its issue. -/
def launchIssue (w : WE) (s : State) (c : Ctx) : Res :=
  let a := c.u w.a
  if a.toNat % 64 ≠ 0 then c.trap s { cause := 0x0108, mask := c.g.activeMask, addr := a }
  else c.withRead s 0 (c.groupRead s 0 c.t.plainVia a 64) (launchBody w c)

theorem exec_launch_eq (w : WE) : exec (.launch w) = fun s =>
    uniInstr s (guardYX w.m) w.m 0 (uniLocs w.a) (launchIssue w) (some 7) := rfl

theorem launchIssue_misaligned {w : WE} {s : State} {c : Ctx} (h : (c.u w.a).toNat % 64 ≠ 0) :
    s.traps c.t c.g (launchIssue w s c) 0x108 (c.u w.a) 0 := by
  rw [launchIssue, if_pos h]; rfl

theorem launchIssue_reads {w : WE} {s s1 : State} {c : Ctx} {bytes : List Byte} (h : (c.u w.a).toNat % 64 = 0)
    (hr : c.groupRead s 0 c.t.plainVia (c.u w.a) 64 = .ok bytes s1) : launchIssue w s c = launchBody w c s1 bytes := by
  rw [launchIssue, if_neg (by simpa using h), hr]; rfl

section Launch
variable {w : WE} {s : State} {c : Ctx} {bytes : List Byte} (hs : s.clk = c.clk)
include hs

theorem launchBody_full (hc : c.t.launch.contain = false) (hf : 4096 ≤ ((s.release c.t c.g).part c.t.part).children.length) :
    ∃ g', launchBody w c s bytes =
        .next (((s.release c.t c.g).addLog { platformEntry 0x0A c.t.part 0 0 with launch := 0xFFFFFFFF }).acted c.clk c.t g') ∧
      c.g.WroteS g' c.t c.clk 0 w.m.words 0 w.d.toNat 0x0A := by
  rw [launchBody, if_neg (by simp [hc]), if_pos (show (s.release c.t c.g).childFull c.t.part = true from decide_eq_true hf)]
  exact Ctx.finish_wroteS (by simpa using hs) c.t 0 w.m.words 0 w.d.toNat 0x0A

theorem launchBody_queues (hc : c.t.launch.contain = false) (hf : ¬ 4096 ≤ ((s.release c.t c.g).part c.t.part).children.length) :
    ∃ g', launchBody w c s bytes = .next (((s.release c.t c.g).queueChild c.t.part bytes none none none).acted c.clk c.t g') ∧
      c.g.WroteS g' c.t c.clk 0 w.m.words 0 w.d.toNat
        (BitVec.ofNat 64 (2 ^ 32 * (0x80000000 + ((s.release c.t c.g).part c.t.part).childCount % 2 ^ 31))) := by
  rw [launchBody, if_neg (by simp [hc]), if_neg (by simpa [State.childFull] using hf)]
  exact Ctx.finish_wroteS (S := (s.release c.t c.g).queueChild c.t.part bytes none none none) ((State.release_clk _ _).trans hs)
    c.t 0 w.m.words 0 w.d.toNat _

theorem launchBody_buffers (hc : c.t.launch.contain = true) (hu : c.t.closeEntries.sbUsed ≤ 2046) (hd : c.t.draining = false) :
    ∃ g', launchBody w c s bytes = .next ((s.release c.t c.g).acted c.clk
        { c.t.closeEntries with sb := c.t.closeEntries.sb ++ [.launch bytes] } g') ∧
      c.g.WroteS g' c.t c.clk 0 w.m.words 0 w.d.toNat 0xFFFFFFFF00000000 := by
  have room : ({ c.t.closeEntries with sb := c.t.closeEntries.sb ++ [.launch bytes] } : Team).sbUsed ≤ 2048 := by
    rw [Team.sbUsed_append]
    exact Nat.add_le_add_right hu 2
  have enters := State.sbEffect_enters (s := s.release c.t c.g) (t := c.t.closeEntries)
    (f := fun t => { t with sb := t.sb ++ [.launch bytes] }) room hd
  rw [launchBody, if_pos hc, enters]
  exact Ctx.finish_wroteS ((State.release_clk _ _).trans hs) _ 0 w.m.words 0 w.d.toNat _

end Launch

/-- Settles O23: QPEEK by its selectors, and LAUNCH by what follows the read of its record. -/
theorem queuePeeksAndChildLaunches : Obligations.QueuePeeksAndChildLaunches := by
  unfold Obligations.QueuePeeksAndChildLaunches
  refine ⟨fun w => ?qpeek, fun w => ?launch⟩
  case qpeek =>
    rw [exec_qpeek_eq]
    refine uniInstr_runs_ctx fun s c hs => ?_
    intro code sel e trap grant
    refine ⟨peekBody_absent, fun he x hx => ⟨fun h0 hst => peekBody_streamingGrant he hx ⟨h0, hst⟩, fun h => ?_⟩⟩
    have granted : grant = BitVec.ofNat 64 (s.grantOf c.t e (decide (4 ≤ code))) := by
      simp only [grant, State.grantOf]
      cases s.inst? c.t.inst with
      | none => rfl
      | some i => simp [beq_eq_decide]
    rw [granted, ← peekValue_eq]
    exact peekBody_gives he hx hs h
  case launch =>
    rw [exec_launch_eq]
    refine uniInstr_runs_ctx fun s c hs => ?_
    intro a
    refine ⟨launchIssue_misaligned, fun ha bytes s1 hr => ?_⟩
    intro s2 full
    rw [launchIssue_reads ha hr]
    have hs1 : s1.clk = c.clk := (Ctx.groupRead_clk hr).trans hs
    exact ⟨launchBody_full hs1, launchBody_queues hs1, launchBody_buffers hs1⟩

end Sys2Proof.Machine
end

section
/-! SUPPORT. What the accesses of the scheduler and of the Larder engine leave alone, and what the ends of instances and teams
leave of a partition's state and recorded resolutions. -/

namespace Sys2Proof.Machine

/-! ### Accesses and edges -/

/-- The state apart from the memories and their caches, the log, the interrupts, the registers, the key slots and the
partitions. -/
def State.apart (s : State) : State :=
  { s.rest with regs := [], l1 := [], posted := [], log := [], logHead := 0, logDropped := 0, logLost := false, pba := 0
                messages := [], keys := [], parts := [] }

/-- From one state to another the scheduler has accessed memory and has moved edges at most: of the registers INTPEND
changes, and of a partition its graph. -/
structure State.Schedules (s S : State) : Prop where
  apart : S.apart = s.apart
  reg : ∀ i, i ≠ 0x0E9 → S.reg i = s.reg i
  part : ∀ j, ∃ graph, S.part j = { s.part j with graph := graph }

namespace State.Schedules
variable {s S T : State}

theorem refl (s : State) : s.Schedules s := ⟨rfl, fun _ _ => rfl, fun _ => ⟨_, rfl⟩⟩

theorem trans (h : s.Schedules S) (h' : S.Schedules T) : s.Schedules T where
  apart := h'.apart.trans h.apart
  reg i hi := (h'.reg i hi).trans (h.reg i hi)
  part j := by
    obtain ⟨g, hg⟩ := h.part j
    obtain ⟨g', hg'⟩ := h'.part j
    exact ⟨g', by rw [hg', hg]⟩

theorem foldl {α : Type} {f : State → α → State} (h : ∀ (s : State) a, s.Schedules (f s a)) (l : List α) (s : State) :
    s.Schedules (l.foldl f s) :=
  foldl_keeps s.Schedules f (fun b a hb => hb.trans (h b a)) l s (.refl s)

theorem of_rest (h : S.rest = s.rest) : s.Schedules S :=
  ⟨(congrArg State.apart h : S.rest.apart = s.rest.apart), fun i _ => State.reg_rest h i, fun j => ⟨_, State.part_congr (State.rest_parts h) j⟩⟩

theorem of_logsTo (h : s.LogsTo S) : s.Schedules S := by
  obtain ⟨_, _, _, _, _, _, _, rfl, hreg⟩ := h
  exact ⟨rfl, hreg, fun _ => ⟨_, rfl⟩⟩

theorem teams (h : s.Schedules S) : S.teams = s.teams := (congrArg State.teams h.apart :)

theorem orphans (h : s.Schedules S) : S.orphans = s.orphans := (congrArg State.orphans h.apart :)

theorem insts (h : s.Schedules S) : S.insts = s.insts := (congrArg State.insts h.apart :)

theorem remotes (h : s.Schedules S) : S.remotes = s.remotes := (congrArg State.remotes h.apart :)

theorem nextInst (h : s.Schedules S) : S.nextInst = s.nextInst := (congrArg State.nextInst h.apart :)

theorem images (h : s.Schedules S) (j : Nat) : (S.part j).images = (s.part j).images := by
  obtain ⟨_, hg⟩ := h.part j
  rw [hg]

theorem heldBind (h : s.Schedules S) (j : Nat) : (S.part j).heldBind = (s.part j).heldBind := by
  obtain ⟨_, hg⟩ := h.part j
  rw [hg]

end State.Schedules

theorem State.noteAccess_schedules (s : State) (pa key k unit : Nat) (byCore : Bool) :
    s.Schedules (s.noteAccess pa key k unit byCore) := by
  obtain ⟨keys, -, h⟩ := s.noteAccess_logsTo pa key k unit byCore
  exact .trans (S := { s with keys := keys }) ⟨rfl, fun _ _ => rfl, fun _ => ⟨_, rfl⟩⟩ (.of_logsTo h)

theorem State.performWhere_schedules (s : State) (f : Posted → Bool) : s.Schedules (s.performWhere f) :=
  .trans (S := { s with posted := (takePosted f s.posted.reverse [] []).2 }) ⟨rfl, fun _ _ => rfl, fun _ => ⟨_, rfl⟩⟩
    (.of_rest (State.performAll_rest _ _))

theorem State.atHome_schedules (s : State) (core : Option Nat) (pa n : Nat) : s.Schedules (s.atHome core pa n) := by
  unfold State.atHome
  split
  · exact (s.performWhere_schedules _).trans ⟨rfl, fun _ _ => rfl, fun _ => ⟨_, rfl⟩⟩
  · exact .refl s

theorem State.enginePut_schedules (s : State) (core : Option Nat) (k : Nat) (ver : Option Word) (va : DWord) (bs : List Byte) :
    s.Schedules (s.enginePut core k ver va bs).1 := by
  unfold State.enginePut
  split
  · next pa leaf lost _ =>
    have noted := s.noteAccess_schedules pa (keyOf leaf) k 0xFFFF true
    dsimp only
    split
    · exact noted
    · exact noted.trans ((State.atHome_schedules _ core pa bs.length).trans
        (.of_rest ((State.writeHome_rest _ _ _).trans (State.rekey_rest _ _ _ _ _))))
  · exact .refl s

theorem State.schedParts_schedules {s S : State} {sec : Bool} {core : Option Nat} {k : Nat} {ver : Option Word} {acc bs : List Byte}
    {poison poison' : Option Nat} {ps : List (Nat × Nat)} (h : s.schedParts sec core k ver acc poison ps = .ok bs poison' S) :
    s.Schedules S := by
  induction ps generalizing s acc poison with
  | nil => cases h; exact .refl _
  | cons p ps ih =>
    unfold State.schedParts at h
    dsimp only at h
    split at h
    · next pa leaf lost _ =>
      exact (State.noteAccess_schedules _ pa (keyOf leaf) k 0xFFFF true).trans ((State.atHome_schedules _ core pa p.2).trans
        (.trans (.of_rest (State.rekey_rest _ _ _ _ _)) (ih h)))
    · cases h

theorem State.setEdge_schedules (s : State) (k e : Nat) (x : Edge) : s.Schedules (s.setEdge k e x) := by
  refine ⟨rfl, fun _ _ => rfl, fun j => ?_⟩
  rw [State.setEdge, State.setPart_part]
  split
  · next hj => exact ⟨_, by rw [hj]⟩
  · exact ⟨_, rfl⟩

theorem State.writeBack_schedules (s : State) (k e : Nat) : s.Schedules (s.writeBack k e) := by
  unfold State.writeBack
  split
  · exact .refl s
  · next x _ =>
    have put := s.enginePut_schedules none k none (x.desc + 0x10) x.counters
    dsimp only
    split
    · exact put.trans (State.setEdge_schedules _ _ _ _)
    · exact s.setEdge_schedules _ _ _
    · split
      · exact s.setEdge_schedules _ _ _
      · exact (s.setEdge_schedules _ _ _).trans (.of_logsTo (State.addLog_logsTo _ _))

theorem State.hostPut_schedules (s : State) (pa : Nat) (bs : List Byte) : s.Schedules (s.hostPut pa bs) := by
  unfold State.hostPut
  split
  · exact .of_logsTo (s.foldBufail_logsTo 24)
  · exact .of_rest (State.writeHome_rest _ _ _)

theorem State.writeReturn_schedules (s : State) (k e : Nat) : s.Schedules (s.writeReturn k e) := by
  unfold State.writeReturn
  split
  · exact .refl s
  · dsimp only
    split
    · exact (State.Schedules.foldl (fun s id => s.performWhere_schedules _) _ s).trans ((State.hostPut_schedules _ _ _).trans
        ((State.setEdge_schedules _ _ _ _).trans (.of_logsTo (State.raise_logsTo _ _))))
    · exact s.setEdge_schedules _ _ _

theorem State.publishSlots_schedules (s : State) (k e : Nat) (idxs : List Nat) : s.Schedules (s.publishSlots k e idxs) := by
  unfold State.publishSlots
  split
  · exact .refl s
  · exact (s.setEdge_schedules _ _ _).trans (State.writeBack_schedules _ _ _)

theorem State.releaseSlots_schedules (s : State) (k e inst : Nat) (idxs : List Nat) :
    s.Schedules (s.releaseSlots k e inst idxs) := by
  unfold State.releaseSlots
  split
  · exact .refl s
  · have set := s.setEdge_schedules
    dsimp only
    split_ifs
    · exact set _ _ _
    · exact (set _ _ _).trans (State.writeReturn_schedules _ _ _)
    · exact (set _ _ _).trans (State.writeBack_schedules _ _ _)

theorem State.handOn_schedules (s : State) (i : Inst) : s.Schedules (s.handOn i) := by
  refine .foldl (fun s g => ?_) _ s
  dsimp only
  split
  · exact s.publishSlots_schedules _ _ _
  · exact s.releaseSlots_schedules _ _ _ _

theorem State.settleRanges_schedules (s : State) (t : Team) : s.Schedules (s.settleRanges t).1 := by
  refine .foldl (fun s r => ?_) _ s
  dsimp only
  split
  · exact s.releaseSlots_schedules _ _ _ _
  · exact s.publishSlots_schedules _ _ _

/-! ### The ends of instances -/

/-- From one state to another no team, instance or remote store comes or goes, and no partition's control register and no
resolution recorded for it changes. -/
structure State.Spares (s S : State) : Prop where
  teams : S.teams = s.teams
  orphans : S.orphans = s.orphans
  insts : S.insts = s.insts
  remotes : S.remotes = s.remotes
  ctl : ∀ j, S.reg (pidx j 0) = s.reg (pidx j 0)
  recorded : ∀ j, (S.part j).recorded = (s.part j).recorded

namespace State.Spares
variable {s S T : State}

theorem refl (s : State) : s.Spares s := ⟨rfl, rfl, rfl, rfl, fun _ => rfl, fun _ => rfl⟩

theorem trans (h : s.Spares S) (h' : S.Spares T) : s.Spares T where
  teams := h'.teams.trans h.teams
  orphans := h'.orphans.trans h.orphans
  insts := h'.insts.trans h.insts
  remotes := h'.remotes.trans h.remotes
  ctl j := (h'.ctl j).trans (h.ctl j)
  recorded j := (h'.recorded j).trans (h.recorded j)

theorem of_schedules (h : s.Schedules S) : s.Spares S where
  teams := h.teams
  orphans := h.orphans
  insts := h.insts
  remotes := h.remotes
  ctl j := h.reg _ (by unfold pidx; omega)
  recorded j := by
    obtain ⟨_, hg⟩ := h.part j
    rw [hg]

theorem of_logsTo (h : s.LogsTo S) : s.Spares S := .of_schedules (.of_logsTo h)

/-- A write of another register than a partition's control register. -/
theorem of_setReg (s : State) {i : Nat} (v : DWord) (h : ∀ j, i ≠ pidx j 0) : s.Spares (s.setReg i v) :=
  ⟨rfl, rfl, rfl, rfl, fun j => (s.setReg_reg _ _ _).trans (if_neg (Ne.symm (h j))), fun _ => rfl⟩

/-- A change of what a partition holds beside the resolutions recorded for it. -/
theorem of_setPart (s : State) (k : Nat) (p : Part) (h : p.recorded = (s.part k).recorded) : s.Spares (s.setPart k p) := by
  refine ⟨rfl, rfl, rfl, rfl, fun _ => rfl, fun j => ?_⟩
  rw [State.setPart_part]
  split
  · next hj => rw [h, hj]
  · rfl

end State.Spares

theorem State.word0_spares (s : State) (core : Option Nat) (k : Nat) (ver : Option Word) (i : Nat) : s.Spares (s.word0 core k ver i).2 := by
  unfold State.word0
  dsimp only
  split
  · exact .refl s
  · next bs poison s1 hget =>
    have got : s.Spares s1 := .of_schedules (State.schedParts_schedules hget)
    have marked := fun slots => State.Spares.of_setPart s1 k { s1.part k with badSlots := slots } rfl
    have logged := fun s e => State.Spares.of_logsTo (State.addLog_logsTo s e)
    split_ifs
    · exact got
    · exact got.trans ((marked _).trans (logged _ _))
    · exact got.trans ((marked _).trans (logged _ _))
    · exact got

theorem State.logXlat_spares (s : State) (k : Nat) (x : Xlat) (va : DWord) : s.Spares (s.logXlat k x va) := by
  have logged := fun e => State.Spares.of_logsTo (s.addLog_logsTo e)
  unfold State.logXlat
  split
  · exact logged _
  · split
    · exact logged _
    · exact .refl s
  · exact .refl s

theorem State.slotStep_spares {s S : State} {k : Nat} {d : SlotDue} (h : s.slotStep k d = some S) : s.Spares S := by
  have read := s.word0_spares d.core k d.ver d.slot
  unfold State.slotStep at h
  split at h
  · cases h
  · next hx => rw [hx] at read; cases h; exact read.trans (State.logXlat_spares _ _ _ _)
  · next hx => rw [hx] at read; cases h; exact read
  · next s1 hx =>
    rw [hx] at read
    split at h
    · cases h; exact read
    · next w' _ =>
      have wrote := State.Spares.of_schedules (s1.enginePut_schedules d.core k d.ver (s1.slotAddr k d.slot) (bytes64 w'))
      split at h
      · cases h
      · next hy =>
        rw [State.setWord0] at hy
        rw [hy] at wrote
        cases h
        split
        · exact read.trans (wrote.trans (.of_logsTo (State.raise_logsTo _ _)))
        · exact read.trans wrote
      · next hy =>
        rw [State.setWord0] at hy
        rw [hy] at wrote
        cases h
        exact read.trans (wrote.trans (State.logXlat_spares _ _ _ _))

theorem State.slotWrite_spares (s : State) (k : Nat) (d : SlotDue) : s.Spares (s.slotWrite k d) := by
  unfold State.slotWrite
  split
  · next h => exact State.slotStep_spares h
  · exact .of_setPart _ _ _ rfl

theorem State.releaseHold_spares (s : State) (v : Word) : s.Spares (s.releaseHold v) := by
  have entry : ∀ j, 0x038 + v.toNat % 16 ≠ pidx j 0 := fun j => by unfold pidx; omega
  have vcur : ∀ j, 0x010 ≠ pidx j 0 := fun j => by unfold pidx; omega
  unfold State.releaseHold
  dsimp only
  split_ifs
  · exact .trans (.of_setReg _ _ entry) (.of_setReg _ _ entry)
  · exact .of_setReg _ _ entry
  · exact .of_setReg _ _ vcur

theorem State.endBinding_spares (s : State) (i : Inst) (status : Nat) : s.Spares (s.endBinding i status) := by
  have redeemed : s.Spares (match i.redeem with
      | some ws => s.endRedeem i.part i.version (ws.getD 1 0) status
      | none => s) := by
    split
    · exact s.slotWrite_spares _ _
    · exact .refl s
  unfold State.endBinding
  dsimp only
  split
  · split
    · exact redeemed.trans (State.releaseHold_spares _ _)
    · exact redeemed
  · exact redeemed

theorem State.setGctl_spares (s : State) (k : Nat) (v : DWord) : s.Spares (s.setReg (pidx k 9) v) :=
  .of_setReg s v fun j => by unfold pidx; omega

theorem State.startBind_spares (s : State) (k : Nat) : s.Spares (s.startBind k) :=
  (s.setGctl_spares k 0xC0000000).trans (.of_setPart (s.setReg (pidx k 9) 0xC0000000) k _ rfl)

theorem State.settleBusy_spares (s : State) (k : Nat) : s.Spares (s.settleBusy k) := by
  rw [State.settleBusy_eq]
  have set := s.setGctl_spares k (setField (s.reg (pidx k 9)) 30 1 (if s.graphBusy k then 1 else 0))
  generalize s.setReg (pidx k 9) _ = s1 at set
  have dropped : s.Spares (s1.dropGraph k) := set.trans (.of_setPart s1 k _ rfl)
  dsimp only
  split
  · exact set
  · split
    · exact dropped.trans (State.startBind_spares _ _)
    · exact dropped

/-- An instance whose every team has exited and whose every copy has ended, with no remote store of a redeem on its way
(R79, R298, R386). -/
def State.Completes (s : State) (i : Inst) : Prop :=
  i.exited = i.launch.teams ∧ i.relaunch = [] ∧ (∀ t ∈ s.teams ++ s.orphans, t.inst ≠ i.id) ∧
    (i.redeem = none ∨ ∀ r ∈ s.remotes, r.inst ≠ i.id)

/-- The instance as its end leaves the state, with the instance still in its list. -/
def State.endInstance (s : State) (i : Inst) : State :=
  ((s.performInst i.id).handOn i).endBinding i (if i.drifted then 5 else if i.matched then 4 else 6)

theorem State.endInstance_spares (s : State) (i : Inst) : s.Spares (s.endInstance i) :=
  (State.Spares.of_schedules ((s.performWhere_schedules _).trans (State.handOn_schedules _ i))).trans (State.endBinding_spares _ i _)

/-- The state without an instance. -/
def State.dropInst (s : State) (id : Nat) : State := { s with insts := s.insts.filter fun j => decide (j.id ≠ id) }

theorem State.checkInstance_absent {s : State} {id : Nat} (h : s.inst? id = none) : s.checkInstance id = s := by
  rw [State.checkInstance, h]

theorem State.checkInstance_found {s : State} {id : Nat} {i : Inst} (h : s.inst? id = some i) (hid : i.id = id) :
    (s.Completes i → s.checkInstance id =
      ((s.endInstance i).dropInst id).settleBusy i.part) ∧
    (¬ s.Completes i → s.checkInstance id = s) := by
  subst hid
  have judged : (decide (i.exited = i.launch.teams) && i.relaunch.isEmpty && !((s.teams ++ s.orphans).any fun t => decide (t.inst = i.id))
      && !(i.redeem.isSome && s.remotes.any fun r => decide (r.inst = i.id))) = true ↔ s.Completes i := by
    simp only [Bool.and_eq_true, decide_eq_true_eq, List.isEmpty_iff, Bool.not_eq_true', Bool.and_eq_false_iff, Option.isSome_eq_false_iff,
      Option.isNone_iff_eq_none, List.any_eq_false, and_assoc, State.Completes]
  constructor <;> intro hc
  · rw [State.checkInstance, h]
    exact if_pos (judged.2 hc)
  · rw [State.checkInstance, h]
    exact if_neg (mt judged.1 hc)

end Sys2Proof.Machine
end

section
/-! PROOFS. INSTANCE_COMPLETE (R79), and what the end of a team leaves of its partition's state (R108, R298). -/

namespace Sys2Proof.Machine

/-! ### INSTANCE_COMPLETE (R79) -/

/-- From one state to another some instances end at most; the teams, orphans and remote stores that they wait for stay. -/
structure State.Ends (s S : State) (ended : Inst → Prop) : Prop where
  teams : S.teams = s.teams
  orphans : S.orphans = s.orphans
  remotes : S.remotes = s.remotes
  insts : ∀ j, j ∈ S.insts ↔ j ∈ s.insts ∧ ¬ ended j

theorem State.Ends.none (s : State) : s.Ends s fun _ => False := ⟨rfl, rfl, rfl, fun _ => (and_iff_left not_false).symm⟩

theorem State.Ends.congr {s S : State} {p q : Inst → Prop} (h : s.Ends S p) (hpq : ∀ j ∈ s.insts, p j ↔ q j) : s.Ends S q :=
  ⟨h.teams, h.orphans, h.remotes, fun j => (h.insts j).trans (and_congr_right fun hj => not_congr (hpq j hj))⟩

theorem State.Ends.completes {s S : State} {p : Inst → Prop} (h : s.Ends S p) (i : Inst) : S.Completes i ↔ s.Completes i := by
  unfold State.Completes
  rw [h.teams, h.orphans, h.remotes]

/-- Two instances of a list never share their number (R73). -/
def UniqueIds (l : List Inst) : Prop := ∀ a ∈ l, ∀ b ∈ l, a.id = b.id → a = b

theorem uniqueIds_of_pairwise {l : List Inst} (h : l.Pairwise fun a b => a.id ≠ b.id) : UniqueIds l := fun a ha b hb hab => by
  have : Std.Symm fun a b : Inst => a.id ≠ b.id := ⟨fun _ _ => Ne.symm⟩
  exact by_contra fun hne => h.forall ha hb hne hab

/-- A judged instance ends if it completes, and nothing else does. -/
theorem State.checkInstance_ends {s : State} (unique : UniqueIds s.insts) (id : Nat) :
    s.Ends (s.checkInstance id) fun j => j.id = id ∧ s.Completes j := by
  cases hf : s.inst? id with
  | none =>
    rw [State.checkInstance_absent hf]
    have absent : ∀ j ∈ s.insts, j.id ≠ id := by simpa [State.inst?] using hf
    exact (State.Ends.none s).congr fun j hj => ⟨False.elim, fun h => absent j hj h.1⟩
  | some i =>
    have hi : i ∈ s.insts := List.mem_of_find?_eq_some hf
    have hid : i.id = id := by simpa using List.find?_some hf
    have only : ∀ j ∈ s.insts, j.id = id → j = i := fun j hj h => unique j hj i hi (h.trans hid.symm)
    obtain ⟨ends, stays⟩ := State.checkInstance_found hf hid
    by_cases hc : s.Completes i
    · have kept := s.endInstance_spares i
      have settled := State.settleBusy_spares ((s.endInstance i).dropInst id) i.part
      rw [ends hc]
      refine ⟨settled.teams.trans kept.teams, settled.orphans.trans kept.orphans, settled.remotes.trans kept.remotes, fun j => ?_⟩
      rw [settled.insts]
      simp only [State.dropInst, List.mem_filter, kept.insts, decide_eq_true_eq]
      exact and_congr_right fun hj => not_congr ⟨fun h => ⟨h, only j hj h ▸ hc⟩, And.left⟩
    · rw [stays hc]
      exact (State.Ends.none s).congr fun j hj => ⟨False.elim, fun h => hc (only j hj h.1 ▸ h.2)⟩

theorem State.checkInstances_ends (l : List Inst) {s : State} (unique : UniqueIds s.insts) :
    s.Ends (l.foldl (fun s i => s.checkInstance i.id) s) fun j => (∃ i ∈ l, j.id = i.id) ∧ s.Completes j := by
  induction l generalizing s with
  | nil => exact (State.Ends.none s).congr fun j _ => by simp
  | cons i l ih =>
    have first := State.checkInstance_ends unique i.id
    have kept : ∀ j ∈ (s.checkInstance i.id).insts, j ∈ s.insts := fun j hj => ((first.insts j).1 hj).1
    have others := ih fun a ha b hb => unique a (kept a ha) b (kept b hb)
    refine ⟨others.teams.trans first.teams, others.orphans.trans first.orphans, others.remotes.trans first.remotes, fun j => ?_⟩
    rw [List.foldl_cons, others.insts, first.insts, first.completes]
    have named : (∃ x ∈ i :: l, j.id = x.id) ↔ j.id = i.id ∨ ∃ x ∈ l, j.id = x.id := by simp only [List.mem_cons, exists_eq_or_imp]
    rw [named, or_and_right, not_or, and_assoc]

theorem instanceComplete_gives {s : State} (h : s.insts.Pairwise fun a b => a.id ≠ b.id) : ∃ S, exec .instanceComplete s = .next S ∧
    S.teams = s.teams ∧ ∀ i, i ∈ S.insts ↔ i ∈ s.insts ∧ ¬ (i.part = s.request.part ∧ s.Completes i) := by
  have ends := State.checkInstances_ends (s.insts.filter fun i => decide (i.part = s.request.part)) (uniqueIds_of_pairwise h)
  refine ⟨_, rfl, ends.teams, fun i => (ends.insts i).trans (and_congr_right fun hi => not_congr (and_congr_left' ?_))⟩
  constructor
  · rintro ⟨j, hj, hij⟩
    obtain ⟨hj, hpart⟩ := List.mem_filter.1 hj
    rw [uniqueIds_of_pairwise h i hi j hj hij]
    exact of_decide_eq_true hpart
  · exact fun hpart => ⟨i, List.mem_filter.2 ⟨hi, decide_eq_true hpart⟩, rfl⟩

/-! ### The end of a team -/

/-- From one state to another no partition's control register and no resolution recorded for a partition changes. -/
structure State.KeepsRecorded (s S : State) : Prop where
  ctl : ∀ j, S.reg (pidx j 0) = s.reg (pidx j 0)
  recorded : ∀ j, (S.part j).recorded = (s.part j).recorded

namespace State.KeepsRecorded
variable {s S T : State}

theorem refl (s : State) : s.KeepsRecorded s := ⟨fun _ => rfl, fun _ => rfl⟩

theorem trans (h : s.KeepsRecorded S) (h' : S.KeepsRecorded T) : s.KeepsRecorded T :=
  ⟨fun j => (h'.ctl j).trans (h.ctl j), fun j => (h'.recorded j).trans (h.recorded j)⟩

theorem foldl {α : Type} {f : State → α → State} (h : ∀ (s : State) a, s.KeepsRecorded (f s a)) (l : List α) (s : State) :
    s.KeepsRecorded (l.foldl f s) :=
  foldl_keeps s.KeepsRecorded f (fun b a hb => hb.trans (h b a)) l s (.refl s)

theorem of_spares (h : s.Spares S) : s.KeepsRecorded S := ⟨h.ctl, h.recorded⟩

/-- A change of the teams, the orphans, the instances and the pinned lines. -/
theorem of_same (hr : S.regs = s.regs) (hp : S.parts = s.parts) : s.KeepsRecorded S :=
  ⟨fun _ => State.reg_congr hr _, fun j => by rw [State.part_congr hp]⟩

end State.KeepsRecorded

theorem State.checkInstance_keepsRecorded (s : State) (id : Nat) : s.KeepsRecorded (s.checkInstance id) := by
  cases hf : s.inst? id with
  | none => rw [State.checkInstance_absent hf]; exact .refl s
  | some i =>
    obtain ⟨ends, stays⟩ := State.checkInstance_found hf (by simpa using List.find?_some hf)
    by_cases hc : s.Completes i
    · rw [ends hc]
      exact (State.KeepsRecorded.of_spares (s.endInstance_spares i)).trans
        (.trans (S := (s.endInstance i).dropInst id) (.of_same rfl rfl) (.of_spares (State.settleBusy_spares _ _)))
    · rw [stays hc]; exact .refl s

theorem State.settleFaults_keepsRecorded (s : State) (k : Nat) : s.KeepsRecorded (s.settleFaults k) :=
  .of_spares (.of_setPart _ _ _ rfl)

/-- A team that has left without waiting: its slots are settled, its instance counts it, and what waited on it is judged. -/
theorem State.leaveTeam_keepsRecorded (s : State) (t : Team) : s.KeepsRecorded (s.leaveTeam t) := by
  unfold State.leaveTeam
  extract_lets held away ghost r s1 s2
  split
  · exact .of_same rfl rfl
  · have orphaned : s.KeepsRecorded (if away.isEmpty then s else { s with orphans := s.orphans ++ [ghost] }) := by
      split
      · exact .refl s
      · exact .of_same rfl rfl
    have left : s.KeepsRecorded s1 := orphaned.trans
      (.trans (.of_spares (.of_schedules (State.settleRanges_schedules _ t))) (.of_same rfl rfl))
    have counted : s1.KeepsRecorded s2 := by
      unfold s2
      split
      · exact .of_same rfl rfl
      · exact .refl s1
    exact left.trans (counted.trans ((State.settleFaults_keepsRecorded _ _).trans (State.checkInstance_keepsRecorded _ _)))

theorem State.putOrphan_keepsRecorded (s : State) (t : Team) : s.KeepsRecorded (s.putOrphan t) := by
  unfold State.putOrphan
  dsimp only
  split
  · exact .of_same rfl rfl
  · exact .trans (S := { s with orphans := s.orphans.filter fun u => !(decide (u.inst = t.inst) && decide (u.index = t.index)) })
      (.of_same rfl rfl) (State.checkInstance_keepsRecorded _ _)

theorem State.logAborted_keepsRecorded (s : State) (t u : Team) : s.KeepsRecorded (s.logAborted t u) := by
  refine .foldl (fun s c => ?_) _ s
  unfold State.logLateFail
  split
  · exact .of_spares (.of_logsTo (s.addLog_logsTo _))
  · exact .refl s

theorem State.resolveNow_keepsRecorded (s : State) (k block : Nat) (abort : Bool) : s.KeepsRecorded (s.resolveNow k block abort) := by
  have orphans := State.KeepsRecorded.foldl (fun (s : State) (t : Team) =>
    (s.logAborted_keepsRecorded t (t.resolve block abort)).trans (State.putOrphan_keepsRecorded _ (t.resolve block abort)))
  have teams := State.KeepsRecorded.foldl (f := fun (s : State) (t : Team) =>
      if (t.resolve block abort).exiting then (s.logAborted t (t.resolve block abort)).leaveTeam (t.resolve block abort)
      else (s.logAborted t (t.resolve block abort)).putTeam (t.resolve block abort)) fun s t => by
    split
    · exact (s.logAborted_keepsRecorded _ _).trans (State.leaveTeam_keepsRecorded _ _)
    · exact (s.logAborted_keepsRecorded _ _).trans (.of_same rfl rfl)
  exact (orphans _ s).trans ((teams _ _).trans (.of_spares (.of_setPart _ _ _ rfl)))

end Sys2Proof.Machine
end

section
/-! PROOFS. The halting, saving, restoring and reset of a partition (R95, R97, R98, R102, R108, R146). -/

namespace Sys2Proof.Machine

/-! ### The state of a partition -/

/-- PCTL.STATE of partition k has a value, and the control registers of the other partitions are as before. -/
def State.StateNow (s S : State) (k n : Nat) : Prop :=
  fieldOf (S.reg (pidx k 0)) 27 3 = n ∧ ∀ j < 16, j ≠ k → S.reg (pidx j 0) = s.reg (pidx j 0)

theorem State.StateNow.of_ctl {s S T : State} {k n : Nat} (h : s.StateNow S k n) (hctl : ∀ j, T.reg (pidx j 0) = S.reg (pidx j 0)) :
    s.StateNow T k n :=
  ⟨by rw [hctl]; exact h.1, fun j hj hne => (hctl j).trans (h.2 j hj hne)⟩

theorem State.StateNow.logsTo {s S T : State} {k n : Nat} (h : s.StateNow S k n) (hl : S.LogsTo T) : s.StateNow T k n :=
  h.of_ctl fun j => hl.reg (by unfold pidx; omega)

theorem pidx_ne {j k : Nat} (h : j ≠ k) : pidx j 0 ≠ pidx k 0 := by unfold pidx; omega

theorem State.setRfield_ctl_ne (s : State) {j k : Nat} (lo n v : Nat) (h : j ≠ k) :
    (s.setRfield (pidx k 0) lo n v).reg (pidx j 0) = s.reg (pidx j 0) := s.setRfield_reg_ne lo n v (pidx_ne h)

/-- A partition's state has been set after changes that leave the control registers alone. -/
theorem State.setPstate_now {s S : State} {k n : Nat} (hn : n < 8) (h : ∀ j, j ≠ k → S.reg (pidx j 0) = s.reg (pidx j 0)) :
    s.StateNow (S.setPstate k n) k n :=
  ⟨(S.setPstate_reg k n).1.trans (Nat.mod_eq_of_lt hn), fun j _ hj => (S.setRfield_ctl_ne _ _ _ hj).trans (h j hj)⟩

/-- An event's bit of INTPEND stands once it has been raised (R26). -/
theorem State.raise_pends (s : State) {e : Nat} (he : e < 64) : bitAt ((s.raise e).reg 0x0E9) e = true := by
  have set : bitAt ((s.setReg 0x0E9 (s.reg 0x0E9 ||| BitVec.ofNat 64 (2 ^ e))).reg 0x0E9) e = true := by
    rw [State.setReg_reg, if_pos rfl, bitAt, BitVec.getLsbD_or, getLsbD_ofNat_pow 64 e e he]
    simp
  have sent : ∀ S : State, (S.sendMessage e).reg 0x0E9 = S.reg 0x0E9 := fun S => by
    unfold State.sendMessage; split <;> rfl
  unfold State.raise
  split
  · next h => exact h
  · dsimp only
    split
    · rw [sent]; exact set
    · exact set

/-! ### PARTITION_HALTED (R97) -/

theorem Group.stopped_iff (t : Team) (g : Group) (clk : Nat) : g.stopped t clk = true ↔
    (g.wait ≠ .none ∨ g.issued = 0 ∨ ∃ x ∈ t.attic, x.st = .fault ∧ x.fid ∈ g.faulted) ∧
      ∀ x ∈ g.hist, x.named = true → x.due ≤ clk := by
  simp only [Group.stopped, Group.halts, Bool.and_eq_true, Bool.or_eq_true, decide_eq_true_eq, List.any_eq_true, List.all_eq_true,
    Bool.not_eq_true', List.contains_iff_mem, or_assoc, or_left_comm (a := g.issued = 0)]
  refine and_congr_right fun _ => forall₂_congr fun x _ => ?_
  cases x.named <;> simp

/-- Every group of a partition has stopped. -/
def State.Still (s : State) (k : Nat) : Prop := ∀ t ∈ s.teams, t.part = k → ∀ g ∈ t.groups,
  (g.wait ≠ .none ∨ g.issued = 0 ∨ ∃ x ∈ t.attic, x.st = .fault ∧ x.fid ∈ g.faulted) ∧ ∀ x ∈ g.hist, x.named = true → x.due ≤ s.clk

theorem State.still_iff (s : State) (k : Nat) :
    ((s.teams.filter fun t => decide (t.part = k)).all fun t => t.groups.all fun g => g.stopped t s.clk) = true ↔ s.Still k := by
  simp only [List.all_eq_true, List.mem_filter, decide_eq_true_eq, and_imp, Group.stopped_iff]
  rfl

theorem partitionHalted_halts {s : State} (h2 : s.pstate s.request.part = 2) (hs : s.Still s.request.part) :
    ∃ S, exec .partitionHalted s = .next S ∧ s.StateNow S s.request.part 3 ∧ S.teams = s.teams ∧ S.mem = s.mem :=
  ⟨_, congrArg Host.Outcome.next (if_pos ⟨h2, (s.still_iff _).2 hs⟩), State.setPstate_now (by decide) fun _ _ => rfl, rfl, rfl⟩

theorem partitionHalted_waits {s : State} (h : ¬ (s.pstate s.request.part = 2 ∧ s.Still s.request.part)) :
    exec .partitionHalted s = .next s :=
  congrArg Host.Outcome.next (if_neg fun hc => h ⟨hc.1, (s.still_iff _).1 hc.2⟩)

/-! ### CONTEXT_SAVE_COMPLETE (R95, R98, R100) -/

theorem State.spillContext_rest (s : State) (k : Nat) : (s.spillContext k).rest = s.rest :=
  foldl_rest _ (fun _ _ => State.writeHome_rest _ _ _) _ _

/-- A group without what no context keeps. -/
def Group.lean (g : Group) : Group := { g with hist := [], buf := [], half := [], late := [], positions := none, seeks := .none }

theorem Group.asSaved_lean (g : Group) : g.asSaved.lean =
    { g with hist := [], buf := [], half := [], late := [], positions := none, seeks := .none
             wait := if g.wait ∈ [.watermark, .drain, .engine] then .none else g.wait } := by
  simp only [Group.asSaved, Group.lean, List.mem_cons, List.not_mem_nil, or_false]

/-- The teams of a partition as its context holds them. -/
def State.contextTeams (s : State) (k : Nat) : List Team :=
  (s.teams.filter fun t => decide (t.part = k)).map fun t => { t with groups := t.groups.map Group.asSaved }

theorem State.contextTeams_groups (s : State) (k i : Nat) : ((s.contextTeams k)[i]?).map (fun t => t.groups.map Group.lean) =
    ((s.teams.filter fun t => decide (t.part = k))[i]?).map fun t => t.groups.map fun g =>
      { g with hist := [], buf := [], half := [], late := [], positions := none, seeks := .none
               wait := if g.wait ∈ [.watermark, .drain, .engine] then .none else g.wait } := by
  rw [State.contextTeams, List.getElem?_map, Option.map_map]
  refine congrArg (Option.map · _) (funext fun t => List.map_map.trans ?_)
  exact List.map_congr_left fun g _ => g.asSaved_lean

/-- The state in which the context of a partition stands, before its spilled bytes are written. -/
def State.savedContext (s : State) (k : Nat) : State :=
  let ns := s.time - (s.part k).saveNs
  ((State.setPart { s with teams := s.teams.filter fun t => decide (t.part ≠ k) } k
    { s.part k with saved := s.contextTeams k, saveNs := ns }).setRfield (pidx k 0) 32 32 (Nat.min ns (2 ^ 32 - 1))).setPstate k 4

theorem State.savedContext_ns (s : State) (k : Nat) :
    fieldOf ((s.savedContext k).reg (pidx k 0)) 32 32 = min (s.time - (s.part k).saveNs) (2 ^ 32 - 1) := by
  rw [State.savedContext, State.setPstate, State.setRfield_reg_same,
    fieldOf_setField_disjoint _ _ (by decide) (.inr (by decide)), State.setRfield_reg_same, fieldOf_setField_same _ _ (by decide)]
  exact Nat.mod_eq_of_lt (Nat.lt_of_le_of_lt (Nat.min_le_right _ _) (by decide))

theorem State.savedContext_now (s : State) (k : Nat) : s.StateNow (s.savedContext k) k 4 :=
  State.setPstate_now (by decide) fun _ hj => State.setRfield_ctl_ne _ _ _ _ hj

theorem contextSaveComplete_waits {s : State} (h : s.pstate s.request.part ≠ 3) : exec .contextSaveComplete s = .next s :=
  congrArg Host.Outcome.next (if_pos h)

theorem contextSaveComplete_saves {s : State} (h : s.pstate s.request.part = 3) : ∃ S, exec .contextSaveComplete s = .next S ∧
    (s.savedContext s.request.part).Schedules S ∧ bitAt (S.reg 0x0E9) 5 = true ∧
    (S.part s.request.part).saved = s.contextTeams s.request.part := by
  have spilled := State.Schedules.of_rest ((s.savedContext s.request.part).spillContext_rest s.request.part)
  have all := spilled.trans (.of_logsTo (State.raise_logsTo _ 5))
  refine ⟨_, congrArg Host.Outcome.next (if_neg (not_not.2 h)), all, State.raise_pends _ (by decide), ?_⟩
  obtain ⟨graph, hp⟩ := all.part s.request.part
  refine (congrArg Part.saved hp).trans ?_
  show ((State.setPart _ s.request.part _).part s.request.part).saved = _
  rw [State.setPart_part, if_pos rfl]

/-! ### PARTITION_RESET_COMPLETE (R95) -/

theorem partitionResetComplete_waits {s : State} (h : s.pstate s.request.part ≠ 6 ∨ (s.part s.request.part).slotsDue ≠ []) :
    exec .partitionResetComplete s = .next s :=
  congrArg Host.Outcome.next (if_pos (h.imp_right fun h => by simpa using h))

theorem partitionResetComplete_ends {s : State} (h6 : s.pstate s.request.part = 6) (hd : (s.part s.request.part).slotsDue = []) :
    ∃ S, exec .partitionResetComplete s = .next S ∧ s.StateNow S s.request.part 0 ∧
      bitAt (S.reg (pidx s.request.part 0)) 31 = false ∧ bitAt (S.reg 0x0E9) 5 = true := by
  have now : s.StateNow ((s.setRfield (pidx s.request.part 0) 31 1 0).setPstate s.request.part 0) s.request.part 0 :=
    State.setPstate_now (by decide) fun _ hj => State.setRfield_ctl_ne _ _ _ _ hj
  refine ⟨_, congrArg Host.Outcome.next (if_neg (by simp [h6, hd])), now.logsTo (State.raise_logsTo _ 5), ?_, State.raise_pends _ (by decide)⟩
  rw [(State.raise_logsTo _ 5).reg (by unfold pidx; omega), State.setPstate, State.setRfield_reg_same, State.setRfield_reg_same,
    bitAt_setField _ _ _ _ _ (by decide), bitAt_setField _ _ _ _ _ (by decide)]
  rfl

/-! ### CONTEXT_RESTORE_COMPLETE (R95, R102, R108, R146) -/

theorem Team.refillAll_attic (t : Team) : t.refillAll.attic = t.attic := by
  refine foldl_keeps (fun u => u.attic = t.attic) _ (fun u key hu => ?_) _ t rfl
  dsimp only
  split
  · exact hu
  · split_ifs <;> exact hu

theorem contextRestoreComplete_waits {s : State} (h : s.pstate s.request.part ≠ 5) : exec .contextRestoreComplete s = .next s :=
  congrArg Host.Outcome.next (if_pos h)

/-- The state in which the recorded resolutions of a partition begin to act. -/
def State.unrecorded (s : State) (k : Nat) : State :=
  State.setPart { s with teams := s.teams.map fun t => if t.part = k then t.advanceParked (s.clk - (s.part k).savedAt) else t } k
    { s.part k with recorded := [], room := 0, spill := 0 }

/-- The state in which the recorded resolutions of a partition have acted. -/
def State.resolved (s : State) (k : Nat) : State :=
  (s.part k).recorded.foldl (fun s r => s.resolveNow k r.1 r.2) (s.unrecorded k)

/-- The state in which a partition runs again. -/
def State.refilled (s : State) (k : Nat) : State :=
  State.setPstate { s with teams := s.teams.map fun t => if t.part = k then t.refillAll else t } k 1

theorem State.resolved_keepsRecorded (s : State) (k : Nat) : (s.unrecorded k).KeepsRecorded (s.resolved k) :=
  .foldl (fun s (r : Nat × Bool) => s.resolveNow_keepsRecorded k r.1 r.2) _ _

theorem State.restoreDone_restores {s : State} {k : Nat} (h : s.pstate k = 5) :
    s.restoreDone k = ((s.resolved k).refilled k).raise 5 := if_neg (not_not.2 h)

theorem State.refilled_attics {s : State} {k : Nat} (h : (s.part k).recorded = []) :
    ((s.resolved k).refilled k).teams.map (fun t => t.attic) = s.teams.map fun t =>
      if t.part = k then t.attic.map fun x => { x with parked := x.parked + (s.clk - (s.part k).savedAt)
                                                       count := x.count + (s.clk - (s.part k).savedAt) }
      else t.attic := by
  unfold State.resolved
  rw [h]
  show ((s.teams.map _).map _).map _ = _
  rw [List.map_map, List.map_map]
  refine List.map_congr_left fun t _ => ?_
  by_cases hk : t.part = k
  · simp only [Function.comp_apply, if_pos hk, show (t.advanceParked (s.clk - (s.part k).savedAt)).part = k from hk]
    exact Team.refillAll_attic _
  · simp only [Function.comp_apply, if_neg hk]

theorem contextRestoreComplete_restores {s : State} (h : s.pstate s.request.part = 5) : ∃ S, exec .contextRestoreComplete s = .next S ∧
    s.StateNow S s.request.part 1 ∧ bitAt (S.reg 0x0E9) 5 = true ∧ (S.part s.request.part).recorded = [] ∧
    S.teams = ((s.resolved s.request.part).refilled s.request.part).teams := by
  have kept := s.resolved_keepsRecorded s.request.part
  have raised := State.raise_logsTo ((s.resolved s.request.part).refilled s.request.part) 5
  refine ⟨_, congrArg Host.Outcome.next (State.restoreDone_restores h), ?_, State.raise_pends _ (by decide), ?_, raised.teams⟩
  · have now : s.StateNow ((s.resolved s.request.part).refilled s.request.part) s.request.part 1 :=
      State.setPstate_now (by decide) fun j _ => kept.ctl j
    exact now.logsTo raised
  · refine (congrArg Part.recorded (State.part_congr raised.parts _)).trans ((kept.recorded _).trans ?_)
    rw [State.unrecorded, State.setPart_part, if_pos rfl]

end Sys2Proof.Machine
end

section
/-! PROOFS. RESTORE_START (R95, R98, R102): a context goes back to its cores. -/

namespace Sys2Proof.Machine

/-! ### What a restored team is -/

/-- A group apart from its place in an issue slot (R130). -/
def Group.unslot (g : Group) : Group := { g with islot := 0, positions := none, seeks := .none }

/-- A record apart from its Attic slot (R125). -/
def Parked.unslot (p : Parked) : Parked := { p with slot := 0 }

/-- A team apart from its places on its core and from its Hamper's bytes. -/
def Team.plain (t : Team) : Team :=
  { t with slot := 0, attic := [], hbytes := [], hpoison := [], hkeys := [], errors := [], groups := t.groups.map Group.unslot }

theorem slotGroups_unslot (s : State) (w : Nat) (placed gs : List Group) :
    (s.slotGroups w placed gs).map Group.unslot = placed.map Group.unslot ++ gs.map Group.unslot := by
  induction gs generalizing placed with
  | nil => simp [State.slotGroups]
  | cons g gs ih =>
    rw [State.slotGroups, ih, List.map_append, List.append_assoc]
    rfl

theorem Team.park_attic (t : Team) (used : List Nat) (p : Parked) :
    (t.park used p).attic.map Parked.unslot = t.attic.map Parked.unslot ++ [p.unslot] := by
  simp only [Team.park, List.map_append, List.map_cons, List.map_nil, Parked.unslot]

theorem parkAll_attic (used : Nat → List Nat) (l : List Parked) (t : Team) : ∃ attic,
    l.foldl (fun t p => t.park (used p.core) p) t = { t with attic := attic } ∧
      attic.map Parked.unslot = t.attic.map Parked.unslot ++ l.map Parked.unslot := by
  induction l generalizing t with
  | nil => exact ⟨t.attic, rfl, (List.append_nil _).symm⟩
  | cons p l ih =>
    obtain ⟨attic, ht, ha⟩ := ih (t.park (used p.core) p)
    refine ⟨attic, ht, ha.trans ?_⟩
    rw [Team.park_attic, List.append_assoc]
    rfl

/-- Parked fibres get free Attic slots, and nothing else of the team changes. -/
theorem State.reseat_attic (s : State) (t : Team) : ∃ attic, s.reseat t = { t with attic := attic } ∧
    attic.map Parked.unslot = t.attic.map Parked.unslot :=
  parkAll_attic s.atticUsed t.attic { t with attic := [] }

/-- A team as it goes back to its core. -/
def State.restored (s : State) (t : Team) : Team :=
  s.slotted (s.reseat { t.reloadHamper s.free with slot := (s.freeTeamSlot t.coresOf t.slot).getD t.slot })

theorem State.restored_plain (s : State) (t : Team) : (s.restored t).plain = t.plain := by
  obtain ⟨attic, ht, -⟩ := s.reseat_attic { t.reloadHamper s.free with slot := (s.freeTeamSlot t.coresOf t.slot).getD t.slot }
  have groups := slotGroups_unslot s t.launch.width [] t.groups
  rw [List.map_nil, List.nil_append] at groups
  rw [State.restored, ht]
  show { t with slot := 0, attic := [], hbytes := [], hpoison := [], hkeys := [], errors := []
                groups := (s.slotGroups t.launch.width [] t.groups).map Group.unslot } = t.plain
  rw [groups]
  rfl

theorem State.restored_attic (s : State) (t : Team) : (s.restored t).attic.map Parked.unslot = t.attic.map Parked.unslot := by
  obtain ⟨attic, ht, ha⟩ := s.reseat_attic { t.reloadHamper s.free with slot := (s.freeTeamSlot t.coresOf t.slot).getD t.slot }
  rw [State.restored, ht]
  exact ha

theorem State.restored_hbytes (s : State) (t : Team) : (s.restored t).hbytes = (t.reloadHamper s.free).hbytes := by
  obtain ⟨attic, ht, -⟩ := s.reseat_attic { t.reloadHamper s.free with slot := (s.freeTeamSlot t.coresOf t.slot).getD t.slot }
  rw [State.restored, ht]
  rfl

/-! ### The Hamper's saved bytes (R98, R102) -/

/-- A map that lists a function's values at some keys reads as the function there. -/
theorem sget_filterMap {α : Type} [DecidableEq α] (d : α) (f : Nat → α) (l : List Nat) (k : Nat) :
    sget d (l.filterMap fun p => if f p = d then none else some (p, f p)) k = if k ∈ l then f k else d := by
  induction l with
  | nil => rfl
  | cons p l ih =>
    by_cases hp : f p = d
    · simp only [List.filterMap_cons, if_pos hp, ih]
      by_cases hk : k = p
      · subst hk; simp [hp]
      · simp [hk]
    · simp only [List.filterMap_cons, if_neg hp]
      by_cases hk : k = p
      · subst hk; simp [sget]
      · simp [sget, hk, Ne.symm hk, ih]

/-- Whether record j of a half of a team has saved a place of the half's Hamper (R98). -/
def Team.SavedBy (t : Team) (half place j : Nat) : Prop :=
  (t.hrec (32 * half + j)).saved = true ∧
    place ∈ numsFrom (t.hbyteAt (32 * half + j) 0) (t.hbyteAt (32 * half + j) 0 + (t.hrec (32 * half + j)).hlen)

theorem Team.savedPlace_of_record {t : Team} {half off j : Nat} (hoff : off < 2 ^ 20) (hj : j < 32)
    (h : t.SavedBy half (2 ^ 20 * half + off) j) : t.savedPlace (2 ^ 20 * half + off) = true := by
  obtain ⟨saved, within⟩ := h
  have hhalf : (2 ^ 20 * half + off) / 2 ^ 20 * 32 + j = 32 * half + j := by omega
  obtain ⟨lo, hi⟩ := mem_numsFrom.1 within
  refine List.any_eq_true.2 ⟨j, List.mem_range.2 hj, ?_⟩
  simp only [hhalf, saved, decide_eq_true lo, decide_eq_true hi, Bool.and_self]

/-- A restored team's saved bytes stand as its context holds them. -/
theorem Team.reloadHamper_saved {t : Team} (free : Nat) {half off j : Nat} (hhalf : half < t.coresOf.length)
    (hoff : off < 1024 * t.launch.hamper) (hlimit : t.launch.hamper ≤ 1024) (hj : j < 32) (h : t.SavedBy half (2 ^ 20 * half + off) j) :
    sget 0 (t.reloadHamper free).hbytes (2 ^ 20 * half + off) = sget 0 t.hbytes (2 ^ 20 * half + off) := by
  have place : 2 ^ 20 * half + off ∈
      (List.range t.coresOf.length).flatMap fun half => numsFrom (2 ^ 20 * half) (2 ^ 20 * half + 1024 * t.launch.hamper) :=
    List.mem_flatMap.2 ⟨half, List.mem_range.2 hhalf, mem_numsFrom.2 ⟨by omega, by omega⟩⟩
  refine (sget_filterMap 0 (fun p => if t.savedPlace p then sget 0 t.hbytes p else Config.lostHamper free p) _ _).trans ?_
  exact (if_pos place).trans (if_pos (Team.savedPlace_of_record (by omega) hj h))

/-! ### The restore of a context -/

/-- A team that has been restored in some state. -/
def Team.RestoredAs (t u : Team) : Prop := ∃ s : State, u = s.restored t

theorem State.restoreTeams_spec (l : List Team) (s : State) : ∃ back, List.Forall₂ Team.RestoredAs l back ∧
    (l.foldl (fun s t => s.restoreTeam t) s).teams = s.teams ++ back ∧ (l.foldl (fun s t => s.restoreTeam t) s).regs = s.regs := by
  induction l generalizing s with
  | nil => exact ⟨[], .nil, (List.append_nil _).symm, rfl⟩
  | cons t l ih =>
    obtain ⟨back, hb, ht, hr⟩ := ih (s.restoreTeam t)
    refine ⟨s.restored t :: back, .cons ⟨s, rfl⟩ hb, ht.trans ?_, hr⟩
    show (s.teams ++ [s.restored t]) ++ back = _
    rw [List.append_assoc]
    rfl

theorem Charge.hamper_sum (f : Team → Charge) (l : List Team) (a : Charge) :
    a.hamper ≤ (l.foldl (fun (a : Charge) t => a.add (f t)) a).hamper ∧
      ∀ t ∈ l, (f t).hamper ≤ (l.foldl (fun (a : Charge) t => a.add (f t)) a).hamper := by
  induction l generalizing a with
  | nil => exact ⟨Nat.le_refl _, fun t ht => by cases ht⟩
  | cons u l ih =>
    obtain ⟨first, others⟩ := ih (a.add (f u))
    have split : (a.add (f u)).hamper = a.hamper + (f u).hamper := rfl
    refine ⟨?_, List.forall_mem_cons.2 ⟨?_, others⟩⟩
    · rw [List.foldl_cons]; omega
    · rw [List.foldl_cons]; omega

/-- Every core that a context names has room for it, has its partition's world and is ready (R95). -/
def State.RoomFor (s : State) (k : Nat) (saved : List Team) : Prop :=
  ∀ c ∈ (saved.flatMap Team.coresOf).eraseDups, s.coreFits k c (saved.foldl (fun (a : Charge) t => a.add (t.chargeOn c)) {}) = true ∧
    s.coreSec c = s.psec k ∧ s.ready (c / 128) = true

theorem Team.core_mem_coresOf (t : Team) : t.core ∈ t.coresOf := by
  unfold Team.coresOf
  split <;> simp

/-- What fits a core stays within the core's Hamper (R71). -/
theorem State.RoomFor.hamper {s : State} {k : Nat} {saved : List Team} (h : s.RoomFor k saved) {t : Team} (ht : t ∈ saved) :
    t.launch.hamper ≤ 512 := by
  obtain ⟨fits, -, -⟩ := h t.core (List.mem_eraseDups.2 (List.mem_flatMap.2 ⟨t, ht, t.core_mem_coresOf⟩))
  have own : (t.chargeOn t.core).hamper = t.launch.hamper := by rw [Team.chargeOn, if_pos rfl]; rfl
  have sum : (t.chargeOn t.core).hamper ≤ (saved.foldl (fun (a : Charge) u => a.add (u.chargeOn t.core)) {}).hamper :=
    (Charge.hamper_sum (fun u => u.chargeOn t.core) saved {}).2 t ht
  simp only [State.coreFits, Charge.fits, Bool.and_eq_true, decide_eq_true_eq, coreLimit] at fits
  obtain ⟨-, ⟨-, limit⟩, -⟩ := fits
  have total : (Charge.add (s.usage (fun _ => true) t.core) (saved.foldl (fun (a : Charge) u => a.add (u.chargeOn t.core)) {})).hamper =
    (s.usage (fun _ => true) t.core).hamper + (saved.foldl (fun (a : Charge) u => a.add (u.chargeOn t.core)) {}).hamper := rfl
  have limit : (Charge.add (s.usage (fun _ => true) t.core) (saved.foldl (fun (a : Charge) u => a.add (u.chargeOn t.core)) {})).hamper ≤ 512 := of_decide_eq_true limit
  omega

theorem State.roomFor_iff (s : State) (k : Nat) (saved : List Team) : ((saved.flatMap Team.coresOf).eraseDups.all fun c =>
    s.coreFits k c (saved.foldl (fun (a : Charge) t => a.add (t.chargeOn c)) {}) && (s.coreSec c == s.psec k) && s.ready (dieOf c)) = true ↔
      s.RoomFor k saved := by
  simp only [List.all_eq_true, Bool.and_eq_true, beq_iff_eq, and_assoc]
  rfl

theorem restoreStart_waits {s : State} (h : ¬ (s.pstate s.request.part = 4 ∧ (s.part s.request.part).resuming = true ∧
    s.RoomFor s.request.part (s.part s.request.part).saved)) : exec .restoreStart s = .next s :=
  congrArg Host.Outcome.next (if_neg fun hc => h ⟨hc.1, hc.2.1, (s.roomFor_iff _ _).1 hc.2.2⟩)

theorem restoreStart_restores {s : State} (h4 : s.pstate s.request.part = 4) (hr : (s.part s.request.part).resuming = true)
    (room : s.RoomFor s.request.part (s.part s.request.part).saved) : ∃ S, exec .restoreStart s = .next S ∧
      s.StateNow S s.request.part 5 ∧ (S.part s.request.part).saved = [] ∧ ∃ back, S.teams = s.teams ++ back ∧
        List.Forall₂ Team.RestoredAs (s.part s.request.part).saved back := by
  obtain ⟨back, hb, ht, hregs⟩ := State.restoreTeams_spec (s.part s.request.part).saved s
  refine ⟨_, congrArg Host.Outcome.next (if_pos ⟨h4, hr, (s.roomFor_iff _ _).2 room⟩),
    State.setPstate_now (by decide) fun j _ => State.reg_congr hregs _, ?_, back, ht, hb⟩
  exact congrArg Part.saved ((State.setPart_part _ _ _ _).trans (if_pos rfl))

/-- Restored teams agree with their context in what each of them keeps. -/
theorem restored_map {α : Type} {f : Team → α} (h : ∀ (s : State) t, f (s.restored t) = f t) {l back : List Team}
    (hb : List.Forall₂ Team.RestoredAs l back) : back.map f = l.map f := by
  induction hb with
  | nil => rfl
  | cons hu _ ih =>
    obtain ⟨s, rfl⟩ := hu
    rw [List.map_cons, List.map_cons, h, ih]

end Sys2Proof.Machine
end

section
/-! PROOFS. The checks of a launch record (R69 to R71, R434). -/

namespace Sys2Proof.Machine

/-! ### The checks of a record -/

/-- A list of tests has no first failing one when none of them fails. -/
theorem firstBad_eq_none {l : List (Bool × Nat)} : firstBad l = none ↔ ∀ x ∈ l, x.1 = false := by
  simp only [firstBad, Option.map_eq_none_iff, List.find?_eq_none, Bool.not_eq_true]

theorem fieldOf_top (a : DWord) : fieldOf a 56 8 = a.toNat / 2 ^ 56 := by
  have := a.isLt
  rw [fieldOf, BitVec.extractLsb'_toNat, Nat.shiftRight_eq_div_pow]
  omega

/-- An entry point is aligned to a word and in the address space (R69). -/
theorem badEntry_eq_false {x : DWord} : badEntry x = false ↔ x.toNat % 4 = 0 ∧ x.toNat < 2 ^ 56 := by
  have := x.isLt
  simp only [badEntry, Bool.or_eq_false_iff, decide_eq_false_iff_not, not_not, fieldOf_zero x 2, fieldOf_top x]
  omega

/-- The number of an edge, or 0xFFFF, in a record of a graph with n edges (R69). -/
def EdgeNamed (n h : Nat) : Prop := h = 0xFFFF ∨ (h < 4096 ∧ h < n)

theorem edgeTest_eq_false {n h : Nat} :
    (decide (h ≠ 0xFFFF) && (decide (4096 ≤ h) || decide (n ≤ h))) = false ↔ EdgeNamed n h := by
  simp only [EdgeNamed, Bool.and_eq_false_iff, Bool.or_eq_false_iff, decide_eq_false_iff_not]
  omega

theorem State.worldHasCore_iff (s : State) (k : Nat) : s.worldHasCore k = true ↔ ∃ c < 1024, s.coreSec c = s.psec k := by
  simp only [State.worldHasCore, List.any_eq_true, List.mem_range, beq_iff_eq]

/-- The groups of a launch's team on its first core (R71). -/
theorem Launch.groupsOn_second_le (l : Launch) (h : l.paircore = true) : l.groupsOn true ≤ l.groupsOn false := by
  simp only [Launch.groupsOn, h]
  simp
  omega

/-- What one team takes of its first core is what decides whether it fits (R71). -/
theorem Launch.fitsEmpty_iff {l : Launch} (scratch : l.scratch ≤ 256) (acc : l.acc ≤ 256) (hamper : l.hamper ≤ 512) :
    l.fitsEmpty = true ↔ l.groupsOn false ≤ 128 ∧ l.groupsOn false * l.width * l.window ≤ 65536 := by
  have first : (l.charge false).fits coreLimit = true ↔ l.groupsOn false ≤ 128 ∧ l.groupsOn false * l.width * l.window ≤ 65536 := by
    simp only [Launch.charge, Charge.fits, coreLimit, Bool.and_eq_true, decide_eq_true_eq]
    simp
    omega
  have second (h : (l.charge false).fits coreLimit = true) : (l.charge true).fits coreLimit = true := by
    obtain ⟨groups, words⟩ := first.1 h
    cases pair : l.paircore with
    | false => simp [Launch.charge, Charge.fits, coreLimit, pair]
    | true =>
      have fewer := l.groupsOn_second_le pair
      have less : l.groupsOn true * l.width * l.window ≤ l.groupsOn false * l.width * l.window :=
        Nat.mul_le_mul_right _ (Nat.mul_le_mul_right _ fewer)
      simp [Launch.charge, Charge.fits, coreLimit, pair]
      omega
  rw [Launch.fitsEmpty, Bool.and_eq_true, and_iff_left_of_imp second, first]

/-- A record whose tests all pass (R69). -/
def ShapeOk (bs : List Byte) (n : Nat) : Prop :=
  (halfAt bs 0x2E < 128 ∧ byteAt bs 0x30 < 8) ∧
    (1 ≤ (wordAt bs 0x20).toNat ∧ (1 ≤ halfAt bs 0x24 ∧ halfAt bs 0x24 ≤ 1024) ∧ byteAt bs 0x26 ≤ 3 ∧ byteAt bs 0x27 ≤ 2 ∧
      halfAt bs 0x28 ≤ 256 ∧ halfAt bs 0x2A ≤ 256 ∧ halfAt bs 0x2C ≤ 512 ∧ byteAt bs 0x31 ≤ 15) ∧
    (∀ o ∈ [0, 8], (dwordAt bs o).toNat % 4 = 0 ∧ (dwordAt bs o).toNat < 2 ^ 56) ∧
    ∀ o ∈ edgeFields, EdgeNamed n (halfAt bs o)

theorem State.checkRecord_eq_none (s : State) (k : Nat) (bs : List Byte) (n : Nat) : s.checkRecord k bs (some n) none = none ↔
    ShapeOk bs n ∧ byteAt bs 0x31 = k ∧ s.worldHasCore k = true ∧ (parseLaunch bs).fitsEmpty = true := by
  unfold State.checkRecord
  extract_lets l ids reserved shape entry
  have hreserved : reserved = none ↔ halfAt bs 0x2E < 128 ∧ byteAt bs 0x30 < 8 := by
    simp only [reserved, firstBad_eq_none, List.forall_mem_cons, List.not_mem_nil, false_imp_iff, implies_true, decide_eq_false_iff_not, Nat.not_le, and_true, Nat.reducePow]
  have hshape : shape = none ↔ 1 ≤ (wordAt bs 0x20).toNat ∧ (1 ≤ halfAt bs 0x24 ∧ halfAt bs 0x24 ≤ 1024) ∧ byteAt bs 0x26 ≤ 3 ∧
      byteAt bs 0x27 ≤ 2 ∧ halfAt bs 0x28 ≤ 256 ∧ halfAt bs 0x2A ≤ 256 ∧ halfAt bs 0x2C ≤ 512 ∧ byteAt bs 0x31 ≤ 15 := by
    simp only [shape, l, parseLaunch, firstBad_eq_none, List.forall_mem_cons, List.not_mem_nil, false_imp_iff, implies_true, and_true,
      Bool.or_eq_false_iff, decide_eq_false_iff_not, Nat.not_lt, ← Nat.pos_iff_ne_zero, Nat.succ_le_iff]
  have hentry : entry = none ↔ ∀ o ∈ [0, 8], (dwordAt bs o).toNat % 4 = 0 ∧ (dwordAt bs o).toNat < 2 ^ 56 := by
    simp only [entry, l, parseLaunch, firstBad_eq_none, List.forall_mem_cons, List.not_mem_nil, false_imp_iff, implies_true, and_true, badEntry_eq_false]
  have hids : firstBad ids = none ↔ ∀ o ∈ edgeFields, EdgeNamed n (halfAt bs o) := by
    simp only [ids, firstBad_eq_none, List.forall_mem_map, edgeTest_eq_false]
  rw [ShapeOk, ← hreserved, ← hshape, ← hentry, ← hids]
  generalize firstBad ids = named
  show _ ↔ _ ∧ l.part = k ∧ s.worldHasCore k = true ∧ l.fitsEmpty = true
  cases reserved with
  | some _ => simp
  | none => cases shape with
    | some _ => simp
    | none => cases entry with
      | some _ => simp
      | none => cases named with
        | some _ => simp
        | none => by_cases hk : l.part = k <;> cases s.worldHasCore k <;> simp [hk]

/-- A record passes its checks exactly when every field is within its limits, it names its own partition, some core has
the partition's world, and one team fits on an empty core (R69 to R71). -/
theorem State.checkRecord_iff (s : State) (k : Nat) (bs : List Byte) (n : Nat) : s.checkRecord k bs (some n) none = none ↔
    ShapeOk bs n ∧ byteAt bs 0x31 = k ∧ (∃ c < 1024, s.coreSec c = s.psec k) ∧
      (parseLaunch bs).groupsOn false ≤ 128 ∧ (parseLaunch bs).groupsOn false * (8 * 2 ^ byteAt bs 0x26) * (16 * (byteAt bs 0x27 + 1)) ≤ 65536 := by
  rw [State.checkRecord_eq_none, State.worldHasCore_iff]
  refine and_congr_right fun shape => and_congr_right fun _ => and_congr_right fun _ => ?_
  obtain ⟨-, ⟨-, -, width, -, scratch, acc, hamper, -⟩, -, -⟩ := shape
  rw [Launch.fitsEmpty_iff (l := parseLaunch bs) scratch acc hamper]
  have hw : (parseLaunch bs).width = 8 * 2 ^ byteAt bs 0x26 := by
    show 8 * 2 ^ (byteAt bs 0x26 % 4) = _
    rw [Nat.mod_eq_of_lt (by omega)]
  rw [hw]
  exact Iff.rfl

theorem parseLaunch_groupsOn {bs : List Byte} (h : byteAt bs 0x26 ≤ 3) :
    let width := 8 * 2 ^ byteAt bs 0x26
    let wv := if bitAt (BitVec.ofNat 64 (halfAt bs 0x2E)) 0 then width / 2 else width
    let groups := (halfAt bs 0x24 + wv - 1) / wv
    (parseLaunch bs).groupsOn false = if bitAt (BitVec.ofNat 64 (halfAt bs 0x2E)) 6 then (groups + 1) / 2 else groups := by
  have hw : byteAt bs 0x26 % 4 = byteAt bs 0x26 := Nat.mod_eq_of_lt (by omega)
  simp only [Launch.groupsOn, Launch.groups, Launch.wv, parseLaunch, hw, Bool.false_eq_true, if_false]

end Sys2Proof.Machine
end

section
/-! PROOFS. GRAPH_BIND_COMPLETE (R33, R34, R76) and AGING_INTERVAL (R82). -/

namespace Sys2Proof.Machine

/-! ### Reading a table -/

theorem State.tableRead_schedules {s S : State} {k n : Nat} {ver : Option Word} {va : DWord} {logs : Bool} :
    (∀ bs, s.tableRead k ver va n logs = .ok bs S → s.Schedules S) ∧ (s.tableRead k ver va n logs = .bad S → s.Schedules S) := by
  unfold State.tableRead
  split
  · next hget => exact ⟨fun _ h => by cases h; exact State.schedParts_schedules hget, nofun⟩
  · next hget =>
    refine ⟨nofun, fun h => ?_⟩
    cases h
    split
    · exact (State.schedParts_schedules hget).trans (.of_logsTo (State.addLog_logsTo _ _))
    · exact State.schedParts_schedules hget
  · exact ⟨nofun, nofun⟩
  · exact ⟨nofun, fun h => by cases h; exact .of_logsTo (State.addLog_logsTo _ _)⟩
  · exact ⟨nofun, fun h => by cases h; exact .refl _⟩

/-- A table that has been read has its records, and reading it was no more than memory accesses. -/
theorem State.readTable_spec {s S : State} {k : Nat} {base : DWord} {i n : Nat} {rs : List (DWord × Option (List Byte))}
    (h : s.readTable k base i n = some (rs, S)) : s.Schedules S ∧ rs.length = n := by
  induction n generalizing s i rs with
  | zero => cases h; exact ⟨.refl _, rfl⟩
  | succ n ih =>
    have goes {s1 : State} {r0 : DWord × Option (List Byte)} (h1 : s.Schedules s1)
        (h : (s1.readTable k base (i + 1) n).map (fun r => (r0 :: r.1, r.2)) = some (rs, S)) : s.Schedules S ∧ rs.length = n + 1 := by
      obtain ⟨⟨rs', S'⟩, hr, heq⟩ := Option.map_eq_some_iff.1 h
      cases heq
      obtain ⟨hs, hn⟩ := ih hr
      exact ⟨h1.trans hs, congrArg Nat.succ hn⟩
    unfold State.readTable at h
    dsimp only at h
    split at h
    · cases h
    · next hread => exact goes (State.tableRead_schedules.1 _ hread) h
    · next hread => exact goes (State.tableRead_schedules.2 hread) h

/-! ### GRAPH_BIND_COMPLETE (R33, R34, R76) -/

/-- A read record of the edge table as an edge. -/
def edgesOf (es : List (DWord × Option (List Byte))) : List Edge := es.map fun x => parseEdge x.1 (x.2.getD [])

/-- The numbers of the source edges among the first n. -/
def sourcesOf (edges : List Edge) (n : Nat) : List Nat := (List.range n).filter fun e => ((edges[e]?).map (·.source)).getD false

/-- What the checks of a graph's tables come to: none while one waits, and else the first failure or none. -/
def State.bindVerdict (s : State) (k ne : Nat) (ns es : List (DWord × Option (List Byte))) : Option (Option (Nat × Nat × DWord)) :=
  match s.checkNodes k ne (sourcesOf (edgesOf es) ne) ([], []) 0 ns with
  | some x => some (some x)
  | none => s.checkEdges k 0 es

theorem sourcesOf_eq (edges : List Edge) (n : Nat) :
    ((List.range n).filter fun e => match edges[e]? with | some x => x.source | none => false) = sourcesOf edges n := by
  refine congrArg (fun f => List.filter f _) (funext fun e => ?_)
  cases edges[e]? <;> rfl

theorem State.bindComplete_idle {s : State} {k : Nat} (h : (s.part k).pendingBind = none) : s.bindComplete k = s := by
  rw [State.bindComplete, h]

section
variable {s s1 s2 : State} {k : Nat} {nb eb cnt : DWord} {ns es : List (DWord × Option (List Byte))}

theorem State.bindComplete_unready (hp : (s.part k).pendingBind = some (nb, eb, cnt)) (hr : s.ready 41 = false) :
    s.bindComplete k = s := by
  rw [State.bindComplete, hp]
  exact if_pos (by rw [hr]; rfl)

/-- A bind whose tables have been read goes by their verdict. -/
theorem State.bindComplete_read (hp : (s.part k).pendingBind = some (nb, eb, cnt)) (hr : s.ready 41 = true)
    (h1 : s.readTable k nb 0 (fieldOf cnt 0 16) = some (ns, s1)) (h2 : s1.readTable k eb 0 (fieldOf cnt 32 13) = some (es, s2)) :
    (s2.bindVerdict k (fieldOf cnt 32 13) ns es = none → s.bindComplete k = s) ∧
    (∀ i status d, s2.bindVerdict k (fieldOf cnt 32 13) ns es = some (some (i, status, d)) → s.bindComplete k = s2.bindFails k i status d) ∧
    (s2.bindVerdict k (fieldOf cnt 32 13) ns es = some none → sourcesOf (edgesOf es) (fieldOf cnt 32 13) = [] →
      (s2.fillLines k ++ ((edgesOf es).filter (·.source)).map (·.fillLine)).eraseDups.length ≤ 1024 →
      s.bindComplete k = s2.bindDone k (ns.map fun x => parseLaunch (x.2.getD [])) ((edgesOf es).map s2.takeEdge)) := by
  unfold State.bindComplete State.bindVerdict
  simp only [hp, hr, h1, h2, Bool.not_true, Bool.false_eq_true, if_false, show (es.map fun x => parseEdge x.1 (x.2.getD [])) = edgesOf es from rfl]
  generalize hsources : List.filter (α := Nat) _ (List.range (fieldOf cnt 32 13)) = sources
  obtain rfl : sources = sourcesOf (edgesOf es) (fieldOf cnt 32 13) := hsources.symm.trans (sourcesOf_eq _ _)
  cases s2.checkNodes k (fieldOf cnt 32 13) (sourcesOf (edgesOf es) (fieldOf cnt 32 13)) ([], []) 0 ns with
  | some x => exact ⟨nofun, fun i status d h => by cases h; rfl, nofun⟩
  | none =>
    dsimp only
    cases s2.checkEdges k 0 es with
    | none => exact ⟨fun _ => rfl, nofun, nofun⟩
    | some x =>
      cases x with
      | some x => exact ⟨nofun, fun i status d h => by cases h; rfl, nofun⟩
      | none =>
        refine ⟨nofun, nofun, fun _ hs hl => ?_⟩
        dsimp only
        rw [if_neg (by omega), if_pos (by rw [hs]; rfl)]
end

theorem State.bindFails_spec (s : State) (k i status : Nat) (d : DWord) :
    (s.bindFails k i status d).reg (pidx k 9) = BitVec.ofNat 64 (2 ^ 32 * i + status) ∧ ((s.bindFails k i status d).part k).pendingBind = none ∧
      ((s.bindFails k i status d).part k).graph = (s.part k).graph ∧ (s.bindFails k i status d).teams = s.teams := by
  unfold State.bindFails
  extract_lets s1 p1 s2
  have logged := (s2.addLog_logsTo (statusEntry status k i 0 d)).trans (State.raise_logsTo _ 2)
  have part : s2.part k = { p1 with pendingBind := none, heldBind := none } := (State.setPart_part _ _ _ _).trans (if_pos rfl)
  refine ⟨?_, ?_, ?_, logged.teams⟩
  · exact (logged.reg (by unfold pidx; omega)).trans ((s.setReg_reg _ _ _).trans (if_pos rfl))
  · rw [State.part_congr logged.parts, part]
  · rw [State.part_congr logged.parts, part]; rfl

theorem foldl_of_nil {α β : Type} {f : β → α → β} {l : List α} {b : β} (h : l = []) : l.foldl f b = b := by rw [h]; rfl

/-- A graph without source edges stands as it was read. -/
theorem State.bindDone_spec (s : State) (k : Nat) (nodes : List Launch) {edges : List Edge} (hs : ∀ x ∈ edges, x.source = false)
    (hh : (s.part k).heldBind = none) : (s.bindDone k nodes edges).reg (pidx k 9) = 0x80000000 ∧
      bitAt ((s.bindDone k nodes edges).reg 0x0E9) 2 = true ∧ ((s.bindDone k nodes edges).part k).pendingBind = none ∧
      ∃ g : Graph, ((s.bindDone k nodes edges).part k).graph = some g ∧ g.halted = false ∧ g.edges = edges ∧ g.nodes = nodes := by
  have none1 : (List.range edges.length).filter (fun e => match edges[e]? with | some x => x.source | none => false) = [] := by
    refine List.filter_eq_nil_iff.2 fun e _ => ?_
    split
    · next x hx => rw [hs x (List.mem_of_getElem? hx)]; exact Bool.false_ne_true
    · exact Bool.false_ne_true
  have none2 : edges.filter (fun x => x.source && x.beyond) = [] :=
    List.filter_eq_nil_iff.2 fun x hx => by rw [hs x hx]; exact Bool.false_ne_true
  unfold State.bindDone
  extract_lets p g s1 s2 s3
  have same2 : s2 = s1.setReg (pidx k 9) 0x80000000 := foldl_of_nil none1
  have same3 : s3 = s2.raise 2 := congrArg (fun S : State => S.raise 2) (foldl_of_nil none2)
  rw [if_neg (by simp only [p, hh]; exact nofun), same3]
  have logged := State.raise_logsTo s2 2
  have part : (s2.raise 2).part k = { p with graph := some (g.refresh s.clk), pendingBind := none, heldBind := none, images := [] } := by
    rw [State.part_congr logged.parts, same2]
    exact (State.part_congr (s := s1) rfl k).trans ((State.setPart_part _ _ _ _).trans (if_pos rfl))
  refine ⟨?_, State.raise_pends _ (by decide), ?_, g.refresh s.clk, ?_, rfl, rfl, rfl⟩
  · rw [logged.reg (by unfold pidx; omega), same2]
    exact (State.setReg_reg _ _ _ _).trans (if_pos rfl)
  · rw [part]
  · rw [part]

/-! ### AGING_INTERVAL (R82) -/

theorem State.age_children (s : State) (k : Nat) : ((s.age k).part k).children =
    (s.part k).children.map fun c => { c with prio := effective c.base (s.clk - c.since) (s.rfield 0x00C 0 32) } :=
  congrArg Part.children ((State.setPart_part _ _ _ _).trans (if_pos rfl))

/-- A graph whose ready nodes have their effective priorities (R82). -/
def State.agedGraph (s : State) (g : Graph) : Graph :=
  { g with ready := g.nodes.zipIdx.map fun n =>
      let r := g.ready.getD n.2 {}
      if r.ready then { r with prio := effective n.1.prio (s.clk - r.since) (s.rfield 0x00C 0 32) } else r }

theorem State.age_graph_eq (s : State) (k : Nat) : ((s.age k).part k).graph = (s.part k).graph.map s.agedGraph :=
  congrArg Part.graph ((State.setPart_part _ _ _ _).trans (if_pos rfl))

theorem State.age_images (s : State) (k : Nat) : ((s.age k).part k).images = (s.part k).images := by
  rw [State.age, State.setPart_part, if_pos rfl]

/-- Of a bound graph aging changes the effective priorities of the ready nodes. -/
theorem State.age_graph {s : State} {k : Nat} {g : Graph} (h : (s.part k).graph = some g) :
    ∃ g' : Graph, ((s.age k).part k).graph = some g' ∧ g'.edges = g.edges ∧ ∀ i l, g.nodes[i]? = some l →
      ∃ r : Ready, g'.ready[i]? = some r ∧ ((g.ready.getD i {}).ready = true →
        r.prio = effective l.prio (s.clk - (g.ready.getD i {}).since) (s.rfield 0x00C 0 32)) := by
  refine ⟨_, (s.age_graph_eq k).trans (congrArg (Option.map s.agedGraph) h), rfl, fun i l hl => ?_⟩
  simp only [State.agedGraph, List.getElem?_map, List.getElem?_zipIdx, hl, Option.map_some, Nat.zero_add]
  exact ⟨_, rfl, fun hr => by rw [if_pos hr]⟩

end Sys2Proof.Machine
end

section
/-! PROOFS. The choice of a candidate (R83) and of a core (R86). -/

namespace Sys2Proof.Machine

/-! ### The first least element of a list -/

/-- The first of a list's elements that no other one comes before. -/
def firstLeast {α : Type} (lt : α → α → Bool) (l : List α) : Option α :=
  l.foldl (fun (m : Option α) c => match m with | some b => if lt c b then some c else some b | none => some c) none

/-- A comparison that is a strict weak order: of two elements that it does not tell apart, each stands to a third as the other. -/
structure WeakOrder {α : Type} (lt : α → α → Bool) : Prop where
  irrefl : ∀ a, lt a a = false
  trans : ∀ {a b c}, lt a b = true → lt b c = true → lt a c = true
  cotrans : ∀ {a b c}, lt a b = true → lt c b = false → lt a c = true

/-- An element of a list that comes before the ones ahead of it, and that none behind it comes before. -/
structure LeastAt {α : Type} (lt : α → α → Bool) (c : α) (before after : List α) : Prop where
  before : ∀ d ∈ before, lt c d = true
  after : ∀ d ∈ after, lt d c = false

theorem firstLeast_go {α : Type} {lt : α → α → Bool} (order : WeakOrder lt) (l seen mid : List α) (b : α) (least : LeastAt lt b seen mid) :
    ∃ l1 c l2, l.foldl (fun (m : Option α) c => match m with | some b => if lt c b then some c else some b | none => some c) (some b) = some c ∧
      seen ++ b :: mid ++ l = l1 ++ c :: l2 ∧ LeastAt lt c l1 l2 := by
  induction l generalizing seen mid b with
  | nil => exact ⟨seen, b, mid, rfl, List.append_nil _, least⟩
  | cons d l ih =>
    by_cases hd : lt d b = true
    · have moved : LeastAt lt d (seen ++ b :: mid) [] := by
        refine ⟨fun x hx => ?_, nofun⟩
        rcases List.mem_append.1 hx with hx | hx
        · exact order.trans hd (least.before x hx)
        · rcases List.mem_cons.1 hx with rfl | hx
          · exact hd
          · exact order.cotrans hd (least.after x hx)
      obtain ⟨l1, c, l2, hf, hl, hc⟩ := ih _ _ _ moved
      refine ⟨l1, c, l2, ?_, by simpa using hl, hc⟩
      rw [List.foldl_cons]
      simpa only [if_pos hd] using hf
    · have stays : LeastAt lt b seen (mid ++ [d]) := ⟨least.before, fun x hx => by
        rcases List.mem_append.1 hx with hx | hx
        · exact least.after x hx
        · rw [List.mem_singleton.1 hx]; exact Bool.not_eq_true _ ▸ hd⟩
      obtain ⟨l1, c, l2, hf, hl, hc⟩ := ih _ _ _ stays
      refine ⟨l1, c, l2, ?_, by simpa using hl, hc⟩
      rw [List.foldl_cons]
      simpa only [if_neg hd] using hf

theorem firstLeast_spec {α : Type} {lt : α → α → Bool} (order : WeakOrder lt) {l : List α} {c : α} (h : firstLeast lt l = some c) :
    ∃ l1 l2, l = l1 ++ c :: l2 ∧ LeastAt lt c l1 l2 := by
  cases l with
  | nil => cases h
  | cons b l =>
    obtain ⟨l1, c', l2, hf, hl, hc⟩ := firstLeast_go order l [] [] b ⟨nofun, nofun⟩
    obtain rfl : c' = c := Option.some.inj (hf.symm.trans h)
    exact ⟨l1, l2, hl, hc⟩

/-! ### The candidate for dispatch (R83) -/

theorem Cand.before_iff (a b : Cand) : a.before b = true ↔
    b.prio < a.prio ∨ (a.prio = b.prio ∧ (a.since < b.since ∨ (a.since = b.since ∧ a.index < b.index))) := by
  simp only [Cand.before, Bool.or_eq_true, Bool.and_eq_true, decide_eq_true_eq]

theorem Cand.before_weakOrder : WeakOrder Cand.before where
  irrefl a := Bool.eq_false_iff.2 fun h => by rw [Cand.before_iff] at h; omega
  trans h h' := by rw [Cand.before_iff] at *; omega
  cotrans h h' := by
    rw [← Bool.not_eq_true, Cand.before_iff] at h'
    rw [Cand.before_iff] at *
    omega

theorem State.choose_eq (s : State) (k : Nat) : s.choose k = firstLeast Cand.before (s.cands k) := by
  unfold State.choose firstLeast
  refine congrArg (fun g => List.foldl g none _) (funext fun m => funext fun c => ?_)
  cases m <;> rfl

/-- The chosen candidate has the highest priority, then the longest wait, then the lowest index (R83). -/
theorem State.choose_spec {s : State} {k : Nat} {c : Cand} (h : s.choose k = some c) : c ∈ s.cands k ∧
    ∀ d ∈ s.cands k, d.prio ≤ c.prio ∧ (d.prio = c.prio → c.since ≤ d.since ∧ (d.since = c.since → c.index ≤ d.index)) := by
  obtain ⟨l1, l2, hl, hc⟩ := firstLeast_spec Cand.before_weakOrder (s.choose_eq k ▸ h)
  rw [hl]
  refine ⟨List.mem_append.2 (.inr (List.mem_cons_self ..)), fun d hd => ?_⟩
  have least : d.before c = false := by
    rcases List.mem_append.1 hd with hd | hd
    · refine Bool.eq_false_iff.2 fun h' => ?_
      exact Bool.false_ne_true ((Cand.before_weakOrder.irrefl d).symm.trans (Cand.before_weakOrder.trans h' (hc.before d hd)))
    · rcases List.mem_cons.1 hd with rfl | hd
      · exact Cand.before_weakOrder.irrefl d
      · exact hc.after d hd
  rw [← Bool.not_eq_true, Cand.before_iff] at least
  omega

/-! ### The core for a team (R86) -/

/-- The cores, or the first cores of the pairs, that a launch may name. -/
def Launch.coreList (l : Launch) : List Nat := if l.paircore then (List.range 512).map (2 * ·) else List.range 1024

theorem Launch.mem_coreList (l : Launch) (c : Nat) : c ∈ l.coreList ↔ if l.paircore then c < 1024 ∧ c % 2 = 0 else c < 1024 := by
  unfold Launch.coreList
  split
  · simp only [List.mem_map, List.mem_range]
    exact ⟨fun ⟨i, hi, h⟩ => by omega, fun h => ⟨c / 2, by omega, by omega⟩⟩
  · exact List.mem_range

theorem Launch.coreList_ascends (l : Launch) : l.coreList.Pairwise (· < ·) := by
  unfold Launch.coreList
  split
  · exact (List.pairwise_lt_range (n := 512)).map _ fun a b h => by omega
  · exact List.pairwise_lt_range

/-- The resident groups of a core, or of the pair that starts at it (R86). -/
def State.loadAt (s : State) (l : Launch) (c : Nat) : Nat := s.groupsAt c + (if l.paircore then s.groupsAt (c + 1) else 0)

theorem less_weakOrder (f : Nat → Nat) : WeakOrder fun a b => decide (f a < f b) where
  irrefl a := decide_eq_false (Nat.lt_irrefl _)
  trans h h' := by rw [decide_eq_true_eq] at *; omega
  cotrans h h' := by rw [decide_eq_true_eq] at *; rw [decide_eq_false_iff_not] at h'; omega

theorem State.bestCore_eq (s : State) (k : Nat) (l : Launch) (f : Nat → Bool) : s.bestCore k l f =
    firstLeast (fun a b => decide (s.loadAt l a < s.loadAt l b)) (l.coreList.filter fun c => f c && s.placeable k l c) := by
  unfold State.bestCore firstLeast
  refine congrArg (fun g => List.foldl g none _) (funext fun m => funext fun c => ?_)
  cases m with
  | none => rfl
  | some b => simp only [decide_eq_true_eq]; rfl

/-- The core for a team is the least loaded of the placeable ones, and of those the one with the lowest number (R86). -/
theorem State.bestCore_spec {s : State} {k : Nat} {l : Launch} {f : Nat → Bool} {c : Nat} (h : s.bestCore k l f = some c) :
    f c = true ∧ s.placeable k l c = true ∧ ∀ d ∈ l.coreList, f d = true → s.placeable k l d = true →
      s.loadAt l c < s.loadAt l d ∨ (s.loadAt l c = s.loadAt l d ∧ c ≤ d) := by
  rw [State.bestCore_eq] at h
  obtain ⟨l1, l2, hl, hc⟩ := firstLeast_spec (less_weakOrder _) h
  have mem : ∀ d, d ∈ l1 ++ c :: l2 ↔ d ∈ l.coreList ∧ f d = true ∧ s.placeable k l d = true := fun d => by
    rw [← hl, List.mem_filter, Bool.and_eq_true]
  obtain ⟨-, hf, hp⟩ := (mem c).1 (List.mem_append.2 (.inr (List.mem_cons_self ..)))
  refine ⟨hf, hp, fun d hd hfd hpd => ?_⟩
  have ascends : (l1 ++ c :: l2).Pairwise (· < ·) := hl ▸ l.coreList_ascends.filter _
  rcases List.mem_append.1 ((mem d).2 ⟨hd, hfd, hpd⟩) with hd | hd
  · exact .inl (of_decide_eq_true (hc.before d hd))
  · rcases List.mem_cons.1 hd with rfl | hd
    · exact .inr ⟨rfl, Nat.le_refl _⟩
    · have later : c < d := (List.pairwise_cons.1 (List.pairwise_append.1 ascends).2.1).1 d hd
      have load := of_decide_eq_false (hc.after d hd)
      omega

end Sys2Proof.Machine
end

section
/-! PROOFS. TEAM_PLACE and TEAM_RELAUNCH (R72, R85, R86, R116, R117, R123). -/

namespace Sys2Proof.Machine

/-! ### A new team -/

/-- The groups of a team take the same issue slots whatever an instance holds (R130). -/
theorem State.putInst_slotGroups (s : State) (i : Inst) (w : Nat) (placed gs : List Group) :
    (s.putInst i).slotGroups w placed gs = s.slotGroups w placed gs := by
  induction gs generalizing placed with
  | nil => rfl
  | cons g gs ih => exact ih _

theorem State.putInst_slotted (s : State) (i : Inst) (t : Team) : (s.putInst i).slotted t = s.slotted t := by
  rw [State.slotted, State.slotted, State.putInst_slotGroups]

theorem sget_ssetList_nil {α : Type} [DecidableEq α] (d : α) (vs : List α) (j : Nat) : sget d (ssetList d [] 0 vs) j = vs.getD j d := by
  rcases Nat.lt_or_ge j vs.length with h | h
  · have read := sget_ssetList_in d vs [] 0 j h
    rw [Nat.zero_add] at read
    rw [read, List.getD_eq_getElem _ _ h]
  · rw [sget_ssetList_out d vs [] 0 j (.inr (by omega)), List.getD_eq_default _ _ h]
    rfl

theorem Launch.lanesOf_spec (l : Launch) (n : Nat) : (l.lanesOf n).length = l.wv ∧
    ∀ j < l.wv, (l.lanesOf n)[j]? = some (if n * l.wv + j < l.fpt then some (n * l.wv + j) else none) := by
  refine ⟨by simp [Launch.lanesOf], fun j hj => ?_⟩
  simp [Launch.lanesOf, List.getElem?_map, List.getElem?_range hj]

/-- Group n of a team that is placed anew, with the issue slot that it finds behind the groups before it (R123, R127, R130). -/
theorem State.slotted_newTeam_groups (s : State) (i : Inst) (index c slot clk : Nat) :
    (s.slotted (newTeam i index c slot clk)).groups.length = i.launch.groups ∧
    ∀ n g, (s.slotted (newTeam i index c slot clk)).groups[n]? = some g →
      g = { newGroup i.launch c clk n (newTeam i index c slot clk).sargs with
              islot := s.issueSlot g.core ((s.slotted (newTeam i index c slot clk)).groups.take n) i.launch.width
              positions := none, seeks := .none } := by
  obtain ⟨length, group⟩ := slotGroups_spec s i.launch.width [] (newTeam i index c slot clk).groups
  have all : (newTeam i index c slot clk).groups.length = i.launch.groups := (List.length_map _).trans List.length_range
  rw [List.length_nil, Nat.zero_add, all] at length
  refine ⟨length, fun n g hg => ?_⟩
  have hn : n < i.launch.groups := length ▸ (List.getElem?_eq_some_iff.1 hg).1
  have new : (newTeam i index c slot clk).groups[n]? = some (newGroup i.launch c clk n (newTeam i index c slot clk).sargs) := by
    show ((List.range i.launch.groups).map _)[n]? = _
    rw [List.getElem?_map, List.getElem?_range hn]
    rfl
  have placed := group n _ new
  rw [List.length_nil, Nat.zero_add] at placed
  obtain rfl : _ = g := Option.some.inj (placed.symm.trans hg)
  rfl

/-- The start values of a group of a new team (R72). -/
theorem newTeam_sreg (i : Inst) (index c slot clk n : Nat) :
    let m := (newGroup i.launch c clk n (newTeam i index c slot clk).sargs).sregs
    sget 0 m 0 = BitVec.ofNat 64 index ∧ sget 0 m 1 = BitVec.ofNat 64 i.launch.teams ∧ sget 0 m 2 = BitVec.ofNat 64 i.launch.fpt ∧
      ∀ j, 3 ≤ j → sget 0 m j = i.args.getD (j - 3) 0 := by
  have read : ∀ j, sget 0 (newGroup i.launch c clk n (newTeam i index c slot clk).sargs).sregs j =
      (BitVec.ofNat 64 index :: BitVec.ofNat 64 i.launch.teams :: BitVec.ofNat 64 i.launch.fpt :: i.args).getD j 0 :=
    sget_ssetList_nil _ _
  refine ⟨read 0, read 1, read 2, fun j hj => ?_⟩
  obtain ⟨j, rfl⟩ := Nat.exists_eq_add_of_le' hj
  exact read (j + 3)

/-- What a group of a team that is placed anew starts with (R72, R123, R127, R130). -/
theorem State.slotted_newTeam_group {s : State} {i : Inst} {index c slot clk n : Nat} {g : Group}
    (hg : (s.slotted (newTeam i index c slot clk)).groups[n]? = some g) :
    g.num = n ∧ g.pc = i.launch.entry ∧ g.core = (if i.launch.paircore then c + n % 2 else c) ∧
      g.islot = s.issueSlot g.core ((s.slotted (newTeam i index c slot clk)).groups.take n) i.launch.width ∧
      g.lanes.length = i.launch.wv ∧
      (∀ j < i.launch.wv, g.lanes[j]? = some (if n * i.launch.wv + j < i.launch.fpt then some (n * i.launch.wv + j) else none)) ∧
      g.gpred = 1 ∧ g.inHandler = false ∧ sget 0 g.sregs 0 = BitVec.ofNat 64 index ∧ sget 0 g.sregs 1 = BitVec.ofNat 64 i.launch.teams ∧
      sget 0 g.sregs 2 = BitVec.ofNat 64 i.launch.fpt ∧ ∀ j, 3 ≤ j → j < 62 → sget 0 g.sregs j = i.args.getD (j - 3) 0 := by
  have new := (s.slotted_newTeam_groups i index c slot clk).2 n g hg
  have lanes : g.lanes = i.launch.lanesOf n := congrArg Group.lanes new
  have sregs : g.sregs = (newGroup i.launch c clk n (newTeam i index c slot clk).sargs).sregs := (congrArg Group.sregs new :)
  obtain ⟨count, lane⟩ := i.launch.lanesOf_spec n
  obtain ⟨s0, s1, s2, args⟩ := newTeam_sreg i index c slot clk n
  rw [lanes, sregs]
  exact ⟨congrArg Group.num new, congrArg Group.pc new, congrArg Group.core new, congrArg Group.islot new, count, lane,
    congrArg Group.gpred new, congrArg Group.inHandler new, s0, s1, s2, fun j hj _ => args j hj⟩

/-! ### TEAM_PLACE (R85, R86) -/

/-- Whether partition k may have teams placed (R19, R96). -/
theorem State.placing_iff (s : State) (k : Nat) : s.placing k = true ↔
    fieldOf (s.reg (pidx k 0)) 27 3 = 1 ∧ bitAt (s.reg (pidx k 0)) 31 = true ∧ s.ready 41 = true := by
  simp only [State.placing, Bool.and_eq_true, decide_eq_true_eq, and_assoc]
  exact Iff.rfl

theorem teamPlace_waits {s : State} (h : s.placing s.request.part = false) : exec .teamPlace s = .next s ∧ exec .teamRelaunch s = .next s :=
  ⟨congrArg Host.Outcome.next (if_neg (by rw [h]; exact Bool.false_ne_true)),
    congrArg Host.Outcome.next (if_neg (by rw [h]; exact Bool.false_ne_true))⟩

theorem State.seat_spec (s : State) (t : Team) : (s.seat t).insts = s.insts ∧ (s.seat t).relaunchLog = s.relaunchLog ∧
    (s.seat t).teams = s.teams ++ [s.slotted t] := ⟨rfl, rfl, rfl⟩

section
variable {s : State} {k : Nat} {i : Inst}

theorem State.placeNext_first (hr : ∀ x ∈ s.insts, x.part = k → x.relaunch = [])
    (hi : s.insts.find? (fun x => decide (x.part = k) && decide (x.placed < x.launch.teams)) = some i) :
    (s.bestCore k i.launch (fun _ => true) = none → s.placeNext k = s) ∧
    (∀ c slot, s.bestCore k i.launch (fun _ => true) = some c → s.slotFor i.launch c = some slot →
      s.placeNext k = (s.putInst { i with placed := i.placed + 1 }).seat (newTeam i i.placed c slot s.clk)) := by
  have first : (s.insts.any fun x => decide (x.part = k) && !x.relaunch.isEmpty) = false := by
    refine List.any_eq_false.2 fun x hx => ?_
    by_cases hk : x.part = k
    · simp [hr x hx hk]
    · simp [hk]
  unfold State.placeNext
  rw [first, hi]
  refine ⟨fun hb => ?_, fun c slot hb hs => ?_⟩
  · simp only [hb, Bool.false_eq_true, if_false, Option.bind_none]
  · simp only [hb, hs, Bool.false_eq_true, if_false, Option.bind_some, Option.map_some]

/-! ### TEAM_RELAUNCH (R116, R117) -/

/-- The core of a relaunched team: one that the team has not used in this instance, or else the one it last used (R117). -/
def State.RelaunchCore (s : State) (k : Nat) (t : Team) (c : Nat) : Prop :=
  s.bestCore k t.launch (fun c => !t.cores.contains c) = some c ∨ (s.bestCore k t.launch (fun c => !t.cores.contains c) = none ∧
    c = t.cores.getLastD 0 ∧ s.placeable k t.launch (t.cores.getLastD 0) = true)

/-- A relaunched team as it stands on its new core (R116). -/
def relaunchedTeam (i : Inst) (t : Team) (c slot clk : Nat) : Team :=
  { newTeam i t.index c slot clk with relaunches := t.relaunches, cores := t.cores ++ [c], ranges := t.ranges }

/-- Whether an entry of the relaunch log is of a team of an instance (R117). -/
def relaunchEntryOf (i : Inst) (t : Team) (e : Nat × Nat × LogEntry) : Bool := decide (e.1 = i.id) && decide (e.2.1 = t.index)

/-- The state in which a team of an instance waits for its relaunch no longer, and its trap is yet to be logged (R117). -/
def State.unwaited (s : State) (i : Inst) (t : Team) (rest : List Team) : State :=
  { s.putInst { i with relaunch := rest } with relaunchLog := s.relaunchLog.filter fun e => !relaunchEntryOf i t e }

/-- The state in which a relaunched team of an instance takes its core: its trap is in the log, with that core (R117). -/
def State.relaunches (s : State) (i : Inst) (t : Team) (rest : List Team) (c : Nat) : State :=
  (s.relaunchLog.filter (relaunchEntryOf i t)).foldl (fun s e => s.addLog { e.2.2 with detail := setField e.2.2.detail 0 32 c })
    (s.unwaited i t rest)

theorem State.relaunches_schedules (s : State) (i : Inst) (t : Team) (rest : List Team) (c : Nat) :
    (s.unwaited i t rest).Schedules (s.relaunches i t rest c) :=
  .foldl (fun s (e : Nat × Nat × LogEntry) => .of_logsTo (s.addLog_logsTo { e.2.2 with detail := setField e.2.2.detail 0 32 c })) _ _

theorem State.relaunches_spec (s : State) (i : Inst) (t : Team) (rest : List Team) (c : Nat) :
    (s.relaunches i t rest c).insts = s.insts.map (fun x => if x.id = i.id then { i with relaunch := rest } else x) ∧
      (s.relaunches i t rest c).teams = s.teams ∧ ∀ x ∈ (s.relaunches i t rest c).relaunchLog, ¬ (x.1 = i.id ∧ x.2.1 = t.index) := by
  have logged := s.relaunches_schedules i t rest c
  have waiting : (s.relaunches i t rest c).relaunchLog = s.relaunchLog.filter fun e => !relaunchEntryOf i t e :=
    (congrArg State.relaunchLog logged.apart :)
  refine ⟨logged.insts, logged.teams, fun x hx => ?_⟩
  rw [waiting, List.mem_filter] at hx
  simpa [relaunchEntryOf, imp_iff_not_or] using hx.2

theorem State.placeRelaunch_eq {t : Team} {rest : List Team} {c slot : Nat}
    (hi : s.insts.find? (fun x => decide (x.part = k) && !x.relaunch.isEmpty) = some i) (ht : i.relaunch = t :: rest)
    (hc : s.RelaunchCore k t c) (hs : s.slotFor t.launch c = some slot) :
    s.placeRelaunch k = (s.relaunches i t rest c).seat (relaunchedTeam i t c slot s.clk) := by
  unfold State.placeRelaunch
  rcases hc with hb | ⟨hb, rfl, hp⟩
  · simp only [hi, ht, hb, hs, Option.bind_some, Option.map_some]
    rfl
  · simp only [hi, ht, hb, hp, hs, if_true, Option.bind_some, Option.map_some]
    rfl

/-- Both events that may place a relaunched team place it. -/
theorem exec_placesRelaunch (hp : s.placing s.request.part = true)
    (hi : s.insts.find? (fun x => decide (x.part = s.request.part) && !x.relaunch.isEmpty) = some i) :
    ∀ e ∈ [Instr.teamRelaunch, .teamPlace], exec e s = .next (s.placeRelaunch s.request.part) := by
  have some_relaunch : (s.insts.any fun x => decide (x.part = s.request.part) && !x.relaunch.isEmpty) = true :=
    List.any_eq_true.2 ⟨i, List.mem_of_find?_eq_some hi, by simpa using List.find?_some hi⟩
  have next : s.placeNext s.request.part = s.placeRelaunch s.request.part := if_pos some_relaunch
  simp only [List.forall_mem_cons, List.not_mem_nil, false_imp_iff, implies_true, and_true]
  exact ⟨congrArg Host.Outcome.next (if_pos hp), congrArg Host.Outcome.next ((if_pos hp).trans next)⟩

end

end Sys2Proof.Machine
end

section
/-! PROOFS. What the dispatch of a node takes (R78, R82). -/

namespace Sys2Proof.Machine

/-! ### Edges beside the one that moves -/

theorem State.setEdge_edge_ne (s : State) {k e f : Nat} (x : Edge) (h : f ≠ e) : (s.setEdge k f x).edge? k e = s.edge? k e := by
  unfold State.edge?
  rw [State.setEdge, State.setPart_part, if_pos rfl]
  cases (s.part k).graph with
  | none => rfl
  | some g => exact List.getElem?_set_ne h

theorem State.writeBack_edge_ne (s : State) {k e f : Nat} (h : f ≠ e) : (s.writeBack k f).edge? k e = s.edge? k e := by
  unfold State.writeBack
  split
  · rfl
  · next x _ =>
    have put := State.edge?_parts (s.schedPut_parts k none (x.desc + 0x10) x.counters).1 k e
    dsimp only
    split
    · exact (State.setEdge_edge_ne _ _ h).trans put
    · exact s.setEdge_edge_ne _ h
    · split
      · exact s.setEdge_edge_ne _ h
      · exact (State.edge?_parts (State.addLog_logsTo _ _).parts k e).trans (s.setEdge_edge_ne _ h)

theorem State.restartWait_edge (s : State) (k i : Nat) (l : Launch) (e : Nat) : (s.restartWait k i l).edge? k e = s.edge? k e := by
  unfold State.edge?
  rw [State.restartWait, State.setPart_part, if_pos rfl]
  cases (s.part k).graph <;> rfl

theorem State.age_edge (s : State) (k e : Nat) : (s.age k).edge? k e = s.edge? k e := by
  unfold State.edge?
  rw [State.age_graph_eq]
  cases (s.part k).graph <;> rfl

/-! ### Grants (R78) -/

theorem State.grant_schedules (s : State) (k e : Nat) (output : Bool) : s.Schedules (s.grant k e output).1 := by
  unfold State.grant
  split
  · exact .refl s
  · split_ifs
    · exact .refl s
    · exact (s.setEdge_schedules _ _ _).trans (State.writeBack_schedules _ _ _)
    · exact (s.setEdge_schedules _ _ _).trans (State.writeBack_schedules _ _ _)

theorem State.grant_edge_ne (s : State) {k e f : Nat} (output : Bool) (h : f ≠ e) : (s.grant k f output).1.edge? k e = s.edge? k e := by
  have moved : ∀ x, ((s.setEdge k f x).writeBack k f).edge? k e = s.edge? k e := fun x =>
    (State.writeBack_edge_ne _ h).trans (s.setEdge_edge_ne x h)
  unfold State.grant
  split
  · rfl
  · split_ifs
    · rfl
    · exact moved _
    · exact moved _

/-- A grant on an input edge takes its slots at HEAD (R78). -/
theorem State.grant_input {s : State} {k e : Nat} {y : Edge} (hy : s.edge? k e = some y) (hn : y.needFill ≠ 0) :
    (s.grant k e false).2 = [{ edge := e, first := y.head.toNat, count := y.needFill, output := false }] ∧
      ∃ z, (s.grant k e false).1.edge? k e = some z ∧ z.head = y.head + BitVec.ofNat 64 y.needFill ∧
        z.fill = y.fill - y.needFill ∧ z.free = y.free := by
  have flows : y.streaming = false := by simp [Edge.streaming, hn]
  obtain ⟨-, failed, due, hz⟩ := State.writeBack_edge
    (State.setEdge_edge hy { y with head := y.head + BitVec.ofNat 64 y.needFill, fill := y.fill - y.needFill })
  unfold State.grant
  simp only [hy, flows, Bool.false_eq_true, if_false]
  exact ⟨trivial, _, hz, rfl, rfl, rfl⟩

/-- One after another an instance's grants on edges. -/
def grantList (k : Nat) (l : List (Nat × Bool)) (r : State × List Grant) : State × List Grant :=
  l.foldl (fun (r : State × List Grant) x =>
    let q := r.1.grant k x.1 x.2
    (q.1, r.2 ++ q.2)) r

/-- The edges that a launch names, and whether as outputs. -/
def Launch.named (l : Launch) : List (Nat × Bool) :=
  ((l.ins.map fun e => (e, false)) ++ l.outs.map fun e => (e, true)).filter fun x => decide (x.1 ≠ 0xFFFF)

theorem State.grantAll_eq (s : State) (k : Nat) (l : Launch) : s.grantAll k l = grantList k l.named (s, []) := rfl

theorem grantList_append (k : Nat) (l l' : List (Nat × Bool)) (r : State × List Grant) :
    grantList k (l ++ l') r = grantList k l' (grantList k l r) := List.foldl_append

theorem grantList_schedules (k : Nat) (l : List (Nat × Bool)) (r : State × List Grant) : r.1.Schedules (grantList k l r).1 := by
  induction l generalizing r with
  | nil => exact .refl _
  | cons x l ih => exact (r.1.grant_schedules k x.1 x.2).trans (ih ((r.1.grant k x.1 x.2).1, r.2 ++ (r.1.grant k x.1 x.2).2))

/-- Grants on other edges leave an edge and the grants before them. -/
theorem grantList_beside {k e : Nat} {l : List (Nat × Bool)} (h : ∀ x ∈ l, x.1 ≠ e) (r : State × List Grant) :
    (grantList k l r).1.edge? k e = r.1.edge? k e ∧ ∀ g ∈ r.2, g ∈ (grantList k l r).2 := by
  induction l generalizing r with
  | nil => exact ⟨rfl, fun _ hg => hg⟩
  | cons x l ih =>
    obtain ⟨hx, hl⟩ := List.forall_mem_cons.1 h
    obtain ⟨edge, grants⟩ := ih hl ((r.1.grant k x.1 x.2).1, r.2 ++ (r.1.grant k x.1 x.2).2)
    exact ⟨edge.trans (r.1.grant_edge_ne x.2 hx), fun g hg => grants g (List.mem_append_left _ hg)⟩

/-- An edge that a launch names once, as an input, stands between edges that are others. -/
theorem Launch.named_once {l : Launch} {e : Nat} (he : e ≠ 0xFFFF) (hin : l.ins.count e = 1) (hout : e ∉ l.outs) :
    ∃ l1 l2, l.named = l1 ++ (e, false) :: l2 ∧ (∀ x ∈ l1, x.1 ≠ e) ∧ ∀ x ∈ l2, x.1 ≠ e := by
  obtain ⟨i1, i2, hi⟩ := List.append_of_mem (List.count_pos_iff.1 (by omega : 0 < l.ins.count e))
  rw [hi, List.count_append, List.count_cons_self] at hin
  have none1 : e ∉ i1 := List.count_eq_zero.1 (by omega)
  have none2 : e ∉ i2 := List.count_eq_zero.1 (by omega)
  refine ⟨(i1.map fun e => (e, false)).filter fun x => decide (x.1 ≠ 0xFFFF),
    ((i2.map fun e => (e, false)) ++ l.outs.map fun e => (e, true)).filter fun x => decide (x.1 ≠ 0xFFFF), ?_, ?_, ?_⟩
  · simp [Launch.named, hi, he]
  · rintro x hx rfl
    obtain ⟨y, hy, rfl⟩ := List.mem_map.1 (List.mem_filter.1 hx).1
    exact none1 hy
  · rintro x hx rfl
    rcases List.mem_append.1 (List.mem_filter.1 hx).1 with hx | hx
    · obtain ⟨y, hy, rfl⟩ := List.mem_map.1 hx
      exact none2 hy
    · obtain ⟨y, hy, rfl⟩ := List.mem_map.1 hx
      exact hout hy

theorem State.grantAll_input {s : State} {k e : Nat} {l : Launch} {y : Edge} (hy : s.edge? k e = some y) (hn : y.needFill ≠ 0)
    (he : e ≠ 0xFFFF) (hin : l.ins.count e = 1) (hout : e ∉ l.outs) :
    { edge := e, first := y.head.toNat, count := y.needFill, output := false : Grant } ∈ (s.grantAll k l).2 ∧
      ∃ z, (s.grantAll k l).1.edge? k e = some z ∧ z.head = y.head + BitVec.ofNat 64 y.needFill ∧
        z.fill = y.fill - y.needFill ∧ z.free = y.free := by
  obtain ⟨l1, l2, hl, h1, h2⟩ := Launch.named_once he hin hout
  rw [State.grantAll_eq, hl, grantList_append]
  generalize hr : grantList k l1 (s, []) = r
  have before : r.1.edge? k e = some y := hr ▸ (grantList_beside h1 (s, [])).1.trans hy
  obtain ⟨granted, z, hz, fields⟩ := State.grant_input before hn
  obtain ⟨edge, grants⟩ := grantList_beside h2 ((r.1.grant k e false).1, r.2 ++ (r.1.grant k e false).2)
  exact ⟨grants _ (by rw [granted]; exact List.mem_append_right _ (List.mem_singleton_self _)), z, edge.trans hz, fields⟩

/-! ### The taking of a node (R78, R82) -/

/-- The state in which a node's slots are granted and it waits anew. -/
def State.taken (s : State) (k i : Nat) (l : Launch) : State := (s.grantAll k l).1.restartWait k i l

/-- The instance of a node. -/
def State.nodeInst (s : State) (k : Nat) (c : Cand) (l : Launch) : Inst :=
  { id := s.nextInst, part := k, index := c.index, launch := l, vcur := BitVec.ofNat 32 (s.rfield 0x010 0 32), grants := (s.grantAll k l).2 }

theorem State.restartWait_schedules (s : State) (k i : Nat) (l : Launch) : s.Schedules (s.restartWait k i l) := by
  refine ⟨rfl, fun _ _ => rfl, fun j => ?_⟩
  rw [State.restartWait, State.setPart_part]
  split
  · next hj => exact ⟨_, by rw [hj]⟩
  · exact ⟨_, rfl⟩

theorem State.taken_schedules (s : State) (k i : Nat) (l : Launch) : s.Schedules (s.taken k i l) :=
  (grantList_schedules k l.named (s, [])).trans (State.restartWait_schedules _ _ _ _)

/-- The state in which a node's instance stands. -/
def State.withNode (s : State) (k i : Nat) (c : Cand) (l : Launch) : State :=
  { s.taken k i l with nextInst := s.nextInst + 1, insts := s.insts ++ [s.nodeInst k c l] }

theorem State.takePick_node {s : State} {k i : Nat} {c : Cand} {l l' : Launch} (h : c.pick = .node i l') :
    s.takePick k c l = (s.withNode k i c l, s.nextInst) := by
  rw [State.takePick, h]
  show ({ s.taken k i l with nextInst := s.nextInst + 1, insts := (s.taken k i l).insts ++ [s.nodeInst k c l] }, s.nextInst) = _
  rw [(s.taken_schedules k i l).insts]
  rfl

theorem State.withNode_edge (s : State) (k i : Nat) (c : Cand) (l : Launch) (e : Nat) :
    (s.withNode k i c l).edge? k e = (s.grantAll k l).1.edge? k e :=
  (s.grantAll k l).1.restartWait_edge k i l e

/-- A fresh instance is the one that its number names. -/
theorem State.withNode_inst? {s : State} (fresh : ∀ x ∈ s.insts, x.id ≠ s.nextInst) (k i : Nat) (c : Cand) (l : Launch) :
    (s.withNode k i c l).inst? s.nextInst = some (s.nodeInst k c l) := by
  have none1 : s.insts.find? (fun x => decide (x.id = s.nextInst)) = none :=
    List.find?_eq_none.2 fun x hx => by simpa using fresh x hx
  show (s.insts ++ [s.nodeInst k c l]).find? (fun x => decide (x.id = s.nextInst)) = _
  rw [List.find?_append, none1]
  simp [State.nodeInst]

end Sys2Proof.Machine
end

section
/-! PROOFS. INSTANCE_DISPATCH (R73, R78, R83, R87, R91). -/

namespace Sys2Proof.Machine

/-! ### The failure of an instance (R79, R81) -/

theorem fieldOf_or_low (w : DWord) : fieldOf (w ||| 0x20000000) 0 8 = fieldOf w 0 8 := by
  rw [fieldOf, fieldOf, BitVec.extractLsb'_or]
  simp

/-- A graph halts on a failure: HALTED stands, its code is the first failure's, and a bound graph stays bound (R81). -/
theorem State.haltGraph_spec (s : State) (k : Nat) {status : Nat} (hs : status < 2 ^ 8) (index : Nat) :
    s.Spares (s.haltGraph k status index) ∧ bitAt ((s.haltGraph k status index).reg (pidx k 9)) 29 = true ∧
      (bitAt ((s.haltGraph k status index).reg (pidx k 9)) 31 = bitAt (s.reg (pidx k 9)) 31) ∧
      (fieldOf (s.reg (pidx k 9)) 0 8 = 0 → bitAt (s.reg (pidx k 9)) 29 = false →
        fieldOf ((s.haltGraph k status index).reg (pidx k 9)) 0 8 = status) := by
  unfold State.haltGraph
  extract_lets g g1 s1 p s2
  split
  · next h29 => exact ⟨.refl s, h29, rfl, fun _ h => by rw [h] at h29; cases h29⟩
  · have raised := State.raise_logsTo s2 2
    have reg : (s2.raise 2).reg (pidx k 9) = g1 ||| 0x20000000 :=
      (raised.reg (by unfold pidx; omega)).trans ((s.setReg_reg _ _ _).trans (if_pos rfl))
    have bit : ∀ i, i < 64 → bitAt (g1 ||| 0x20000000) i = (bitAt g1 i || decide (i = 29)) := fun i hi => by
      rw [bitAt, BitVec.getLsbD_or, show (0x20000000 : DWord) = BitVec.ofNat 64 (2 ^ 29) from rfl, getLsbD_ofNat_pow 64 29 i hi]
      rfl
    have halted : s1.Spares s2 := .of_setPart s1 k { p with graph := p.graph.map fun gr => { gr with halted := true, dispatching := false } } rfl
    refine ⟨(s.setGctl_spares k _).trans (halted.trans (.of_logsTo raised)), ?_, ?_, ?_⟩
    · rw [reg, bit 29 (by decide)]
      simp
    · rw [reg, bit 31 (by decide)]
      have kept : bitAt g1 31 = bitAt g 31 := by
        unfold g1
        split
        · rw [bitAt_setField _ _ _ _ _ (by decide), bitAt_setField _ _ _ _ _ (by decide)]
          rfl
        · rfl
      rw [kept]
      simp [g]
    · intro h0 _
      rw [reg, fieldOf_or_low]
      unfold g1
      rw [if_pos h0, fieldOf_setField_disjoint _ _ (by decide) (.inl (by decide)), fieldOf_setField_same _ _ (by decide)]
      exact Nat.mod_eq_of_lt hs

/-- A graph that stays bound: of GCTL only BUSY is judged. -/
theorem State.settleBusy_bound {s : State} {k : Nat} (h : bitAt (s.reg (pidx k 9)) 31 = true) :
    bitAt ((s.settleBusy k).reg (pidx k 9)) 29 = bitAt (s.reg (pidx k 9)) 29 ∧
      fieldOf ((s.settleBusy k).reg (pidx k 9)) 0 8 = fieldOf (s.reg (pidx k 9)) 0 8 := by
  have set : (s.settleBusy k).reg (pidx k 9) = setField (s.reg (pidx k 9)) 30 1 (if s.graphBusy k then 1 else 0) := by
    rw [State.settleBusy_eq]
    exact (congrArg (fun S : State => S.reg (pidx k 9)) (if_pos (by rw [h, Bool.or_true]))).trans ((s.setReg_reg _ _ _).trans (if_pos rfl))
  rw [set, bitAt_setField _ _ _ _ _ (by decide), fieldOf_setField_disjoint _ _ (by decide) (.inl (by decide))]
  exact ⟨rfl, rfl⟩

/-- The state in which the entries that waited for a team's relaunch are logged (R117) and the instance is gone. -/
def State.forget (s : State) (id : Nat) : State :=
  { s.flushRelaunchLog id with insts := (s.flushRelaunchLog id).insts.filter fun j => decide (j.id ≠ id) }

theorem State.forget_spec (s : State) (id : Nat) : (s.forget id).teams = s.teams ∧ (s.forget id).insts = s.insts.filter (fun j => decide (j.id ≠ id)) ∧
    ∀ j, j ≠ 0x0E9 → (s.forget id).reg j = s.reg j := by
  have logged := State.Schedules.foldl (f := fun s (e : Nat × Nat × LogEntry) => s.addLog e.2.2) (fun s e => .of_logsTo (s.addLog_logsTo _))
    (s.relaunchLog.filter fun e => decide (e.1 = id)) { s with relaunchLog := s.relaunchLog.filter fun e => decide (e.1 ≠ id) }
  exact ⟨logged.teams, congrArg (List.filter _) logged.insts, logged.reg⟩

/-- The failure of a node's instance that has no team: the instance is gone, and the graph halts (R79, R81). -/
theorem State.failInstance_node {s : State} {i : Inst} (hi : s.inst? i.id = some i) (teams : ∀ t ∈ s.teams, t.inst ≠ i.id)
    (hr : i.redeem = none) (hv : i.version = none) (hc : i.isChild = false) {status : Nat} (hs : status < 2 ^ 8)
    (bound : bitAt (s.reg (pidx i.part 9)) 31 = true) (addr detail : DWord) :
    (s.failInstance i.id status addr detail).insts = s.insts.filter (fun j => decide (j.id ≠ i.id)) ∧
      (s.failInstance i.id status addr detail).teams = s.teams ∧
      bitAt ((s.failInstance i.id status addr detail).reg (pidx i.part 9)) 29 = true ∧
      (fieldOf (s.reg (pidx i.part 9)) 0 8 = 0 → bitAt (s.reg (pidx i.part 9)) 29 = false →
        fieldOf ((s.failInstance i.id status addr detail).reg (pidx i.part 9)) 0 8 = status) := by
  have none1 : s.teams.filter (fun t => decide (t.inst = i.id)) = [] :=
    List.filter_eq_nil_iff.2 fun t ht => by simpa using teams t ht
  obtain ⟨steams, sinsts, sreg⟩ := s.forget_spec i.id
  have logged := (s.forget i.id).addLog_logsTo { statusEntry status i.part i.index addr detail with team := 0xFFFFFFFF }
  generalize hS : (s.forget i.id).addLog { statusEntry status i.part i.index addr detail with team := 0xFFFFFFFF } = S at logged
  have eq : s.failInstance i.id status addr detail = ((S.haltGraph i.part status i.index).settleFaults i.part).settleBusy i.part := by
    rw [State.failInstance, hi]
    simp only [none1, List.foldl_nil, hc, Bool.false_eq_true, if_false, State.endBinding, hr, hv, ← hS]
    rfl
  have gctl : S.reg (pidx i.part 9) = s.reg (pidx i.part 9) := by
    rw [logged.reg (by unfold pidx; omega), sreg _ (by unfold pidx; omega)]
  obtain ⟨halted, h29, h31, code⟩ := S.haltGraph_spec i.part hs i.index
  rw [gctl] at h31 code
  have settled : (S.haltGraph i.part status i.index).Spares ((S.haltGraph i.part status i.index).settleFaults i.part) := .of_setPart _ _ _ rfl
  have spared := (State.Spares.of_logsTo logged).trans (halted.trans (settled.trans (State.settleBusy_spares _ i.part)))
  obtain ⟨keeps29, keepsCode⟩ := State.settleBusy_bound (s := (S.haltGraph i.part status i.index).settleFaults i.part) (h31.trans bound)
  rw [eq]
  exact ⟨spared.insts.trans sinsts, spared.teams.trans steams, keeps29.trans h29, fun h0 h => keepsCode.trans (code h0 h)⟩

/-! ### The start of an instance (R72, R73, R87) -/

/-- A node whose image is bound, whose entry and handler are in its code and that takes no argument block starts. -/
theorem State.judgeInst_starts {s : State} {i : Inst} {img : Image} (hi : s.inst? i.id = some i)
    (himg : (s.part i.part).images.find? (fun x => decide (x.va = i.launch.image)) = some img) (hreloc : img.reloc = none)
    (hentry : img.holds i.launch.entry = true) (hhandler : i.launch.handler = 0 ∨ img.holds i.launch.handler = true)
    (hr : i.redeem = none) (hargs : i.launch.args = 0) :
    s.judgeInst i.id = some (s.putInst { i with args := List.replicate 13 0 }) := by
  have bound : s.bindImage i.part i.launch.image = .ok img s := by rw [State.bindImage, himg]
  have args : s.readArgs i.part i = .ok (List.replicate 13 0) s := by
    rw [State.readArgs, hr]
    exact if_pos hargs
  have handler : ¬ (i.launch.handler ≠ 0 ∧ img.holds i.launch.handler = false) := fun ⟨h0, h⟩ => by
    rcases hhandler with hh | hh
    · exact h0 hh
    · rw [h] at hh; cases hh
  rw [State.judgeInst, hi]
  simp only [bound, hentry, Bool.not_true, Bool.false_eq_true, if_false, if_neg handler, hreloc, args]

/-- A fresh instance that is put back takes the place of the one at the end of the list. -/
theorem State.withNode_putInst {s : State} (fresh : ∀ x ∈ s.insts, x.id ≠ s.nextInst) (k i : Nat) (c : Cand) (l : Launch) {x : Inst}
    (hx : x.id = s.nextInst) : ((s.withNode k i c l).putInst x).insts = s.insts ++ [x] := by
  show (s.insts ++ [s.nodeInst k c l]).map (fun j => if j.id = x.id then x else j) = _
  rw [List.map_append, hx]
  have kept : s.insts.map (fun j => if j.id = s.nextInst then x else j) = s.insts :=
    (List.map_congr_left fun j hj => if_neg (fresh j hj)).trans (List.map_id _)
  rw [kept]
  exact congrArg (s.insts ++ ·) (congrArg (fun y => [y]) (if_pos rfl))

/-! ### INSTANCE_DISPATCH (R83, R91) -/

theorem State.teamsWait_age (s : State) (k : Nat) : (s.age k).teamsWait k = s.teamsWait k := rfl

theorem State.dispatch_ages {s : State} {k : Nat} (h : s.placing k = false ∨ s.teamsWait k = true) : s.dispatch k = s.age k := by
  refine if_pos ?_
  show (!s.placing k || s.teamsWait k) = true
  rcases h with h | h <;> simp [h]

section
variable {s : State} {k : Nat} (hp : s.placing k = true) (hw : s.teamsWait k = false)
include hp hw

theorem State.dispatch_awake : ¬ (!(s.age k).placing k || (s.age k).teamsWait k) = true := by
  show ¬ (!s.placing k || s.teamsWait k) = true
  simp [hp, hw]

theorem State.dispatch_none (hc : (s.age k).choose k = none) : s.dispatch k = s.age k := by
  unfold State.dispatch
  simp only [if_neg (State.dispatch_awake hp hw), hc]

/-- The dispatch of a chosen node. -/
theorem State.dispatch_node {c : Cand} {i : Nat} {l : Launch} (hc : (s.age k).choose k = some c) (hn : c.pick = .node i l) :
    (s.overQuota k l = true → s.dispatch k = ((s.age k).withNode k i c l).failInstance s.nextInst 2 0 0) ∧
    (s.overQuota k l = false → (s.age k).worldHasCore k = true →
      ((s.age k).bestCore k l (fun _ => true) = none → s.dispatch k = s.age k) ∧
      ((s.age k).bestCore k l (fun _ => true) ≠ none →
        s.dispatch k = (((s.age k).withNode k i c l).judgeInst s.nextInst).getD (s.age k))) := by
  have taken : (s.age k).takePick k c l = ((s.age k).withNode k i c l, s.nextInst) := State.takePick_node hn
  have quota : (s.age k).overQuota k l = s.overQuota k l := rfl
  unfold State.dispatch
  simp only [if_neg (State.dispatch_awake hp hw), hc, hn, State.pickLaunch, taken, quota]
  refine ⟨fun h => if_pos h, fun h h3 => ?_⟩
  simp only [h, h3, Bool.not_true, Bool.false_eq_true, if_false, Option.isNone_iff_eq_none]
  exact ⟨fun hb => if_pos hb, fun hb => if_neg hb⟩

/-- A node whose team exceeds the partition's quotas fails, and halts its bound graph (R91). -/
theorem State.dispatch_overQuota {c : Cand} {i : Nat} {l : Launch} (hc : (s.age k).choose k = some c) (hn : c.pick = .node i l)
    (fresh : ∀ x ∈ s.insts, x.id ≠ s.nextInst) (teams : ∀ t ∈ s.teams, t.inst ≠ s.nextInst) (exceeds : s.overQuota k l = true)
    (bound : bitAt (s.reg (pidx k 9)) 31 = true) :
    (s.dispatch k).insts = s.insts ∧ bitAt ((s.dispatch k).reg (pidx k 9)) 29 = true ∧ (s.dispatch k).teams = s.teams ∧
      (fieldOf (s.reg (pidx k 9)) 0 8 = 0 → bitAt (s.reg (pidx k 9)) 29 = false → fieldOf ((s.dispatch k).reg (pidx k 9)) 0 8 = 2) := by
  have taken := (s.age k).taken_schedules k i l
  have gctl : ((s.age k).withNode k i c l).reg (pidx k 9) = s.reg (pidx k 9) := taken.reg _ (by unfold pidx; omega)
  have same : ((s.age k).withNode k i c l).teams = s.teams := taken.teams
  have found : ((s.age k).withNode k i c l).inst? s.nextInst = some ((s.age k).nodeInst k c l) := State.withNode_inst? (s := s.age k) fresh k i c l
  rw [((State.dispatch_node hp hw hc hn).1 exceeds)]
  obtain ⟨insts, steams, halted, code⟩ := State.failInstance_node (i := (s.age k).nodeInst k c l) found (fun t ht => teams t (same ▸ ht))
    rfl rfl rfl (status := 2) (by decide) ((congrArg (bitAt · 31) gctl).trans bound) 0 0
  refine ⟨insts.trans ?_, halted, steams.trans same, fun h0 h29 => code ?_ ?_⟩
  · show (s.insts ++ [(s.age k).nodeInst k c l]).filter (fun j => decide (j.id ≠ s.nextInst)) = s.insts
    rw [List.filter_append, List.filter_eq_self.2 fun x hx => decide_eq_true (fresh x hx)]
    simp [State.nodeInst, State.age, State.setPart]
  · exact (congrArg (fieldOf · 0 8) gctl).trans h0
  · exact (congrArg (bitAt · 29) gctl).trans h29

/-- The instance of a node that starts without an argument block. -/
def State.startedInst (s : State) (k : Nat) (c : Cand) (l : Launch) : Inst := { s.nodeInst k c l with args := List.replicate 13 0 }

/-- A node that has room and passes its judgements starts, with its slots (R73, R78, R83). -/
theorem State.dispatch_starts {c : Cand} {i : Nat} {l : Launch} {img : Image} (hc : (s.age k).choose k = some c) (hn : c.pick = .node i l)
    (fresh : ∀ x ∈ s.insts, x.id ≠ s.nextInst) (exceeds : s.overQuota k l = false) (world : (s.age k).worldHasCore k = true)
    (room : (s.age k).bestCore k l (fun _ => true) ≠ none)
    (hargs : l.args = 0) (himg : (s.part k).images.find? (fun x => decide (x.va = l.image)) = some img) (hreloc : img.reloc = none)
    (hentry : img.holds l.entry = true) (hhandler : l.handler = 0 ∨ img.holds l.handler = true) :
    (s.dispatch k).teams = s.teams ∧ (s.dispatch k).nextInst = s.nextInst + 1 ∧
      (s.dispatch k).insts = s.insts ++ [(s.age k).startedInst k c l] ∧
      ∀ e, (s.dispatch k).edge? k e = ((s.age k).grantAll k l).1.edge? k e := by
  have taken := (s.age k).taken_schedules k i l
  have found : ((s.age k).withNode k i c l).inst? s.nextInst = some ((s.age k).nodeInst k c l) := State.withNode_inst? (s := s.age k) fresh k i c l
  have images : (((s.age k).withNode k i c l).part k).images = (s.part k).images :=
    (taken.images k).trans (s.age_images k)
  have starts := State.judgeInst_starts (i := (s.age k).nodeInst k c l) found (by rw [show (State.nodeInst _ k c l).part = k from rfl, images]; exact himg)
    hreloc hentry hhandler rfl hargs
  have result : s.dispatch k = ((s.age k).withNode k i c l).putInst ((s.age k).startedInst k c l) := by
    rw [((State.dispatch_node hp hw hc hn).2 exceeds world).2 room]
    exact congrArg (·.getD (s.age k)) starts
  rw [result]
  exact ⟨taken.teams, rfl, State.withNode_putInst (s := s.age k) fresh k i c l rfl, (s.age k).withNode_edge k i c l⟩

end

end Sys2Proof.Machine
end

section
/-! PROOFS. FAULT_ENTRY_WRITE (R18, R107). -/

namespace Sys2Proof.Machine

/-! ### The ring of a fault queue (R107) -/

/-- The address of partition k's fault queue. -/
def State.faultBase (s : State) (k : Nat) : Nat := 64 * fieldOf (s.reg (pidx k 3)) 6 50

/-- The entries that the queue's ring holds. -/
def State.faultSlots (s : State) (k : Nat) : Nat := 2 ^ fieldOf (s.reg (pidx k 4)) 0 5

/-- HEAD of the queue. -/
def State.faultHead (s : State) (k : Nat) : DWord := BitVec.ofNat 64 (leWord (s.homeBytes (s.faultBase k) 8))

/-- TAIL of the queue. -/
def State.faultTail (s : State) (k : Nat) : DWord := BitVec.ofNat 64 (leWord (s.homeBytes (s.faultBase k + 8) 8))

/-- The address of the next entry. -/
def State.faultPlace (s : State) (k : Nat) : Nat := s.faultBase k + 64 + 32 * ((s.faultHead k).toNat % s.faultSlots k)

/-- The faults of partition k once those of a block have their entry. -/
def State.faultsWritten (s : State) (k block : Nat) : List FaultWait :=
  (s.part k).faults.map fun x => if x.block = block then { x with written := true } else x

/-- The functions that hold the ring's two targets and have failed. -/
def State.faultFailed (s : State) (k : Nat) : List Nat :=
  ((s.functionsOf (s.faultBase k) ++ s.functionsOf (s.faultPlace k)).filter s.bufail).eraseDups

theorem State.writeFault_eq (s : State) (k : Nat) (f : FaultWait) : s.writeFault k f =
    if s.targetHeld (s.faultBase k) || s.targetHeld (s.faultPlace k) then s
    else if !(s.faultFailed k).isEmpty then
      ((s.faultFailed k).foldl State.foldBufail s).setPart k { s.part k with faults := s.faultsWritten k f.block }
    else if s.faultSlots k ≤ (s.faultHead k - s.faultTail k).toNat then
      if (s.part k).fqFull then s
      else (s.setPart k { s.part k with fqFull := true }).addLog (platformEntry 0x0407 k f.va (s.faultHead k))
    else
      (((s.writeHome (s.faultPlace k) (f.bytes (s.faultHead k))).writeHome (s.faultBase k) (bytes64 (s.faultHead k + 1))).setPart k
        { s.part k with fqFull := false, faults := s.faultsWritten k f.block }).raise 1 := by
  have base : s.rfield (pidx k 3) 6 50 * 64 = s.faultBase k := Nat.mul_comm _ _
  unfold State.writeFault
  rw [base]
  rfl

theorem State.faultsWritten_none (s : State) (k block : Nat) :
    (s.faultsWritten k block).find? (fun x => !x.written && decide (x.block = block)) = none := by
  refine List.find?_eq_none.2 fun x hx => ?_
  obtain ⟨y, -, rfl⟩ := List.mem_map.1 hx
  split
  · simp
  · next h => simp [h]

theorem State.faultsWritten_all (s : State) (k block : Nat) : ∀ x ∈ s.faultsWritten k block, x.block = block → x.written = true := by
  intro x hx hb
  obtain ⟨y, -, rfl⟩ := List.mem_map.1 hx
  by_cases h : y.block = block
  · rw [if_pos h]
  · rw [if_neg h] at hb
    exact absurd hb h

section
variable {s : State} {k : Nat} (f : FaultWait)

theorem State.writeFault_held (h : ∃ a ∈ [s.faultBase k, s.faultPlace k], s.targetHeld a = true) : s.writeFault k f = s := by
  rw [State.writeFault_eq]
  refine if_pos ?_
  simpa using h

/-- A write to a function that has failed is in vain, and the fault waits for its entry no longer (R18). -/
theorem State.writeFault_failed (hh : ∀ a ∈ [s.faultBase k, s.faultPlace k], s.targetHeld a = false)
    (hf : ∃ a ∈ [s.faultBase k, s.faultPlace k], ∃ fn ∈ s.functionsOf a, s.bufail fn = true) :
    (∀ a, (s.writeFault k f).homeByte a = s.homeByte a) ∧
      ((s.writeFault k f).part k).faults.find? (fun x => !x.written && decide (x.block = f.block)) = none := by
  have held : ¬ (s.targetHeld (s.faultBase k) || s.targetHeld (s.faultPlace k)) = true := by simpa using hh
  have failed : (!(s.faultFailed k).isEmpty) = true := by
    obtain ⟨a, ha, fn, hfn, hb⟩ := hf
    have mem : fn ∈ s.faultFailed k := by
      refine List.mem_eraseDups.2 (List.mem_filter.2 ⟨List.mem_append.2 ?_, hb⟩)
      rcases List.mem_cons.1 ha with h | h
      · exact .inl (h ▸ hfn)
      · exact .inr (List.mem_singleton.1 h ▸ hfn)
    rw [Bool.not_eq_true', List.isEmpty_eq_false_iff]
    exact List.ne_nil_of_mem mem
  have folded : s.LogsTo ((s.faultFailed k).foldl State.foldBufail s) :=
    foldl_keeps s.LogsTo State.foldBufail (fun b fn hb => hb.trans (b.foldBufail_logsTo fn)) _ _ (.refl s)
  rw [State.writeFault_eq, if_neg held, if_pos failed]
  refine ⟨folded.homeByte, ?_⟩
  rw [State.setPart_part, if_pos rfl]
  exact s.faultsWritten_none k f.block

/-- Neither of the ring's two targets is held or has failed. -/
def State.FaultRingUp (s : State) (k : Nat) : Prop :=
  ∀ a ∈ [s.faultBase k, s.faultPlace k], s.targetHeld a = false ∧ ∀ fn ∈ s.functionsOf a, s.bufail fn = false

theorem State.writeFault_up (h : s.FaultRingUp k) : s.writeFault k f =
    if s.faultSlots k ≤ (s.faultHead k - s.faultTail k).toNat then
      if (s.part k).fqFull then s
      else (s.setPart k { s.part k with fqFull := true }).addLog (platformEntry 0x0407 k f.va (s.faultHead k))
    else
      (((s.writeHome (s.faultPlace k) (f.bytes (s.faultHead k))).writeHome (s.faultBase k) (bytes64 (s.faultHead k + 1))).setPart k
        { s.part k with fqFull := false, faults := s.faultsWritten k f.block }).raise 1 := by
  obtain ⟨⟨baseHeld, baseUp⟩, ⟨placeHeld, placeUp⟩, -⟩ := List.forall_mem_cons.1 h |>.imp_right List.forall_mem_cons.1
  have held : ¬ (s.targetHeld (s.faultBase k) || s.targetHeld (s.faultPlace k)) = true := by simp [baseHeld, placeHeld]
  have none1 : (s.functionsOf (s.faultBase k) ++ s.functionsOf (s.faultPlace k)).filter s.bufail = [] := by
    refine List.filter_eq_nil_iff.2 fun fn hfn => ?_
    rcases List.mem_append.1 hfn with hfn | hfn
    · simp [baseUp fn hfn]
    · simp [placeUp fn hfn]
  have failed : ¬ (!(s.faultFailed k).isEmpty) = true := by simp [State.faultFailed, none1]
  rw [State.writeFault_eq, if_neg held, if_neg failed]

/-- A fault waits while the ring is full, which is logged once an episode. -/
theorem State.writeFault_full (h : s.FaultRingUp k) (full : s.faultSlots k ≤ (s.faultHead k - s.faultTail k).toNat) :
    (∀ a, (s.writeFault k f).homeByte a = s.homeByte a) ∧ ((s.writeFault k f).part k).faults = (s.part k).faults ∧
      ((s.writeFault k f).part k).fqFull = true ∧ ((s.part k).fqFull = true → s.writeFault k f = s) := by
  rw [State.writeFault_up f h, if_pos full]
  split
  · next hq => exact ⟨fun _ => rfl, rfl, hq, fun _ => rfl⟩
  · next hq =>
    have logged := (s.setPart k { s.part k with fqFull := true }).addLog_logsTo (platformEntry 0x0407 k f.va (s.faultHead k))
    have part : ((s.setPart k { s.part k with fqFull := true }).addLog (platformEntry 0x0407 k f.va (s.faultHead k))).part k =
        { s.part k with fqFull := true } := (State.part_congr logged.parts k).trans ((State.setPart_part _ _ _ _).trans (if_pos rfl))
    exact ⟨logged.homeByte, by rw [part], by rw [part], fun h => absurd h hq⟩

theorem FaultWait.bytes_length (seq : DWord) : (f.bytes seq).length = 32 := by
  simp [FaultWait.bytes, bytes64, leBytes_length]

/-- A fault's entry stands at HEAD in the ring, and HEAD is one more (R107). -/
theorem State.writeFault_writes (h : s.FaultRingUp k) (room : (s.faultHead k - s.faultTail k).toNat < s.faultSlots k)
    (hbm : s.faultBase k + 64 + 32 * s.faultSlots k ≤ 2 ^ 40) :
    (∀ i < 32, (s.writeFault k f).homeByte (s.faultPlace k + i) = (f.bytes (s.faultHead k)).getD i 0) ∧
      (s.writeFault k f).homeBytes (s.faultBase k) 8 = leBytes 8 (s.faultHead k + 1).toNat ∧
      (∀ a, a < s.faultBase k ∨ (s.faultBase k + 8 ≤ a ∧ a < s.faultPlace k) ∨ s.faultPlace k + 32 ≤ a →
        (s.writeFault k f).homeByte a = s.homeByte a) ∧
      bitAt ((s.writeFault k f).reg 0x0E9) 1 = true ∧ ((s.writeFault k f).part k).fqFull = false ∧
      ((s.writeFault k f).part k).faults = s.faultsWritten k f.block := by
  rw [State.writeFault_up f h, if_neg (by omega)]
  have below : (s.faultHead k).toNat % s.faultSlots k < s.faultSlots k := Nat.mod_lt _ (by omega)
  have lo : s.faultBase k + 64 ≤ s.faultPlace k := Nat.le_add_right _ _
  have hi : s.faultPlace k + 32 ≤ 2 ^ 40 := by unfold State.faultPlace; omega
  have entry : (f.bytes (s.faultHead k)).length = 32 := f.bytes_length _
  have head : (bytes64 (s.faultHead k + 1)).length = 8 := leBytes_length _ _
  generalize hS : State.setPart _ k { s.part k with fqFull := false, faults := s.faultsWritten k f.block } = S
  have raised := State.raise_logsTo S 1
  have part : (S.raise 1).part k = { s.part k with fqFull := false, faults := s.faultsWritten k f.block } := by
    rw [State.part_congr raised.parts, ← hS, State.setPart_part, if_pos rfl]
  have byte : ∀ a, (S.raise 1).homeByte a =
      if s.faultBase k ≤ a ∧ a < s.faultBase k + 8 then (bytes64 (s.faultHead k + 1)).getD (a - s.faultBase k) 0
      else if s.faultPlace k ≤ a ∧ a < s.faultPlace k + 32 then (f.bytes (s.faultHead k)).getD (a - s.faultPlace k) 0 else s.homeByte a := fun a => by
    rw [raised.homeByte, ← hS]
    refine (homeByte_writeHome _ _ _ (.inl (by omega)) a).trans ?_
    rw [homeByte_writeHome _ _ _ (.inl (by omega)), head, entry]
  refine ⟨fun i hi => ?_, ?_, fun a ha => ?_, State.raise_pends _ (by decide), by rw [part], by rw [part]⟩
  · rw [byte, if_neg (by omega), if_pos (by omega), Nat.add_sub_cancel_left]
  · refine State.homeBytes_eq (bytes64 (s.faultHead k + 1)) _ fun i hi => ?_
    rw [byte, if_pos (by omega), Nat.add_sub_cancel_left]
  · rw [byte, if_neg (by omega), if_neg (by omega)]

end

theorem faultEntryWrite_idle {s : State} (h : ∀ f ∈ (s.part s.request.part).faults, f.written = true) :
    exec .faultEntryWrite s = .next s := by
  have none1 : (s.part s.request.part).faults.find? (fun f => !f.written) = none :=
    List.find?_eq_none.2 fun f hf => by simp [h f hf]
  show execFaultEntryWrite s = _
  unfold execFaultEntryWrite
  simp only [none1]

theorem faultEntryWrite_writes {s : State} {f : FaultWait} (h : (s.part s.request.part).faults.find? (fun f => !f.written) = some f) :
    exec .faultEntryWrite s = .next (s.writeFault s.request.part f) := by
  show execFaultEntryWrite s = _
  unfold execFaultEntryWrite
  simp only [h]

end Sys2Proof.Machine
end

section
/-! PROOFS. The events of partitions (R69 to R71, R76, R78, R82, R83, R85, R86, R91, R95 to R97, R102, R107, R116, R117, R146,
R434). -/

namespace Sys2Proof.Machine

/-- The saved bytes of a restored team's Hamper stand as the context holds them (R98, R102). -/
theorem restored_saved {s : State} {k : Nat} {saved back : List Team} (room : s.RoomFor k saved) (hb : List.Forall₂ Team.RestoredAs saved back)
    {i : Nat} {t u : Team} (ht : saved[i]? = some t) (hu : back[i]? = some u) {half off j : Nat}
    (hhalf : half < if t.launch.paircore then 2 else 1) (hoff : off < 1024 * t.launch.hamper) (hj : j < 32)
    (h : t.SavedBy half (2 ^ 20 * half + off) j) : sget 0 u.hbytes (2 ^ 20 * half + off) = sget 0 t.hbytes (2 ^ 20 * half + off) := by
  obtain ⟨hi, rfl⟩ := List.getElem?_eq_some_iff.1 ht
  obtain ⟨hi', rfl⟩ := List.getElem?_eq_some_iff.1 hu
  obtain ⟨S, hS⟩ := hb.get hi hi'
  have halves : half < saved[i].coresOf.length := by
    unfold Team.coresOf
    split_ifs at hhalf ⊢ <;> exact hhalf
  have limit := room.hamper (List.getElem_mem hi)
  have restored : back[i] = S.restored saved[i] := hS
  rw [restored, State.restored_hbytes]
  exact Team.reloadHamper_saved S.free halves hoff (by omega) hj h

theorem State.placing_eq_false {s : State} {k : Nat} (h : ¬ (fieldOf (s.reg (pidx k 0)) 27 3 = 1 ∧ bitAt (s.reg (pidx k 0)) 31 = true ∧ s.ready 41 = true)) :
    s.placing k = false := Bool.eq_false_iff.2 (mt (s.placing_iff k).1 h)

/-! ### A graph without source edges (R33, R77) -/

theorem not_source_of_sourcesOf_nil {edges : List Edge} {n : Nat} (hn : edges.length = n) (h : sourcesOf edges n = []) :
    ∀ x ∈ edges, x.source = false := by
  intro x hx
  obtain ⟨e, he, rfl⟩ := List.getElem_of_mem hx
  have := List.filter_eq_nil_iff.1 h e (List.mem_range.2 (hn ▸ he))
  simpa [List.getElem?_eq_getElem he] using this

theorem filter_source_nil {edges : List Edge} (h : ∀ x ∈ edges, x.source = false) : edges.filter (·.source) = [] :=
  List.filter_eq_nil_iff.2 fun x hx => by simp [h x hx]

theorem takeEdge_map {s : State} {edges : List Edge} (h : ∀ x ∈ edges, x.source = false) : edges.map s.takeEdge = edges :=
  (List.map_congr_left fun x hx => by rw [State.takeEdge, if_neg (by simp [h x hx])]).trans (List.map_id' _)

/-- Settles O55: each conjunct is the lemma that states what its event does; the instances that end and the teams that a
context gives back are the two that need an induction, over the instances and the saved teams. -/
theorem partitionEvents : Obligations.PartitionEvents := by
  unfold Obligations.PartitionEvents
  intro s k p st gives isNow placing
  refine ⟨?_, ?_, ?_, ?_, ?_, ?_, ?_, ?_, ?_, ?_, ?_, ?_, ?_, ?_, ?_, ?_, ?_, ?_, ?_, ?_, ?_, ?_⟩
  -- The checks and the binding of a graph (R69 to R71, R76, R434).
  · intro bs n h b width wv groups each names _
    have each_eq : b 0x26 ≤ 3 → (parseLaunch bs).groupsOn false = each := parseLaunch_groupsOn
    refine (s.checkRecord_iff k bs n).trans ⟨?_, ?_⟩
    · rintro ⟨⟨⟨flags, prio⟩, ⟨teams, ⟨some_fibre, fibres⟩, lanes, rest⟩, entries, edges⟩, part, world, few, words⟩
      rw [each_eq lanes] at few words
      obtain ⟨window, scratch, acc, hamper, parts⟩ := rest
      exact ⟨flags, prio, teams, some_fibre, fibres, lanes, window, scratch, acc, hamper, parts, entries, edges, part, world, few, words⟩
    · rintro ⟨flags, prio, teams, some_fibre, fibres, lanes, window, scratch, acc, hamper, parts, entries, edges, part, world, few, words⟩
      rw [← each_eq lanes] at few words
      exact ⟨⟨⟨flags, prio⟩, ⟨teams, ⟨some_fibre, fibres⟩, lanes, window, scratch, acc, hamper, parts⟩, entries, edges⟩, part, world, few, words⟩
  · exact fun h => congrArg Host.Outcome.next (State.bindComplete_idle h)
  · intro nb eb cnt hp ne
    refine ⟨fun hr => congrArg Host.Outcome.next (State.bindComplete_unready hp hr), fun hr ns s1 es s2 h1 h2 => ?_⟩
    obtain ⟨waits, fails, binds⟩ := State.bindComplete_read hp hr h1 h2
    obtain ⟨read1, -⟩ := State.readTable_spec h1
    obtain ⟨read2, length⟩ := State.readTable_spec h2
    change (s2.bindVerdict k ne ns es = none → _) ∧ (∀ i status d, s2.bindVerdict k ne ns es = some (some (i, status, d)) → _) ∧
      (s2.bindVerdict k ne ns es = some none → sourcesOf (edgesOf es) ne = [] → _)
    refine ⟨fun h => congrArg Host.Outcome.next (waits h), fun i status d h =>
      ⟨_, congrArg Host.Outcome.next (fails i status d h), s2.bindFails_spec k i status d⟩, fun h none_source lines held => ?_⟩
    have plain : ∀ x ∈ edgesOf es, x.source = false := not_source_of_sourcesOf_nil (by rw [edgesOf, List.length_map, length]) none_source
    have bound := binds h none_source (by rw [filter_source_nil plain]; simpa using lines)
    rw [takeEdge_map plain] at bound
    exact ⟨_, congrArg Host.Outcome.next bound, s2.bindDone_spec k _ plain
      (((read1.trans read2).heldBind k).trans held)⟩
  -- Aging, the choice of a candidate and its dispatch (R78, R82, R83, R91).
  · intro lim aged
    exact ⟨_, rfl, rfl, rfl, rfl, s.age_children k, fun g hg => State.age_graph hg⟩
  · exact fun c hc => State.choose_spec hc
  · exact fun h => congrArg Host.Outcome.next (State.dispatch_ages (h.imp_left State.placing_eq_false))
  · intro hp hw a
    have hp : s.placing k = true := (s.placing_iff k).2 hp
    refine ⟨fun hc => congrArg Host.Outcome.next (State.dispatch_none hp hw hc), fun c i l hc hn fresh => ⟨fun exceeds bound teams => ?_,
      fun exceeds world full => ?_, fun exceeds world room hargs img himg hreloc hentry hhandler => ?_⟩⟩
    · exact ⟨_, rfl, State.dispatch_overQuota hp hw hc hn fresh teams exceeds bound⟩
    · exact congrArg Host.Outcome.next (((State.dispatch_node hp hw hc hn).2 exceeds world).1 full)
    · obtain ⟨teams, next, insts, edges⟩ :=
        State.dispatch_starts hp hw hc hn fresh exceeds world room hargs himg hreloc hentry hhandler
      refine ⟨_, rfl, teams, next, a.startedInst k c l, insts, rfl, rfl, rfl, rfl, rfl, rfl, rfl, rfl, fun e y hy hn he hin hout => ?_⟩
      obtain ⟨granted, z, hz, fields⟩ := State.grantAll_input ((s.age_edge k e).trans hy) hn he hin hout
      exact ⟨granted, z, (edges e).trans hz, fields⟩
  -- Placement, relaunch and completion (R79, R85, R86, R116, R117).
  · exact fun h => teamPlace_waits (State.placing_eq_false h)
  · intro l f c hc
    obtain ⟨hf, hp, least⟩ := State.bestCore_spec hc
    exact ⟨hf, hp, fun d hd => least d ((l.mem_coreList d).2 hd)⟩
  · intro hp hr i hi
    have hp : s.placing k = true := (s.placing_iff k).2 hp
    obtain ⟨waits, places⟩ := State.placeNext_first hr hi
    refine ⟨fun hb => congrArg Host.Outcome.next ((if_pos hp).trans (waits hb)), fun c slot hb hs => ?_⟩
    have placed : exec .teamPlace s = _ := congrArg Host.Outcome.next ((if_pos hp).trans (places c slot hb hs))
    exact ⟨_, placed, rfl, s.slotted (newTeam i i.placed c slot s.clk),
      congrArg (fun t => s.teams ++ [t]) (s.putInst_slotted _ _), rfl, rfl, rfl, rfl, rfl, rfl, rfl, rfl, rfl, rfl, rfl, rfl, rfl,
      fun fid => List.mem_range, (s.slotted_newTeam_groups i i.placed c slot s.clk).1, fun n g hg => State.slotted_newTeam_group hg⟩
  · intro hp i t rest hi ht new last c slot hc hs e he
    have placed : exec e s = .next (s.placeRelaunch k) := exec_placesRelaunch ((s.placing_iff k).2 hp) hi e he
    rw [State.placeRelaunch_eq hi ht hc hs] at placed
    obtain ⟨insts, teams, log⟩ := s.relaunches_spec i t rest c
    exact ⟨_, placed, insts, log, (s.relaunches i t rest c).slotted (relaunchedTeam i t c slot s.clk), congrArg (· ++ [_]) teams,
      rfl, rfl, rfl, rfl, rfl, rfl, rfl, rfl, rfl⟩
  · exact instanceComplete_gives
  -- Halting, saving, restoring and reset (R95, R97, R98, R102).
  · exact ⟨partitionHalted_halts, partitionHalted_waits⟩
  · exact contextSaveComplete_waits
  · intro h3
    obtain ⟨S, hS, scheduled, raised, saved⟩ := contextSaveComplete_saves h3
    refine ⟨S, hS, (s.savedContext_now k).of_ctl fun j => scheduled.reg _ (by unfold pidx; omega), raised, ?_, fun t => ?_, ?_, fun i => ?_⟩
    · rw [scheduled.reg _ (by unfold pidx; omega)]
      exact s.savedContext_ns k
    · rw [scheduled.teams]
      exact List.mem_filter.trans (and_congr_right fun _ => decide_eq_true_iff)
    · exact (congrArg _ saved).trans (List.map_map.trans rfl)
    · exact (congrArg (fun l : List Team => (l[i]?).map _) saved).trans (s.contextTeams_groups k i)
  · intro cores room
    refine ⟨fun h => restoreStart_waits h, fun h4 resuming fits => ?_⟩
    obtain ⟨S, hS, now, none_saved, back, teams, restored⟩ := restoreStart_restores h4 resuming fits
    refine ⟨S, hS, now, none_saved, back, teams, restored_map State.restored_plain restored, ?_, restored_map State.restored_attic restored⟩
    rintro i t u ht hu half hhalf off hoff ⟨j, hj, h⟩
    exact restored_saved fits restored ht hu hhalf hoff hj h
  · exact contextRestoreComplete_waits
  · intro h5
    obtain ⟨S, hS, now, raised, recorded, teams⟩ := contextRestoreComplete_restores h5
    exact ⟨S, hS, now, raised, recorded, fun none_recorded => teams ▸ State.refilled_attics none_recorded⟩
  · exact partitionResetComplete_waits
  · exact partitionResetComplete_ends
  -- The fault queue (R107).
  · exact faultEntryWrite_idle
  · intro f hf base n head tail place
    have gives_write : ∀ {q : State → Prop}, q (s.writeFault k f) → gives .faultEntryWrite q := fun h => ⟨_, faultEntryWrite_writes hf, h⟩
    refine ⟨fun hh hb => gives_write (State.writeFault_failed f hh hb), fun hh => ?_, fun up => ⟨fun full => ?_, fun room hbm => ?_⟩⟩
    · exact (faultEntryWrite_writes hf).trans (congrArg Host.Outcome.next (State.writeFault_held f hh))
    · exact gives_write (State.writeFault_full f up full)
    · obtain ⟨entry, ring, beside, raised, quiet, faults⟩ := State.writeFault_writes f up room hbm
      exact gives_write ⟨entry, ring, beside, raised, quiet, faults ▸ s.faultsWritten_all k f.block⟩

end Sys2Proof.Machine
end

section
/-! SUPPORT. What taking a trap comes to (R104, R105, R116): the details of its record and log entry, the state in which it
enters the handler, and a team that is killed for its relaunch. -/

namespace Sys2Proof.Machine

/-! ### The details of a trap (R105, R122) -/

/-- A write of the low bits keeps what stands above them. -/
theorem setField_low (w : DWord) {n v : Nat} (hv : v < 2 ^ n) : setField w 0 n v = BitVec.ofNat 64 (w.toNat / 2 ^ n * 2 ^ n + v) := by
  refine BitVec.eq_of_getLsbD_eq fun j hj => ?_
  change bitAt (setField w 0 n v) j = _
  rw [bitAt_setField _ _ _ _ _ hj, BitVec.getLsbD_ofNat, Nat.mul_comm, Nat.testBit_two_pow_mul_add _ hv, Nat.testBit_div_two_pow,
    decide_eq_true hj, Bool.true_and]
  by_cases h : j < n
  · simp [h]
  · rw [if_neg (by omega), if_neg h, Nat.sub_add_cancel (by omega), bitAt, BitVec.testBit_toNat]

/-- The outer cause stands in the low 16 bits of the detail of a trap in the handler (R105). -/
theorem outerDetail_eq (g : Group) (d : DWord) :
    outerDetail g d = BitVec.ofNat 64 (d.toNat / 2 ^ 16 * 2 ^ 16 + fieldOf (sget 0 g.sregs 56) 0 16) :=
  setField_low d (fieldOf_lt _ _ _)

/-- What the detail of a class 2 trap says above its core (R122). -/
def class2Above (t : Team) (tr : Trap) (lane : Nat) : Nat :=
  2 ^ 63 + 2 ^ 61 * (t.relaunches % 4) + 2 ^ 48 * (tr.kind % 256) + 2 ^ 32 * lane

theorem trapDetail_class2 {t : Team} {g : Group} {tr : Trap} (h2 : causeClass tr.cause = 2) {x : Nat × Nat}
    (hx : g.lowestOf tr.mask = some x) : trapDetail t g tr = BitVec.ofNat 64 (class2Above t tr x.1 + 0xFFFFFFFF) := by
  rw [trapDetail, if_pos h2, class2Detail, hx]
  rfl

theorem trapDetail_other {t : Team} {g : Group} {tr : Trap} (h2 : causeClass tr.cause ≠ 2) : trapDetail t g tr = tr.detail := if_neg h2

theorem outerDetail_class2 {t : Team} {g : Group} {tr : Trap} (h2 : causeClass tr.cause = 2) {x : Nat × Nat}
    (hx : g.lowestOf tr.mask = some x) : outerDetail g (trapDetail t g tr) =
      BitVec.ofNat 64 (class2Above t tr x.1 + 0xFFFF0000 + fieldOf (sget 0 g.sregs 56) 0 16) := by
  obtain ⟨high, hhigh⟩ : ∃ high, class2Above t tr x.1 = 2 ^ 16 * high :=
    ⟨2 ^ 47 + 2 ^ 45 * (t.relaunches % 4) + 2 ^ 32 * (tr.kind % 256) + 2 ^ 16 * x.1, by unfold class2Above; omega⟩
  rw [outerDetail_eq, trapDetail_class2 h2 hx, hhigh, BitVec.toNat_ofNat]
  apply BitVec.eq_of_toNat_eq
  rw [BitVec.toNat_ofNat, BitVec.toNat_ofNat]
  omega

/-! ### The outcomes of a trap -/

/-- The causes that start a relaunch are of class 2 (R116). -/
theorem relaunches_iff (t : Team) (tr : Trap) : relaunches t tr ↔
    tr.cause ∈ [0x300, 0x301, 0x302, 0x304] ∧ t.launch.contain = true ∧ t.restartable = true := by
  have starts : startsRelaunch tr.cause = true ↔ tr.cause ∈ [0x300, 0x301, 0x302, 0x304] := by
    simp [startsRelaunch, or_assoc]
  have class2 : ∀ c ∈ [0x300, 0x301, 0x302, 0x304], causeClass c = 2 := by decide
  rw [← starts]
  exact and_iff_right_of_imp fun h => class2 _ (starts.1 h.1)

/-- The detail with which a trap that ends its instance is logged (R105). -/
def killDetail (t : Team) (g : Group) (tr : Trap) : DWord :=
  if g.inHandler then outerDetail g (trapDetail t g tr) else trapDetail t g tr

theorem takeTrap_relaunches {s : State} {t : Team} {g : Group} {tr : Trap} (hr : relaunches t tr) :
    s.takeTrap t g tr = s.startRelaunch t g tr := if_pos hr

/-- In the handler, or without one, a trap ends the instance with TRAP_KILL (R104, R105). -/
theorem takeTrap_kills {s : State} {t : Team} {g : Group} {tr : Trap} (hr : ¬ relaunches t tr)
    (h : g.inHandler = true ∨ t.launch.handler = 0) : s.takeTrap t g tr =
      ((s.put t g).addLog (s.trapEntry t g tr (killDetail t g tr) g.pc)).failInstance t.inst 0x0D 0 0 := by
  rcases takeTrap_cases s t g tr with ⟨relaunch, -⟩ | ⟨-, -, kills⟩ | ⟨-, outside, handler, -⟩
  · exact absurd relaunch hr
  · exact kills
  · rw [outside] at h
    exact absurd (h.resolve_left Bool.false_ne_true) handler

/-- Whether a trap that enters its handler is logged too: one of class 2, a cross-world access, or a PAGE_FAULT with detail 3
or 6 (R55, R104, R161). -/
def deliveredIsLogged (t : Team) (g : Group) (tr : Trap) : Bool :=
  decide (causeClass tr.cause = 2) || decide (tr.cause = 0x0201) || (decide (tr.cause = 0x0200)
    && (decide (fieldOf (trapDetail t g tr) 0 8 = 3) || decide (fieldOf (trapDetail t g tr) 0 8 = 6)))

/-- The state in which a delivered trap is logged where it must be. -/
def State.logDelivered (s : State) (t : Team) (g : Group) (tr : Trap) : State :=
  if deliveredIsLogged t g tr then s.addLog (s.trapEntry t g tr (trapDetail t g tr) g.pc) else s

/-- The state in which a delivered trap also has its fibre id: a fresh one where its lane holds no fibre. -/
def State.noteDelivered (s : State) (t : Team) (g : Group) (tr : Trap) : State :=
  { s.logDelivered t g tr with
    free := if (g.lowestOf tr.mask).isSome then (s.logDelivered t g tr).free else (s.logDelivered t g tr).free + 1 }

/-- A group of a team with a handler, outside it, enters it (R104). -/
theorem takeTrap_delivers {s : State} {t : Team} {g : Group} {tr : Trap} (hr : ¬ relaunches t tr) (hh : g.inHandler = false)
    (h0 : t.launch.handler ≠ 0) : s.takeTrap t g tr =
      (s.noteDelivered t g tr).put t (g.enterHandler t s.clk (s.logDelivered t g tr).free tr (trapDetail t g tr)) := by
  unfold State.takeTrap
  rw [if_neg hr, hh, if_neg Bool.false_ne_true, if_neg h0]
  rfl

theorem State.logDelivered_logsTo (s : State) (t : Team) (g : Group) (tr : Trap) : s.LogsTo (s.logDelivered t g tr) := by
  unfold State.logDelivered
  split
  · exact s.addLog_logsTo _
  · exact .refl s

theorem State.noteDelivered_teams (s : State) (t : Team) (g : Group) (tr : Trap) : (s.noteDelivered t g tr).teams = s.teams :=
  (s.logDelivered_logsTo t g tr).teams

theorem State.noteDelivered_homeByte (s : State) (t : Team) (g : Group) (tr : Trap) (a : Nat) :
    (s.noteDelivered t g tr).homeByte a = s.homeByte a :=
  (s.logDelivered_logsTo t g tr).homeByte a

/-- Every delivered trap of class 2 is logged (R104). -/
theorem State.noteDelivered_log {s : State} {t : Team} {g : Group} {tr : Trap} (h2 : causeClass tr.cause = 2) :
    (s.noteDelivered t g tr).log = (s.addLog (s.trapEntry t g tr (trapDetail t g tr) g.pc)).log := by
  have logged : deliveredIsLogged t g tr = true := by simp [deliveredIsLogged, h2]
  rw [State.noteDelivered, State.logDelivered, if_pos logged]

/-- A delivered trap that is not logged and whose lane holds a fibre changes nothing beside its team (R104). -/
theorem State.noteDelivered_quiet {s : State} {t : Team} {g : Group} {tr : Trap} (h2 : causeClass tr.cause ≠ 2) (h201 : tr.cause ≠ 0x201)
    (h200 : tr.cause ≠ 0x200) (hx : g.lowestOf tr.mask ≠ none) : s.noteDelivered t g tr = s := by
  have unlogged : deliveredIsLogged t g tr = false := by simp [deliveredIsLogged, h2, h201, h200]
  have same : s.logDelivered t g tr = s := if_neg (by rw [unlogged]; exact Bool.false_ne_true)
  rw [State.noteDelivered, same, if_pos (Option.isSome_iff_ne_none.2 hx)]

/-- The first word of a trap's record (R104). -/
theorem enterHandler_s56 {g : Group} {tr : Trap} {x : Nat × Nat} (hx : g.lowestOf tr.mask = some x) (t : Team) (clk free : Nat) (detail : DWord) :
    sget 0 (g.enterHandler t clk free tr detail).sregs 56 = BitVec.ofNat 64 (2 ^ 32 * (x.2 % 2 ^ 32) + (if tr.completed then 2 ^ 24 else 0) +
      2 ^ 16 * causeClass tr.cause + tr.cause % 2 ^ 16) := by
  have fid : (g.trapFid free tr).toNat = x.2 % 2 ^ 32 := by
    rw [Group.trapFid, hx]
    exact BitVec.toNat_ofNat _ _
  rw [← fid]
  exact sget_ssetList_in _ _ _ 56 0 (by simp)

/-! ### A team that is killed for its relaunch (R116) -/

theorem State.killTeam_insts (s : State) (t : Team) : (s.killTeam t).insts = s.insts :=
  foldl_keeps (fun S => S.insts = s.insts)
    (fun S i => S.slotWrite t.part { slot := i, ver := s.version t, core := some t.core, act := .free })
    (fun S _ h => (State.slotWrite_spares S _ _).insts.trans h) t.pending ((s.dropTeam t).unpinTeam t) rfl

theorem State.inst?_id {s : State} {id : Nat} {i : Inst} (h : s.inst? id = some i) : i ∈ s.insts ∧ i.id = id :=
  ⟨List.mem_of_find?_eq_some h, by simpa using List.find?_some h⟩

/-- An instance that is put back is the one that its number then gives. -/
theorem State.inst?_putInst {s : State} {i j : Inst} (h : s.inst? j.id = some i) : (s.putInst j).inst? j.id = some j := by
  obtain ⟨hi, hid⟩ := State.inst?_id h
  exact find?_put s.insts (fun x => decide (x.id = j.id)) (fun x => x.id = j.id) j (fun x => decide_eq_true_iff.symm) (by simp)
    ⟨i, hi, decide_eq_true hid⟩

/-- A relaunch that is not the third: the team leaves its core, and in its instance it waits, empty, to be placed again. -/
theorem State.startRelaunch_waits {s : State} {t : Team} {i : Inst} (g : Group) (tr : Trap) (hn : t.relaunches ≠ 2)
    (hi : s.inst? t.inst = some i) : (s.startRelaunch t g tr).teams = (s.killTeam t).teams ∧ ∃ t' : Team,
      (s.startRelaunch t g tr).inst? t.inst = some { i with relaunch := i.relaunch ++ [t'] } ∧
      t'.index = t.index ∧ t'.relaunches = t.relaunches + 1 ∧ t'.sb = [] ∧ t'.groups = [] := by
  obtain ⟨-, hid⟩ := State.inst?_id hi
  have killed : (s.killTeam t).inst? t.inst = some i := by
    rw [State.inst?, State.killTeam_insts]
    exact hi
  have put (i' : Inst) (h : i'.id = t.inst) : ((s.killTeam t).putInst i').inst? t.inst = some i' :=
    h ▸ State.inst?_putInst (h ▸ killed)
  unfold State.startRelaunch
  rw [if_neg hn, hi]
  exact ⟨rfl, _, put _ hid, rfl, rfl, rfl, rfl⟩

/-- The third relaunch of a team fails its instance with CONTAINED_FAIL (R117). -/
theorem State.startRelaunch_fails {s : State} {t : Team} (g : Group) (tr : Trap) (hn : t.relaunches = 2) : s.startRelaunch t g tr =
    (s.addLog (s.trapEntry t g tr (class2Detail t g tr false 0xFFFFFFFF) g.pc)).failInstance t.inst 0x0C 0
      (BitVec.ofNat 64 t.index) t.index :=
  if_pos hn

end Sys2Proof.Machine
end

section
/-! PROOFS. The obligation on traps (R103 to R105, R116, R118, R122). -/

namespace Sys2Proof.Machine

/-- Settles O50: a trap is delivered, ends its instance or relaunches its team, and each conjunct is the lemma on its outcome. -/
theorem trapsAreTaken : Obligations.TrapsAreTaken := by
  unfold Obligations.TrapsAreTaken
  intro s t g tr cls relaunch S
  have iff : relaunches t tr ↔ relaunch := relaunches_iff t tr
  rw [← iff]
  refine ⟨fun hr hh h0 => ?_, fun hr hh => ?_, fun hr hh h0 => ?_, fun hr hn i hi => ?_, fun hr hn => ?_⟩
  -- The handler is entered (R104).
  · have delivered : S = _ := takeTrap_delivers hr hh h0
    obtain ⟨pc, inHandler, lanes, num, core, gpred, wait, issued, buf, sregs, s57, s58, s59, s60, s61⟩ :=
      enterHandler_spec g t s.clk (s.logDelivered t g tr).free tr (trapDetail t g tr)
    refine ⟨_, pc, inHandler, lanes, gpred, rfl, num, core, wait, issued, buf, fun i hi => sregs i (.inl hi),
      fun x hx => enterHandler_s56 hx _ _ _ _, s57, s58, s59, fun h2 => s60.trans (trapDetail_other h2),
      fun h2 x hx => s60.trans (trapDetail_class2 h2 hx), s61, fun h2 h201 h200 hx => ?_, fun h2 => ?_, fun a => ?_⟩
    · rw [delivered, State.noteDelivered_quiet h2 h201 h200 hx]
    · rw [delivered]
      refine ⟨s.trapEntry t g tr (trapDetail t g tr) g.pc, rfl, State.noteDelivered_log h2, ?_⟩
      exact congrArg (List.map _) (s.noteDelivered_teams t g tr)
    · rw [delivered]
      exact s.noteDelivered_homeByte t g tr a
  -- A trap in the handler (R105).
  · have detail : killDetail t g tr = outerDetail g (trapDetail t g tr) := if_pos hh
    refine ⟨_, rfl, fun h2 => ?_, fun h2 x hx => ?_, takeTrap_kills hr (.inl hh)⟩
    · exact detail.trans ((outerDetail_eq _ _).trans (by rw [trapDetail_other h2]))
    · exact detail.trans (outerDetail_class2 h2 hx)
  -- A trap without a handler (R104).
  · exact ⟨_, rfl, takeTrap_kills hr (.inr h0)⟩
  -- A relaunch, and the third one (R116, R117).
  · have relaunched : S = _ := takeTrap_relaunches hr
    obtain ⟨teams, t', found, waits⟩ := State.startRelaunch_waits g tr hn hi
    rw [relaunched]
    exact ⟨fun u hu => s.killTeam_gone (teams ▸ hu), _, t', found, rfl, waits⟩
  · exact ⟨_, rfl, (takeTrap_relaunches hr).trans (State.startRelaunch_fails g tr hn)⟩

end Sys2Proof.Machine
end

section
/-! SUPPORT. How a copy starts (R276, R282, R303): the arrival of one that is done at once, the Hamper record that names the
copy, and the register of one that lands. -/

namespace Sys2Proof.Machine

/-! ### Arrivals of copies (R218, R286) -/

/-- The groups are judged from the word that the barrier now has, whatever else of the team has changed. -/
theorem Team.judgeWaiters_judged {t u : Team} (hl : u.launch = t.launch) (hw : u.win = t.win) (hg : u.groups = t.groups) (b : Nat) :
    t.Judged (u.judgeWaiters b) b := by
  refine ⟨_, congrArg (List.map _) hg, fun v => ?_⟩
  have lanes : lanesOn u v 0 = lanesOn t v 0 := by simp only [lanesOn, Team.wid, hl]
  have bar : (u.judgeWaiters b).bar b = u.bar b := rfl
  constructor
  · rintro ⟨d, hd, hb, none_waits⟩
    rw [bar] at none_waits
    simp only [hd, lanes, hw]
    exact if_pos ⟨trivial, hb, by simpa using none_waits⟩
  · intro waits
    cases hv : v.barAt with
    | none => rfl
    | some x =>
      obtain ⟨b', d⟩ := x
      simp only [lanes, hw]
      refine if_neg ?_
      rintro ⟨rfl, hb, none_waits⟩
      exact waits ⟨d, hv, hb, by simpa [bar] using none_waits⟩

theorem Team.copyArrival_some {t : Team} {c : Copy} {b : Nat} (h : t.arrivesAt c = some b) : ∃ sb,
    t.copyArrival c = ({ t with sb := sb }.setBar b (barArrive (t.bar b) 1)).judgeWaiters b ∧ (t.launch.contain = false → sb = t.sb) := by
  refine ⟨if t.launch.contain && barOn (t.bar b) then t.closeEntries.sb else t.sb, ?_, fun plain => by simp [plain]⟩
  unfold Team.copyArrival
  rw [h]
  dsimp only
  split <;> rfl

theorem Team.copyArrival_none {t : Team} {c : Copy} (h : t.arrivesAt c = none) : t.copyArrival c = t := by
  unfold Team.copyArrival
  rw [h]

/-- A copy that arrives at its barrier, and one that does not (R286). -/
theorem Team.copyArrival_arrives (t : Team) (c : Copy) {p : Prop} [Decidable p] {b : Nat}
    (h : t.arrivesAt c = if p then some b else none) : t.copyArrives (t.copyArrival c) p b := by
  by_cases hp : p
  · obtain ⟨sb, arrived, plain⟩ := Team.copyArrival_some (h.trans (if_pos hp))
    rw [arrived]
    exact ⟨fun hn => absurd hp hn, fun _ => ⟨Team.judgeWaiters_judged rfl rfl rfl b, plain, fun i => sget_sset _ _ _ _ _⟩⟩
  · rw [Team.copyArrival_none (h.trans (if_neg hp))]
    exact ⟨fun _ => ⟨rfl, rfl, rfl⟩, fun h => absurd h hp⟩

/-- The arrival of a copy changes only the barriers, the store buffer and the groups. -/
theorem Team.copyArrival_frame (t : Team) (c : Copy) : t.copyArrival c =
    { t with barriers := (t.copyArrival c).barriers, sb := (t.copyArrival c).sb, groups := (t.copyArrival c).groups } := by
  cases h : t.arrivesAt c with
  | none => rw [Team.copyArrival_none h]
  | some b =>
    obtain ⟨sb, arrived, -⟩ := Team.copyArrival_some h
    rw [arrived]
    rfl

/-- Where a copy that its descriptor describes arrives (R286). -/
theorem Team.arrivesAt_descriptor (t : Team) {c : Copy} (h : c.kind ∈ [.bcpy, .gath, .layx]) :
    t.arrivesAt c = if bitAt (c.d 2) 16 = true ∧ t.exiting = false then some (fieldOf (c.d 2) 17 4) else none := by
  have same : t.arrivesAt c = if bitAt (c.d 2) 16 && !t.exiting then some (fieldOf (c.d 2) 17 4) else none := by
    simp only [List.mem_cons, List.not_mem_nil, or_false] at h
    rcases h with h | h | h <;> simp only [Team.arrivesAt, h]
  rw [same]
  exact if_congr (by simp) rfl rfl

/-- A team whose copy is done: the register is IDLE, and the copy arrives where its descriptor says so (R276, R286). -/
theorem Team.copyDone_spec (t : Team) (k : Nat) {c : Copy} (h : c.kind ∈ [.bcpy, .gath, .layx]) :
    let t' := t.copyDone k c
    t' = { t with copies := sset {} t.copies k c.idle, barriers := t'.barriers, sb := t'.sb, groups := t'.groups } ∧
    t.copyArrives t' (bitAt (c.d 2) 16 = true ∧ t.exiting = false) (fieldOf (c.d 2) 17 4) :=
  ⟨(t.setCopy k c.idle).copyArrival_frame c, (t.setCopy k c.idle).copyArrival_arrives c (Team.arrivesAt_descriptor _ h)⟩

theorem Team.copy_setCopy (t : Team) (k j : Nat) (c : Copy) : (t.setCopy k c).copy j = if j = k then c else t.copy j :=
  sget_sset _ _ _ _ _

theorem Team.hrec_setHrec (t : Team) (k j : Nat) (r : HRecord) : (t.setHrec k r).hrec j = if j = k then r else t.hrec j :=
  sget_sset _ _ _ _ _

/-! ### The start of a copy (R276, R303) -/

/-- The register of a copy as it starts: no byte has landed (R276). -/
def Team.startedCopy (t : Team) (i : Issue) (reserved : Nat) (buffered : Bool) : Copy :=
  { i.copy with
    src := i.src.map fun r => rangeOf r.1 0 0 r.2
    dst := some (rangeOf i.dst.1 i.dst.2.1 (if i.dst.1 = .hamper then t.hbyteAt i.dst.2.1 0 else 0) i.dst.2.2)
    idx := i.idx.map fun r => rangeOf r.1 0 0 r.2
    reserved := reserved, buffered := buffered, seq := t.copySeq, st := .landing }

/-- The fourth word of a Hamper record in which the copy of register `k` lands (R303). -/
def landingWord (w : DWord) (k : Nat) : DWord :=
  setField (setField (setField (setField (setField w 25 2 1) 27 1 0) 30 1 0) 21 4 k) 0 21 0

/-- A Hamper record in which a copy lands (R303). -/
def HRecord.landing (r : HRecord) (k : Nat) (c : Copy) : HRecord :=
  { r with w3 := landingWord r.w3 k, desc := c.desc, gath := c.kind == .gath, faultVa := none, cover := [], rbad := []
           index := none, part := 0 }

/-- The Hamper records once a copy has started (R303). -/
def Team.landingRecs (t : Team) (k : Nat) (i : Issue) (c : Copy) : Sparse HRecord :=
  if i.dst.1 = .hamper then sset {} t.hrecs i.dst.2.1 ((t.hrec i.dst.2.1).landing k c) else t.hrecs

/-- The team in which a copy has taken its number and its Hamper record. -/
def Team.numbered (t : Team) (k : Nat) (i : Issue) (c : Copy) : Team :=
  { t with copySeq := t.copySeq + 1, hrecs := t.landingRecs k i c }

theorem Team.startCopy_eq (t : Team) (k : Nat) (i : Issue) (reserved : Nat) (buffered : Bool) : t.startCopy k i reserved buffered =
    (let c := t.startedCopy i reserved buffered
     if i.copy.total = 0 then (t.numbered k i c).copyDone k c else (t.numbered k i c).setCopy k c) := by
  have named : (if i.dst.1 = .hamper then { t with copySeq := t.copySeq + 1 }.setHrec i.dst.2.1
        ((t.hrec i.dst.2.1).landing k (t.startedCopy i reserved buffered)) else { t with copySeq := t.copySeq + 1 }) =
      t.numbered k i (t.startedCopy i reserved buffered) := by
    unfold Team.numbered Team.landingRecs
    split <;> rfl
  dsimp only
  rw [← named]
  rfl

/-- What a Hamper record says of the copy that lands in it (R303). -/
theorem HRecord.landing_spec (r : HRecord) {k : Nat} (hk : k < 16) (c : Copy) :
    (r.landing k c).lv = true ∧ (r.landing k c).lk = k ∧ (r.landing k c).rf = false ∧ (r.landing k c).rfail = false ∧
      (r.landing k c).cw = false ∧ (r.landing k c).rcount = 0 := by
  refine ⟨?_, ?_, ?_, ?_, ?_, ?_⟩
  · change bitAt (landingWord r.w3 k) 25 = true
    simp [landingWord, bitAt_setField]
  · change fieldOf (landingWord r.w3 k) 21 4 = k
    rw [landingWord, fieldOf_setField_disjoint _ _ (by omega) (by omega), fieldOf_setField_same _ _ (by omega)]
    omega
  · change bitAt (landingWord r.w3 k) 26 = false
    simp [landingWord, bitAt_setField, show Nat.testBit 1 1 = false from rfl]
  · change bitAt (landingWord r.w3 k) 27 = false
    simp [landingWord, bitAt_setField]
  · change bitAt (landingWord r.w3 k) 30 = false
    simp [landingWord, bitAt_setField]
  · change fieldOf (landingWord r.w3 k) 0 21 = 0
    rw [landingWord, fieldOf_setField_same _ _ (by omega)]
    rfl

theorem Team.landingRecs_hamper (t : Team) (k : Nat) {i : Issue} (c : Copy) (h : i.dst.1 = .hamper) (j : Nat) :
    sget {} (t.landingRecs k i c) j = if j = i.dst.2.1 then (t.hrec i.dst.2.1).landing k c else t.hrec j := by
  rw [Team.landingRecs, if_pos h]
  exact sget_sset _ _ _ _ _

theorem Team.landingRecs_other (t : Team) (k : Nat) {i : Issue} (c : Copy) (h : i.dst.1 ≠ .hamper) : t.landingRecs k i c = t.hrecs :=
  if_neg h

/-- What a team is like in which a copy has started (R276, R282, R286, R303). -/
structure Team.CopyStarted (t t' : Team) (k : Nat) (i : Issue) (reserved : Nat) (buffered : Bool) : Prop where
  frame : t' = { t with copySeq := t.copySeq + 1, copies := t'.copies, hrecs := t'.hrecs, barriers := t'.barriers, sb := t'.sb
                        groups := t'.groups }
  others : ∀ j, j ≠ k → t'.copy j = t.copy j
  empty : i.copy.total = 0 → (t'.copy k).st = .idle
  arrives : t.copyArrives t' (i.copy.total = 0 ∧ bitAt (i.copy.d 2) 16 = true ∧ t.exiting = false) (fieldOf (i.copy.d 2) 17 4)
  register : i.copy.total ≠ 0 → t'.copy k = t.startedCopy i reserved buffered
  hrecs : t'.hrecs = t.landingRecs k i (t.startedCopy i reserved buffered)

theorem Team.startCopy_started (t : Team) (k : Nat) {i : Issue} (reserved : Nat) (buffered : Bool)
    (h : i.copy.kind ∈ [.bcpy, .gath, .layx]) : t.CopyStarted (t.startCopy k i reserved buffered) k i reserved buffered := by
  rw [Team.startCopy_eq]
  generalize hc : t.startedCopy i reserved buffered = c
  have kind : c.kind ∈ [.bcpy, .gath, .layx] := hc ▸ h
  have desc : i.copy.d 2 = c.d 2 := hc ▸ rfl
  by_cases h0 : i.copy.total = 0
  · dsimp only
    rw [if_pos h0]
    obtain ⟨frame, arrival⟩ := (t.numbered k i c).copyDone_spec k kind
    generalize (t.numbered k i c).copyDone k c = t' at frame arrival ⊢
    have copies (j : Nat) : t'.copy j = if j = k then c.idle else t.copy j := by
      rw [frame]
      exact sget_sset _ _ _ _ _
    exact {
      frame := by rw [frame]; rfl
      others := fun j hj => (copies j).trans (if_neg hj)
      empty := fun _ => by rw [copies, if_pos rfl]; rfl
      arrives := by
        rw [desc]
        exact ⟨fun hn => arrival.1 fun h => hn ⟨h0, h⟩, fun h => arrival.2 h.2⟩
      register := fun h => absurd h0 h
      hrecs := by rw [frame, hc]; rfl }
  · dsimp only
    rw [if_neg h0]
    exact {
      frame := rfl
      others := fun j hj => ((t.numbered k i c).copy_setCopy k j c).trans (if_neg hj)
      empty := fun h => absurd h h0
      arrives := ⟨fun _ => ⟨rfl, rfl, rfl⟩, fun h => absurd h.1 h0⟩
      register := fun _ => ((t.numbered k i c).copy_setCopy k k c).trans ((if_pos rfl).trans hc.symm)
      hrecs := by rw [hc]; rfl }

end Sys2Proof.Machine
end

section
/-! PROOFS. The issue of BCPY, GATH and LAYX (R276 to R282, R287, R290). -/

namespace Sys2Proof.Machine

/-! ### The steps of an issue (R282) -/

/-- A copy that its team's store buffer takes lands into it (R112). -/
abbrev Team.buffers (t : Team) (i : Issue) : Prop := t.launch.contain = true ∧ i.dst.1 = .global ∧ 0 < i.bytes

/-- The entries that a copy reserves: none where it does not land into the store buffer (R112). -/
def Team.reserves (t : Team) (i : Issue) : Nat := if t.buffers i then reservation i.bytes else 0

section
variable {c : Ctx} {s : State} {k : Nat} {i : Issue} {f : State → Ctx → Res}

theorem Ctx.issueCopy_failed (h : (c.t.copy k).st = .failed) :
    c.issueCopy s k i none f = c.trap s (copyFailedTrap c.g.activeMask k (c.t.copy k)) := by
  unfold Ctx.issueCopy
  simp only [h]

theorem Ctx.issueCopy_running (h : (c.t.copy k).st = .landing ∨ (c.t.copy k).st = .frozen) :
    c.issueCopy s k i none f = c.wait s .watermark := by
  unfold Ctx.issueCopy
  rcases h with h | h <;> simp only [h]

/-- A copy whose ranges are in bounds and whose entries the store buffer has room for starts. -/
theorem Ctx.issueCopy_starts (h : (c.t.copy k).st = .idle) (bounds : i.trap? c.t c.g.activeMask = none)
    (room : c.t.buffers i → c.t.sbUsed + reservation i.bytes ≤ 2048 ∧ c.t.draining = false) :
    c.issueCopy s k i none f = f s { c with t := c.t.startCopy k i (c.t.reserves i) (decide (c.t.buffers i)) } := by
  have reserve : c.issueCopy s k i none f = c.reserveCopy s k i f := by
    unfold Ctx.issueCopy
    simp only [h, bounds]
  rw [reserve, Ctx.reserveCopy]
  by_cases hb : c.t.buffers i
  · obtain ⟨fits, filling⟩ := room hb
    rw [if_pos (by simp [hb]), if_pos (by simp [fits, filling]), Team.reserves, if_pos hb, decide_eq_true hb]
  · rw [if_neg (by simpa [and_assoc] using hb), Team.reserves, if_neg hb, decide_eq_false hb]

end

/-! ### The three copies -/

/-- What BCPY, GATH and LAYX do where their guard holds (R282). -/
def copyBody (w : WE) (bad : Ctx → List DWord → Bool) (mk : Ctx → List DWord → Issue) (s : State) (c : Ctx) : Res :=
  let d := c.copyDesc w.a
  if !c.g.inIssue && bad c d then c.illegal s 2
  else if !c.g.inIssue && c.uniDiffers then c.sdcUni s 3
  else if c.g.underfull c.t then c.trap s (partialTrap c.g)
  else c.issueCopy s (w.sub.toNat % 16) (mk c d) none fun s1 c1 => .next (c1.finish s1 0 w.m.words)

theorem copyInstr_eq (w : WE) (bad : Ctx → List DWord → Bool) (mk : Ctx → List DWord → Issue) (s : State) : copyInstr w s bad mk =
    uniInstr s (guardYX w.m) w.m 0 ((List.range 8).map fun i => .s (w.a.toNat + i)) (copyBody w bad mk) none := rfl

section
variable {w : WE} {bad : Ctx → List DWord → Bool} {mk : Ctx → List DWord → Issue} {s : State} {c : Ctx}

theorem copyBody_bad (hb : bad c (c.copyDesc w.a) = true) (hi : c.g.inIssue = false) :
    s.traps c.t c.g (copyBody w bad mk s c) 0x100 0 2 := by
  rw [copyBody, if_pos (by simp [hb, hi])]
  rfl

theorem copyBody_checked (hb : bad c (c.copyDesc w.a) = false ∨ c.g.inIssue = true) (hd : c.uniDiffers = false) :
    copyBody w bad mk s c = if c.g.underfull c.t then c.trap s (partialTrap c.g)
      else c.issueCopy s (w.sub.toNat % 16) (mk c (c.copyDesc w.a)) none fun s1 c1 => .next (c1.finish s1 0 w.m.words) := by
  have passed : ¬ (!c.g.inIssue && bad c (c.copyDesc w.a)) = true := by
    rcases hb with h | h <;> simp [h]
  rw [copyBody, if_neg passed, if_neg (by simp [hd])]

theorem copyBody_partial (hb : bad c (c.copyDesc w.a) = false ∨ c.g.inIssue = true) (hd : c.uniDiffers = false)
    (hp : c.g.active.length < c.t.launch.wv) : s.traps c.t c.g (copyBody w bad mk s c) 0x103 0 0 := by
  rw [copyBody_checked hb hd, if_pos (by simpa [Group.underfull] using hp)]
  rfl

theorem copyBody_full (hb : bad c (c.copyDesc w.a) = false ∨ c.g.inIssue = true) (hd : c.uniDiffers = false)
    (hf : c.t.launch.wv ≤ c.g.active.length) : copyBody w bad mk s c =
      c.issueCopy s (w.sub.toNat % 16) (mk c (c.copyDesc w.a)) none fun s1 c1 => .next (c1.finish s1 0 w.m.words) := by
  rw [copyBody_checked hb hd, if_neg (by simpa [Group.underfull] using hf)]

end

/-- What the issue of a copy comes to: `bad` says that its descriptor is refused, and `i` is what it describes (R276, R282, R303). -/
structure CopyIssued (w : WE) (s : State) (t : Team) (g : Group) (c : Ctx) (r : Res) (k : Nat) (bad : Bool) (i : Issue) : Prop where
  refused : bad = true → g.inIssue = false → s.traps t g r 0x100 0 2
  underfull : bad = false ∨ g.inIssue = true → g.active.length < t.launch.wv → s.traps t g r 0x103 0 0
  failed : bad = false ∨ g.inIssue = true → t.launch.wv ≤ g.active.length → (t.copy k).st = .failed →
    s.traps t g r 0x10A (t.copy k).faddr (BitVec.ofNat 64 (k + 48))
  waits : bad = false ∨ g.inIssue = true → t.launch.wv ≤ g.active.length → (t.copy k).st = .landing ∨ (t.copy k).st = .frozen →
    r = .next (s.acted c.clk t { g with nextIssue := c.clk + 1, wait := .watermark })
  starts : bad = false ∨ g.inIssue = true → t.launch.wv ≤ g.active.length → (t.copy k).st = .idle → i.trap? t g.activeMask = none →
    (t.buffers i → t.sbUsed + reservation i.bytes ≤ 2048 ∧ t.draining = false) → ∃ t' g', r = .next (s.acted c.clk t' g') ∧
      g.Only g' c.clk 0 w.m.words ∧ t.CopyStarted t' k i (t.reserves i) (decide (t.buffers i))

theorem Group.retire_only (g : Group) (clk stall words : Nat) : g.Only (g.retire clk stall words) clk stall words :=
  ⟨retire_passed _ _ _ _, rfl, rfl, rfl, rfl, rfl, rfl⟩

theorem copyBody_issued {w : WE} {bad : Ctx → List DWord → Bool} {mk : Ctx → List DWord → Issue} {s : State} {c : Ctx} (hs : s.clk = c.clk)
    (hd : c.uniDiffers = false) (kind : (mk c (c.copyDesc w.a)).copy.kind ∈ [.bcpy, .gath, .layx]) :
    CopyIssued w s c.t c.g c (copyBody w bad mk s c) (w.sub.toNat % 16) (bad c (c.copyDesc w.a)) (mk c (c.copyDesc w.a)) where
  refused hb hi := copyBody_bad hb hi
  underfull hb hp := copyBody_partial hb hd hp
  failed hb hf hst := by
    rw [copyBody_full hb hd hf, Ctx.issueCopy_failed hst]
    have detail : entryDetail (w.sub.toNat % 16) 3 = BitVec.ofNat 64 (w.sub.toNat % 16 + 48) :=
      congrArg (fun n => BitVec.ofNat 64 (n + 48)) (Nat.mod_mod _ _)
    rw [State.traps, ← detail]
    rfl
  waits hb hf hst := by
    rw [copyBody_full hb hd hf, Ctx.issueCopy_running hst, State.acted_of_clk hs]
    rfl
  starts hb hf hst bounds room := by
    rw [copyBody_full hb hd hf, Ctx.issueCopy_starts hst bounds room]
    refine ⟨_, _, congrArg Host.Outcome.next ?_, c.g.retire_only _ _ _, Team.startCopy_started _ _ _ _ kind⟩
    rw [Ctx.finish_of_clk (by exact hs), State.acted_of_clk hs]

/-- What is said of a uniform instruction where it acts may be said less strongly. -/
theorem UniRuns.imp {run : State → Res} {gd : Guard} {m : Mods} {stall : Nat} {locs : List Loc}
    {post post' : State → Team → Group → Ctx → Res → Prop} (h : UniRuns run gd m stall locs post)
    (weaker : ∀ s t g c r, post s t g c r → post' s t g c r) : UniRuns run gd m stall locs post' :=
  ⟨h.1, fun s t g hi hn hg hd => weaker _ _ _ _ _ (h.2 s t g hi hn hg hd)⟩

/-- The issue that a descriptor describes: its kind, its sizes and its ranges (R278, R287, R290). -/
def describedIssue (t : Team) (g : Group) (d : List DWord) (kind : CopyKind) (size : Nat × Nat × Bool) (src : Option (Space × (Int × Int)))
    (dst : Space × (Int × Int)) (idx : Option (Space × (Int × Int))) : Issue where
  copy := { kind := kind, desc := d, total := size.1, core := g.core, fibres := g.active.map (·.2), strided := size.2.2 }
  src := src
  dst := (dst.1, if dst.1 = .hamper then t.hrecKey g.core (fieldOf (d.getD 2 0) 8 5) else 0, dst.2)
  idx := idx
  bytes := size.2.1

theorem copyInstr_runs {run : State → Res} {w : WE} {bad : Team → List DWord → Bool} {kind : CopyKind}
    {size : List DWord → Nat × Nat × Bool} {src idx : List DWord → Option (Space × (Int × Int))} {dst : List DWord → Space × (Int × Int)}
    (hk : kind ∈ [.bcpy, .gath, .layx]) (hrun : ∀ s, run s = copyInstr w s (fun c => bad c.t) fun c d =>
      describedIssue c.t c.g d kind (size d) (src d) (dst d) (idx d)) :
    UniRuns run (guardYX w.m) w.m 0 ((List.range 8).map fun i => .s (w.a.toNat + i)) fun s t g c r =>
      CopyIssued w s t g c r (w.sub.toNat % 16) (bad t (c.copyDesc w.a))
        (describedIssue t g (c.copyDesc w.a) kind (size (c.copyDesc w.a)) (src (c.copyDesc w.a)) (dst (c.copyDesc w.a)) (idx (c.copyDesc w.a))) := by
  rw [show run = _ from funext fun s => (hrun s).trans (copyInstr_eq _ _ _ s)]
  refine uniInstr_runs fun s t g _ hd => ?_
  exact copyBody_issued (mk := fun c d => describedIssue c.t c.g d kind (size d) (src d) (dst d) (idx d)) rfl hd hk

/-- Settles O33: BCPY, GATH and LAYX share their issue, which differs in what a descriptor describes. -/
theorem copiesAreIssued : Obligations.CopiesAreIssued := by
  unfold Obligations.CopiesAreIssued
  intro row p hp w
  have kind : p.2.1 ∈ [.bcpy, .gath, .layx] := by
    simp only [row, List.mem_cons, List.not_mem_nil, or_false] at hp
    rcases hp with rfl | rfl | rfl <;> decide
  have shared (s : State) : exec (p.1 w) s = copyInstr w s (fun c => p.2.2.1 c.t) fun c d =>
      describedIssue c.t c.g d p.2.1 (p.2.2.2.1 d) (p.2.2.2.2.1 d) (p.2.2.2.2.2.1 d) (p.2.2.2.2.2.2 d) := by
    simp only [row, List.mem_cons, List.not_mem_nil, or_false] at hp
    rcases hp with rfl | rfl | rfl <;> rfl
  refine (copyInstr_runs kind shared).imp fun s t g c r issued => ?_
  intro d k old bad size dst key ins issue buffers need
  have hk : k < 16 := Nat.mod_lt _ (by omega)
  refine ⟨issued.refused, issued.underfull, fun hb hf => ⟨issued.failed hb hf, issued.waits hb hf, fun hst bounds room => ?_⟩⟩
  obtain ⟨t', g', hr, only, started⟩ := issued.starts hb hf hst bounds room
  refine ⟨t', g', hr, only, started.frame, started.others, started.empty, started.arrives, started.register, fun hd => ?_, fun hd => ?_⟩
  · exact started.hrecs.trans (t.landingRecs_other _ _ hd)
  · have recs (j : Nat) : t'.hrec j =
        if j = key then (t.hrec key).landing k (t.startedCopy issue (t.reserves issue) (decide buffers)) else t.hrec j := by
      rw [Team.hrec, started.hrecs]
      exact t.landingRecs_hamper k _ hd j
    obtain ⟨lv, lk, rf, rfail, cw, rcount⟩ := (t.hrec key).landing_spec hk (t.startedCopy issue (t.reserves issue) (decide buffers))
    rw [recs key, if_pos rfl]
    exact ⟨lv, lk, rf, rfail, cw, rcount, rfl, rfl, rfl, fun j hj => (recs j).trans (if_neg hj)⟩

end Sys2Proof.Machine
end

section
/-! PROOFS. The obligation on the events of the cores fails: a K step of a product (R325, R326) waits for a refill (R102) of
whatever record it comes through, and the obligation asks only that the product's own two records have none. -/

namespace Sys2Proof.Machine

/-! ### The turn of a group at the instruction that it holds (R130, R131) -/

/-- A group whose loop buffer holds the instruction, and which its slot admits, is ready to issue it. -/
theorem State.prepare_ready {s : State} {pos : Pos} {t : Team} {g g' : Group} {i : Instr} {n : Nat} (hcur : s.cur = some pos)
    (hi : s.issuing t g) (uncut : t.cut = false) (runs : s.issues t g = true) (due : g.nextIssue ≤ s.clk) (fresh : g.abort = [])
    (words : g.wordsAt ≠ []) (short : g.issued < 24) (hd : decode t.launch.window g.wordsAt = .instr i n)
    (free : (Instr.isMatrix i && s.limited g.core) = false) (admits : s.letIssue t g i = some g') :
    s.prepare pos = .ready i (s.put t g') := by
  have here : ({ s with cur := some pos } : State) = s := by rw [← hcur]
  have now : ({ s with cur := some pos, clk := Nat.max s.clk g.nextIssue } : State) = s := by
    rw [show Nat.max s.clk g.nextIssue = s.clk from Nat.max_eq_left due, ← hcur]
  have decoded : s.decodeCur t g = .ready i s := by
    rw [State.decodeCur, if_neg (by omega), hd]
  unfold State.prepare
  dsimp only
  rw [here, show s.curGroup? = some (t, g) from hi]
  dsimp only
  simp only [uncut, runs, State.abortTrap, fresh, List.isEmpty_eq_false_iff.2 words, Bool.false_and, Bool.not_true, Bool.not_false,
    Bool.true_or, Bool.false_eq_true, if_false, if_true]
  rw [now, decoded, State.limit, if_neg (by rw [free]; exact Bool.false_ne_true), admits]

/-! ### A product whose operand a third record refills -/

/-- An MMA of tile 0 on the records 0 and 1. -/
def refillMma : WE := { d := 0, a := 0, b := 1, sub := 0 }

/-- A record of 16 rows of 16 elements of format 0, in 512 bytes from a place of the Hamper on. -/
def operandRecord (place : Nat) : HRecord :=
  { w0 := BitVec.ofNat 64 (2 ^ 20 * 512 + place), w1 := BitVec.ofNat 64 (2 ^ 16 * 16 + 16), w3 := 0x80000000 }

/-- A third record with the range of the first, whose copy of 512 bytes lands again, none of them yet (R102): the ranges of
records may overlap (R309). -/
def refillingRecord : HRecord := { operandRecord 0 with w3 := 0x86000000, desc := [0x10000, 0, 0x20000000280] }

/-- A full group that stands at the MMA, which its slot has granted the uniform issue. -/
def refillGroup : Group :=
  { num := 0, core := 0, pc := 0x400, lanes := (List.range 8).map some, formed := 0xFF, buf := encode (.mma refillMma), bufPc := 0x400
    positions := some 0, seeks := .granted }

/-- Its team: the first element of both operands is not zero. -/
def refillTeam : Team :=
  { core := 0, slot := 0, part := 0, inst := 0, index := 0, launch := { fpt := 8, acc := 1, hamper := 1 }, groups := [refillGroup]
    live := List.range 8, cores := [0], hrecs := [(0, operandRecord 0), (1, operandRecord 512), (2, refillingRecord)]
    hbytes := [(1, 0x3C), (513, 0x3C)] }

/-- The device in which the group issues and its partition runs. -/
def refillState : State :=
  { State.reset.setReg (pidx 0 0) 0x08000000 with cur := some { core := 0, slot := 0, num := 0 }, teams := [refillTeam] }

theorem refillState_issuing : refillState.issuing refillTeam refillGroup := by decide +kernel

theorem refillState_prepare : refillState.prepare { core := 0, slot := 0, num := 0 } = .ready (.mma refillMma) refillState :=
  State.prepare_ready (g' := refillGroup) (n := 1) rfl refillState_issuing rfl (by decide +kernel) (by decide) rfl (by decide +kernel) (by decide)
    (by decide +kernel) (by decide +kernel) (by decide +kernel)

/-- The tiles of the teams that an event leaves, and the waits of their groups. -/
def tilesAndWaits : Res → Option (List (Sparse Word × List Wait))
  | .next s => some (s.teams.map fun t => (t.tiles, t.groups.map (·.wait)))
  | _ => none

/-- The K step does not happen: the product waits for its operand (R102, R326). -/
theorem matrixKStep_refillState : tilesAndWaits (exec .matrixKStep refillState) = some [([], [.watermark])] := by
  decide +kernel

/-- Refutes O56: one K step of a product is claimed wherever neither record of the product is refilled, but the product waits
where a third record, whose range meets that of an operand, is. -/
theorem not_coreEvents : ¬ Obligations.CoreEvents := by
  unfold Obligations.CoreEvents
  intro h
  obtain ⟨-, -, -, -, -, steps, -⟩ := h refillState
  obtain ⟨t', g', acted, -, tile, -⟩ := steps (.mma, false) (by simp) refillMma refillState refillTeam refillGroup
    refillState_prepare refillState_issuing
    -- No other product is under way, no operand is early, the guard holds, the group is full and its team is quiet.
    (by decide +kernel) (by decide +kernel) (by decide +kernel) (by decide +kernel) ⟨rfl, rfl, rfl, rfl⟩
    -- Neither record of the product is refilled, its tile and its records pass their checks, and a step is still to come.
    (by decide +kernel) (by decide +kernel) (by decide +kernel) (by decide +kernel) (by decide +kernel) (by decide +kernel) (by decide +kernel)
  have outcome := matrixKStep_refillState
  rw [acted] at outcome
  simp only [tilesAndWaits, State.noteIssue_teams, Option.some.injEq] at outcome
  have left : (refillState.acted (uniCtx refillState refillTeam refillGroup (guardYX refillMma.m) refillMma.m
      (uniLocs refillMma.d ++ uniLocs refillMma.a)).clk t' g').teams =
      [if (0 : Nat) = t'.core ∧ (0 : Nat) = t'.slot then t'.putGroup g' else refillTeam] := rfl
  rw [left] at outcome
  -- Either the team that has acted stands in the outcome, and its tile is not what the step would leave, or nothing has changed.
  split at outcome
  · have still : t'.tiles = [] := by
      simp only [List.map_cons, List.cons.injEq, Prod.mk.injEq] at outcome
      exact outcome.1.1
    have zero : (t'.tile 0 0).getD 0 0 = 0 := by rw [Team.tile, still]; rfl
    exact absurd (zero.symm.trans (congrArg (·.getD 0 0) tile)) (by decide +kernel)
  · exact absurd outcome (by decide +kernel)

end Sys2Proof.Machine
end

section
/-! SUPPORT. A uniform instruction that acts, a run that ends at a target (R131), and fibres that leave their group for the
Attic (R136, R138). -/

namespace Sys2Proof.Machine

/-! ### Instructions that act -/

/-- A uniform instruction whose guard holds, whose operands raise no trap and whose two executions agree acts. -/
theorem uniInstr_acts {s : State} {t : Team} {g : Group} {gd : Guard} {m : Mods} {locs : List Loc} (hi : s.issuing t g)
    (clear : (uniCtx s t g gd m locs).uniTrap gd locs = none) (holds : (uniCtx s t g gd m locs).groupGuard gd = true)
    (agree : (uniCtx s t g gd m locs).uniDiffers = false) (stall : Nat) (f : State → Ctx → Res) (point : Option Nat := some 7) :
    uniInstr s gd m stall locs f point = f { s with clk := (uniCtx s t g gd m locs).clk } (uniCtx s t g gd m locs) := by
  rw [uniInstr_clear hi clear, if_pos holds, agree]
  rfl

/-- Where the two sides agree, a comparison point names no lane (R110). -/
theorem Ctx.differing_of_agree {c : Ctx} {gd : Guard} {f : Lane → List DWord} (h : c.Agree gd f) : c.differing gd f = 0 := by
  unfold Ctx.differing
  split
  · next prot =>
    have none_differs : (lanesOn c.t c.g 0).filter (fun ln => (c.guard gd ln || c.guard gd { ln with wid := c.t.wid ln.fid 1, side := 1 })
        && decide (f ln ≠ f { ln with wid := c.t.wid ln.fid 1, side := 1 })) = [] := by
      rw [List.filter_eq_nil_iff]
      intro ln hln differs
      rw [Bool.and_eq_true, Bool.or_eq_true, decide_eq_true_eq] at differs
      exact differs.2 (h prot ln hln differs.1)
    exact congrArg (fun ls => maskOf (ls.map Lane.pos)) none_differs
  · rfl

/-- A group of which an instruction has changed its segments and its results in flight at most passes it (R131, R132). -/
theorem Group.retire_passed_of {g g0 : Group} (kept : g0 = { g with seg := g0.seg, hist := g0.hist }) (clk stall words : Nat) :
    g.Passed (g0.retire clk stall words) clk stall words := by
  rw [kept]
  exact ⟨rfl, rfl, rfl, rfl, ⟨rfl, rfl⟩, ⟨rfl, rfl, rfl, rfl⟩, rfl⟩

/-! ### The end of a run -/

/-- A group that has kept its registers and its place stands at the start of a run after a jump (R131). -/
theorem Group.jump_jumped {g g0 : Group} (kept : g0.num = g.num ∧ g0.core = g.core ∧ g0.formed = g.formed ∧ g0.sregs = g.sregs ∧
    g0.gpred = g.gpred ∧ g0.seg = g.seg) (clk stall : Nat) (target : DWord) : g.Jumped (g0.jump clk stall target) clk stall target :=
  ⟨rfl, ⟨rfl, rfl, rfl, rfl⟩, rfl, rfl, kept⟩

/-- The end of a run changes nothing that readers see of the locations that outlive it (R134). -/
theorem seenAt_outlives {l : Loc} (hl : l.runLocal = false) (k : Nat) (h : List Early) (x : DWord) :
    seenAt k l (h.filter fun e => !e.loc.runLocal) x = seenAt k l h x := by
  induction h generalizing x with
  | nil => rfl
  | cons e h ih =>
    cases he : e.loc.runLocal
    · rw [List.filter_cons_of_pos (by simp [he])]
      simp only [seenAt, ih]
    · have other : e.loc ≠ l := fun same => by rw [same, hl] at he; cases he
      rw [List.filter_cons_of_neg (by simp [he]), ih, seenAt, if_neg other]

theorem Group.jump_sameFlight (g : Group) (clk stall : Nat) (target : DWord) : sameFlight g (g.jump clk stall target) :=
  fun _ hl _ k x => seenAt_outlives hl k g.hist x

/-- The end of a run at the clock of its instruction's issue. -/
theorem Ctx.jumpTo_of_clk {c : Ctx} {S : State} (h : S.clk = c.clk) (stall : Nat) (target : DWord) :
    c.jumpTo S stall target = .next (S.acted c.clk c.t (c.g.jump c.clk stall target)) := by
  simp only [Ctx.jumpTo, State.acted, h, Nat.max_self]

/-- A run that ends with nothing changed has gone to its target. -/
theorem Ctx.jumpTo_jumps (c : Ctx) (s : State) (stall : Nat) (target : DWord) :
    s.JumpsTo (c.jumpTo { s with clk := c.clk } stall target) c.t c.g c.clk stall target :=
  ⟨_, Ctx.jumpTo_of_clk rfl stall target, Group.jump_jumped ⟨rfl, rfl, rfl, rfl, rfl, rfl⟩ _ _ _, rfl, rfl, c.g.jump_sameFlight _ _ _⟩

/-- An outcome that equals a jump is one. -/
theorem State.JumpsTo.of_eq {s : State} {r r' : Res} {t : Team} {g : Group} {clk stall : Nat} {target : DWord}
    (h : s.JumpsTo r t g clk stall target) (e : r' = r) : s.JumpsTo r' t g clk stall target := e ▸ h

/-! ### Fibres that leave their group -/

/-- A record apart from its Attic slot and the results in flight that it keeps (R125, R133). -/
def Parked.bare (p : Parked) : Parked := { p with slot := 0, hist := [] }

/-- A fibre that parks has its record behind those of the Attic, and nothing else of the team changes (R125). -/
theorem Team.park_record (t : Team) (used : List Nat) (p : Parked) :
    ∃ slot, t.park used p = { t with attic := t.attic ++ [{ p with slot := slot }] } := ⟨_, rfl⟩

/-- Records that park one after another follow those that the Attic holds, and nothing else of the team changes (R125). -/
theorem Team.parks_attic (used : List Nat) (f : Parked → Parked) (ps : List Parked) (t : Team) : ∃ new : List Parked,
    ps.foldl (fun t p => t.park used (f p)) t = { t with attic := t.attic ++ new } ∧
      new.map Parked.bare = ps.map fun p => (f p).bare := by
  induction ps generalizing t with
  | nil => exact ⟨[], by rw [List.append_nil]; rfl, rfl⟩
  | cons p ps ih =>
    obtain ⟨slot, first⟩ := t.park_record used (f p)
    obtain ⟨new, parked, bare⟩ := ih (t.park used (f p))
    refine ⟨{ f p with slot := slot } :: new, parked.trans ?_, congrArg (List.cons _) bare⟩
    rw [first, List.append_assoc]
    rfl

/-- Fibres that park leave their group, and their records follow those of the Attic with the core, the clock and the core's
count of the parking (R125, R136). -/
theorem State.parkFibres_spec (s : State) (t : Team) (g : Group) (ps : List Parked) : ∃ new : List Parked,
    s.parkFibres t g ps = ({ t with attic := t.attic ++ new }, g.removeFibres (ps.map (·.fid))) ∧
      new.map Parked.bare = ps.map fun p =>
        { p with core := g.core, slot := 0, parked := s.clk, count := s.clk - sget 0 s.dieClk (g.core / 128), hist := [] } := by
  obtain ⟨new, parked, bare⟩ := Team.parks_attic (s.atticUsed g.core) (fun p =>
    { p with core := g.core, parked := s.clk, count := s.coreCount g.core
             hist := (landDue s.clk [] g.hist).filter fun e => e.loc.ofFibre t p.fid }) ps t
  exact ⟨new, congrArg (·, g.removeFibres (ps.map Parked.fid)) parked, bare⟩

theorem activeFrom_removed (fids : List Nat) (lanes : List (Option Nat)) (pos : Nat) :
    activeFrom pos (lanes.map fun l => match l with
      | some f => if fids.contains f then none else some f
      | none => none) = (activeFrom pos lanes).filter fun p => !fids.contains p.2 := by
  induction lanes generalizing pos with
  | nil => rfl
  | cons l lanes ih =>
    cases l with
    | none => exact ih (pos + 1)
    | some f =>
      simp only [List.map_cons, activeFrom]
      cases hf : fids.contains f
      · rw [List.filter_cons_of_pos (by simp only [hf]; rfl), ← ih]
        rfl
      · rw [List.filter_cons_of_neg (by simp only [hf]; decide), ← ih]
        rfl

theorem Group.removeFibres_active (g : Group) (fids : List Nat) :
    (g.removeFibres fids).active = g.active.filter fun p => !fids.contains p.2 := activeFrom_removed fids g.lanes 0

/-- No lane of a group is active once all its fibres have left. -/
theorem Group.removeFibres_all (g : Group) : (g.removeFibres (g.active.map (·.2))).active = [] := by
  rw [Group.removeFibres_active, List.filter_eq_nil_iff]
  intro p hp
  simpa using ⟨p.1, hp⟩

theorem Group.removeFibres_lanes (g : Group) (fids : List Nat) : (g.removeFibres fids).lanes = without g.lanes (· ∈ fids) := by
  refine List.map_congr_left fun l _ => ?_
  cases l with
  | none => rfl
  | some f => simp only [Option.bind_some, List.contains_iff_mem]

/-- A group all of whose fibres park frees its record (R129, R138). -/
theorem State.settle_freed (s : State) (t : Team) {g : Group} (h : g.active = []) :
    s.settle t g = s.putTeam { t with groups := t.groups.filter fun u => decide (u.num ≠ g.num) } :=
  if_pos (by rw [h]; rfl)

/-- Every fibre of a group parks as FORMABLE at an address, and its record frees (R129, R138). -/
theorem State.parkGroupAt_spec (s : State) (t : Team) (g : Group) (pc : DWord) : ∃ new : List Parked,
    s.parkGroupAt t g pc = s.putTeam { t with groups := t.groups.filter (fun u => u.num ≠ g.num), attic := t.attic ++ new } ∧
      new.map Parked.bare = g.active.map fun x => { fid := x.2, core := g.core, slot := 0, pc := pc, st := .formable, parked := s.clk
                                                    count := s.clk - sget 0 s.dieClk (g.core / 128), synced := g.synced.contains x.2 } := by
  obtain ⟨new, parked, bare⟩ := s.parkFibres_spec t g (g.active.map fun p =>
    { fid := p.2, core := g.core, slot := 0, pc := pc, synced := g.synced.contains p.2 })
  refine ⟨new, ?_, bare.trans ?_⟩
  · unfold State.parkGroupAt
    dsimp only
    rw [parked, State.settle_freed _ _ (by rw [List.map_map]; exact g.removeFibres_all)]
    rfl
  · rw [List.map_map]
    rfl

/-- A partial group gives up its record where its team has no free one and a FORMABLE fibre of its core has waited FORMWAIT
clocks (R138, R139). -/
theorem State.mustPark_iff (s : State) (t : Team) (g : Group) : s.mustPark t g = true ↔
    g.active.length < t.launch.wv ∧ (t.freeRecord g.core).isNone = true ∧
      ∃ p ∈ t.attic, p.st = .formable ∧ p.core = g.core ∧ fieldOf (s.reg 0x00D) 0 16 ≤ s.clk - p.parked := by
  simp only [State.mustPark, Group.underfull, Bool.and_eq_true, decide_eq_true_eq, List.any_eq_true, beq_iff_eq, and_assoc]
  rfl

end Sys2Proof.Machine
end

section
/-! PROOFS. BR (R136, R207): the sides of a branch, and the split of a group. -/

namespace Sys2Proof.Machine

/-- The target of a branch is its offset in words from the branch (R193). -/
theorem Ctx.branchTarget_eq (c : Ctx) (w : WB) : c.branchTarget w = c.g.pc + w.off.signExtend 64 * 4 := by
  rw [Ctx.branchTarget, BitVec.shiftLeft_eq_mul_twoPow]
  rfl

/-- A branch whose two sides agree on its predicate sends its lanes to the two sides (R110, R207). -/
theorem execBr_branches {w : WB} {s : State} {t : Team} {g : Group} (hi : s.issuing t g) :
    let i := w.pred.toNat
    let locs : Lane → List Loc := fun ln => if i = 0 then [] else [.p ln.wid i]
    let c := laneCtx s t g {} w.m locs
    c.operandTrap {} locs = none → c.Agree {} (fun ln => [if c.p ln.wid i then 1 else 0]) →
    exec (.br w) s = c.branch { s with clk := c.clk } ((lanesOn t g 0).filter fun ln => c.p ln.wid i != w.n)
      ((lanesOn t g 0).filter fun ln => c.p ln.wid i == w.n) (g.pc + w.off.signExtend 64 * 4) (g.pc + BitVec.ofNat 64 (4 * w.m.words)) := by
  intro i locs c clear agree
  rw [exec_br, execBr, laneRun_clear hi clear, Ctx.differing_of_agree agree, Ctx.branchTarget_eq]
  rfl

/-- Where the lanes differ, the fibres of one side park, each at its side's address, and the group goes on at the other's (R136). -/
theorem Ctx.branch_splits (c : Ctx) (s : State) {taken fall : List Lane} (target next : DWord) (ht : taken ≠ []) (hf : fall ≠ []) :
    let leave := if taken.length ≤ fall.length then taken.map fun ln => (ln.fid, target) else fall.map fun ln => (ln.fid, next)
    ∃ t' g', c.branch { s with clk := c.clk } taken fall target next = .next (s.acted c.clk t' g') ∧
      c.g.Jumped g' c.clk 0 (if taken.length ≤ fall.length then next else target) ∧
      g'.lanes = without c.g.lanes (fun f => f ∈ leave.map (·.1)) ∧ sameFlight c.g g' ∧
      t' = { c.t with attic := t'.attic } ∧ s.parksFormable c.g.core c.clk leave c.t.attic t'.attic := by
  intro leave
  obtain ⟨new, parked, bare⟩ := State.parkFibres_spec { s with clk := c.clk } c.t c.g
    (leave.map fun x => { fid := x.1, core := c.g.core, slot := 0, pc := x.2 })
  rw [List.map_map] at parked bare
  let stays := c.g.removeFibres (leave.map Prod.fst)
  refine ⟨{ c.t with attic := c.t.attic ++ new }, stays.jump c.clk 0 (if taken.length ≤ fall.length then next else target), ?_,
    Group.jump_jumped (g := c.g) (g0 := stays) ⟨rfl, rfl, rfl, rfl, rfl, rfl⟩ _ _ _, c.g.removeFibres_lanes (leave.map Prod.fst),
    stays.jump_sameFlight _ _ _, rfl, new, rfl, bare⟩
  have leaves : State.leaveFormable { s with clk := c.clk } c.t c.g leave = ({ c.t with attic := c.t.attic ++ new }, stays) := parked
  rw [Ctx.branch, if_neg (by simpa using ht), if_neg (by simpa using hf)]
  simp only [decide_eq_true_eq]
  rw [leaves]
  exact Ctx.jumpTo_of_clk rfl 0 _

/-- Settles O13: the lanes of the group are those that take the branch and those that fall through. -/
theorem branchesSplitGroups : Obligations.BranchesSplitGroups := by
  intro w s t g hi i locs c target next taken fall leave clear agree
  have acts : exec (.br w) s = c.branch { s with clk := c.clk } taken fall target next := execBr_branches hi clear agree
  rw [acts]
  refine ⟨fun ht => ?_, fun hf ht => ?_, fun ht hf => c.branch_splits s target next ht hf⟩
  · rw [Ctx.branch, ht]
    exact c.jumpTo_jumps s 0 next
  · rw [Ctx.branch, if_neg (by simpa using ht), hf]
    exact c.jumpTo_jumps s 0 target

end Sys2Proof.Machine
end

section
/-! PROOFS. RJOIN (R140, R213): what the arrivals of a whole group make of the rejoin entries of its team. -/

namespace Sys2Proof.Machine

/-! ### The arrivals of a group -/

/-- The record of a fibre that parks at a rejoin (R140). -/
def rejoinRecord (core : Nat) (tag : BitVec 16) (base : Nat) (mask pc : DWord) (st : ParkState) (f : Nat) : Parked :=
  { fid := f, core := core, slot := 0, pc := pc, st := st, tag := tag, base := base, mask := mask }

/-- A list of rejoin entries has one open of a tag. -/
def hasOpen (rs : List Rejoin) (tag : BitVec 16) : Bool := rs.any fun r => decide (r.tag = tag)

/-- The entries after the arrival of some fibres in the entry of their tag. -/
def countIn (tag : BitVec 16) (fids : List Nat) (rs : List Rejoin) : List Rejoin :=
  rs.map fun r => if r.tag = tag then { r with arrived := r.arrived ++ fids } else r

theorem hasOpen_countIn (tag : BitVec 16) (fids : List Nat) (rs : List Rejoin) : hasOpen (countIn tag fids rs) tag = hasOpen rs tag := by
  rw [hasOpen, countIn, List.any_map]
  refine congrArg (List.any rs) (funext fun r => ?_)
  rw [Function.comp_apply]
  split <;> rfl

theorem countIn_nil (tag : BitVec 16) (rs : List Rejoin) : countIn tag [] rs = rs := by
  refine (List.map_congr_left fun r _ => ?_).trans (List.map_id _)
  rw [List.append_nil, ite_self]
  rfl

theorem countIn_countIn (tag : BitVec 16) (fids more : List Nat) (rs : List Rejoin) :
    countIn tag more (countIn tag fids rs) = countIn tag (fids ++ more) rs := by
  rw [countIn, countIn, List.map_map]
  refine List.map_congr_left fun r _ => ?_
  rw [Function.comp_apply]
  by_cases h : r.tag = tag
  · simp only [if_pos h, List.append_assoc]
  · simp only [if_neg h]

theorem countIn_closed {tag : BitVec 16} {rs : List Rejoin} (h : hasOpen rs tag = false) (fids : List Nat) : countIn tag fids rs = rs := by
  refine (List.map_congr_left fun r hr => ?_).trans (List.map_id _)
  exact if_neg (by simpa using List.any_eq_false.1 h r hr)

section Arrive
variable (tag : BitVec 16) (base : Nat) (mask pc : DWord)

/-- Where the entry of their tag is open all the fibres count in it (R140). -/
theorem Team.arriveAll_open (fids : List Nat) {t : Team} (h : hasOpen t.rejoins tag = true) : t.arriveAll tag base mask pc fids =
    ({ t with rejoins := countIn tag fids t.rejoins }, fids.map (rejoinRecord t.core tag base mask pc .rejoin)) := by
  induction fids generalizing t with
  | nil => rw [countIn_nil]; rfl
  | cons f fids ih =>
    have first : t.arrive f tag base mask = ({ t with rejoins := countIn tag [f] t.rejoins }, .rejoin) := if_pos h
    simp only [Team.arriveAll, first]
    rw [ih ((hasOpen_countIn _ _ _).trans h), countIn_countIn]
    rfl

/-- Where eight other entries are open all the fibres are held (R140). -/
theorem Team.arriveAll_held (fids : List Nat) {t : Team} (h : hasOpen t.rejoins tag = false) (full : ¬ t.rejoins.length < 8) :
    t.arriveAll tag base mask pc fids = (t, fids.map (rejoinRecord t.core tag base mask pc .rejoinHeld)) := by
  induction fids with
  | nil => rfl
  | cons f fids ih =>
    have first : t.arrive f tag base mask = (t, .rejoinHeld) := (if_neg (Bool.eq_false_iff.1 h)).trans (if_neg full)
    simp only [Team.arriveAll, first]
    rw [ih]
    rfl

/-- The entry that the first of some fibres opens for all of them (R140). -/
def Team.openedRejoin (t : Team) (fids : List Nat) : Rejoin :=
  { tag := tag, base := base, mask := keepFibres base mask t.live.contains, arrived := fids }

/-- Where fewer entries are open the first fibre opens one, in which all count (R140). -/
theorem Team.arriveAll_opens {fids : List Nat} (nonempty : fids ≠ []) {t : Team} (h : hasOpen t.rejoins tag = false)
    (room : t.rejoins.length < 8) : t.arriveAll tag base mask pc fids =
    ({ t with rejoins := t.rejoins ++ [t.openedRejoin tag base mask fids] }, fids.map (rejoinRecord t.core tag base mask pc .rejoin)) := by
  obtain ⟨f, fids, rfl⟩ := List.exists_cons_of_ne_nil nonempty
  have first : t.arrive f tag base mask = ({ t with rejoins := t.rejoins ++ [t.openedRejoin tag base mask [f]] }, .rejoin) :=
    (if_neg (Bool.eq_false_iff.1 h)).trans (if_pos room)
  have opened : hasOpen (t.rejoins ++ [t.openedRejoin tag base mask [f]]) tag = true := by
    simp [hasOpen, Team.openedRejoin]
  simp only [Team.arriveAll, first]
  rw [Team.arriveAll_open tag base mask pc fids opened]
  have counted : countIn tag fids (t.rejoins ++ [t.openedRejoin tag base mask [f]]) =
      t.rejoins ++ [t.openedRejoin tag base mask (f :: fids)] := by
    rw [countIn, List.map_append]
    exact congrArg₂ List.append (countIn_closed h fids) (congrArg (fun r => [r]) (if_pos rfl))
  rw [counted]
  rfl

end Arrive

/-- An entry is full once each fibre that its mask names has arrived (R140). -/
theorem Rejoin.full_eq (r : Rejoin) : r.full = decide (∀ i < 64, bitAt r.mask i = true → r.base + i ∈ r.arrived) := by
  rw [Bool.eq_iff_iff, decide_eq_true_iff]
  simp only [Rejoin.full, maskFibres, List.all_eq_true, List.forall_mem_map, List.mem_filter, List.mem_range, List.contains_iff_mem, and_imp]

/-! ### The obligation -/

/-- What the arrival of a whole group makes of the entries of its team (R140, R213). -/
def Team.rejoinsAfter (t : Team) (tag : BitVec 16) (base : Nat) (mask : DWord) (fids : List Nat) : List Rejoin :=
  if hasOpen t.rejoins tag then countIn tag fids t.rejoins
  else if t.rejoins.length < 8 then t.rejoins ++ [t.openedRejoin tag base mask fids]
  else t.rejoins

/-- The state in which the fibres of a group park at a rejoin (R140). -/
def Team.rejoinState (t : Team) (tag : BitVec 16) : ParkState :=
  if hasOpen t.rejoins tag = true ∨ t.rejoins.length < 8 then .rejoin else .rejoinHeld

theorem Team.arriveAll_spec (t : Team) (tag : BitVec 16) (base : Nat) (mask pc : DWord) {fids : List Nat} (nonempty : fids ≠ []) :
    t.arriveAll tag base mask pc fids = ({ t with rejoins := t.rejoinsAfter tag base mask fids },
      fids.map (rejoinRecord t.core tag base mask pc (t.rejoinState tag))) := by
  unfold Team.rejoinsAfter Team.rejoinState
  cases h : hasOpen t.rejoins tag
  · by_cases room : t.rejoins.length < 8
    · rw [Team.arriveAll_opens tag base mask pc nonempty h room, if_neg Bool.false_ne_true, if_pos room, if_pos (.inr room)]
    · rw [Team.arriveAll_held tag base mask pc fids h room, if_neg Bool.false_ne_true, if_neg room, if_neg (by simpa using room)]
  · rw [Team.arriveAll_open tag base mask pc fids h, if_pos rfl, if_pos (.inl rfl)]

/-- The judgement of entries completes those that are full, and releases the fibres of those that are complete (R140). -/
theorem Team.judgeRejoins_eq (t : Team) :
    let full : Rejoin → Bool := fun r => decide (∀ i < 64, bitAt r.mask i = true → r.base + i ∈ r.arrived)
    let rs' : List Rejoin := t.rejoins.map fun r => { r with complete := r.complete || full r }
    let free : Parked → Parked := fun p =>
      if p.st = .rejoin ∧ (rs'.any fun r => r.complete && (r.tag = p.tag)) = true then { p with released := true } else p
    t.judgeRejoins = { t with rejoins := rs', attic := t.attic.map free } := by
  intro full rs' free
  have complete : (t.rejoins.map fun r => { r with complete := r.complete || r.full }) = rs' :=
    List.map_congr_left fun r _ => by rw [Rejoin.full_eq]
  unfold Team.judgeRejoins
  dsimp only
  rw [complete]

/-- What RJOIN does where it acts. -/
def rjoinBody (w : W3) (s : State) (c : Ctx) : Res :=
  let a := c.t.arriveAll ((c.u w.d).setWidth 16) (fieldOf (c.u w.a) 0 32) (c.u w.b) (c.nextPc w.m) (c.g.active.map (·.2))
  let r := s.parkFibres a.1 c.g a.2
  .next (s.settle r.1.judgeRejoins r.2)

theorem exec_rjoin_body (w : W3) : exec (.rjoin w) = fun s =>
    uniInstr s (guardY w) w.m w.s.toNat (uniLocs w.d ++ uniLocs w.a ++ uniLocs w.b) (rjoinBody w) (some 6) := rfl

/-- Every fibre of the group parks, its record frees, and the entries are judged (R140, R213). -/
theorem rjoinBody_parks (w : W3) (s : State) (c : Ctx) (active : c.g.active ≠ []) :
    let fids := c.g.active.map (·.2)
    let tag : BitVec 16 := (c.u w.d).setWidth 16
    let base := fieldOf (c.u w.a) 0 32
    ∃ new : List Parked, new.map Parked.bare = fids.map (fun f =>
        { rejoinRecord c.g.core tag base (c.u w.b) (c.nextPc w.m) (c.t.rejoinState tag) f with
          parked := s.clk, count := s.clk - sget 0 s.dieClk (c.g.core / 128) }) ∧
      rjoinBody w s c = .next (s.putTeam { Team.judgeRejoins { c.t with
        rejoins := c.t.rejoinsAfter tag base (c.u w.b) fids, attic := c.t.attic ++ new } with
          groups := c.t.groups.filter fun u => decide (u.num ≠ c.g.num) }) := by
  intro fids tag base
  let records := fids.map (rejoinRecord c.t.core tag base (c.u w.b) (c.nextPc w.m) (c.t.rejoinState tag))
  obtain ⟨new, parked, bare⟩ := s.parkFibres_spec { c.t with rejoins := c.t.rejoinsAfter tag base (c.u w.b) fids } c.g records
  have left : records.map (·.fid) = c.g.active.map (·.2) := List.map_map.trans (List.map_id _)
  refine ⟨new, bare.trans (List.map_map.trans rfl), ?_⟩
  unfold rjoinBody
  dsimp only
  rw [c.t.arriveAll_spec tag base (c.u w.b) (c.nextPc w.m) (fids := fids) fun h => active (List.map_eq_nil_iff.1 h), parked, left,
    State.settle_freed _ _ c.g.removeFibres_all]
  rfl

/-- Settles O17: the arrivals change the entries, the fibres park behind the Attic's records, and the judgement of the entries
then releases those whose entry is complete. -/
theorem rjoinParksUntilComplete : Obligations.RjoinParksUntilComplete := by
  intro w
  rw [exec_rjoin_body]
  refine ⟨uniInstr_passes _ _ _ _ _ _, ?_⟩
  intro s t g hi active gd locs c fids tag base isOpen st full rs rs' free clear holds agree
  obtain ⟨new, bare, parks⟩ := rjoinBody_parks w { s with clk := c.clk } c active
  refine ⟨new, bare, (uniInstr_acts hi clear holds agree _ _ _).trans (parks.trans ?_)⟩
  rw [Team.judgeRejoins_eq]
  rfl

end Sys2Proof.Machine
end

section
/-! PROOFS. YIELD (R138, R139, R214), SEGSET and SEGGET (R142, R215). -/

namespace Sys2Proof.Machine

/-! ### YIELD -/

/-- What YIELD does where it acts. -/
def yieldBody (w : W3) (s : State) (c : Ctx) : Res :=
  if s.mustPark c.t c.g then .next (s.parkGroupAt c.t c.g (c.nextPc w.m)) else c.jumpTo s w.s.toNat (c.nextPc w.m)

theorem exec_yield_body (w : W3) : exec (.yield w) = fun s => uniInstr s (guardY w) w.m w.s.toNat [] (yieldBody w) := rfl

/-! ### Segment sizes -/

/-- The code of a segment size is one more than its place among the powers of two from 2 to 32 that divide the visible width. -/
theorem segCode_eq (wv : Nat) (a : DWord) : segCode wv a = if a = 0 then some 0
    else ([2, 4, 8, 16, 32].findIdx? fun n => a.toNat = n ∧ wv % n = 0).map (· + 1) := by
  have zero : a = 0 ↔ a.toNat = 0 := ⟨fun h => by rw [h]; rfl, fun h => BitVec.eq_of_toNat_eq h⟩
  simp only [segCode, zero, List.findIdx?_cons, List.findIdx?_nil, decide_eq_true_eq]
  split_ifs <;> rfl

/-- What SEGSET does where it acts. -/
def segsetBody (w : W3) (s : State) (c : Ctx) : Res :=
  match segCode c.t.launch.wv (c.u w.a) with
  | some k => .next (({ c with g := { c.g with seg := k } } : Ctx).finish s w.s.toNat w.m.words)
  | none => c.trap s { cause := 0x0104, mask := c.g.activeMask, detail := c.u w.a }

theorem exec_segset_body (w : W3) : exec (.segset w) = fun s =>
    uniInstr s (guardY w) w.m w.s.toNat (uniLocs w.a) (segsetBody w) := rfl

/-- Settles O18: YIELD by whether the group must give up its record, SEGSET by the code of its operand. -/
theorem yieldAndSegments : Obligations.YieldAndSegments := by
  unfold Obligations.YieldAndSegments
  intro code
  refine ⟨fun w => ?yield, fun w => ?segget, fun w => ?segset⟩
  case yield =>
    rw [exec_yield_body]
    refine ⟨uniInstr_passes _ _ _ _ _, ?_⟩
    intro s t g hi c next yields clear holds agree
    have acts : uniInstr s (guardY w) w.m w.s.toNat [] (yieldBody w) = yieldBody w { s with clk := c.clk } c :=
      uniInstr_acts hi clear holds agree _ _
    have parks : State.mustPark { s with clk := c.clk } t g = true ↔ yields := State.mustPark_iff _ t g
    refine ⟨fun stays => ?_, fun leaves => ?_⟩
    · have jumps : yieldBody w { s with clk := c.clk } c = c.jumpTo { s with clk := c.clk } w.s.toNat next := if_neg (mt parks.1 stays)
      exact (c.jumpTo_jumps s _ _).of_eq (acts.trans jumps)
    · obtain ⟨new, parked, bare⟩ := State.parkGroupAt_spec { s with clk := c.clk } t g next
      have gone : yieldBody w { s with clk := c.clk } c = .next (State.parkGroupAt { s with clk := c.clk } t g next) :=
        if_pos (parks.2 leaves)
      exact ⟨_, acts.trans (gone.trans (congrArg Host.Outcome.next parked)), new, rfl, bare⟩
  case segget =>
    exact uniWrite_writes (guardY w) w.m w.s.toNat 1 w.d.toNat [] fun c => BitVec.ofNat 64 (c.g.segSize c.t.launch.wv)
  case segset =>
    rw [exec_segset_body]
    refine ⟨uniInstr_passes _ _ _ _ _, ?_⟩
    intro s t g hi c clear holds agree
    have acts : uniInstr s (guardY w) w.m w.s.toNat (uniLocs w.a) (segsetBody w) = segsetBody w { s with clk := c.clk } c :=
      uniInstr_acts hi clear holds agree _ _
    have same : segCode c.t.launch.wv (c.u w.a) = code t.launch.wv (c.u w.a) := segCode_eq _ _
    refine ⟨fun k hk => ?_, fun bad => ?_⟩
    · let sized : Group := { g with seg := k }
      refine ⟨sized.retire c.clk w.s.toNat w.m.words, acts.trans ?_, Group.retire_passed_of (g0 := sized) rfl _ _ _,
        rfl, rfl, rfl, rfl, rfl, rfl⟩
      rw [segsetBody, same.trans hk]
      exact congrArg Host.Outcome.next (Ctx.finish_acted { c with g := sized } s _ _)
    · refine acts.trans ?_
      rw [segsetBody, same.trans bad]
      rfl

end Sys2Proof.Machine
end

section
/-! SUPPORT. Barriers (R145, R216 to R219): the fields of a barrier's word, its tokens, and what arrivals and the writing of
tokens change. -/

namespace Sys2Proof.Machine

/-! ### Fields of a word -/

theorem fieldOf_eq_div {n : Nat} (w : BitVec n) (lo len : Nat) : fieldOf w lo len = w.toNat / 2 ^ lo % 2 ^ len := by
  rw [fieldOf, BitVec.extractLsb'_toNat, Nat.shiftRight_eq_div_pow]

theorem bitAt_eq_div {n : Nat} (w : BitVec n) (i : Nat) : bitAt w i = decide (w.toNat / 2 ^ i % 2 = 1) :=
  Nat.testBit_eq_decide_div_mod_eq

theorem barWord_toNat (phase arrived expect : Nat) : (barWord phase arrived expect).toNat =
    2 ^ 63 + 2 ^ 32 * (phase % 2 ^ 16) + 2 ^ 16 * (arrived % 2 ^ 11) + expect % 2 ^ 11 := by
  rw [barWord, BitVec.toNat_ofNat]
  omega

@[simp] theorem barWord_on (phase arrived expect : Nat) : bitAt (barWord phase arrived expect) 63 = true := by
  rw [bitAt_eq_div, barWord_toNat, decide_eq_true_eq]
  omega

@[simp] theorem barWord_phase (phase arrived expect : Nat) : fieldOf (barWord phase arrived expect) 32 16 = phase % 2 ^ 16 := by
  rw [fieldOf_eq_div, barWord_toNat]
  omega

@[simp] theorem barWord_arrived (phase arrived expect : Nat) : fieldOf (barWord phase arrived expect) 16 11 = arrived % 2 ^ 11 := by
  rw [fieldOf_eq_div, barWord_toNat]
  omega

@[simp] theorem barWord_expect (phase arrived expect : Nat) : fieldOf (barWord phase arrived expect) 0 11 = expect % 2 ^ 11 := by
  rw [fieldOf_eq_div, barWord_toNat]
  omega

/-- The word of counts that fit their fields. -/
theorem barWord_eq (phase : Nat) {arrived expect : Nat} (ha : arrived < 2 ^ 11) (he : expect < 2 ^ 11) :
    barWord phase arrived expect = BitVec.ofNat 64 (2 ^ 63 + 2 ^ 32 * (phase % 65536) + 2 ^ 16 * arrived + expect) := by
  rw [barWord, Nat.mod_eq_of_lt ha, Nat.mod_eq_of_lt he]
  rfl

/-! ### A barrier that is initialised lacks arrivals (R145) -/

/-- An initialised barrier has fewer arrivals than it expects. -/
def BarLacks (w : DWord) : Prop := bitAt w 63 = true → fieldOf w 16 11 < fieldOf w 0 11

theorem barLacks_zero : BarLacks 0 := fun on => absurd on (by decide)

theorem barLacks_barWord (phase : Nat) {arrived expect : Nat} (h : arrived < expect) (he : expect < 2 ^ 11) :
    BarLacks (barWord phase arrived expect) := fun _ => by
  rw [barWord_arrived, barWord_expect, Nat.mod_eq_of_lt he, Nat.mod_eq_of_lt (h.trans he)]
  exact h

theorem barLacks_arrive {w : DWord} (n : Nat) (h : BarLacks w) : BarLacks (barArrive w n) := by
  have bound : barExpect w < 2 ^ 11 := fieldOf_lt w 0 11
  unfold barArrive
  split
  · exact h
  · next on =>
    have lacks : barArrived w < barExpect w := h (by simpa [barOn] using on)
    split
    · exact barLacks_barWord _ (by omega) bound
    · exact barLacks_barWord _ (by omega) bound

theorem barLacks_drop {w : DWord} (n : Nat) (h : BarLacks w) : BarLacks (barDrop w n) := by
  have bound : barExpect w < 2 ^ 11 := fieldOf_lt w 0 11
  unfold barDrop
  split
  · exact h
  · dsimp only
    split_ifs
    · exact barLacks_zero
    · exact barLacks_barWord _ (by omega) (by omega)
    · exact barLacks_barWord _ (by omega) (by omega)

/-! ### Tokens (R216) -/

/-- A register holds the token of a phase exactly when its fields say so. -/
theorem eq_barToken_iff {b phase : Nat} (hb : b < 16) (hp : phase < 2 ^ 16) (v : Word) :
    v = barToken b phase ↔ isToken b v = true ∧ fieldOf v 0 16 = phase := by
  have bound := v.isLt
  rw [isToken, decide_eq_true_eq, fieldOf_eq_div, fieldOf_eq_div, ← BitVec.toNat_inj, barToken, BitVec.toNat_ofNat]
  omega

/-- A register waits on an initialised barrier exactly when it holds the token of the present phase (R219). -/
theorem barWaits_iff {b : Nat} (hb : b < 16) {w : DWord} (on : bitAt w 63 = true) (v : Word) :
    barWaits b w v = true ↔ v = barToken b (barPhase w) := by
  have phase : barPhase w < 2 ^ 16 := fieldOf_lt w 32 16
  rw [eq_barToken_iff hb phase, barWaits, Bool.and_eq_true, Bool.and_eq_true, decide_eq_true_eq, barOn]
  simp only [on, and_true]

/-- Nothing waits on a barrier that is off (R219). -/
theorem barWaits_off {b : Nat} {w : DWord} (off : bitAt w 63 = false) (v : Word) : barWaits b w v = false := by
  rw [barWaits, barOn, off, Bool.and_false, Bool.false_and]

/-! ### One register written in several windows -/

/-- One register has been written in the windows that `p` names, at once, and nothing else but the errors that the writes
clear and the results in flight that they end (R121, R133). -/
structure Ctx.SetsIn (c c' : Ctx) (d : Nat) (v : Word) (p : Nat → Prop) : Prop where
  team : c'.t = { c.t with win := c'.t.win, errors := c'.t.errors }
  group : c'.g = { c.g with hist := c'.g.hist }
  clk : c'.clk = c.clk
  set : ∀ wid, p wid → sget 0 c'.t.win (wid * 64 + d) = v ∧ c'.v wid d = v
  kept : ∀ wid r, r < 64 → ¬ (r = d ∧ p wid) → sget 0 c'.t.win (wid * 64 + r) = sget 0 c.t.win (wid * 64 + r) ∧ c'.v wid r = c.v wid r

theorem Ctx.SetsIn.launch {c c' : Ctx} {d : Nat} {v : Word} {p : Nat → Prop} (h : c.SetsIn c' d v p) : c'.t.launch = c.t.launch :=
  (congrArg Team.launch h.team).trans rfl

theorem Ctx.setV_setsIn (c : Ctx) {d : Nat} (hd : d < 64) (wid : Nat) (v : Word) : c.SetsIn (c.setV 0 wid d v) d v (· = wid) where
  team := rfl
  group := rfl
  clk := rfl
  set w hw := by
    have held : sget 0 (c.setV 0 wid d v).t.win (wid * 64 + d) = v := sget_sset_same _ _ _ _
    subst hw
    refine ⟨held, ?_⟩
    have none_left : ∀ e ∈ (c.setV 0 w d v).g.hist, e.loc ≠ .v w d := fun e he => by simpa using (List.mem_filter.1 he).2
    rw [Ctx.v, seenAt_absent _ _ _ _ none_left, held]
    simp
  kept w r hr other := by
    have apart : w * 64 + r ≠ wid * 64 + d := fun h => other (by omega)
    have held : sget 0 (c.setV 0 wid d v).t.win (w * 64 + r) = sget 0 c.t.win (w * 64 + r) := sget_sset_ne _ _ _ _ _ apart
    have loc : Loc.v w r ≠ .v wid d := fun h => by
      injection h with hw hr
      exact apart (by rw [hw, hr])
    refine ⟨held, ?_⟩
    rw [Ctx.v, held]
    exact congrArg (BitVec.setWidth 32) (seenAt_noteWrite_ne c.clk _ _ c.g.hist c.clk 0 ((sget 0 c.t.win (wid * 64 + d)).setWidth 64) _ loc)

theorem Ctx.SetsIn.refl (c : Ctx) (d : Nat) (v : Word) : c.SetsIn c d v fun _ => False :=
  ⟨rfl, rfl, rfl, fun _ h => h.elim, fun _ _ _ _ => ⟨rfl, rfl⟩⟩

theorem Ctx.SetsIn.trans {a b c : Ctx} {d : Nat} (hd : d < 64) {v : Word} {p q : Nat → Prop} (h : a.SetsIn b d v p) (k : b.SetsIn c d v q) :
    a.SetsIn c d v fun w => p w ∨ q w where
  team := by rw [k.team, h.team]
  group := by rw [k.group, h.group]
  clk := k.clk.trans h.clk
  set w hw := by
    by_cases hq : q w
    · exact k.set w hq
    · obtain ⟨held, seen⟩ := k.kept w d hd fun x => hq x.2
      obtain ⟨held', seen'⟩ := h.set w (hw.resolve_right hq)
      exact ⟨held.trans held', seen.trans seen'⟩
  kept w r hr other := by
    obtain ⟨held, seen⟩ := k.kept w r hr fun x => other ⟨x.1, .inr x.2⟩
    obtain ⟨held', seen'⟩ := h.kept w r hr fun x => other ⟨x.1, .inl x.2⟩
    exact ⟨held.trans held', seen.trans seen'⟩

theorem Ctx.SetsIn.congr {c c' : Ctx} {d : Nat} {v : Word} {p q : Nat → Prop} (h : c.SetsIn c' d v p) (same : ∀ w, p w ↔ q w) :
    c.SetsIn c' d v q := (funext fun w => propext (same w) : p = q) ▸ h

/-- A window of some lanes, on any side. -/
def Team.windowOf (t : Team) (ls : List Lane) (wid : Nat) : Prop := ∃ ln ∈ ls, ∃ sd ∈ t.sides, t.wid ln.fid sd = wid

theorem Team.windowOf_congr {t u : Team} (h : u.launch = t.launch) (ls : List Lane) : u.windowOf ls = t.windowOf ls := by
  unfold Team.windowOf Team.sides Team.wid
  rw [h]

theorem Ctx.setSides_setsIn {d : Nat} (hd : d < 64) (v : Word) (fid : Nat) (sides : List Nat) (c : Ctx) :
    c.SetsIn (sides.foldl (fun c sd => c.setV 0 (c.t.wid fid sd) d v) c) d v fun w => ∃ sd ∈ sides, c.t.wid fid sd = w := by
  induction sides generalizing c with
  | nil => exact (Ctx.SetsIn.refl c d v).congr (by simp)
  | cons sd sides ih =>
    refine ((c.setV_setsIn hd (c.t.wid fid sd) v).trans hd (ih _)).congr fun w => ?_
    rw [List.exists_mem_cons_iff, eq_comm]
    rfl

/-- The writing of a token register in lanes, on every side (R216). -/
theorem Ctx.setTokens_setsIn (d : BitVec 6) (v : Word) (ls : List Lane) (c : Ctx) :
    c.SetsIn (c.setTokens d ls v) d.toNat v (c.t.windowOf ls) := by
  have hd : d.toNat < 64 := d.isLt
  induction ls generalizing c with
  | nil => exact (Ctx.SetsIn.refl c _ v).congr (by simp [Team.windowOf])
  | cons ln ls ih =>
    have first := c.setSides_setsIn hd v ln.fid c.t.sides
    refine (first.trans hd (ih _)).congr fun w => ?_
    rw [Team.windowOf_congr first.launch, Team.windowOf, Team.windowOf, List.exists_mem_cons_iff]

/-! ### Arrivals (R218) -/

/-- A judgement rests on the groups that it leaves and on the barrier's word alone. -/
theorem Team.Judged.congr {t t' u : Team} {b : Nat} (h : t.Judged t' b) (hg : u.groups = t'.groups) (hb : u.bar b = t'.bar b) :
    t.Judged u b := by
  obtain ⟨f, groups, judged⟩ := h
  refine ⟨f, hg.trans groups, fun g => ?_⟩
  unfold Team.passesBar at judged ⊢
  rw [hb]
  exact judged g

/-- The lanes that arrive at a barrier: those that hold no token of its present phase, and have not arrived at the BAR.SYNC at
which they stand (R218, R219). -/
def Ctx.arriving (c : Ctx) (b : Nat) (d : BitVec 6) : List Lane :=
  (lanesOn c.t c.g 0).filter fun ln => !c.g.synced.contains ln.fid && !barWaits b (c.t.bar b) (c.v ln.wid d.toNat)

theorem Ctx.mem_arriving {c : Ctx} {b : Nat} {d : BitVec 6} {ln : Lane} : ln ∈ c.arriving b d ↔
    ln ∈ lanesOn c.t c.g 0 ∧ ln.fid ∉ c.g.synced ∧ barWaits b (c.t.bar b) (c.v ln.wid d.toNat) = false := by
  simp [Ctx.arriving]

/-- Lanes have arrived at a barrier: its word is `word'`, each of the lanes holds `token`, and the groups that wait on it have
been judged (R218). -/
structure Ctx.Arrived (c c' : Ctx) (b : Nat) (d : BitVec 6) (ls : List Lane) (word' : DWord) (token : Word) : Prop where
  team : c'.t = { c.t with barriers := c'.t.barriers, win := c'.t.win, errors := c'.t.errors, sb := c'.t.sb, groups := c'.t.groups }
  sb : c.t.launch.contain = false ∨ ls = [] → c'.t.sb = c.t.sb
  judged : c.t.Judged c'.t b
  bar : ∀ i, c'.t.bar i = if i = b then word' else c.t.bar i
  group : c'.g = { c.g with hist := c'.g.hist }
  clk : c'.clk = c.clk
  set : ∀ wid, c.t.windowOf ls wid → sget 0 c'.t.win (wid * 64 + d.toNat) = token ∧ c'.v wid d.toNat = token
  kept : ∀ wid r, r < 64 → ¬ (r = d.toNat ∧ c.t.windowOf ls wid) →
    sget 0 c'.t.win (wid * 64 + r) = sget 0 c.t.win (wid * 64 + r) ∧ c'.v wid r = c.v wid r

theorem Ctx.barArrivals_off {c : Ctx} {b : Nat} (off : bitAt (c.t.bar b) 63 = false) (d : BitVec 6) (drop : Bool) :
    c.barArrivals b d drop = c := if_pos (by rw [barOn, off]; rfl)

theorem Ctx.barArrivals_on {c : Ctx} {b : Nat} (on : bitAt (c.t.bar b) 63 = true) (d : BitVec 6) (drop : Bool) :
    let ls := c.arriving b d
    c.Arrived (c.barArrivals b d drop) b d ls (if drop then barDrop (c.t.bar b) ls.length else barArrive (c.t.bar b) ls.length)
      (if drop then 0 else barToken b (barPhase (c.t.bar b))) := by
  intro ls
  let word' := if drop then barDrop (c.t.bar b) ls.length else barArrive (c.t.bar b) ls.length
  let token := if drop then 0 else barToken b (barPhase (c.t.bar b))
  obtain ⟨sb, closed, plain⟩ : ∃ sb, (if c.t.launch.contain && !ls.isEmpty then c.t.closeEntries else c.t) = { c.t with sb := sb } ∧
      (c.t.launch.contain = false ∨ ls = [] → sb = c.t.sb) := by
    split
    · next h => exact ⟨_, rfl, fun plain => by rcases plain with plain | plain <;> simp [plain] at h⟩
    · exact ⟨_, rfl, fun _ => rfl⟩
  let told : Ctx := { c with t := ({ c.t with sb := sb }.setBar b word').judgeWaiters b }
  have arrives : c.barArrivals b d drop = told.setTokens d ls token := by
    have acts : c.barArrivals b d drop = Ctx.setTokens { c with t :=
        ((if c.t.launch.contain && !ls.isEmpty then c.t.closeEntries else c.t).setBar b word').judgeWaiters b } d ls token :=
      if_neg (by rw [barOn, on]; decide)
    rw [acts, closed]
  have judged : c.t.Judged told.t b := Team.judgeWaiters_judged rfl rfl rfl b
  obtain ⟨team, group, clk, set, kept⟩ := told.setTokens_setsIn d token ls
  have groups := congrArg Team.groups team
  have bar := congrArg (Team.bar · b) team
  rw [arrives]
  refine ⟨?_, fun h => (congrArg Team.sb team).trans (plain h), judged.congr groups bar,
    fun i => (congrArg (Team.bar · i) team).trans (sget_sset _ _ _ _ _), group, clk, set, kept⟩
  rw [team]
  rfl

/-! ### A barrier instruction that acts -/

/-- A barrier instruction whose guard holds, whose operands raise no trap and whose two executions agree acts. -/
theorem barInstr_acts {w : WE} {s : State} {t : Team} {g : Group} (hi : s.issuing t g) (f : State → Ctx → Res) :
    let c0 := uniCtx s t g (guardYX w.m) w.m []
    let locs : Lane → List Loc := fun ln => laneLocs ln w.d 1
    let c := { c0 with clk := c0.issueClk {} locs }
    c0.uniTrap (guardYX w.m) [] = none → c0.groupGuard (guardYX w.m) = true → c0.uniDiffers = false → c.operandTrap {} locs = none →
    barInstr w s f = f { s with clk := c.clk } c := by
  intro c0 locs c clear holds agree quiet
  rw [barInstr, uniInstr_acts hi clear holds agree]
  simp only [show (uniCtx s t g (guardYX w.m) w.m []) = c0 from rfl]
  rw [show Ctx.operandTrap { c0 with clk := c0.issueClk {} fun ln => laneLocs ln w.d 1 } {} (fun ln => laneLocs ln w.d 1) = none from quiet]

end Sys2Proof.Machine
end

section
/-! PROOFS. BAR.INIT and BAR.ARV (R145, R216 to R218). -/

namespace Sys2Proof.Machine

/-! ### BAR.INIT -/

/-- What BAR.INIT does where it acts. -/
def barInitBody (w : WE) (s : State) (c : Ctx) : Res :=
  let e := Nat.min (c.u w.a).toNat 1024
  .next (({ c with t := (c.t.setBar (w.sub.toNat % 16) (if e = 0 then 0 else barWord 0 0 e)).judgeWaiters (w.sub.toNat % 16) } : Ctx).finish
    s 0 w.m.words)

theorem exec_barInit_body (w : WE) : exec (.barInit w) = fun s =>
    uniInstr s (guardYX w.m) w.m 0 (uniLocs w.a) (barInitBody w) := rfl

/-- The word of a barrier that has just been initialised (R217). -/
theorem barWord_fresh {e : Nat} (h : e ≤ 1024) : barWord 0 0 e = BitVec.ofNat 64 (2 ^ 63 + e) :=
  barWord_eq 0 (by omega) (by omega)

/-! ### BAR.ARV -/

/-- What BAR.ARV does where it acts. -/
def barArvBody (w : WE) (s : State) (c : Ctx) : Res :=
  .next ((c.barArrivals (w.sub.toNat % 16) w.d (bitAt w.sub 4)).finish s 0 w.m.words)

theorem exec_barArv_body (w : WE) : exec (.barArv w) = fun s => barInstr w s (barArvBody w) := rfl

theorem barInstr_passes (w : WE) (f : State → Ctx → Res) : UniPasses (fun s => barInstr w s f) (guardYX w.m) w.m 0 [] :=
  uniInstr_passes _ _ _ _ _

/-- The arriving lanes of an initialised barrier, by the token that they lack (R218). -/
theorem Ctx.arriving_eq {c : Ctx} {b : Nat} (hb : b < 16) (on : bitAt (c.t.bar b) 63 = true) (d : BitVec 6) :
    c.arriving b d = (lanesOn c.t c.g 0).filter fun ln =>
      c.v ln.wid d.toNat ≠ BitVec.ofNat 32 (2 ^ 31 + 2 ^ 16 * b + fieldOf (c.t.bar b) 32 16) ∧ ln.fid ∉ c.g.synced := by
  refine List.filter_congr fun ln _ => ?_
  have waits := barWaits_iff hb on (c.v ln.wid d.toNat)
  rw [barToken, barPhase] at waits
  rw [Bool.eq_iff_iff, Bool.and_eq_true, Bool.not_eq_true', Bool.not_eq_true', ← Bool.not_eq_true, ← Bool.not_eq_true, waits,
    List.contains_iff_mem, decide_eq_true_eq, and_comm]

/-- The word after arrivals, by the fields of the word before (R218). -/
theorem barArrive_eq {w : DWord} (on : bitAt w 63 = true) (n : Nat) :
    barArrive w n = if fieldOf w 0 11 ≤ fieldOf w 16 11 + n
      then BitVec.ofNat 64 (2 ^ 63 + 2 ^ 32 * ((fieldOf w 32 16 + 1) % 65536) + 2 ^ 16 * 0 + fieldOf w 0 11)
      else BitVec.ofNat 64 (2 ^ 63 + 2 ^ 32 * (fieldOf w 32 16 % 65536) + 2 ^ 16 * (fieldOf w 16 11 + n) + fieldOf w 0 11) := by
  have expect := fieldOf_lt w 0 11
  rw [barArrive, if_neg (by rw [barOn, on]; decide), barExpect, barArrived, barPhase]
  split
  · exact barWord_eq _ (by omega) expect
  · exact barWord_eq _ (by omega) expect

/-- The word after arrivals that lower the expected count (R218). -/
theorem barDrop_eq {w : DWord} (on : bitAt w 63 = true) (n : Nat) :
    barDrop w n = if fieldOf w 0 11 ≤ n then 0
      else if fieldOf w 0 11 - n ≤ fieldOf w 16 11
      then BitVec.ofNat 64 (2 ^ 63 + 2 ^ 32 * ((fieldOf w 32 16 + 1) % 65536) + 2 ^ 16 * 0 + (fieldOf w 0 11 - n))
      else BitVec.ofNat 64 (2 ^ 63 + 2 ^ 32 * (fieldOf w 32 16 % 65536) + 2 ^ 16 * fieldOf w 16 11 + (fieldOf w 0 11 - n)) := by
  have expect := fieldOf_lt w 0 11
  have arrived := fieldOf_lt w 16 11
  rw [barDrop, if_neg (by rw [barOn, on]; decide), barExpect, barArrived, barPhase]
  simp only [Nat.sub_eq_zero_iff_le]
  split
  · rfl
  split
  · exact barWord_eq _ (by omega) (by omega)
  · exact barWord_eq _ (by omega) (by omega)

/-- BAR.ARV passes a barrier that is off. -/
theorem barArvBody_off {w : WE} {s : State} {c : Ctx} (off : bitAt (c.t.bar (w.sub.toNat % 16)) 63 = false) :
    barArvBody w { s with clk := c.clk } c = .next (s.acted c.clk c.t (c.g.retire c.clk 0 w.m.words)) := by
  rw [barArvBody, Ctx.barArrivals_off off, Ctx.finish_acted]

/-- BAR.ARV passes an initialised barrier at which its lanes have arrived. -/
theorem barArvBody_on {w : WE} {s : State} {c : Ctx} (on : bitAt (c.t.bar (w.sub.toNat % 16)) 63 = true) :
    let b := w.sub.toNat % 16
    let drop := bitAt w.sub 4
    ∃ c' h, barArvBody w { s with clk := c.clk } c = .next (s.acted c.clk c'.t ({ c.g with hist := h }.retire c.clk 0 w.m.words)) ∧
      c.Arrived c' b w.d (c.arriving b w.d) (if drop then barDrop (c.t.bar b) (c.arriving b w.d).length
        else barArrive (c.t.bar b) (c.arriving b w.d).length) (if drop then 0 else barToken b (barPhase (c.t.bar b))) := by
  intro b drop
  have arr := c.barArrivals_on on w.d drop
  have finish := (c.barArrivals b w.d drop).finish_acted s 0 w.m.words
  rw [arr.clk] at finish
  exact ⟨_, _, (congrArg Host.Outcome.next finish).trans (by rw [arr.group]), arr⟩

/-- BAR.INIT, where it acts. -/
theorem barInitBody_acts (w : WE) (s : State) (c : Ctx) :
    let b := w.sub.toNat % 16
    let e := min (c.u w.a).toNat 1024
    ∃ t', barInitBody w { s with clk := c.clk } c = .next (s.acted c.clk t' (c.g.retire c.clk 0 w.m.words)) ∧
      t' = { c.t with barriers := t'.barriers, groups := t'.groups } ∧ c.t.Judged t' b ∧
      ∀ i, t'.bar i = if i = b then (if e = 0 then 0 else BitVec.ofNat 64 (2 ^ 63 + e)) else c.t.bar i := by
  intro b e
  let told := (c.t.setBar b (if e = 0 then 0 else barWord 0 0 e)).judgeWaiters b
  refine ⟨told, congrArg Host.Outcome.next (Ctx.finish_acted { c with t := told } s _ _), rfl,
    Team.judgeWaiters_judged rfl rfl rfl b, fun i => ?_⟩
  rw [← barWord_fresh (Nat.min_le_right _ 1024 : e ≤ 1024)]
  exact sget_sset _ _ _ _ _

/-- Settles O19: BAR.INIT by its word's fields, BAR.ARV by whether its barrier is initialised. -/
theorem barrierArrivals : Obligations.BarrierArrivals := by
  unfold Obligations.BarrierArrivals
  intro lacks
  refine ⟨⟨barLacks_zero, fun e low high => barLacks_barWord 0 low (by omega), fun w n h => ⟨barLacks_arrive n h, barLacks_drop n h⟩⟩,
    fun w => ?init, fun w => ?arv⟩
  case init =>
    rw [exec_barInit_body]
    refine ⟨uniInstr_passes _ _ _ _ _, ?_⟩
    intro s t g hi c e clear holds agree
    obtain ⟨t', body, team, judged, bar⟩ := barInitBody_acts w s c
    have acts : uniInstr s (guardYX w.m) w.m 0 (uniLocs w.a) (barInitBody w) = barInitBody w { s with clk := c.clk } c :=
      uniInstr_acts hi clear holds agree _ _
    exact ⟨t', _, acts.trans body, retire_passed _ _ _ _, rfl, rfl, rfl, team, judged, bar⟩
  case arv =>
    rw [exec_barArv_body]
    refine ⟨barInstr_passes _ _, ?_⟩
    intro s t g hi c0 locs c b word phase expect arrived token ls drop mk word' clear holds agree quiet
    have acts : barInstr w s (barArvBody w) = barArvBody w { s with clk := c.clk } c := barInstr_acts hi _ clear holds agree quiet
    cases on : bitAt word 63 with
    | false =>
      refine ⟨t, _, acts.trans (barArvBody_off on), retire_passed _ _ _ _, rfl, rfl, rfl, rfl, fun _ => rfl, nofun, fun _ => rfl,
        fun i => ?_, fun wid r _ => (if_neg (by simp)).symm⟩
      have same : word' = word := if_pos on
      split
      · next hi => rw [same, hi]
      · rfl
    | true =>
      have hb : b < 16 := Nat.mod_lt _ (by decide)
      have initialised : bitAt (c.t.bar b) 63 = true := on
      have same : c.arriving b w.d = ls := Ctx.arriving_eq (c := c) (b := b) hb initialised w.d
      obtain ⟨c', h, body, arr⟩ := barArvBody_on (s := s) (c := c) on
      rw [same] at arr
      refine ⟨_, _, acts.trans body, Group.retire_passed_of (g := g) rfl _ _ _, rfl, rfl, rfl, arr.team, arr.sb,
        fun _ => arr.judged, nofun, fun i => ?_, fun wid r hr => ?_⟩
      · have word_eq : (if drop then barDrop word ls.length else barArrive word ls.length) = word' := by
          rw [barDrop_eq on, barArrive_eq on]
          exact (if_neg (by simp [on])).symm
        exact (arr.bar i).trans (congrArg (fun x => if i = b then x else t.bar i) word_eq)
      · split
        · next h =>
          obtain ⟨-, hd, window⟩ := h
          rw [hd]
          exact (arr.set wid window).1
        · next h => exact (arr.kept wid r hr fun x => h ⟨rfl, x⟩).1

end Sys2Proof.Machine
end

section
/-! PROOFS. BAR.WT and BAR.SYNC (R138, R175, R216, R218, R219). -/

namespace Sys2Proof.Machine

/-! ### Lanes and their windows -/

theorem lanesOn_congr {t u : Team} {g h : Group} (hl : u.launch = t.launch) (hg : h.lanes = g.lanes) (side : Nat) :
    lanesOn u h side = lanesOn t g side := by
  unfold lanesOn Group.active Team.wid
  rw [hl, hg]

theorem mem_lanesOn {t : Team} {g : Group} {side : Nat} {ln : Lane} (h : ln ∈ lanesOn t g side) : ln.wid = t.wid ln.fid side := by
  obtain ⟨p, -, rfl⟩ := List.mem_map.1 h
  rfl

/-- The windows of two fibres are apart (R109). -/
theorem Team.wid_inj {t : Team} {x y sd : Nat} (hs : sd ∈ t.sides) (h : t.wid x sd = t.wid y 0) : x = y := by
  unfold Team.sides at hs
  unfold Team.wid at h
  cases prot : t.launch.prot
  · simpa [prot] using h
  · have side : sd = 0 ∨ sd = 1 := by simpa [prot] using hs
    simp only [prot, if_true] at h
    omega

/-- A lane's own window is one of those of the arriving lanes exactly when the lane arrives (R218). -/
theorem Ctx.windowOf_arriving {c : Ctx} {b : Nat} {d : BitVec 6} {ln : Lane} (h : ln ∈ lanesOn c.t c.g 0) :
    c.t.windowOf (c.arriving b d) ln.wid ↔ ln ∈ c.arriving b d := by
  have wid := mem_lanesOn h
  constructor
  · rintro ⟨ln', arrives, sd, hs, same⟩
    obtain ⟨here, missing, lacks⟩ := mem_arriving.1 arrives
    have fibre : ln'.fid = ln.fid := Team.wid_inj hs (same.trans wid)
    have window : ln'.wid = ln.wid := by rw [wid, mem_lanesOn here, fibre]
    rw [fibre] at missing
    rw [window] at lacks
    exact mem_arriving.2 ⟨h, missing, lacks⟩
  · intro arrives
    refine ⟨ln, arrives, 0, ?_, wid.symm⟩
    unfold Team.sides
    split <;> simp

/-! ### Registers and windows that are cleared -/

/-- One register is 0 in the windows that `p` names, and the registers are else as before. -/
def Team.Cleared (t t' : Team) (d : Nat) (p : Nat → Prop) : Prop := ∀ wid r, r < 64 →
  ((r = d ∧ p wid) → sget 0 t'.win (wid * 64 + r) = 0) ∧ (¬ (r = d ∧ p wid) → sget 0 t'.win (wid * 64 + r) = sget 0 t.win (wid * 64 + r))

/-- The windows of the lanes that `p` names. -/
def Ctx.laneWindows (c : Ctx) (p : Lane → Prop) (wid : Nat) : Prop :=
  ∃ ln ∈ lanesOn c.t c.g 0, p ln ∧ ∃ sd ∈ c.t.sides, c.t.wid ln.fid sd = wid

theorem Ctx.SetsIn.cleared {c c' : Ctx} {d : Nat} {p : Nat → Prop} (h : c.SetsIn c' d 0 p) : c.t.Cleared c'.t d p := fun wid r hr => by
  refine ⟨fun hp => ?_, fun hp => (h.kept wid r hr hp).1⟩
  rw [hp.1]
  exact (h.set wid hp.2).1

/-! ### A group that goes on, and one that stands -/

/-- A group at a barrier at which no lane of it waits, or whose wait has been judged, goes on (R175, R219). -/
theorem Ctx.barWait_goes {c : Ctx} (s : State) (b : Nat) (d : BitVec 6) (m : Mods)
    (go : c.g.barPass = true ∨ ∀ ln ∈ lanesOn c.t c.g 0, barWaits b (c.t.bar b) (c.v ln.wid d.toNat) = false) :
    ∃ c', c.barWait { s with clk := c.clk } b d m =
        .next ((s.observeTeam c.t.uid c.g.fids).acted c.clk c'.t (c'.g.jump c.clk 0 (c.nextPc m))) ∧
      c.SetsIn c' d.toNat 0 (c.laneWindows fun ln => isToken b (c.v ln.wid d.toNat) = true) := by
  let c' := c.setTokens d ((lanesOn c.t c.g 0).filter fun ln => isToken b (c.v ln.wid d.toNat)) 0
  have sets := c.setTokens_setsIn d 0 ((lanesOn c.t c.g 0).filter fun ln => isToken b (c.v ln.wid d.toNat))
  have stays : ¬ (!c.g.barPass && (lanesOn c.t c.g 0).any fun ln => barWaits b (c.t.bar b) (c.v ln.wid d.toNat)) = true := by
    rw [Bool.and_eq_true, Bool.not_eq_true', List.any_eq_true]
    rintro ⟨held, ln, hln, waits⟩
    rcases go with pass | none_waits
    · rw [pass] at held; cases held
    · rw [none_waits ln hln] at waits; cases waits
  refine ⟨c', (if_neg stays).trans ?_, sets.congr fun wid => ?_⟩
  · refine (Ctx.jumpTo_of_clk (S := ({ s with clk := c.clk } : State).observeBy c.t c.g) sets.clk.symm 0 _).trans ?_
    rw [sets.clk]
    rfl
  · simp only [Team.windowOf, Ctx.laneWindows, List.mem_filter, and_assoc]

/-- A group at a barrier at which a lane of it waits stands or parks there (R219). -/
theorem Ctx.barWait_stands {c : Ctx} (s : State) (b : Nat) (d : BitVec 6) (m : Mods) (held : c.g.barPass = false)
    (waits : ∃ ln ∈ lanesOn c.t c.g 0, barWaits b (c.t.bar b) (c.v ln.wid d.toNat) = true) :
    c.barWait s b d m = ({ c with g := { c.g with barAt := some (b, d.toNat), positions := none } } : Ctx).waitOrPark s .barrier :=
  if_pos (by rw [held, Bool.not_false, Bool.true_and, List.any_eq_true]; exact waits)

/-- The records of a group all of whose fibres park at its instruction follow those that the Attic held (R125, R138). -/
def Group.parksAt (g : Group) (s : State) (clk : Nat) (synced : List Nat) (attic attic' : List Parked) : Prop :=
  ∃ new, attic' = attic ++ new ∧ new.map Parked.bare = g.active.map fun x =>
    { fid := x.2, core := g.core, slot := 0, pc := g.pc, st := .formable, parked := clk
      count := clk - sget 0 s.dieClk (g.core / 128), synced := synced.contains x.2 }

theorem Ctx.waitOrPark_waits {c : Ctx} {s : State} (h : s.mustPark c.t c.g = false) (w : Wait) :
    c.waitOrPark s w = .next (s.acted s.clk c.t (c.g.waitFor c.clk w)) := if_neg (by rw [h]; decide)

theorem Ctx.waitOrPark_parks {c : Ctx} {s : State} (h : s.mustPark c.t c.g = true) (w : Wait) :
    ∃ attic', c.waitOrPark s w = .next (s.putTeam { c.t with groups := c.t.groups.filter (fun u => u.num ≠ c.g.num), attic := attic' }) ∧
      c.g.parksAt s s.clk c.g.synced c.t.attic attic' := by
  obtain ⟨new, parked, bare⟩ := s.parkGroupAt_spec c.t c.g c.g.pc
  exact ⟨_, (if_pos h).trans (congrArg Host.Outcome.next parked), new, rfl, bare⟩

/-- Whether a group must give up its record does not rest on its barrier, and judgements leave the records (R138). -/
theorem State.mustPark_judged (s : State) {t t' : Team} {g g' : Group} {b : Nat} (judged : t.Judged t' b)
    (team : t' = { t with barriers := t'.barriers, win := t'.win, errors := t'.errors, sb := t'.sb, groups := t'.groups })
    (lanes : g'.lanes = g.lanes) (core : g'.core = g.core) : s.mustPark t' g' = s.mustPark t g := by
  obtain ⟨f, groups, passes⟩ := judged
  have num : ∀ u, (f u).num = u.num := fun u => by
    by_cases h : t.passesBar t' b u
    · rw [(passes u).1 h]
    · rw [(passes u).2 h]
  have records : t'.freeRecord g.core = t.freeRecord g.core := by
    rw [team]
    unfold Team.freeRecord
    dsimp only
    rw [groups]
    simp only [List.any_map, Function.comp_def, num]
    rfl
  have attic := (congrArg Team.attic team).trans rfl
  have launch := (congrArg Team.launch team).trans rfl
  unfold State.mustPark Group.underfull Group.active
  rw [lanes, core, records, attic, launch]

/-! ### BAR.WT -/

/-- What BAR.WT does where it acts. -/
def barWtBody (w : WE) (s : State) (c : Ctx) : Res := c.barWait s (w.sub.toNat % 16) w.d w.m

theorem exec_barWt_body (w : WE) (s : State) : exec (.barWt w) s = barInstr w s (barWtBody w) := rfl

/-- A group that goes on past a barrier has ended its run with its fibres and its registers. -/
theorem Group.jump_marked (g : Group) (synced : List Nat) (hist : List Early) (clk stall : Nat) (target : DWord) :
    let g' := ({ g with synced := synced, hist := hist } : Group).jump clk stall target
    g.Jumped g' clk stall target ∧ g'.lanes = g.lanes :=
  ⟨Group.jump_jumped (g := g) (g0 := { g with synced := synced, hist := hist }) ⟨rfl, rfl, rfl, rfl, rfl, rfl⟩ _ _ _, rfl⟩

/-! ### BAR.SYNC -/

/-- The fibres of a group are marked as arrived at the BAR.SYNC at which they stand (R219). -/
def Ctx.marked (c : Ctx) : Ctx := { c with g := { c.g with synced := c.g.active.map (·.2) } }

/-- What BAR.SYNC does where it acts. -/
def barSyncBody (w : WE) (s : State) (c : Ctx) : Res :=
  (c.barArrivals (w.sub.toNat % 16) w.d false).marked.barWait s (w.sub.toNat % 16) w.d w.m

theorem exec_barSync_body (w : WE) (s : State) : exec (.barSync w) s = barInstr w s (barSyncBody w) := rfl

section Arrivals
variable {c c1 : Ctx} {b : Nat} {d : BitVec 6} {word' : DWord} {token : Word} (arr : c.Arrived c1 b d (c.arriving b d) word' token)
include arr

theorem Ctx.Arrived.launch : c1.t.launch = c.t.launch := (congrArg Team.launch arr.team).trans rfl

theorem Ctx.Arrived.uid : c1.t.uid = c.t.uid := (congrArg Team.uid arr.team).trans rfl

theorem Ctx.Arrived.lanes : lanesOn c1.t c1.marked.g 0 = lanesOn c.t c.g 0 :=
  lanesOn_congr arr.launch ((congrArg Group.lanes arr.group).trans rfl) 0

theorem Ctx.Arrived.sides : c1.t.sides = c.t.sides := by rw [Team.sides, arr.launch]; rfl

theorem Ctx.Arrived.wid (fid : Nat) : c1.t.wid fid = c.t.wid fid := by unfold Team.wid; rw [arr.launch]

/-- Registers that are cleared after arrivals, those of the arriving lanes among them, are else as before the arrivals. -/
theorem Ctx.Arrived.cleared {c' : Ctx} {p : Lane → Prop} (sets : c1.marked.SetsIn c' d.toNat 0 (c.laneWindows p))
    (all : ∀ ln ∈ c.arriving b d, p ln) : c.t.Cleared c'.t d.toNat (c.laneWindows p) := fun wid r hr => by
  refine ⟨fun ⟨hd, hp⟩ => hd ▸ (sets.set wid hp).1, fun hp => ?_⟩
  have apart : ¬ (r = d.toNat ∧ c.t.windowOf (c.arriving b d) wid) := fun ⟨hd, ln, arrives, window⟩ =>
    hp ⟨hd, ln, (mem_arriving.1 arrives).1, all ln arrives, window⟩
  exact (sets.kept wid r hr hp).1.trans (arr.kept wid r hr apart).1

/-- A lane that arrives holds the token. -/
theorem Ctx.Arrived.v_arriving {ln : Lane} (h : ln ∈ c.arriving b d) : c1.v ln.wid d.toNat = token :=
  (arr.set _ ((c.windowOf_arriving (mem_arriving.1 h).1).2 h)).2

/-- A lane that does not arrive holds what it held. -/
theorem Ctx.Arrived.v_other {ln : Lane} (here : ln ∈ lanesOn c.t c.g 0) (h : ln ∉ c.arriving b d) :
    c1.v ln.wid d.toNat = c.v ln.wid d.toNat :=
  (arr.kept _ _ d.isLt fun x => h ((c.windowOf_arriving here).1 x.2)).2

end Arrivals

theorem Ctx.Arrived.bar_same {c c1 : Ctx} {b : Nat} {d : BitVec 6} {ls : List Lane} {word' : DWord} {token : Word}
    (arr : c.Arrived c1 b d ls word' token) : c1.t.bar b = word' := (arr.bar b).trans (if_pos rfl)

theorem isToken_barToken {b phase : Nat} (hb : b < 16) (hp : phase < 2 ^ 16) : isToken b (barToken b phase) = true :=
  ((eq_barToken_iff hb hp _).1 rfl).1

theorem phase_barToken {b phase : Nat} (hb : b < 16) (hp : phase < 2 ^ 16) : fieldOf (barToken b phase) 0 16 = phase :=
  ((eq_barToken_iff hb hp _).1 rfl).2

/-- A token waits at its barrier while the barrier stands in the token's phase (R219). -/
theorem barWaits_token {b phase : Nat} {w : DWord} (hb : b < 16) (hp : phase < 2 ^ 16) (on : bitAt w 63 = true) :
    barWaits b w (barToken b phase) = true ↔ phase = barPhase w := by
  rw [barWaits, isToken_barToken hb hp, phase_barToken hb hp, barOn, on, Bool.true_and, Bool.true_and, decide_eq_true_eq]

/-- Registers that are cleared of tokens after arrivals are those that held one, and those of the lanes that arrived (R219). -/
theorem Ctx.Arrived.tokens_iff {c c1 : Ctx} {b phase : Nat} {d : BitVec 6} {word' : DWord} (hb : b < 16) (hp : phase < 2 ^ 16)
    (arr : c.Arrived c1 b d (c.arriving b d) word' (barToken b phase)) {ln : Lane} (here : ln ∈ lanesOn c.t c.g 0) :
    isToken b (c1.v ln.wid d.toNat) = true ↔ ln ∈ c.arriving b d ∨ isToken b (c.v ln.wid d.toNat) = true := by
  by_cases arrives : ln ∈ c.arriving b d
  · rw [arr.v_arriving arrives]
    exact iff_of_true (isToken_barToken hb hp) (.inl arrives)
  · rw [arr.v_other here arrives, or_iff_right arrives]

theorem Team.barred_trans {t u v : Team}
    (h : u = { t with barriers := u.barriers, win := u.win, errors := u.errors, sb := u.sb, groups := u.groups })
    (k : v = { u with win := v.win, errors := v.errors }) :
    v = { t with barriers := v.barriers, win := v.win, errors := v.errors, sb := v.sb, groups := v.groups } := by
  rw [k, h]

/-- A group of BAR.SYNC that goes on after its arrivals (R175, R218, R219). -/
theorem barSync_goes {c c1 : Ctx} (s : State) {b phase : Nat} {d : BitVec 6} (m : Mods) {word' : DWord} (hb : b < 16) (hp : phase < 2 ^ 16)
    (arr : c.Arrived c1 b d (c.arriving b d) word' (barToken b phase))
    (go : c.g.barPass = true ∨ ∀ ln ∈ lanesOn c.t c.g 0, barWaits b word' (c1.v ln.wid d.toNat) = false) :
    ∃ t' g', c1.marked.barWait { s with clk := c.clk } b d m = .next ((s.observeTeam c.t.uid c.g.fids).acted c.clk t' g') ∧
      c.g.Jumped g' c.clk 0 (c.nextPc m) ∧ g'.lanes = c.g.lanes ∧
      t' = { c.t with barriers := t'.barriers, win := t'.win, errors := t'.errors, sb := t'.sb, groups := t'.groups } ∧
      (c.t.launch.contain = false ∨ c.arriving b d = [] → t'.sb = c.t.sb) ∧ c.t.Judged t' b ∧
      (∀ i, t'.bar i = if i = b then word' else c.t.bar i) ∧
      c.t.Cleared t' d.toNat (c.laneWindows fun ln => ln ∈ c.arriving b d ∨ isToken b (c.v ln.wid d.toNat) = true) := by
  have pass : c1.marked.g.barPass = c.g.barPass := (congrArg Group.barPass arr.group).trans rfl
  have goes : c1.marked.g.barPass = true ∨
      ∀ ln ∈ lanesOn c1.marked.t c1.marked.g 0, barWaits b (c1.marked.t.bar b) (c1.marked.v ln.wid d.toNat) = false := by
    rw [pass, show lanesOn c1.marked.t c1.marked.g 0 = lanesOn c.t c.g 0 from arr.lanes,
      show c1.marked.t.bar b = word' from arr.bar_same]
    exact go
  obtain ⟨c', runs, sets⟩ := Ctx.barWait_goes s b d m goes
  have clk : c1.marked.clk = c.clk := arr.clk
  have uid : c1.marked.t.uid = c.t.uid := arr.uid
  have fids : c1.marked.g.fids = c.g.fids := (congrArg Group.fids arr.group).trans rfl
  have next : c1.marked.nextPc m = c.nextPc m := congrArg (· + BitVec.ofNat 64 (4 * m.words)) ((congrArg Group.pc arr.group).trans rfl)
  have group : c'.g = { c.g with synced := c1.marked.g.synced, hist := c'.g.hist } := sets.group.trans (by rw [Ctx.marked, arr.group])
  obtain ⟨jumped, lanes⟩ := c.g.jump_marked c1.marked.g.synced c'.g.hist c.clk 0 (c.nextPc m)
  rw [clk, uid, fids, next, group] at runs
  have groups : c'.t.groups = c1.t.groups := (congrArg Team.groups sets.team).trans rfl
  have bar : ∀ i, c'.t.bar i = c1.t.bar i := fun i => (congrArg (Team.bar · i) sets.team).trans rfl
  have sb : c'.t.sb = c1.t.sb := (congrArg Team.sb sets.team).trans rfl
  refine ⟨c'.t, _, runs, jumped, lanes, Team.barred_trans arr.team sets.team, fun h => sb.trans (arr.sb h), arr.judged.congr groups (bar b),
    fun i => (bar i).trans (arr.bar i), ?_⟩
  have windows : c1.marked.laneWindows (fun ln => isToken b (c1.marked.v ln.wid d.toNat) = true) =
      c.laneWindows fun ln => ln ∈ c.arriving b d ∨ isToken b (c.v ln.wid d.toNat) = true := by
    unfold Ctx.laneWindows
    rw [show lanesOn c1.marked.t c1.marked.g 0 = lanesOn c.t c.g 0 from arr.lanes, show c1.marked.t.sides = c.t.sides from arr.sides]
    funext wid
    refine propext (exists_congr fun ln => and_congr_right fun here => and_congr (arr.tokens_iff hb hp here) ?_)
    rw [show c1.marked.t.wid ln.fid = c.t.wid ln.fid from arr.wid ln.fid]
  rw [windows] at sets
  exact arr.cleared sets fun ln arrives => .inl arrives

/-- A group of BAR.SYNC that stands after its arrivals, with its fibres marked, or parks with their marks (R138, R219). -/
theorem barSync_stands {c c1 : Ctx} (s : State) {b : Nat} {d : BitVec 6} (m : Mods) {word' : DWord} {token : Word}
    (arr : c.Arrived c1 b d (c.arriving b d) word' token) (held : c.g.barPass = false)
    (waits : ∃ ln ∈ lanesOn c.t c.g 0, barWaits b word' (c1.v ln.wid d.toNat) = true) :
    let synced := c.g.active.map (·.2)
    (State.mustPark { s with clk := c.clk } c.t c.g = false → ∃ g', c1.marked.barWait { s with clk := c.clk } b d m =
        .next (s.acted c.clk c1.t g') ∧ g' = { c.g with nextIssue := c.clk + 1, wait := .barrier, barAt := some (b, d.toNat)
                                                        positions := none, synced := synced, hist := g'.hist }) ∧
    (State.mustPark { s with clk := c.clk } c.t c.g = true → ∃ attic', c1.marked.barWait { s with clk := c.clk } b d m =
        .next (State.putTeam { s with clk := c.clk } { c1.t with groups := c1.t.groups.filter (fun u => u.num ≠ c.g.num), attic := attic' }) ∧
      c.g.parksAt s c.clk synced c1.t.attic attic') := by
  intro synced
  have group : c1.marked.g = { c.g with synced := synced, hist := c1.g.hist } :=
    (congrArg (fun g : Group => { g with synced := g.active.map Prod.snd }) arr.group).trans rfl
  let stood : Group := { c.g with synced := synced, hist := c1.g.hist, barAt := some (b, d.toNat), positions := none }
  have stands : c1.marked.barWait { s with clk := c.clk } b d m =
      ({ c1.marked with g := stood } : Ctx).waitOrPark { s with clk := c.clk } .barrier := by
    refine (Ctx.barWait_stands _ b d m ((congrArg Group.barPass group).trans held) ?_).trans (by rw [group])
    rw [show lanesOn c1.marked.t c1.marked.g 0 = lanesOn c.t c.g 0 from arr.lanes, show c1.marked.t.bar b = word' from arr.bar_same]
    exact waits
  have must : State.mustPark { s with clk := c.clk } c1.t stood = State.mustPark { s with clk := c.clk } c.t c.g :=
    State.mustPark_judged _ arr.judged arr.team rfl rfl
  refine ⟨fun stays => ?_, fun leaves => ?_⟩
  · refine ⟨_, stands.trans (Ctx.waitOrPark_waits (must.trans stays) _), ?_⟩
    rw [show ({ c1.marked with g := stood } : Ctx).clk = c.clk from arr.clk]
    rfl
  · obtain ⟨attic', parks, records⟩ := Ctx.waitOrPark_parks (c := { c1.marked with g := stood }) (must.trans leaves) .barrier
    exact ⟨attic', stands.trans parks, records⟩

/-! ### Which groups of BAR.SYNC wait (R218, R219) -/

/-- A phase to which not all have arrived goes on. -/
theorem barArrive_short {w : DWord} {n : Nat} (on : bitAt w 63 = true) (short : fieldOf w 16 11 + n < fieldOf w 0 11) :
    bitAt (barArrive w n) 63 = true ∧ barPhase (barArrive w n) = barPhase w := by
  have same : barArrive w n = barWord (barPhase w) (barArrived w + n) (barExpect w) := by
    have lacks : ¬ barExpect w ≤ barArrived w + n := Nat.not_le.2 short
    rw [barArrive, if_neg (by rw [barOn, on]; decide), if_neg lacks]
  rw [same]
  exact ⟨barWord_on _ _ _, (barWord_phase _ _ _).trans (Nat.mod_eq_of_lt (fieldOf_lt w 32 16))⟩

/-- The next phase follows one to which all have arrived. -/
theorem barArrive_full {w : DWord} {n : Nat} (on : bitAt w 63 = true) (full : fieldOf w 0 11 ≤ fieldOf w 16 11 + n) :
    barPhase (barArrive w n) = (barPhase w + 1) % 2 ^ 16 := by
  have same : barArrive w n = barWord (barPhase w + 1) 0 (barExpect w) := by
    have complete : barExpect w ≤ barArrived w + n := full
    rw [barArrive, if_neg (by rw [barOn, on]; decide), if_pos complete]
  rw [same]
  exact barWord_phase _ _ _

/-- The word of a phase to which not all have arrived. -/
theorem barArrive_short_eq {w : DWord} {n : Nat} (on : bitAt w 63 = true) (short : fieldOf w 16 11 + n < fieldOf w 0 11) :
    barArrive w n = BitVec.ofNat 64 (2 ^ 63 + 2 ^ 32 * fieldOf w 32 16 + 2 ^ 16 * (fieldOf w 16 11 + n) + fieldOf w 0 11) := by
  have phase : fieldOf w 32 16 % 65536 = fieldOf w 32 16 := Nat.mod_eq_of_lt (fieldOf_lt w 32 16)
  rw [barArrive_eq on, if_neg (Nat.not_le.2 short), phase]

/-- The word of a phase that follows one to which all have arrived. -/
theorem barArrive_full_eq {w : DWord} {n : Nat} (on : bitAt w 63 = true) (full : fieldOf w 0 11 ≤ fieldOf w 16 11 + n) :
    barArrive w n = BitVec.ofNat 64 (2 ^ 63 + 2 ^ 32 * ((fieldOf w 32 16 + 1) % 65536) + fieldOf w 0 11) := by
  rw [barArrive_eq on, if_pos full, Nat.mul_zero, Nat.add_zero]

/-- Who waits on an initialised barrier rests on its phase alone. -/
theorem barWaits_phase {b : Nat} {w w' : DWord} (on : bitAt w 63 = true) (on' : bitAt w' 63 = true) (phase : barPhase w' = barPhase w) (v : Word) :
    barWaits b w' v = barWaits b w v := by
  rw [barWaits, barWaits, barOn, barOn, on, on', phase]

/-- Who waits in one phase of a barrier does not wait in another. -/
theorem barWaits_other_phase {b : Nat} {w w' : DWord} {v : Word} (waits : barWaits b w v = true) (phase : barPhase w' ≠ barPhase w) :
    barWaits b w' v = false := by
  have present : fieldOf v 0 16 = barPhase w := by
    rw [barWaits, Bool.and_eq_true, decide_eq_true_eq] at waits
    exact waits.2
  rw [barWaits, present, decide_eq_false (Ne.symm phase), Bool.and_false]

section Phases
variable {c c1 : Ctx} {b : Nat} {d : BitVec 6} {word' : DWord} (hb : b < 16)
  (arr : c.Arrived c1 b d (c.arriving b d) word' (barToken b (barPhase (c.t.bar b))))
include hb arr

/-- Where the phase goes on, the lanes that arrive wait, and those that waited still do. -/
theorem Ctx.Arrived.waits (on : bitAt (c.t.bar b) 63 = true) (on' : bitAt word' 63 = true) (phase : barPhase word' = barPhase (c.t.bar b))
    {ln : Lane} (here : ln ∈ lanesOn c.t c.g 0)
    (h : ln ∈ c.arriving b d ∨ barWaits b (c.t.bar b) (c.v ln.wid d.toNat) = true) : barWaits b word' (c1.v ln.wid d.toNat) = true := by
  rw [barWaits_phase on on' phase]
  by_cases arrives : ln ∈ c.arriving b d
  · rw [arr.v_arriving arrives]
    exact (barWaits_token hb (fieldOf_lt _ 32 16) on).2 rfl
  · rw [arr.v_other here arrives]
    exact h.resolve_left arrives

/-- In another phase no lane waits, of a group of which every lane has just arrived or waited. -/
theorem Ctx.Arrived.passes (on : bitAt (c.t.bar b) 63 = true) (phase : barPhase word' ≠ barPhase (c.t.bar b)) (fresh : c.g.synced = [])
    {ln : Lane} (here : ln ∈ lanesOn c.t c.g 0) : barWaits b word' (c1.v ln.wid d.toNat) = false := by
  by_cases arrives : ln ∈ c.arriving b d
  · rw [arr.v_arriving arrives]
    exact barWaits_other_phase ((barWaits_token hb (fieldOf_lt _ 32 16) on).2 rfl) phase
  · rw [arr.v_other here arrives]
    refine barWaits_other_phase (w := c.t.bar b) ?_ phase
    by_contra lacks
    exact arrives (mem_arriving.2 ⟨here, by rw [fresh]; exact List.not_mem_nil, Bool.eq_false_iff.2 lacks⟩)

end Phases

/-- What BAR.SYNC's arrivals leave at an initialised barrier (R218). -/
theorem Ctx.syncArrivals {c : Ctx} {b : Nat} (on : bitAt (c.t.bar b) 63 = true) (d : BitVec 6) : c.Arrived (c.barArrivals b d false) b d
    (c.arriving b d) (barArrive (c.t.bar b) (c.arriving b d).length) (barToken b (barPhase (c.t.bar b))) := c.barArrivals_on on d false

/-- No lane arrives again of a group whose fibres have all arrived (R219). -/
theorem Ctx.arriving_marked {c : Ctx} {b : Nat} {d : BitVec 6} (all : ∀ ln ∈ lanesOn c.t c.g 0, ln.fid ∈ c.g.synced) : c.arriving b d = [] :=
  List.eq_nil_iff_forall_not_mem.2 fun ln h => (mem_arriving.1 h).2.1 (all ln (mem_arriving.1 h).1)

/-- At a barrier that is off, a group neither arrives nor waits (R219). -/
theorem barSync_off {c : Ctx} (s : State) {b : Nat} {d : BitVec 6} (m : Mods) (off : bitAt (c.t.bar b) 63 = false) :
    ∃ t' g', (c.barArrivals b d false).marked.barWait { s with clk := c.clk } b d m =
        .next ((s.observeTeam c.t.uid c.g.fids).acted c.clk t' g') ∧
      c.g.Jumped g' c.clk 0 (c.nextPc m) ∧ g'.lanes = c.g.lanes ∧ t' = { c.t with win := t'.win, errors := t'.errors } ∧
      c.t.Cleared t' d.toNat (c.laneWindows fun ln => isToken b (c.v ln.wid d.toNat) = true) := by
  rw [Ctx.barArrivals_off off]
  obtain ⟨c', runs, sets⟩ := Ctx.barWait_goes (c := c.marked) s b d m (.inr fun ln _ => barWaits_off off _)
  have group : c'.g = { c.g with synced := c.marked.g.synced, hist := c'.g.hist } := sets.group
  obtain ⟨jumped, lanes⟩ := c.g.jump_marked c.marked.g.synced c'.g.hist c.clk 0 (c.nextPc m)
  rw [group] at runs
  exact ⟨_, _, runs, jumped, lanes, sets.team, sets.cleared⟩

/-- A group of BAR.WT goes on where no lane of it waits or its wait has been judged (R175, R219). -/
theorem barWt_goes {c : Ctx} (s : State) {b : Nat} {d : BitVec 6} (m : Mods)
    (go : c.g.barPass = true ∨ ∀ ln ∈ lanesOn c.t c.g 0, barWaits b (c.t.bar b) (c.v ln.wid d.toNat) = false) :
    ∃ t' g', c.barWait { s with clk := c.clk } b d m = .next ((s.observeTeam c.t.uid c.g.fids).acted c.clk t' g') ∧
      c.g.Jumped g' c.clk 0 (c.nextPc m) ∧ g'.lanes = c.g.lanes ∧ t' = { c.t with win := t'.win, errors := t'.errors } ∧
      c.t.Cleared t' d.toNat (c.laneWindows fun ln => isToken b (c.v ln.wid d.toNat) = true) := by
  obtain ⟨c', runs, sets⟩ := Ctx.barWait_goes s b d m go
  obtain ⟨jumped, lanes⟩ := c.g.jump_marked c.g.synced c'.g.hist c.clk 0 (c.nextPc m)
  rw [sets.group] at runs
  exact ⟨_, _, runs, jumped, lanes, sets.team, sets.cleared⟩

/-- A group of BAR.WT of which a lane waits stands at it, or parks there where R138 has it so (R219). -/
theorem barWt_stands {c : Ctx} (s : State) {b : Nat} {d : BitVec 6} (m : Mods) (held : c.g.barPass = false)
    (waits : ∃ ln ∈ lanesOn c.t c.g 0, barWaits b (c.t.bar b) (c.v ln.wid d.toNat) = true) :
    (State.mustPark { s with clk := c.clk } c.t c.g = false → c.barWait { s with clk := c.clk } b d m =
        .next (s.acted c.clk c.t { c.g with nextIssue := c.clk + 1, wait := .barrier, barAt := some (b, d.toNat), positions := none })) ∧
    (State.mustPark { s with clk := c.clk } c.t c.g = true → ∃ attic', c.barWait { s with clk := c.clk } b d m =
        .next (State.putTeam { s with clk := c.clk } { c.t with groups := c.t.groups.filter (fun u => u.num ≠ c.g.num), attic := attic' }) ∧
      c.g.parksAt s c.clk c.g.synced c.t.attic attic') := by
  let stood : Ctx := { c with g := { c.g with barAt := some (b, d.toNat), positions := none } }
  have stands : c.barWait { s with clk := c.clk } b d m = stood.waitOrPark { s with clk := c.clk } .barrier :=
    Ctx.barWait_stands { s with clk := c.clk } b d m held waits
  refine ⟨fun stays => stands.trans (Ctx.waitOrPark_waits (c := stood) stays _), fun leaves => ?_⟩
  obtain ⟨attic', parks, records⟩ := Ctx.waitOrPark_parks (c := stood) leaves .barrier
  exact ⟨attic', stands.trans parks, records⟩

/-- A team of which lanes have arrived at a barrier with a word that follows, with nothing else changed but their tokens (R218). -/
def Ctx.ArrivedAs (c : Ctx) (b : Nat) (ls : List Lane) (word' : DWord) (t' : Team) : Prop :=
  t' = { c.t with barriers := t'.barriers, win := t'.win, errors := t'.errors, sb := t'.sb, groups := t'.groups } ∧
  (c.t.launch.contain = false ∨ ls = [] → t'.sb = c.t.sb) ∧ c.t.Judged t' b ∧
  ∀ i, t'.bar i = if i = b then word' else c.t.bar i

section Sync
variable {c : Ctx} (s : State) {b : Nat} (d : BitVec 6) (m : Mods) (hb : b < 16) (on : bitAt (c.t.bar b) 63 = true)
include hb on

/-- BAR.SYNC whose phase goes on and whose group is not judged: the arriving lanes get their tokens, and the group stands or parks. -/
theorem barSync_holds (held : c.g.barPass = false) (short : fieldOf (c.t.bar b) 16 11 + (c.arriving b d).length < fieldOf (c.t.bar b) 0 11)
    (some_waits : ∃ ln ∈ lanesOn c.t c.g 0, ln ∈ c.arriving b d ∨ barWaits b (c.t.bar b) (c.v ln.wid d.toNat) = true) :
    let c1 := c.barArrivals b d false
    let runs := c1.marked.barWait { s with clk := c.clk } b d m
    c.ArrivedAs b (c.arriving b d) (BitVec.ofNat 64 (2 ^ 63 + 2 ^ 32 * fieldOf (c.t.bar b) 32 16
      + 2 ^ 16 * (fieldOf (c.t.bar b) 16 11 + (c.arriving b d).length) + fieldOf (c.t.bar b) 0 11)) c1.t ∧
    (∀ wid r, r < 64 → sget 0 c1.t.win (wid * 64 + r) =
      if r = d.toNat ∧ ∃ ln ∈ c.arriving b d, ∃ sd ∈ c.t.sides, c.t.wid ln.fid sd = wid then barToken b (barPhase (c.t.bar b))
      else sget 0 c.t.win (wid * 64 + r)) ∧
    (State.mustPark { s with clk := c.clk } c.t c.g = false → ∃ g', runs = .next (s.acted c.clk c1.t g') ∧
      g' = { c.g with nextIssue := c.clk + 1, wait := .barrier, barAt := some (b, d.toNat), positions := none
                      synced := c.g.active.map (·.2), hist := g'.hist }) ∧
    (State.mustPark { s with clk := c.clk } c.t c.g = true → ∃ attic',
      runs = .next (State.putTeam { s with clk := c.clk } { c1.t with groups := c1.t.groups.filter (fun u => u.num ≠ c.g.num), attic := attic' }) ∧
      c.g.parksAt s c.clk (c.g.active.map (·.2)) c1.t.attic attic') := by
  intro c1 runs
  have arr := Ctx.syncArrivals on d
  obtain ⟨on', phase'⟩ := barArrive_short on short
  obtain ⟨ln, here, waits⟩ := some_waits
  rw [← barArrive_short_eq on short]
  refine ⟨⟨arr.team, arr.sb, arr.judged, arr.bar⟩, fun wid r hr => ?_, barSync_stands s m arr held ⟨ln, here, arr.waits hb on on' phase' here waits⟩⟩
  split
  · next h => exact h.1 ▸ (arr.set wid h.2).1
  · next h => exact (arr.kept wid r hr h).1

/-- BAR.SYNC whose group goes on after its arrivals. -/
theorem barSync_passes (go : c.g.barPass = true ∨ ∀ ln ∈ lanesOn c.t c.g 0,
      barWaits b (barArrive (c.t.bar b) (c.arriving b d).length) ((c.barArrivals b d false).v ln.wid d.toNat) = false) :
    ∃ t' g', (c.barArrivals b d false).marked.barWait { s with clk := c.clk } b d m =
        .next ((s.observeTeam c.t.uid c.g.fids).acted c.clk t' g') ∧
      c.g.Jumped g' c.clk 0 (c.nextPc m) ∧ g'.lanes = c.g.lanes ∧ c.ArrivedAs b (c.arriving b d) (barArrive (c.t.bar b) (c.arriving b d).length) t' ∧
      c.t.Cleared t' d.toNat (c.laneWindows fun ln => ln ∈ c.arriving b d ∨ isToken b (c.v ln.wid d.toNat) = true) := by
  obtain ⟨t', g', runs, jumped, lanes, team, sb, judged, bar, cleared⟩ := barSync_goes s m hb (fieldOf_lt _ 32 16) (Ctx.syncArrivals on d) go
  exact ⟨t', g', runs, jumped, lanes, ⟨team, sb, judged, bar⟩, cleared⟩

/-- BAR.SYNC that completes the phase: no lane waits in the next. -/
theorem barSync_completes (fresh : c.g.synced = []) (full : fieldOf (c.t.bar b) 0 11 ≤ fieldOf (c.t.bar b) 16 11 + (c.arriving b d).length) :
    ∀ ln ∈ lanesOn c.t c.g 0,
      barWaits b (barArrive (c.t.bar b) (c.arriving b d).length) ((c.barArrivals b d false).v ln.wid d.toNat) = false := fun ln here => by
  have phase : barPhase (c.t.bar b) < 2 ^ 16 := fieldOf_lt _ 32 16
  refine (Ctx.syncArrivals on d).passes hb on ?_ fresh here
  rw [barArrive_full on full]
  omega

omit hb in
/-- BAR.SYNC of a group whose fibres have all arrived before: none waits that has not waited. -/
theorem barSync_again (all : ∀ ln ∈ lanesOn c.t c.g 0, ln.fid ∈ c.g.synced) (lacks : fieldOf (c.t.bar b) 16 11 < fieldOf (c.t.bar b) 0 11)
    (none_waits : ∀ ln ∈ lanesOn c.t c.g 0, barWaits b (c.t.bar b) (c.v ln.wid d.toNat) = false) :
    ∀ ln ∈ lanesOn c.t c.g 0,
      barWaits b (barArrive (c.t.bar b) (c.arriving b d).length) ((c.barArrivals b d false).v ln.wid d.toNat) = false := fun ln here => by
  have quiet : c.arriving b d = [] := c.arriving_marked all
  obtain ⟨on', phase'⟩ := barArrive_short (n := (c.arriving b d).length) on (by rw [quiet]; exact lacks)
  rw [(Ctx.syncArrivals on d).v_other here (by rw [quiet]; exact List.not_mem_nil), barWaits_phase on on' phase']
  exact none_waits ln here

end Sync

/-- The arriving lanes, as the settlement names them. -/
theorem Ctx.arriving_filter (c : Ctx) (b : Nat) (d : BitVec 6) : c.arriving b d =
    (lanesOn c.t c.g 0).filter fun ln => barWaits b (c.t.bar b) (c.v ln.wid d.toNat) = false ∧ ln.fid ∉ c.g.synced := by
  refine List.filter_congr fun ln _ => ?_
  rw [Bool.eq_iff_iff, Bool.and_eq_true, Bool.not_eq_true', Bool.not_eq_true', ← Bool.not_eq_true, List.contains_iff_mem,
    decide_eq_true_eq, and_comm]

/-- Settles O20: each outcome by whether the barrier is initialised, whether its phase completes and whether a lane waits. -/
theorem barrierWaits : Obligations.BarrierWaits := by
  unfold Obligations.BarrierWaits
  intro isTok waits w s t g hi c0 locs c b word phase ls arrives next clears S expect count token parks arrived tokens clear holds agree quiet
  have hb : b < 16 := Nat.mod_lt _ (by decide)
  have hp : phase < 2 ^ 16 := fieldOf_lt word 32 16
  have wt : exec (.barWt w) s = c.barWait { s with clk := c.clk } b w.d w.m :=
    (exec_barWt_body w s).trans (barInstr_acts hi _ clear holds agree quiet)
  have sync : exec (.barSync w) s = (c.barArrivals b w.d false).marked.barWait { s with clk := c.clk } b w.d w.m :=
    (exec_barSync_body w s).trans (barInstr_acts hi _ clear holds agree quiet)
  have same : c.arriving b w.d = arrives := c.arriving_filter b w.d
  rw [wt, sync]
  refine ⟨fun go => ?_, fun held some_waits stays => ?_, fun held some_waits leaves => ?_, fun held on short some_waits => ?_, fun pass on short => ?_,
    fun off => ?_, fun fresh on full => ?_, fun all lacks none_waits => ?_⟩
  · exact barWt_goes s w.m go
  · exact (barWt_stands s w.m held some_waits).1 stays
  · exact (barWt_stands s w.m held some_waits).2 leaves
  · have holds := barSync_holds (c := c) s w.d w.m hb on held (same ▸ short) (same ▸ some_waits)
    rw [same] at holds
    obtain ⟨told, tokened, stands, parked⟩ := holds
    refine ⟨fun stays => ?_, fun leaves => ?_⟩
    · obtain ⟨g', runs, stood⟩ := stands stays
      exact ⟨_, g', runs, told, tokened, stood⟩
    · obtain ⟨attic', runs, records⟩ := parked leaves
      exact ⟨_, attic', runs, told, tokened, records⟩
  · have passes := barSync_passes (c := c) s w.d w.m hb on (.inl pass)
    rw [same, barArrive_short_eq (w := c.t.bar b) on short] at passes
    exact passes
  · exact barSync_off s w.m off
  · have passes := barSync_passes (c := c) s w.d w.m hb on (.inr (barSync_completes w.d hb on fresh (same ▸ full)))
    rw [same, barArrive_full_eq (w := c.t.bar b) on full] at passes
    obtain ⟨t', g', runs, jumped, lanes, ⟨team, sb, judged, bar⟩, cleared⟩ := passes
    exact ⟨t', g', runs, jumped, lanes, team, sb, judged, bar, cleared⟩
  · cases on : bitAt word 63 with
    | false =>
      obtain ⟨t', g', runs, jumped, lanes, team, cleared⟩ := barSync_off (c := c) s w.m on
      have bar : ∀ i, t'.bar i = t.bar i := fun i => (congrArg (Team.bar · i) team).trans rfl
      have groups : t'.groups = t.groups := (congrArg Team.groups team).trans rfl
      exact ⟨t', g', runs, jumped, lanes, by rw [team]; rfl, nofun, fun _ => groups, fun i _ => bar i, cleared⟩
    | true =>
      have quiet : c.arriving b w.d = [] := c.arriving_marked all
      have passes := barSync_passes (c := c) s w.d w.m hb on (.inr (barSync_again w.d on all (lacks on) none_waits))
      obtain ⟨t', g', runs, jumped, lanes, ⟨team, sb, judged, bar⟩, cleared⟩ := passes
      rw [sb (.inr quiet)] at team
      simp only [quiet, List.not_mem_nil, false_or] at cleared
      exact ⟨t', g', runs, jumped, lanes, team, fun _ => judged, nofun, fun i other => (bar i).trans (if_neg other), cleared⟩

end Sys2Proof.Machine
end

section
/-! SUPPORT. What the fetch of a run leaves alone (R131, R162, R414), and the words that it brings. -/

namespace Sys2Proof.Machine

/-! ### Lines that move keep the seals (R63) -/

@[simp] theorem State.mscWriteBack_seals (s : State) (l : PoolLine) (base : Nat) : (s.mscWriteBack l base).seals = s.seals := by
  unfold State.mscWriteBack
  dsimp only
  split
  · rfl
  · refine foldl_keeps (fun b => b.seals = s.seals) _ (fun b u hb => ?_) _ s rfl
    exact hb

@[simp] theorem State.mscFill_seals (s : State) (pa key : Nat) : (s.mscFill pa key).seals = s.seals := by
  unfold State.mscFill
  dsimp only
  split_ifs
  · rfl
  · rfl
  · split
    · exact State.mscWriteBack_seals _ _ _
    · rfl

@[simp] theorem State.cleanPoolLine_seals (s : State) (l : PoolLine) : (s.cleanPoolLine l).seals = s.seals := by
  unfold State.cleanPoolLine
  dsimp only
  split
  · rfl
  · split
    · exact State.mscFill_seals _ _ _
    · exact (State.mscWriteBack_seals _ _ _).trans (State.mscFill_seals _ _ _)

@[simp] theorem State.evictPoolLine_seals (s : State) (l : PoolLine) : (s.evictPoolLine l).seals = s.seals := by
  have cleaned : (if l.dirty.isEmpty then s else s.cleanPoolLine l).seals = s.seals := by split <;> simp
  unfold State.evictPoolLine
  generalize (if l.dirty.isEmpty then s else s.cleanPoolLine l) = s1 at cleaned
  dsimp only
  split_ifs
  · rfl
  · exact cleaned
  · exact cleaned

@[simp] theorem State.writeBackLine_seals (s : State) (line : Nat) : (s.writeBackLine line).seals = s.seals := by
  unfold State.writeBackLine
  split
  · rfl
  · dsimp only
    split_ifs <;> rfl

@[simp] theorem State.l2Room_seals (s : State) (line : Nat) : (s.l2Room line).seals = s.seals := by
  unfold State.l2Room
  split
  · split
    · split
      · exact State.evictPoolLine_seals _ _
      · exact State.writeBackLine_seals _ _
    · rfl
  · rfl

@[simp] theorem State.poolFill_seals (s : State) (pa key : Nat) : (s.poolFill pa key).seals = s.seals := by
  unfold State.poolFill
  dsimp only
  split_ifs
  · rfl
  · exact State.l2Room_seals _ _
  · exact (State.mscFill_seals _ _ _).trans (State.l2Room_seals _ _)

/-- The fill of the L2 with the lines of a range keeps the seals and the bytes of HBM. -/
theorem State.touch_hbm (s : State) (pa n key : Nat) :
    (s.touch pa n key).seals = s.seals ∧ ∀ a < 2 ^ 40, (s.touch pa n key).homeByte a = s.homeByte a := by
  unfold State.touch
  split
  · refine foldl_keeps (fun b => b.seals = s.seals ∧ ∀ a < 2 ^ 40, b.homeByte a = s.homeByte a) _ (fun b l hb => ?_) _ s ⟨rfl, fun _ _ => rfl⟩
    refine ⟨(State.poolFill_seals _ _ _).trans hb.1, fun a ha => .trans ?_ (hb.2 a ha)⟩
    rw [State.homeByte_mem _ (.inl ha), State.homeByte_mem _ (.inl ha), State.poolFill_hbm _ _ _ ha]
  · exact ⟨rfl, fun _ _ => rfl⟩

/-! ### What a fetch leaves alone -/

/-- From one state to another at most caches, the log and the memories change; HBM keeps its bytes where no key has encrypted any. -/
structure State.Fetches (s S : State) : Prop where
  teams : S.teams = s.teams
  cur : S.cur = s.cur
  clk : S.clk = s.clk
  hold : S.holdClk = s.holdClk ∧ S.holdDies = s.holdDies
  seals : s.seals = [] → S.seals = []
  hbm : s.seals = [] → ∀ a < 2 ^ 40, S.homeByte a = s.homeByte a

namespace State.Fetches
variable {s S T : State}

theorem refl (s : State) : s.Fetches s := ⟨rfl, rfl, rfl, ⟨rfl, rfl⟩, id, fun _ _ _ => rfl⟩

theorem trans (h : s.Fetches S) (k : S.Fetches T) : s.Fetches T :=
  ⟨k.teams.trans h.teams, k.cur.trans h.cur, k.clk.trans h.clk, ⟨k.hold.1.trans h.hold.1, k.hold.2.trans h.hold.2⟩,
    fun none => k.seals (h.seals none), fun none a ha => (k.hbm (h.seals none) a ha).trans (h.hbm none a ha)⟩

theorem of_rest (h : S.rest = s.rest) (seals : s.seals = [] → S.seals = [])
    (hbm : s.seals = [] → ∀ a < 2 ^ 40, S.homeByte a = s.homeByte a) : s.Fetches S :=
  ⟨State.rest_teams h, (congrArg State.cur h :), (congrArg State.clk h :),
    ⟨(congrArg State.holdClk h :), (congrArg State.holdDies h :)⟩, seals, hbm⟩

end State.Fetches

/-- A translation that a walk has completed enters the translation caches, and nothing else changes (R162). -/
theorem State.tlbFill_caches (s : State) (core k : Nat) (ver : Option Word) (va : DWord) :
    ∃ tlb walks, s.tlbFill core k ver va = { s with tlb := tlb, walks := walks } := by
  have walked : ∀ es : List WalkEntry, ∃ walks, es.foldl State.walkFill s = { s with walks := walks } := fun es => by
    refine foldl_keeps (fun b => ∃ walks, b = { s with walks := walks }) State.walkFill (fun b e hb => ?_) es s ⟨s.walks, rfl⟩
    obtain ⟨walks, rfl⟩ := hb
    unfold State.walkFill
    split
    · exact ⟨walks, rfl⟩
    · exact ⟨_, rfl⟩
  unfold State.tlbFill
  split
  · exact ⟨s.tlb, s.walks, rfl⟩
  · split
    · dsimp only
      refine iteInduction (motive := fun S : State => ∃ tlb walks, S = { s with tlb := tlb, walks := walks }) (fun _ => ⟨s.tlb, s.walks, rfl⟩) fun _ => ?_
      obtain ⟨walks, filled⟩ := walked _
      rw [filled]
      exact ⟨_, walks, rfl⟩
    · exact ⟨s.tlb, s.walks, rfl⟩

/-- What the translation of a fetch leaves alone, the poison among it. -/
theorem State.translated_fetches (s : State) (core k : Nat) (ver : Option Word) (va : DWord) (pa : Nat) (leaf : DWord) :
    let S := (s.tlbFill core k ver va).noteKeyEmpty pa leaf k core
    s.Fetches S ∧ s.Noted S ∧ S.poison = s.poison := by
  intro S
  have noted : s.Noted S := (s.tlbFill_noted core k ver va).trans (State.noteAccess_noted _ _ _ _ _ _)
  obtain ⟨keys, -, logs⟩ := (s.tlbFill core k ver va).noteAccess_logsTo pa (keyOf leaf) k core true
  obtain ⟨tlb, walks, filled⟩ := s.tlbFill_caches core k ver va
  obtain ⟨_, _, _, _, _, _, _, logged, -⟩ := logs
  rw [filled] at logged
  have fields : S.teams = s.teams ∧ S.cur = s.cur ∧ S.clk = s.clk ∧ S.holdClk = s.holdClk ∧ S.holdDies = s.holdDies ∧ S.poison = s.poison := by
    rw [show S = _ from (congrArg (State.noteKeyEmpty · pa leaf k core) filled).trans logged]
    exact ⟨rfl, rfl, rfl, rfl, rfl, rfl⟩
  obtain ⟨teams, cur, clk, holdClk, holdDies, poison⟩ := fields
  exact ⟨⟨teams, cur, clk, ⟨holdClk, holdDies⟩, fun none => noted.seals.trans none, fun _ a _ => noted.homeByte a⟩, noted, poison⟩

/-- What a read under a key leaves alone. -/
theorem State.rekey_fetches (s : State) (key pa n : Nat) : s.Fetches (s.rekey key false pa n) := by
  have kept : s.seals = [] → (s.rekey key false pa n).seals = [] ∧ ∀ a < 2 ^ 40, (s.rekey key false pa n).homeByte a = s.homeByte a := fun none => by
    unfold State.rekey
    split
    · have stays : (sectorsOf pa n).foldl (fun s x => s.rekeySector key false x) s = s :=
        foldl_keeps (fun b => b = s) _ (fun b x hb => by subst hb; unfold State.rekeySector; rw [none]; rfl) _ s rfl
      rw [stays]
      exact ⟨none, fun _ _ => rfl⟩
    · exact ⟨(s.touch_hbm pa n key).1.trans none, (s.touch_hbm pa n key).2⟩
  exact .of_rest (State.rekey_rest _ _ _ _ _) (fun none => (kept none).1) fun none => (kept none).2

/-- What the fetch of a line of code leaves alone. -/
theorem State.codeFill_fetches (s : State) (core k va pa : Nat) (leaf : DWord) (lost : Bool) :
    s.Fetches (s.codeFill core k va pa leaf lost).2 := by
  have read : s.Fetches (s.codeRead core k va pa leaf lost).2 := s.rekey_fetches _ _ _
  unfold State.codeFill
  dsimp only
  split
  · exact read
  · exact read.trans ⟨rfl, rfl, rfl, ⟨rfl, rfl⟩, id, fun _ _ _ => rfl⟩

/-- The fetch of a word leaves all but caches, the log and the memories alone (R131, R414). -/
theorem State.fetchWord_fetches {s S : State} {t : Team} {core : Nat} {va : DWord} {w : Word} (h : s.fetchWord t core va = .ok w S) :
    s.Fetches S := by
  unfold State.fetchWord at h
  dsimp only at h
  cases line : s.codeLine core t.part va.toNat with
  | some l =>
    rw [line] at h
    dsimp only at h
    split_ifs at h
    obtain ⟨-, rfl⟩ := FetchWord.ok.inj h
    exact .refl s
  | none =>
    rw [line] at h
    dsimp only at h
    cases at_ : s.xlate (s.coreSec core) core t.part (s.version t) va .exec false with
    | ok pa leaf lost =>
      rw [at_] at h
      dsimp only at h
      split_ifs at h
      obtain ⟨-, rfl⟩ := FetchWord.ok.inj h
      exact (s.translated_fetches core t.part (s.version t) va pa leaf).1.trans (State.codeFill_fetches _ _ _ _ _ _ _)
    | _ => rw [at_] at h; cases h

/-! ### The words of a run (R131, R200) -/

/-- A fetch goes on by one word: the run ends with it, or the fetch goes on at the next address. -/
theorem State.fetchFrom_succ {s S : State} {t : Team} {core : Nat} {va : DWord} {acc cur ws : List Word} {n fuel : Nat}
    (h : s.fetchFrom t core va acc cur n (fuel + 1) = .ok ws S) : ∃ w s1, s.fetchWord t core va = .ok w s1 ∧
      ((ws = acc ++ (cur ++ [w]) ∧ S = s1) ∨
        ∃ acc' cur' n', acc' ++ cur' = acc ++ (cur ++ [w]) ∧ s1.fetchFrom t core (va + 4) acc' cur' n' fuel = .ok ws S) := by
  unfold State.fetchFrom at h
  cases word : s.fetchWord t core va with
  | fault x => rw [word] at h; cases h
  | poison => rw [word] at h; cases h
  | ok w s1 =>
    rw [word] at h
    dsimp only at h
    refine ⟨w, s1, rfl, ?_⟩
    cases decoded : decode t.launch.window (cur ++ [w]) with
    | short => rw [decoded] at h; exact .inr ⟨acc, cur ++ [w], n, rfl, h⟩
    | illegal r =>
      rw [decoded] at h
      obtain ⟨rfl, rfl⟩ := FetchRun.ok.inj h
      exact .inl ⟨rfl, rfl⟩
    | instr i k =>
      rw [decoded] at h
      dsimp only at h
      split at h
      · obtain ⟨rfl, rfl⟩ := FetchRun.ok.inj h
        exact .inl ⟨rfl, rfl⟩
      · exact .inr ⟨acc ++ (cur ++ [w]), [], n - 1, List.append_nil _, h⟩

/-- Words that stand one after another from an address, each as a fetch of it brings it during a fetch from a state on. -/
def State.bringsWords (s : State) (t : Team) (core : Nat) (va : DWord) (ws : List Word) : Prop :=
  ∀ j w, ws[j]? = some w → ∃ S' S'', S'.fetchWord t core (va + BitVec.ofNat 64 (4 * j)) = .ok w S'' ∧ s.Fetches S'

theorem State.bringsWords_nil (s : State) (t : Team) (core : Nat) (va : DWord) : s.bringsWords t core va [] := fun j w h => by simp at h

theorem State.bringsWords_cons {s s1 : State} {t : Team} {core : Nat} {va : DWord} {w : Word} {ws : List Word}
    (word : s.fetchWord t core va = .ok w s1) (rest : s1.bringsWords t core (va + 4) ws) : s.bringsWords t core va (w :: ws) := by
  rintro (_ | j) x hx
  · obtain rfl : w = x := by simpa using hx
    exact ⟨s, s1, by rw [Nat.mul_zero, BitVec.add_zero]; exact word, .refl s⟩
  · obtain ⟨S', S'', later, kept⟩ := rest j x (by simpa using hx)
    have address : va + 4 + BitVec.ofNat 64 (4 * j) = va + BitVec.ofNat 64 (4 * (j + 1)) := by
      rw [BitVec.add_assoc, Nat.mul_add, Nat.mul_one, Nat.add_comm, BitVec.ofNat_add]
      rfl
    rw [address] at later
    exact ⟨S', S'', later, (State.fetchWord_fetches word).trans kept⟩

/-- A fetch brings, behind the words that it has, those at the addresses that follow. -/
theorem State.fetchFrom_words {t : Team} {core fuel : Nat} {s S : State} {va : DWord} {acc cur ws : List Word} {n : Nat}
    (h : s.fetchFrom t core va acc cur n fuel = .ok ws S) :
    s.Fetches S ∧ ∃ new, ws = acc ++ cur ++ new ∧ s.bringsWords t core va new := by
  induction fuel generalizing s va acc cur n with
  | zero =>
    obtain ⟨rfl, rfl⟩ := FetchRun.ok.inj h
    exact ⟨.refl s, [], (List.append_nil _).symm, s.bringsWords_nil t core va⟩
  | succ fuel ih =>
    obtain ⟨w, s1, word, ends | ⟨acc', cur', n', same, goes⟩⟩ := State.fetchFrom_succ h
    · obtain ⟨rfl, rfl⟩ := ends
      exact ⟨State.fetchWord_fetches word, [w], (List.append_assoc _ _ _).symm, State.bringsWords_cons word (State.bringsWords_nil _ _ _ _)⟩
    · obtain ⟨kept, new, rfl, words⟩ := ih goes
      exact ⟨(State.fetchWord_fetches word).trans kept, w :: new, by rw [same]; simp, State.bringsWords_cons word words⟩

/-! ### The word in memory (R131, R158, R414) -/

/-- The cells of a range of a memory view. -/
theorem sget_cellsOf (f : Nat → Byte) (n lo k : Nat) : sget 0 (cellsOf f lo n) k = if lo ≤ k ∧ k < lo + n then f k else 0 := by
  induction n generalizing lo with
  | zero => rw [if_neg (by omega)]; rfl
  | succ n ih =>
    by_cases here : lo = k
    · subst here
      rw [if_pos (by omega)]
      rw [cellsOf]
      split
      · next zero => rw [ih, if_neg (by omega), zero]
      · exact if_pos rfl
    · have step : sget 0 (cellsOf f lo (n + 1)) k = sget 0 (cellsOf f (lo + 1) n) k := by
        rw [cellsOf]
        split
        · rfl
        · exact if_neg here
      rw [step, ih]
      exact if_congr (by omega) rfl rfl

/-- Bytes at their home, each by its place. -/
theorem State.homeBytes_eq_map (s : State) (pa n : Nat) : s.homeBytes pa n = (List.range n).map fun i => s.homeByte (pa + i) := by
  induction n generalizing pa with
  | zero => rfl
  | succ n ih =>
    rw [State.homeBytes, ih, List.range_succ_eq_map, List.map_cons, List.map_map, Nat.add_zero]
    exact congrArg _ (List.map_congr_left fun i _ => by rw [Function.comp_apply, Nat.add_assoc, Nat.add_comm 1 i])

/-- A line of HBM that no other key has encrypted reads as its memory does (R56, R153, R414). -/
theorem State.codeFill_line {s : State} (core k va pa : Nat) {leaf : DWord} (hk : s.keyed (keyOf leaf) (pa / 128 * 128) 128)
    (hpa : pa + 4 ≤ 2 ^ 40) (aligned : va % 4 = 0) (same : pa % 128 = va % 128) :
    let line := (s.codeFill core k va pa leaf false).1
    sgetList 0 line.cells va 4 = s.homeBytes pa 4 ∧ line.poison.contains (va % 128 / 32) = s.homePoison (pa / 32) := by
  obtain ⟨seals, read⟩ := State.rekey_keyed false hk (by omega)
  intro line
  have cells : line.cells = cellsOf (fun v => s.homeByte (pa / 128 * 128 + (v - va / 128 * 128))) (va / 128 * 128) 128 := by
    simp only [line, State.codeFill, State.codeRead, read]
    rfl
  have poison : line.poison = (List.range 4).filter fun i => s.homePoison (pa / 128 * 128 / 32 + i) := by
    simp only [line, State.codeFill, State.codeRead, read, Bool.false_or]
    rfl
  rw [cells, poison, sgetList_eq_map, State.homeBytes_eq_map]
  refine ⟨List.map_congr_left fun i hi => ?_, ?_⟩
  · have low : i < 4 := List.mem_range.1 hi
    rw [sget_cellsOf, if_pos (by omega)]
    exact congrArg s.homeByte (by omega)
  · have sector : pa / 128 * 128 / 32 + va % 128 / 32 = pa / 32 := by omega
    rw [Bool.eq_iff_iff, List.contains_iff_mem, List.mem_filter, List.mem_range, sector]
    exact and_iff_right (by omega)

/-- A fetch that misses the instruction cache brings the word in memory at the address that the translation gives (R131, R414). -/
theorem State.fetchWord_memory {s : State} {t : Team} {core : Nat} {va : DWord} {pa : Nat} {leaf : DWord} (miss : s.codeLine core t.part va.toNat = none)
    (translated : s.xlate (s.coreSec core) core t.part (s.version t) va .exec false = .ok pa leaf false) (aligned : va.toNat % 4 = 0)
    (same : pa % 128 = va.toNat % 128) (hpa : pa + 4 ≤ 2 ^ 40) (clean : s.homePoison (pa / 32) = false)
    (hk : s.keyed (keyOf leaf) (pa / 128 * 128) 128) : ∃ S, s.fetchWord t core va = .ok (BitVec.ofNat 32 (leWord (s.homeBytes pa 4))) S := by
  obtain ⟨-, noted, poison⟩ := s.translated_fetches core t.part (s.version t) va pa leaf
  obtain ⟨cells, poisoned⟩ := State.codeFill_line core t.part va.toNat pa (noted.keyed (keyOf_lt leaf) hk) hpa aligned same
  have bytes : ((s.tlbFill core t.part (s.version t) va).noteKeyEmpty pa leaf t.part core).homeBytes pa 4 = s.homeBytes pa 4 :=
    State.homeBytes_congr _ _ fun a _ _ => noted.homeByte a
  rw [State.homePoison_hbm _ (by omega), poison, ← State.homePoison_hbm _ (by omega), clean] at poisoned
  rw [bytes] at cells
  unfold State.fetchWord
  simp only [miss, translated, poisoned, cells]
  exact ⟨_, rfl⟩

end Sys2Proof.Machine
end

section
/-! PROOFS. The step of a group (R128 to R132, R200, R201), of an event and of time. -/

namespace Sys2Proof.Machine

/-! ### A turn from the agenda -/

theorem step_turn {s : State} {a : Turn} {rest : List Turn} (h : s.agenda = a :: rest) :
    step s = (({ s with agenda := rest } : State).upkeep a).turn a := by
  unfold step State.takeTurn
  rw [h]
  rfl

/-- An event is performed with its operands. -/
theorem State.runEvent_acts {s : State} {i : Instr} (r : Request) (event : i.fields? = none) : s.runEvent i r = exec i { s with request := r } := by
  unfold State.runEvent
  rw [event]

/-! ### What an issue slot admits (R130) -/

/-- An admitted group has changed only its positions, what it seeks and its claim's clock. -/
theorem letIssue_shape {s : State} {t : Team} {g v : Group} {i : Instr} (h : s.letIssue t g i = some v) :
    ∃ p x, v = { g with positions := v.positions, seeks := x, runStart := p } := by
  obtain ⟨u, claimed, admitted⟩ := letIssue_cases h
  rcases claim_cases claimed with ⟨-, rfl⟩ | ⟨-, -, p, -, rfl⟩ <;> rcases admitted with ⟨-, rfl⟩ | ⟨-, -, -, rfl⟩ <;> exact ⟨_, _, rfl⟩

/-- A group that is not passed over for what it seeks goes no later than any that waits for it and could have it. -/
theorem passedOver_false {s : State} {t : Team} {g : Group} {what : Seek} (h : s.passedOver t g what = false) {u : Team} (hu : u ∈ s.teams)
    {k : Group} (hk : k ∈ u.groups) (core : k.core = g.core) (islot : k.islot = g.islot) (seeks : k.seeks = what) (issues : s.issues u k = true)
    (could : what = .uniform ∨ (s.freePositions k.core k.islot u.launch.width).isSome = true) :
    g.runStart < k.runStart ∨ (g.runStart = k.runStart ∧ (t.slot < u.slot ∨ (t.slot = u.slot ∧ g.num ≤ k.num))) := by
  have later : Group.goesFirst u k t g = false := by
    rw [State.passedOver, List.any_eq_false] at h
    have first := h u hu
    rw [List.any_eq_true] at first
    by_contra goes
    refine first ⟨k, hk, ?_⟩
    simp only [core, islot, seeks, issues, Bool.eq_true_of_not_eq_false goes, decide_true, Bool.and_self, Bool.true_and, Bool.or_eq_true,
      decide_eq_true_eq]
    rw [← core, ← islot]
    exact could
  simp only [Group.goesFirst, Bool.or_eq_false_iff, Bool.and_eq_false_iff, decide_eq_false_iff_not] at later
  omega

/-- The rules of admission (R130). -/
theorem letIssue_rules {s : State} {t : Team} {g v : Group} {i : Instr} (h : s.letIssue t g i = some v) :
    (g.positions ≠ none → v.positions = g.positions) ∧
    (g.positions = none → g.wait ≠ .barrier → s.passedOver t g .positions = false ∧
      ∃ p, s.freePositions g.core g.islot t.launch.width = some p ∧ v.positions = some p ∧ v.runStart = s.clk) ∧
    (Instr.isUniform i = true → g.wait = .none → g.progress = none →
      v.seeks = .granted ∧ s.uniformTaken g = false ∧ s.passedOver t g .uniform = false) := by
  obtain ⟨u, claimed, admitted⟩ := letIssue_cases h
  have positions : v.positions = u.positions ∧ v.runStart = u.runStart := by
    rcases admitted with ⟨-, rfl⟩ | ⟨-, -, -, rfl⟩ <;> exact ⟨rfl, rfl⟩
  refine ⟨fun holds => ?_, fun none_held runs => ?_, fun uniform fresh new => ?_⟩
  · rcases claim_cases claimed with ⟨-, rfl⟩ | ⟨needs, -⟩
    · exact positions.1
    · simp [Group.needsPositions, holds] at needs
  · rcases claim_cases claimed with ⟨needless, -⟩ | ⟨-, first, p, free, rfl⟩
    · simp [Group.needsPositions, none_held, runs] at needless
    · exact ⟨first, p, free, positions.1, positions.2⟩
  · have unissued : (Instr.isUniform i && g.unissued) = true := by simp [Group.unissued, uniform, fresh, new]
    rcases admitted with ⟨issued, -⟩ | ⟨-, free, first, rfl⟩
    · rw [unissued] at issued
      cases issued
    · exact ⟨rfl, free, first⟩

/-- A slot has issued a uniform instruction at the clock of one that it grants (R130). -/
theorem State.noteIssue_granted (s : State) {g : Group} (h : g.seeks = .granted) :
    sget 0 (s.noteIssue g).uniClk (2 * g.core + g.islot) = s.clk + 1 := by
  unfold State.noteIssue
  rw [if_pos h]
  exact sget_sset_same 0 s.uniClk _ (s.clk + 1)

/-! ### The turn of a group -/

/-- The group that issues rests on the teams and the group's place alone. -/
theorem State.issuing_congr {s S : State} (teams : S.teams = s.teams) (cur : S.cur = s.cur) {t : Team} {g : Group} (h : s.issuing t g) :
    S.issuing t g := by
  unfold State.issuing State.curGroup? State.team? at h ⊢
  rw [teams, cur]
  exact h

theorem Team.putGroup_putGroup {t : Team} {u v : Group} (h : v.num = u.num) : (t.putGroup u).putGroup v = t.putGroup v := by
  unfold Team.putGroup
  simp only [List.map_map]
  congr 1
  refine List.map_congr_left fun w _ => ?_
  by_cases at_ : w.num = u.num <;> simp [at_, h]

theorem State.put_putGroup (s : State) {t : Team} {u v : Group} (h : v.num = u.num) : s.put (t.putGroup u) v = s.put t v :=
  congrArg s.putTeam (Team.putGroup_putGroup h)

/-- A group of which no load may still be performed settles none. -/
theorem State.settleLate_none {s : State} {t : Team} {g : Group} (hi : s.issuing t g) (none_late : g.late = []) (i : Instr) :
    s.settleLate i = s := by
  unfold State.settleLate
  rw [show s.curGroup? = some (t, g) from hi]
  dsimp only
  rw [none_late]
  rfl

/-- The turn of a group that has decoded an instruction: it runs where its slot admits it, and else waits a clock. -/
theorem State.runGroup_issues {U S : State} {pos : Pos} {t : Team} {u : Group} {i : Instr} (prepared : U.prepare pos = S.limit t u (.ready i S))
    (hi : S.issuing t u) (none_late : u.late = []) (free : Instr.isMatrix i = true → S.limited u.core = false) :
    (∀ v, S.letIssue t u i = some v → U.runGroup pos = (S.put t v).issueRes (exec i (S.put t v))) ∧
    (S.letIssue t u i = none → ∃ x, U.runGroup pos = .next (S.put t { u with seeks := x, nextIssue := S.clk + 1 })) := by
  have unheld : ¬ (Instr.isMatrix i && S.limited u.core) = true := by
    rw [Bool.and_eq_true]
    rintro ⟨matrix, limited⟩
    rw [free matrix] at limited
    cases limited
  unfold State.limit at prepared
  dsimp only at prepared
  rw [if_neg unheld] at prepared
  refine ⟨fun v admits => ?_, fun refused => ?_⟩
  · rw [admits] at prepared
    obtain ⟨p, x, shape⟩ := letIssue_shape admits
    have placed : (S.put t v).issuing (t.putGroup v) v := issuing_put hi rfl rfl rfl (by rw [shape])
    have settled := State.settleLate_none placed (by rw [shape]; exact none_late) i
    unfold State.runGroup
    rw [prepared]
    dsimp only
    rw [settled]
  · rw [refused] at prepared
    unfold State.runGroup
    rw [prepared]
    exact ⟨_, rfl⟩

section Turn
variable {U : State} {pos : Pos} {t : Team} {g : Group} (hi : ({ U with cur := some pos } : State).issuing t g) (uncut : t.cut = false)
  (runs : State.issues { U with cur := some pos } t g = true) (fresh : g.abort = [])
include hi uncut runs fresh

/-- A group whose loop buffer holds its words, or that may not fetch, decodes them. -/
theorem State.prepare_held (held : (!g.wordsAt.isEmpty || decide (24 ≤ g.issued)) = true) :
    let s1 := ({ U with cur := some pos, clk := Nat.max U.clk g.nextIssue } : State)
    U.prepare pos = s1.limit t g (s1.decodeCur t g) := by
  unfold State.prepare
  dsimp only
  rw [show ({ U with cur := some pos } : State).curGroup? = some (t, g) from hi]
  dsimp only
  rw [uncut, runs, Bool.false_and, if_neg Bool.false_ne_true, if_neg (by decide), State.abortTrap, fresh]
  dsimp only
  rw [held, if_pos rfl]

/-- A group at the 25th instruction of its run traps (R131). -/
theorem State.runGroup_long (long : 24 ≤ g.issued) : U.runGroup pos = .next (State.takeTrap
    { U with cur := some pos, clk := Nat.max U.clk g.nextIssue } t g { cause := 0x0102, mask := g.activeMask }) := by
  unfold State.runGroup
  rw [State.prepare_held hi uncut runs fresh (by simp [long]), State.decodeCur, if_pos long]
  rfl

/-- Words that are no instruction trap with the lowest reason (R201). -/
theorem State.runGroup_illegal {r : Nat} (short : g.issued < 24) (words : g.wordsAt ≠ []) (decoded : decode t.launch.window g.wordsAt = .illegal r) :
    U.runGroup pos = .next (State.takeTrap { U with cur := some pos, clk := Nat.max U.clk g.nextIssue } t g
      { cause := 0x0100, mask := g.activeMask, detail := BitVec.ofNat 64 r }) := by
  unfold State.runGroup
  rw [State.prepare_held hi uncut runs fresh (by simp [words]), State.decodeCur, if_neg (Nat.not_le.2 short), decoded]
  rfl

/-- A group whose loop buffer holds an instruction. -/
theorem State.prepare_instr {i : Instr} {n : Nat} (short : g.issued < 24) (decoded : decode t.launch.window g.wordsAt = .instr i n) :
    let s1 := ({ U with cur := some pos, clk := Nat.max U.clk g.nextIssue } : State)
    U.prepare pos = s1.limit t g (.ready i s1) := by
  intro s1
  have words : g.wordsAt ≠ [] := fun empty => by
    rw [empty] at decoded
    cases decoded
  rw [State.prepare_held hi uncut runs fresh (by simp [words]), State.decodeCur, if_neg (Nat.not_le.2 short), decoded]

/-- A group whose loop buffer holds no word at its program counter decodes what a fetch brings. -/
theorem State.prepare_fetched {ws : List Word} {S : State} (empty : g.wordsAt = []) (short : g.issued < 24) (aligned : g.pc.toNat % 4 = 0)
    (fetched : State.fetchFrom { U with cur := some pos, clk := Nat.max U.clk g.nextIssue } t g.core g.pc [] [] (24 - g.issued) 121 = .ok ws S) :
    let u := { g with buf := ws, bufPc := g.pc }
    U.prepare pos = (S.put t u).limit (t.putGroup u) u ((S.put t u).decodeCur (t.putGroup u) u) := by
  intro u
  obtain ⟨kept, -⟩ := State.fetchFrom_words fetched
  have placed : (S.put t u).curGroup? = some (t.putGroup u, u) := issuing_put (State.issuing_congr kept.teams kept.cur hi) rfl rfl rfl rfl
  have fetch : State.fetchRun { U with cur := some pos, clk := Nat.max U.clk g.nextIssue } t g = (S.put t u, true) := by
    have even : fieldOf g.pc 0 2 = 0 := by rw [fieldOf_eq_div]; omega
    unfold State.fetchRun
    rw [if_neg (not_not.2 even), fetched]
  have missing : ¬ (!g.wordsAt.isEmpty || decide (24 ≤ g.issued)) = true := by simp [empty, short]
  unfold State.prepare
  dsimp only
  rw [show ({ U with cur := some pos } : State).curGroup? = some (t, g) from hi]
  dsimp only
  rw [uncut, runs, Bool.false_and, if_neg Bool.false_ne_true, if_neg (by decide), State.abortTrap, fresh]
  dsimp only
  rw [if_neg missing, fetch]
  dsimp only
  rw [placed]

/-- A group that a fetch brings an instruction. -/
theorem State.runGroup_fetched {ws : List Word} {S : State} {i : Instr} {n : Nat} (empty : g.wordsAt = []) (short : g.issued < 24)
    (aligned : g.pc.toNat % 4 = 0)
    (fetched : State.fetchFrom { U with cur := some pos, clk := Nat.max U.clk g.nextIssue } t g.core g.pc [] [] (24 - g.issued) 121 = .ok ws S)
    (none_late : g.late = []) (decoded : decode t.launch.window ws = .instr i n)
    (free : Instr.isMatrix i = true → State.limited { U with cur := some pos, clk := Nat.max U.clk g.nextIssue } g.core = false) :
    let u := { g with buf := ws, bufPc := g.pc }
    let F := S.put t u
    (∀ v, F.letIssue t u i = some v → U.runGroup pos = (F.put t v).issueRes (exec i (F.put t v))) ∧
    (F.letIssue t u i = none → ∃ x, U.runGroup pos = .next (F.put t { u with seeks := x, nextIssue := F.clk + 1 })) := by
  intro u F
  obtain ⟨kept, -⟩ := State.fetchFrom_words fetched
  have placed : F.issuing (t.putGroup u) u := issuing_put (State.issuing_congr kept.teams kept.cur hi) rfl rfl rfl rfl
  have held : u.wordsAt = ws := by
    unfold Group.wordsAt
    rw [if_pos (Nat.le_refl _), Nat.sub_self]
    rfl
  have decodes : F.decodeCur (t.putGroup u) u = .ready i F := by
    have word : decode (t.putGroup u).launch.window u.wordsAt = .instr i n := held ▸ decoded
    rw [State.decodeCur, if_neg (Nat.not_le.2 short), word]
  have unheld : Instr.isMatrix i = true → F.limited u.core = false := fun matrix => by
    have same : F.limited u.core = State.limited { U with cur := some pos, clk := Nat.max U.clk g.nextIssue } g.core := by
      unfold State.limited
      rw [show F.holdClk = S.holdClk from rfl, show F.holdDies = S.holdDies from rfl, show F.clk = S.clk from rfl, kept.hold.1, kept.hold.2, kept.clk]
    exact same.trans (free matrix)
  have prepared : U.prepare pos = F.limit (t.putGroup u) u (F.decodeCur (t.putGroup u) u) :=
    State.prepare_fetched hi uncut runs fresh empty short aligned fetched
  rw [decodes] at prepared
  obtain ⟨admits, refuses⟩ := State.runGroup_issues prepared placed none_late unheld
  refine ⟨fun v admitted => ?_, fun refused => ?_⟩
  · obtain ⟨p, x, shape⟩ := letIssue_shape admitted
    have runs := admits v admitted
    rw [State.put_putGroup _ (by rw [shape])] at runs
    exact runs
  · obtain ⟨x, waits⟩ := refuses refused
    exact ⟨x, waits.trans (congrArg Host.Outcome.next (F.put_putGroup (t := t) (u := u) rfl))⟩

end Turn

/-! ### What the device owes before a turn (R18, R137) -/

/-- A fold of which no element of the list changes anything changes nothing. -/
theorem foldl_unchanged {α β : Type} {f : β → α → β} {l : List α} (h : ∀ b, ∀ a ∈ l, f b a = b) (b : β) : l.foldl f b = b :=
  (List.foldl_ext f (fun b _ => b) b fun b a ha => h b a ha).trans (List.foldl_fixed l)

theorem State.formAll_unparked {s : State} (unparked : ∀ t ∈ s.teams, t.attic = []) : s.formAll = s := by
  have cores : s.formingCores = [] := by
    unfold State.formingCores
    rw [List.flatMap_eq_nil_iff.2 unparked]
    rfl
  unfold State.formAll
  rw [cores]
  exact congrArg (List.foldl State.parkAll s) cores

theorem State.retryEdges_written {s : State}
    (written : ∀ p ∈ s.parts, ∀ g, p.2.graph = some g → ∀ x ∈ g.edges, x.wbDue = false ∧ x.retDue = false) : s.retryEdges = s := by
  refine foldl_unchanged (fun S p hp => ?_) s
  cases graph : p.2.graph with
  | none => rfl
  | some g =>
    refine if_neg ?_
    rw [List.any_eq_true]
    rintro ⟨x, hx, due⟩
    obtain ⟨wb, ret⟩ := written p hp g graph x hx
    rw [Edge.due, wb, ret] at due
    cases due

theorem State.retrySlots_written {s : State} (written : ∀ p ∈ s.parts, p.2.slotsDue = []) : s.retrySlots = s := by
  have none_due : (s.parts.filter fun p => !p.2.slotsDue.isEmpty) = [] :=
    List.filter_eq_nil_iff.2 fun p hp => by simp [written p hp]
  unfold State.retrySlots
  rw [none_due]
  rfl

theorem State.retryRedeems_ended {s : State} (ended : ∀ i ∈ s.insts, i.redeem = none ∨ i.exited ≠ i.launch.teams) : s.retryRedeems = s := by
  have none_open : (s.insts.filter fun i => i.redeem.isSome && decide (i.exited = i.launch.teams)) = [] :=
    List.filter_eq_nil_iff.2 fun i hi => by rcases ended i hi with h | h <;> simp [h]
  unfold State.retryRedeems
  rw [none_open]
  rfl

/-- Where no fibre is parked and the scheduler and the engines owe nothing, a turn only waits for its clock. -/
theorem State.upkeep_quiet {s : State} (a : Turn) (unparked : ∀ t ∈ s.teams, t.attic = [])
    (written : ∀ p ∈ s.parts, p.2.slotsDue = [] ∧ ∀ g, p.2.graph = some g → ∀ x ∈ g.edges, x.wbDue = false ∧ x.retDue = false)
    (ended : ∀ i ∈ s.insts, i.redeem = none ∨ i.exited ≠ i.launch.teams) : s.upkeep a = s.attend a := by
  obtain ⟨clk, attended⟩ : ∃ clk, s.attend a = { s with clk := clk } := by
    unfold State.attend
    split
    · split
      · split <;> exact ⟨_, rfl⟩
      · exact ⟨s.clk, rfl⟩
    · exact ⟨s.clk, rfl⟩
  let S : State := { s with clk := clk }
  unfold State.upkeep
  rw [attended, State.formAll_unparked (s := S) unparked, State.retryEdges_written (s := S) fun p hp => (written p hp).2,
    State.retrySlots_written (s := S) fun p hp => (written p hp).1, State.retryRedeems_ended (s := S) ended]

/-- The clock that a turn waits for: the one at which its group may issue (R128, R132). -/
def State.waitsFor (s : State) : Turn → Nat
  | .group core slot num =>
    match ({ s with cur := some { core := core, slot := slot, num := num } } : State).curGroup? with
    | some (t, g) => if s.issues t g then g.nextIssue else 0
    | none => 0
  | _ => 0

theorem State.attend_eq (s : State) (a : Turn) : s.attend a = { s with clk := max s.clk (s.waitsFor a) } := by
  have same : s = { s with clk := max s.clk 0 } := by rw [Nat.max_zero]
  cases a with
  | group core slot num =>
    unfold State.attend State.waitsFor
    dsimp only
    cases ({ s with cur := some { core := core, slot := slot, num := num } } : State).curGroup? with
    | none => exact same
    | some x =>
      dsimp only
      split
      · rfl
      · exact same
  | _ => exact same

/-- Settles O57: the turn of a group by its loop buffer, and the rest by what each does in the model. -/
theorem stepRunsTheDecodedInstruction : Obligations.StepRunsTheDecodedInstruction := by
  unfold Obligations.StepRunsTheDecodedInstruction
  refine ⟨?group, fun s a unparked written ended => (State.upkeep_quiet a unparked written ended).trans (s.attend_eq a), ?admits,
    fun s t core va pa leaf miss translated aligned same hpa clean hk => State.fetchWord_memory miss translated aligned same hpa clean hk,
    ?event, fun s n rest h => step_turn h⟩
  case event =>
    exact fun s i r rest h event => (step_turn h).trans (State.runEvent_acts r event)
  case admits =>
    intro s t g v i h
    obtain ⟨held, claimed, uniform⟩ := letIssue_rules h
    obtain ⟨p, x, shape⟩ := letIssue_shape h
    refine ⟨⟨p, x, shape⟩, held, fun none_held runs => ?_, fun isUniform runs new => ?_⟩
    · obtain ⟨first, p, free, positions, start⟩ := claimed none_held runs
      obtain ⟨aligned, inside, apart⟩ := freePositions_spec free
      exact ⟨p, positions, start, aligned, inside, apart, fun u hu k hk core islot seeks issues could =>
        passedOver_false first hu hk core islot seeks issues (.inr could)⟩
    · obtain ⟨granted, free, first⟩ := uniform isUniform runs new
      refine ⟨granted, of_decide_eq_false free, fun u hu k hk core islot seeks issues =>
        passedOver_false first hu hk core islot seeks issues (.inl rfl), fun S => ?_⟩
      have core : v.core = g.core := by rw [shape]
      have islot : v.islot = g.islot := by rw [shape]
      rw [← core, ← islot]
      exact S.noteIssue_granted granted
  case group =>
    intro s core slot num rest h
    rw [step_turn h]
    generalize ({ s with agenda := rest } : State).upkeep (.group core slot num) = U
    rw [show U.turn (.group core slot num) = U.runGroup { core := core, slot := slot, num := num } from rfl]
    intro s0 t g hi uncut runs fresh none_late s1 issued
    refine ⟨fun long => State.runGroup_long hi uncut runs fresh long, fun short => ⟨fun i n decoded free => ?_, fun r words decoded =>
      State.runGroup_illegal hi uncut runs fresh short words decoded, fun empty aligned ws S fetched => ⟨fun i n decoded free => ?_, ?_⟩⟩⟩
    · exact State.runGroup_issues (State.prepare_instr hi uncut runs fresh short decoded) (State.issuing_congr rfl rfl hi) none_late free
    · exact State.runGroup_fetched hi uncut runs fresh empty short aligned fetched none_late decoded free
    · obtain ⟨-, new, same, words⟩ := State.fetchFrom_words fetched
      obtain rfl : ws = new := same
      intro j w hw
      obtain ⟨S', S'', word, kept⟩ := words j w hw
      exact ⟨S', S'', word, kept.hbm⟩

end Sys2Proof.Machine
end
